-- ==== Sys2Proof/Word.lean ====
section
/-! DEFINITION. The word types of the Kolir K20: bytes, 64-bit register values, and the names under which the model uses
them. Everything that cuts or joins words stands in Machine/Bits.lean. -/
namespace Sys2Proof

/-- One byte of memory, of a record or of a flit. -/
abbrev Byte := BitVec 8

/-- A register, a scalar g register or an instruction word: 64 bits. -/
abbrev Word := BitVec 64

/-- A Stair position as one number: EPOCH, STEP, MICRO_BATCH, PHASE, TICK from the top (R273, R278); byte i of its
little-endian form is byte i of the 15-byte encoding of R238. -/
abbrev Pos := BitVec 120

/-- A tile descriptor register: the 64 bytes of R239, byte 0 lowest. -/
abbrev Desc := BitVec 512

/-- The operand bits [55:0] of a Rhoac instruction word: PRED, the slots F1 to F6 and the low field (R234 to R236). -/
abbrev Fields := BitVec 56

end Sys2Proof
end

