-- ==== Sys2Proof/Syntax.lean ====
section
/-! DEFINITION. The commands of the block: one constructor per row of spec/opcode_table.json. A Rhoac instruction row carries
the unit that issues it and the operand bits [55:0] of its word (R234 to R236); the other rows carry what the event brings. -/
namespace Sys2Proof

/-- The program units that RUN starts, by UNIT code (R217). -/
inductive UnitKind where
  | sequencer | carrier | link
deriving DecidableEq, Repr

/-- One program unit: its domain ID (R29), its kind and its index within the domain. -/
structure UnitRef where
  dom  : Nat
  kind : UnitKind
  idx  : Nat
deriving DecidableEq, Repr

/-- One Buergal port: the domain ID of its IOD and the port number 0 or 1. -/
structure PortRef where
  iod  : Nat
  port : Nat
deriving DecidableEq, Repr

/-- Who writes a register: the domain of the agent, and the hart when that is the Hall (R401). -/
structure Agent where
  dom  : Nat
  hart : Nat
deriving DecidableEq, Repr

/-- What a power-on finds in the silicon (R420, R421): whether the Porch self-test passes, whether each factory-record copy
verifies, the fitted domains whose self-test fails, the physical engines that fail theirs (by domain ID and engine), and the
pseudo-channels that fail training (by MSD domain ID and stack). -/
structure BootInputs where
  porchOk   : Bool
  factoryA  : Bool
  factoryB  : Bool
  lost      : List Nat
  engines   : List (Nat × Nat)
  channels  : List (Nat × Nat)
deriving DecidableEq, Repr

/-- The commands. -/
inductive Instr where
  /-- NOP (R250). -/
  | nop (u : UnitRef) (x : Fields)
  /-- END (R244). -/
  | endProg (u : UnitRef) (x : Fields)
  /-- BR (R250). -/
  | br (u : UnitRef) (x : Fields)
  /-- LI (R250). -/
  | li (u : UnitRef) (x : Fields)
  /-- GOP (R250). -/
  | gop (u : UnitRef) (x : Fields)
  /-- GOPI (R250). -/
  | gopi (u : UnitRef) (x : Fields)
  /-- PSET (R250). -/
  | pset (u : UnitRef) (x : Fields)
  /-- GLD (R251). -/
  | gld (u : UnitRef) (x : Fields)
  /-- GST (R251). -/
  | gst (u : UnitRef) (x : Fields)
  /-- DLD (R250). -/
  | dld (u : UnitRef) (x : Fields)
  /-- DST (R250). -/
  | dst (u : UnitRef) (x : Fields)
  /-- DSET (R251). -/
  | dset (u : UnitRef) (x : Fields)
  /-- KSET (R250). -/
  | kset (u : UnitRef) (x : Fields)
  /-- KGET (R250). -/
  | kget (u : UnitRef) (x : Fields)
  /-- CSET (R250). -/
  | cset (u : UnitRef) (x : Fields)
  /-- STRD (R250). -/
  | strd (u : UnitRef) (x : Fields)
  /-- STLD (R250). -/
  | stld (u : UnitRef) (x : Fields)
  /-- STST (R250). -/
  | stst (u : UnitRef) (x : Fields)
  /-- TLD (R253). -/
  | tld (u : UnitRef) (x : Fields)
  /-- TST (R253). -/
  | tst (u : UnitRef) (x : Fields)
  /-- QNT (R254). -/
  | qnt (u : UnitRef) (x : Fields)
  /-- MMA (R255). -/
  | mma (u : UnitRef) (x : Fields)
  /-- LDOWN (R257). -/
  | ldown (u : UnitRef) (x : Fields)
  /-- DRAIN (R258). -/
  | drain (u : UnitRef) (x : Fields)
  /-- CZERO (R259). -/
  | czero (u : UnitRef) (x : Fields)
  /-- CXFER_READ (R100). -/
  | cxferRead (u : UnitRef) (x : Fields)
  /-- CXFER_ADD (R101). -/
  | cxferAdd (u : UnitRef) (x : Fields)
  /-- VOP (R261). -/
  | vop (u : UnitRef) (x : Fields)
  /-- RSUM_ACC (R262). -/
  | rsumAcc (u : UnitRef) (x : Fields)
  /-- RSUM_COMB (R262). -/
  | rsumComb (u : UnitRef) (x : Fields)
  /-- RSUM_OUT (R262). -/
  | rsumOut (u : UnitRef) (x : Fields)
  /-- ROT (R263). -/
  | rot (u : UnitRef) (x : Fields)
  /-- DROP (R264). -/
  | drop (u : UnitRef) (x : Fields)
  /-- SAMPLE (R207). -/
  | sample (u : UnitRef) (x : Fields)
  /-- RNG (R205). -/
  | rng (u : UnitRef) (x : Fields)
  /-- HUPD (R157). -/
  | hupd (u : UnitRef) (x : Fields)
  /-- HLOAD (R268). -/
  | hload (u : UnitRef) (x : Fields)
  /-- XFER (R271). -/
  | xfer (u : UnitRef) (x : Fields)
  /-- COLL (R315). -/
  | coll (u : UnitRef) (x : Fields)
  /-- WAITST (R273). -/
  | waitst (u : UnitRef) (x : Fields)
  /-- LANDING (R290). -/
  | landing (u : UnitRef) (x : Fields)
  /-- LANDING_CANCEL (R293). -/
  | landingCancel (u : UnitRef) (x : Fields)
  /-- FENCE (R274). -/
  | fence (u : UnitRef) (x : Fields)
  /-- RING (R274). -/
  | ring (u : UnitRef) (x : Fields)
  /-- PGRANT (R275). -/
  | pgrant (u : UnitRef) (x : Fields)
  /-- OPEN (R176). -/
  | openStash (u : UnitRef) (x : Fields)
  /-- RELEASE (R185). -/
  | release (u : UnitRef) (x : Fields)
  /-- CLOSE (R185). -/
  | closeStash (u : UnitRef) (x : Fields)
  /-- OFFLOAD (R183). -/
  | offload (u : UnitRef) (x : Fields)
  /-- PREFETCH (R183). -/
  | prefetch (u : UnitRef) (x : Fields)
  /-- STASH_MOVE_SWITCH (R183): the copy of operation op of unit u has ended. -/
  | stashMoveSwitch (u : UnitRef) (op : Nat)
  /-- ISSUE_WAIT_END (R245): the unit looks again at the operation waiting at issue. -/
  | issueWaitEnd (u : UnitRef)
  /-- OPERATION_COMPLETE (R247): operation op of unit u completes. -/
  | operationComplete (u : UnitRef) (op : Nat)
  /-- RUN_COMPLETE (R244): the program of unit u has ended or stopped and nothing is in flight. -/
  | runComplete (u : UnitRef)
  /-- RUN (R243): accepted command seq of queue q starts on the unit of index idx. -/
  | run (q seq idx : Nat)
  /-- WAIT (R223): accepted command seq of queue q is tested. -/
  | wait (q seq : Nat)
  /-- MARKER (R223): accepted command seq of queue q. -/
  | marker (q seq : Nat)
  /-- COMMAND_ACCEPT (R224). -/
  | commandAccept (q : Nat)
  /-- COMPLETION_WRITE (R225). -/
  | completionWrite (q : Nat)
  /-- Q_TAIL (R224): 8-byte write of the register. -/
  | qTail (q : Nat) (v : Word)
  /-- Q_ENABLE (R222): 8-byte write of Q_CTRL with ENABLE 1. -/
  | qEnable (q : Nat) (v : Word)
  /-- Q_DISABLE (R222): 8-byte write of Q_CTRL with ENABLE 0. -/
  | qDisable (q : Nat) (v : Word)
  /-- RESUME (R221): 8-byte write of Q_CTRL with RESUME 1. -/
  | resume (q : Nat) (v : Word)
  /-- WALK_GO (R233). -/
  | walkGo (dom : Nat) (v : Word)
  /-- WALK_DONE (R232). -/
  | walkDone (dom : Nat)
  /-- STAIR_TICK (R278). -/
  | stairTick
  /-- STAIR_SET (R280). -/
  | stairSet (v : Word)
  /-- STAIR_CLOSE (R281). -/
  | stairClose (v : Word)
  /-- BEAT (R284): fec: the symbols that the FEC corrected, none where it could not. -/
  | beat (p : PortRef) (fec : Option Nat) (flit : List Byte)
  /-- HOLDOVER_ENTER (R285): one more beat interval has passed without a beat. -/
  | holdoverEnter
  /-- EPOCH_TICK_LIMIT (R287). -/
  | epochTickLimit
  /-- LANDING_FIRE (R291): landing n, as numbered at issue. -/
  | landingFire (n : Nat)
  /-- LANDING_ACTION_DONE (R291). -/
  | landingActionDone (n : Nat)
  /-- REFRESH_POSTPONE_LIMIT (R292). -/
  | refreshPostponeLimit (dom : Nat)
  /-- LP_ENTER (R296). -/
  | lpEnter (dom : Nat)
  /-- LP_WAKE_START (R296). -/
  | lpWakeStart (dom : Nat)
  /-- LP_WAKE_EVENT (R298). -/
  | lpWakeEvent (dom : Nat)
  /-- PORT_ENABLE (R305). -/
  | portEnable (p : PortRef) (v : Word)
  /-- PORT_RETRAIN (R305). -/
  | portRetrain (p : PortRef) (v : Word)
  /-- PORT_SIGNAL_DETECT (R305): the lanes that see partner signal. -/
  | portSignalDetect (p : PortRef) (lanes : BitVec 8)
  /-- PORT_DETECT_TIMEOUT (R305). -/
  | portDetectTimeout (p : PortRef)
  /-- PORT_EQUALISE_DONE (R305): ok: within 50 ms. -/
  | portEqualiseDone (p : PortRef) (ok : Bool)
  /-- PORT_LOCK_DONE (R305): the lanes that hold codeword lock. -/
  | portLockDone (p : PortRef) (lanes : BitVec 8)
  /-- PORT_MEASURE_DONE (R307). -/
  | portMeasureDone (p : PortRef)
  /-- ADDR_CONFLICT_RETRY (R309). -/
  | addrConflictRetry (p : PortRef)
  /-- LANE_FAULT (R306). -/
  | laneFault (p : PortRef) (lane : Nat)
  /-- PORT_RX_TIMEOUT (R306). -/
  | portRxTimeout (p : PortRef)
  /-- DATA_FLIT (R303). -/
  | dataFlit (p : PortRef) (fec : Option Nat) (flit : List Byte)
  /-- RETRY_FLIT (R303). -/
  | retryFlit (p : PortRef) (fec : Option Nat) (flit : List Byte)
  /-- TIMESTAMP_FLIT (R330): t4: the port's receive time in 1/16 ns. -/
  | timestampFlit (p : PortRef) (fec : Option Nat) (t4 : Word) (flit : List Byte)
  /-- DESCRIPTOR_FLIT (R308). -/
  | descriptorFlit (p : PortRef) (fec : Option Nat) (flit : List Byte)
  /-- ANNOUNCE_FLIT (R310). -/
  | announceFlit (p : PortRef) (fec : Option Nat) (flit : List Byte)
  /-- CREDIT_FLIT (R330). -/
  | creditFlit (p : PortRef) (fec : Option Nat) (flit : List Byte)
  /-- CORRIDOR_CRC_FAIL (R43): the request belongs to operation op of unit u, when that is in flight. -/
  | corridorCrcFail (src dst siteA siteB : Nat) (u : UnitRef) (op : Nat)
  /-- FAB_JOB_WRITE (R313). -/
  | fabJobWrite (v : Word)
  /-- FAB_JOB_START (R313). -/
  | fabJobStart (v : Word)
  /-- JOB_FORMED (R313). -/
  | jobFormed
  /-- COLL_PACKET (R319). -/
  | collPacket (pk : List Byte)
  /-- COLL_COMPLETE (R319). -/
  | collComplete (u : UnitRef) (op : Nat)
  /-- BOUNDARY_PACKET (R323). -/
  | boundaryPacket (pk : List Byte)
  /-- SLOW_NOTICE_SEND (R383). -/
  | slowNoticeSend
  /-- SLOW_NOTICE_RECEIVE (R385). -/
  | slowNoticeReceive (pk : List Byte)
  /-- RESTART_PACKET (R324). -/
  | restartPacket (pk : List Byte)
  /-- VOTE_SEND (R325). -/
  | voteSend
  /-- VOTE_PACKET (R325). -/
  | votePacket (pk : List Byte)
  /-- VOTE_TALLY (R325). -/
  | voteTally
  /-- MEMBERSHIP_PACKET (R326). -/
  | membershipPacket (pk : List Byte)
  /-- STOP_PACKET (R327). -/
  | stopPacket (pk : List Byte)
  /-- VOTE_TIMEOUT (R326). -/
  | voteTimeout
  /-- AGREE_PACKET (R346). -/
  | agreePacket (pk : List Byte)
  /-- ANNEX_SUMS_PACKET (R352). -/
  | annexSumsPacket (pk : List Byte)
  /-- ANCHOR_PACKET (R354). -/
  | anchorPacket (pk : List Byte)
  /-- ANNEX_PIECE (R349). -/
  | annexPiece (pk : List Byte)
  /-- ANNEX_ACK (R349). -/
  | annexAck (pk : List Byte)
  /-- ANNEX_CONFIG (R347). -/
  | annexConfig (pk : List Byte)
  /-- FETCH_REQ (R356). -/
  | fetchReq (pk : List Byte)
  /-- FETCH_DATA (R356). -/
  | fetchData (pk : List Byte)
  /-- FETCH_REFUSED (R356). -/
  | fetchRefused (pk : List Byte)
  /-- ANNEX_ACK_TIMEOUT (R344): a piece sent has been unacknowledged for 10 ms. -/
  | annexAckTimeout
  /-- ANNEX_ENABLE (R347). -/
  | annexEnable (v : Word)
  /-- RESTORE_GO (R355). -/
  | restoreGo (v : Word)
  /-- EXPORT_GO (R359). -/
  | exportGo (v : Word)
  /-- IMPORT_GO (R359). -/
  | importGo (v : Word)
  /-- RESTORE_DONE (R357). -/
  | restoreDone
  /-- FRAME_TX_TAIL (R329). -/
  | frameTxTail (p : PortRef) (v : Word)
  /-- FRAME_RX_TAIL (R329). -/
  | frameRxTail (p : PortRef) (v : Word)
  /-- FRAME_RECEIVE (R328): the MAC frame, FCS included. -/
  | frameReceive (p : PortRef) (frame : List Byte)
  /-- FABRIC_LB_MESSAGE (R408): the packet, and the SEQ and payload it carries (its layout is open). -/
  | fabricLbMessage (pk : List Byte) (seq : Nat) (payload : List Byte)
  /-- FABRIC_LB_ACK_RETURN (R408): the packet, and the SEQ and code it carries (its layout is open). -/
  | fabricLbAckReturn (pk : List Byte) (seq code : Nat)
  /-- LB_CLAIM (R403): 8-byte write by agent to the register of the box at that address. -/
  | lbClaim (agent : Agent) (box : Nat) (v : Word)
  /-- LB_RING (R404): 8-byte write by agent to the register of the box at that address. -/
  | lbRing (agent : Agent) (box : Nat) (v : Word)
  /-- LB_ACK (R405): 8-byte write by agent to the register of the box at that address. -/
  | lbAck (agent : Agent) (box : Nat) (v : Word)
  /-- LB_RELEASE (R406): 8-byte write by agent to the register of the box at that address. -/
  | lbRelease (agent : Agent) (box : Nat) (v : Word)
  /-- LB_MASK_WRITE (R404): 8-byte write by agent to the register of the box at that address. -/
  | lbMaskWrite (agent : Agent) (box : Nat) (v : Word)
  /-- HALL_ACCESS_FAULT (R394). -/
  | hallAccessFault (hart addr : Nat) (store : Bool)
  /-- POLL_MISS (R337). -/
  | pollMiss (dom : Nat)
  /-- ECC_UNCORRECTABLE (R344): operation op of unit u reads the address; u without that operation: firmware state of the domain of u. -/
  | eccUncorrectable (addr : Nat) (u : UnitRef) (op : Nat)
  /-- DOM_RESET_GO (R340). -/
  | domResetGo (v : Word)
  /-- DOMAIN_RESET_END (R341): selfTest: passed apart from engines; failed: physical engines that failed it. -/
  | domainResetEnd (dom : Nat) (selfTest : Bool) (failed : List Nat)
  /-- TRAIN_SKIP_REQUEST (R171). -/
  | trainSkipRequest (v : Word)
  /-- CG_JOB_KEY_WRITE (R197). -/
  | cgJobKeyWrite (v : Word)
  /-- STASH_LARDER_SHARE_WRITE (R191). -/
  | stashLarderShareWrite (v : Word)
  /-- FLOG_COPY (R339). -/
  | flogCopy (v : Word)
  /-- PWR_WITHDRAW (R373). -/
  | pwrWithdraw (v : Word)
  /-- PWR_OPPOINT_TARGET (R376). -/
  | pwrOppointTarget (dom : Nat) (v : Word)
  /-- OPPOINT_RAMP_DONE (R376). -/
  | oppointRampDone (dom : Nat)
  /-- POWER_SAMPLE (R370): measured input power of the last 10 us. -/
  | powerSample (milliwatts : Nat)
  /-- LIMITER_STEP (R366). -/
  | limiterStep
  /-- GRANT_IN_FORCE (R371): grant n, as numbered at its request. -/
  | grantInForce (n : Nat)
  /-- AUTO_GRANT_RELEASE (R369). -/
  | autoGrantRelease (u : UnitRef)
  /-- AGEING_CHECK (R378): margin read from the critical-path monitors. -/
  | ageingCheck (dom margin : Nat)
  /-- CONVERGENCE_STEP (R381): junction temperature in °C by domain ID. -/
  | convergenceStep (temps : List (Nat × Nat))
  /-- THERMAL_CAP_STEP (R382): junction temperature in °C by domain ID. -/
  | thermalCapStep (temps : List (Nat × Nat))
  /-- THERMAL_EMERGENCY (R382). -/
  | thermalEmergency (dom temp : Nat)
  /-- THERMAL_TRIP (R382). -/
  | thermalTrip (dom temp : Nat)
  /-- DROOP_TRIP (R379). -/
  | droopTrip (dom : Nat)
  /-- DROOP_WINDOW_CLOSE (R379). -/
  | droopWindowClose (dom : Nat)
  /-- PWR_GOOD_RISE (R420). -/
  | pwrGoodRise (b : BootInputs)
  /-- PWR_GOOD_FALL (R453). -/
  | pwrGoodFall
  /-- RESET_N (R454): the level the pin takes. -/
  | resetN (high : Bool) (b : BootInputs)
  /-- VIN_SHUTDOWN (R448): 0 over-voltage, 1 under-voltage. -/
  | vinShutdown (cause : Nat)
  /-- RECOVERY_DATA (R424): payload of the frame. -/
  | recoveryData (b : BootInputs) (frame : List Byte)
  /-- RECOVERY_REQ_TIMEOUT (R424). -/
  | recoveryReqTimeout
  /-- RECOVERY_RETRY (R424). -/
  | recoveryRetry
  /-- ATTEST (R431): the message stands in this slot of the Porch INBOX. -/
  | attest (slot : Nat)
  /-- CERT_READ (R425): the message stands in this slot of the Porch INBOX. -/
  | certRead (slot : Nat)
  /-- UPDATE (R426): the message stands in this slot of the Porch INBOX. -/
  | update (slot : Nat)
  /-- STORE_WRITE (R425): the message stands in this slot of the Porch INBOX. -/
  | storeWrite (slot : Nat)
  /-- STORE_READ (R425): the message stands in this slot of the Porch INBOX. -/
  | storeRead (slot : Nat)
  /-- MODULE_RESET (R425): the message stands in this slot of the Porch INBOX. -/
  | moduleReset (slot : Nat)
  /-- MODULE_RESET_TIMER (R425). -/
  | moduleResetTimer (b : BootInputs)
  /-- MGMT_SERVICE_FRAME (R425): payload of the frame. -/
  | mgmtServiceFrame (frame : List Byte)
  /-- I3C_PRIVATE_READ (R457): coolant sensor readings. -/
  | i3cPrivateRead (inlet outlet : BitVec 8)
  /-- I3C_DYNAMIC_ADDRESS (R457). -/
  | i3cDynamicAddress (a : BitVec 7)
  /-- JTAG_BYPASS (R458). -/
  | jtagBypass
  /-- JTAG_IDCODE (R458). -/
  | jtagIdcode
  /-- JTAG_SAMPLE_PRELOAD (R458): signal levels captured and the value shifted in. -/
  | jtagSamplePreload (pins preload : BitVec 22)
  /-- JTAG_EXTEST (R458). -/
  | jtagExtest (pins : BitVec 22)
  /-- REGISTER_WRITE (R437). -/
  | registerWrite (agent : Agent) (addr size : Nat) (v : Word)
  /-- PORCH_FAULT (R340). -/
  | porchFault (b : BootInputs)
  /-- LP_ENTRY_COMPLETE (R295). -/
  | lpEntryComplete (dom : Nat)
  /-- LP_WAKE_COMPLETE (R296). -/
  | lpWakeComplete (dom : Nat)
  /-- EMERGENCY_END (R382): junction temperature in °C by domain ID. -/
  | emergencyEnd (temps : List (Nat × Nat))
  /-- FROZEN_RAMP_RESUME (R376). -/
  | frozenRampResume (dom : Nat)
  /-- PORT_DETECT_ATTEMPT (R305). -/
  | portDetectAttempt (p : PortRef)
deriving DecidableEq, Repr

end Sys2Proof
end

