-- ==== Sys2Proof/Machine/Bits.lean ====
section
/-! DEFINITION. Bit fields, little-endian byte strings (R7, R8) and the sparse tables in which State keeps its banks of
registers, bytes and entries: strictly rising keys, no entry equal to the value an unlisted key reads as. -/
namespace Sys2Proof

/-- Bits [hi:lo] of a number (R7). -/
def fld (n hi lo : Nat) : Nat := (n >>> lo) % 2 ^ (hi + 1 - lo)

/-- The number with its bits [hi:lo] replaced by the low bits of v. -/
def setFld (n hi lo v : Nat) : Nat :=
  n - (fld n hi lo) <<< lo + (v % 2 ^ (hi + 1 - lo)) <<< lo

/-- One bit as a truth value. -/
def bitAt (n i : Nat) : Bool := fld n i i = 1

/-- A truth value as the number 0 or 1. -/
def b2n (b : Bool) : Nat := if b then 1 else 0

/-- The number as len little-endian bytes (R8). -/
def leBytes (len n : Nat) : List Byte := (List.range len).map fun i => BitVec.ofNat 8 (n >>> (8 * i))

/-- The number that little-endian bytes spell (R8). -/
def leNat (bs : List Byte) : Nat := bs.foldr (fun b acc => b.toNat + 256 * acc) 0

/-- The low w bits of n read as two's complement. -/
def sext (w n : Nat) : Int :=
  let m := n % 2 ^ w
  if m < 2 ^ (w - 1) then (m : Int) else (m : Int) - (2 ^ w : Nat)

/-- An integer as w bits of two's complement. -/
def wrapInt (w : Nat) (i : Int) : Nat := (i % ((2 ^ w : Nat) : Int)).toNat

/-- A field of a record held as bytes: len bytes at offset off. -/
def recNat (bs : List Byte) (off len : Nat) : Nat := leNat ((bs.drop off).take len)

/-- Replace the bytes at offset off by new ones. -/
def patch (bs : List Byte) (off : Nat) (new : List Byte) : List Byte :=
  bs.take off ++ new ++ bs.drop (off + new.length)

/-- A counter that stops at the all-ones value of w bits (R110). -/
def satAdd (w a b : Nat) : Nat := min (a + b) (2 ^ w - 1)

/-- Insert into a list that le orders. -/
def insertBy {α : Type} (le : α → α → Bool) (x : α) : List α → List α
  | [] => [x]
  | y :: t => if le x y then x :: y :: t else y :: insertBy le x t

/-- Sort by le; elements that compare equal keep their order. -/
def sortBy {α : Type} (le : α → α → Bool) (l : List α) : List α := l.foldr (insertBy le) []

/-- Division rounding up. -/
def ceilDiv (a b : Nat) : Nat := (a + b - 1) / b

/-- The value a sparse table holds at a key; d gives what an unlisted key reads as. -/
def tblGet {α : Type} (d : Nat → α) : List (Nat × α) → Nat → α
  | [], i => d i
  | (k, v) :: t, i => if i = k then v else if i < k then d i else tblGet d t i

/-- The table with the key set to x, in canonical form: setting the unlisted value removes the entry. -/
def tblSet {α : Type} [DecidableEq α] (d : Nat → α) : List (Nat × α) → Nat → α → List (Nat × α)
  | [], i, x => if x = d i then [] else [(i, x)]
  | (k, v) :: t, i, x =>
    if i < k then (if x = d i then (k, v) :: t else (i, x) :: (k, v) :: t)
    else if i = k then (if x = d i then t else (i, x) :: t)
    else (k, v) :: tblSet d t i x

/-- The canonical form: strictly rising keys above the bound, no entry that an unlisted key would read as. -/
def tblWfFrom {α : Type} [DecidableEq α] (d : Nat → α) : Nat → List (Nat × α) → Bool
  | _, [] => true
  | b, (k, v) :: t => decide (b ≤ k) && decide (v ≠ d k) && tblWfFrom d (k + 1) t

/-- The canonical form of a sparse table. -/
def tblWf {α : Type} [DecidableEq α] (d : Nat → α) (t : List (Nat × α)) : Bool := tblWfFrom d 0 t

/-- Write consecutive values from a key upward. -/
def tblSetRun {α : Type} [DecidableEq α] (d : Nat → α) : List (Nat × α) → Nat → List α → List (Nat × α)
  | t, _, [] => t
  | t, i, x :: xs => tblSetRun d (tblSet d t i x) (i + 1) xs

/-- Drop every entry whose key lies in [lo, lo + len): those keys then read as unlisted. -/
def tblClear {α : Type} (t : List (Nat × α)) (lo len : Nat) : List (Nat × α) :=
  t.filter fun e => !(decide (lo ≤ e.1) && decide (e.1 < lo + len))

/-- The position fields of a Stair position (R278). -/
def posTick (p : Pos) : Nat := fld p.toNat 47 0
def posPhase (p : Pos) : Nat := fld p.toNat 55 48
def posMb (p : Pos) : Nat := fld p.toNat 71 56
def posStep (p : Pos) : Nat := fld p.toNat 103 72
def posEpoch (p : Pos) : Nat := fld p.toNat 119 104

/-- A position from its five fields (R278). -/
def mkPos (epoch step mb phase tick : Nat) : Pos :=
  BitVec.ofNat 120 (tick % 2 ^ 48 + (phase % 256) * 2 ^ 48 + (mb % 65536) * 2 ^ 56
    + (step % 2 ^ 32) * 2 ^ 72 + (epoch % 65536) * 2 ^ 104)

/-- The 15 bytes of a position (R238), which are its little-endian bytes. -/
def posBytes (p : Pos) : List Byte := leBytes 15 p.toNat

/-- Two byte ranges, given by first byte and length, share a byte. -/
def overlaps (a la b lb : Nat) : Bool := decide (0 < la) && decide (0 < lb) && decide (a < b + lb) && decide (b < a + la)

end Sys2Proof
end

