-- ==== Sys2Proof/Machine/Keccak.lean ====
section
/-! DEFINITION. The hash functions that the spec names by their standards (R323, R353, R359, R416, R418, R429, R432; FIPS 202, NIST
SP 800-185): SHA3-256, SHA3-512, SHAKE128, SHAKE256 and KMAC128; and the CRC-64 of a flit. The standards' constants are PRESUMED (log entry
13). Lane (x, y) of the Keccak state stands at index x + 5·y of a list of 25. -/
namespace Sys2Proof

/-- The seven bits that the constant of each round has at positions 0, 1, 3, 7, 15, 31 and 63, seven for each round, the first lowest: the
output of the standard's shift register, in turn. -/
abbrev roundBits : Nat := 0xe886c79cc5a452a7767bf4cd460eabe509fe178d01

/-- The constant of a round (step ι). -/
def roundWord (r : Nat) : Word :=
  BitVec.ofNat 64 ((List.range 7).foldl (fun acc j => acc + (roundBits >>> (7 * r + j)) % 2 * 2 ^ (2 ^ j - 1)) 0)

/-- How far step ρ turns each lane, six bits for each, lane 0 lowest: the triangular numbers along the walk of step π. -/
abbrev laneTurns : Nat := 0xee3d0922153eda6766b2835371ac91b73e040
def laneTurn (i : Nat) : Nat := (laneTurns >>> (6 * i)) % 64

def xorAll (ws : List Word) : Word := ws.foldl (· ^^^ ·) 0

/-- The parities of the five columns, each with its right neighbour turned by one: what step θ adds to the column between. -/
def columnMix (s : List Word) : List Word :=
  let col := (List.range 5).map fun x => xorAll ((List.range 5).map fun y => s.getD (x + 5 * y) 0)
  (List.range 5).map fun x => col.getD ((x + 4) % 5) 0 ^^^ (col.getD ((x + 1) % 5) 0).rotateLeft 1

/-- One row of five lanes through step χ. -/
def rowStep (row : List Word) : List Word :=
  (List.range 5).map fun x => row.getD x 0 ^^^ (~~~ row.getD ((x + 1) % 5) 0 &&& row.getD ((x + 2) % 5) 0)

/-- Row y after steps θ, ρ and π: its lane x was lane x + 3·y of row x. -/
def turnedRow (s mix : List Word) (y : Nat) : List Word :=
  (List.range 5).map fun x =>
    let k := (x + 3 * y) % 5
    (s.getD (k + 5 * x) 0 ^^^ mix.getD k 0).rotateLeft (laneTurn (k + 5 * x))

/-- Round r of the permutation. -/
def permuteRound (s : List Word) (r : Nat) : List Word :=
  let mix := columnMix s
  let rows := (List.range 5).flatMap fun y => rowStep (turnedRow s mix y)
  (rows.headD 0 ^^^ roundWord r) :: rows.tail

def permute (s : List Word) : List Word := (List.range 24).foldl permuteRound s

/-- The rate of the sponge, in bytes, and the suffix that tells its uses apart. -/
structure Sponge where
  rate   : Nat
  suffix : Nat
deriving DecidableEq, Repr

/-- The message, its suffix and the padding to whole blocks. -/
def Sponge.padded (z : Sponge) (m : List Byte) : List Byte :=
  let room := z.rate - m.length % z.rate
  if room = 1 then m ++ [BitVec.ofNat 8 (z.suffix + 128)]
  else m ++ BitVec.ofNat 8 z.suffix :: List.replicate (room - 2) 0 ++ [128]

/-- One block goes into the state. -/
def Sponge.takeIn (z : Sponge) (s : List Word) (block : List Byte) : List Word :=
  permute (s.zipIdx.map fun l =>
    if 8 * l.2 < z.rate then l.1 ^^^ BitVec.ofNat 64 (leNat ((block.drop (8 * l.2)).take 8)) else l.1)

/-- The blocks of a message, of which n are left. -/
def Sponge.blocks (z : Sponge) : Nat → List Byte → List (List Byte)
  | 0, _ => []
  | n + 1, m => m.take z.rate :: z.blocks n (m.drop z.rate)

/-- n blocks of output. -/
def Sponge.giveOut (z : Sponge) : Nat → List Word → List Byte
  | 0, _ => []
  | n + 1, s => (s.flatMap fun w => leBytes 8 w.toNat).take z.rate ++ (if n = 0 then [] else z.giveOut n (permute s))

/-- The first len bytes of output for a message. -/
def Sponge.hash (z : Sponge) (len : Nat) (m : List Byte) : List Byte :=
  let p := z.padded m
  (z.giveOut ((len + z.rate - 1) / z.rate) ((z.blocks (p.length / z.rate) p).foldl z.takeIn (List.replicate 25 0))).take len

def sha3_256 (m : List Byte) : List Byte := Sponge.hash ⟨136, 6⟩ 32 m
def sha3_512 (m : List Byte) : List Byte := Sponge.hash ⟨72, 6⟩ 64 m
def shake128 (len : Nat) (m : List Byte) : List Byte := Sponge.hash ⟨168, 31⟩ len m
def shake256 (len : Nat) (m : List Byte) : List Byte := Sponge.hash ⟨136, 31⟩ len m

/-- The bytes of a number, most significant first, at least one. -/
def beBytes (n : Nat) : List Byte := (leBytes (max 1 ((Nat.log2 n) / 8 + 1)) n).reverse
def leftEncode (n : Nat) : List Byte := let b := beBytes n; BitVec.ofNat 8 b.length :: b
def rightEncode (n : Nat) : List Byte := let b := beBytes n; b ++ [BitVec.ofNat 8 b.length]
def encodeString (s : List Byte) : List Byte := leftEncode (8 * s.length) ++ s
def bytepad (s : List Byte) (w : Nat) : List Byte :=
  let t := leftEncode w ++ s
  t ++ List.replicate ((w - t.length % w) % w) 0

/-- The bytes of an ASCII string. -/
def ascii (s : String) : List Byte := s.toList.map fun c => BitVec.ofNat 8 c.toNat

/-- KMAC128 (NIST SP 800-185): key, message, output bytes, customisation string (R353). -/
def kmac128 (key m : List Byte) (outLen : Nat) (custom : String) : List Byte :=
  let x := bytepad (encodeString key) 168 ++ m ++ rightEncode (8 * outLen)
  Sponge.hash ⟨168, 4⟩ outLen (bytepad (encodeString (ascii "KMAC") ++ encodeString (ascii custom)) 168 ++ x)

/-- CRC-64 of a flit (R302): polynomial 0x42F0_E1EB_A9EA_3693, initial value all ones, result inverted, bits taken most
significant first (log entry 18). -/
def crc64Bit (poly : Nat) (c : Nat) : Nat :=
  if 2 ^ 63 ≤ c then ((2 * c) % 2 ^ 64) ^^^ poly else 2 * c
def crc64Byte (c : Nat) (b : Byte) : Nat :=
  (List.range 8).foldl (fun c _ => crc64Bit 0x42F0E1EBA9EA3693 c) (c ^^^ (b.toNat <<< 56))
def crc64 (bs : List Byte) : Nat := (bs.foldl crc64Byte (2 ^ 64 - 1)) ^^^ (2 ^ 64 - 1)

end Sys2Proof
end

