-- ==== Sys2Proof/Config.lean ====
section
/-! DEFINITION. What one implementation fixes and what the spec leaves open: every constant here is opaque (it has no body),
so nothing provable depends on a value of it. Free values that may differ from one use to the next are applied to the counter
State.freeCtr (log entry 7). -/
namespace Sys2Proof.Config

/-- The LG key a CD draws from the Porch entropy source (R212, log entry 7): for the power-on value n is the domain ID, for a later
domain reset 64 plus the free counter. -/
opaque lgKey : Nat → Word

/-- Which lane of its unit serves the n-th lane-generator draw (R213: left open, log entry 8). -/
opaque laneChoice : Nat → Nat

/-- The last bit of a floor that the widest working precision of a transcendental function leaves undecided (log entry 9). -/
opaque undecided : Nat → Bool

/-- Whether the one fixed method of TANH, SIGMOID, GELU and SILU gives the upper of the two neighbours of the exact result:
function code, input pattern, output format code, RND, draw (R261: error below one ulp, log entry 10). -/
opaque fixedMethodUp : Nat → Nat → Nat → Nat → Nat → Bool

/-- Whether Hearth 1 serves an element of a HUPD: free counter at the HUPD, element (R171: left open, log entry 15). -/
opaque hearthOf : Nat → Nat → Bool

/-- A byte read through a stash whose Attic region overlaps another open stash's (R176: undefined, log entry 16). -/
opaque overlapByte : Nat → Byte

/-- The static energy share of a domain, in milliwatts, calibrated at test (R386, log entry 22). -/
opaque staticShare : Nat → Nat

/-- The part of an input sample that is conversion loss, in milliwatts (R386, log entry 22). -/
opaque conversionLoss : Nat → Nat

/-- The SHA3-512 digest of the Falnu root public key in the boot ROM (R414, log entry 12). -/
opaque romRootDigest : List Byte

/-- The 32 random bytes of a signature (FIPS 204 takes them from a random source, R431, log entry 12): free counter, byte. -/
opaque signRandom : Nat → Nat → Byte

/-- The response of the on-die physically unclonable source for its helper data (R429, log entry 12). -/
opaque pufResponse : List Byte → List Byte

/-- The devicetree that the Hall firmware leaves for the operating system, and its address (R422 says what it describes, not its bytes, log
entry 129): the fitted domains, the HBM window. -/
opaque treeBytes : List Nat → Nat → List Byte
opaque treeAddr : Nat → Nat

/-- The milliseconds that the n-th power-on took to READY (R420 bounds it by 2,100, log entry 3). -/
opaque bootMs : Nat → Nat

/-- Whether an Annex item holds sampling-stream records (R357: the item table names no kind, log entry 40). -/
opaque streamItem : Nat → Bool

/-- A port's clock in 1/16 ns at the n-th time it is read (R330, log entry 44). -/
opaque portClock : Nat → Word

/-- The 132-bit constant of R95 is the number above √2 rather than the one below (the spec gives its distance only, log entry 52). -/
opaque sqrtUp : Bool

/-- The FP32 pattern that stands as ROWMAX of a row without elements (the spec states none, log entry 53). -/
opaque emptyRowMax : Nat → Nat

/-- A row-sum accumulator whose exact sum leaves its 192 bits (the spec states no result, log entry 54). -/
opaque rowSumOver : Nat → Nat

/-- What a register u0 to u15 of a Rhoac-U program holds before the program writes it: free counter, register (log entry 56). -/
opaque hearthReg : Nat → Nat → Nat

/-- Which contribution's TILE_ROW and TILE_COL a combined rail block carries (R316 names the sum only, log entry 58). -/
opaque collTile : Nat → Nat

/-- The pseudo-channel, of 32, that holds an offset of a stack (the spec gives no map, log entry 62). -/
opaque pseudoChannel : Nat → Nat

/-- The length of an Annex item in bytes, where its last shard ends short of a whole MiB (R348 gives no field for it, log entry 95). -/
opaque itemEnd : Nat → Nat

/-- The fabric address of the switch port that bridges the frames of a port, by 2 × IOD + port (R328 gives none, log entry 123). -/
opaque bridgeAddr : Nat → Nat

/-- The payload of a letterbox packet: SEQ and message, or SEQ and code of an acknowledgement (R408 gives no layout, log entry 124). -/
opaque letterPayload : Nat → List Byte → List Byte
opaque ackPayload : Nat → Nat → List Byte

/-- Carriers or link engines beyond the first, by domain type code and UNIT code (R217 leaves their number open, log entry 64). -/
opaque moreUnits : Nat → Nat → Nat

/-- What a register of a unit that runs Falnu's firmware holds (R217, log entry 64): free counter, domain, unit, register. -/
opaque firmwareReg : Nat → Nat → Nat → Nat → Nat

/-- Bytes in section 0x07 of an IOD's walk, and each of them for what the ports, lanes and roster hold (R232 refers to a layout that no
chapter gives, log entry 64). -/
opaque portSectionLength : Nat
opaque portSectionByte : List Nat → Nat → Byte

end Sys2Proof.Config
end

