-- ==== Sys2Proof/Machine/Regs.lean ====
section
/-! DEFINITION. The register map (R442): per scope the offset, the writable masks by type (R15), the STK mask and the reset
value of every register, transcribed from the tables of R30, R110, R145, R171, R191, R216, R221, R230, R231, R299, R300, R334,
R335, R362, R363, R389, R390, R394, R398, R399, R402, R434 and R441; the offsets by name; and the domains (R25, R29). -/
namespace Sys2Proof

/-- A register: offset, RW bits, RW1C bits, WRB bits, STK bits, reset value. Bits in no mask are RO or reserved. -/
structure RegDef where
  off   : Nat
  rw    : Nat
  w1c   : Nat
  wrb   : Nat
  stk   : Nat
  reset : Nat
deriving DecidableEq, Repr

/-- Registers: Porch control block. -/
def porchRegs : List RegDef :=
  [
  ⟨0, 0, 0, 0, 0, 0x6000100⟩, -- MODULE_IDENT R30
  ⟨8, 0, 0, 0, 0, 0⟩, -- DOMAIN_PRESENT R30
  ⟨0x10, 0, 0, 0, 0, 0⟩, -- HBM_WINDOW R30
  ⟨0x1000, 0xFFFFFFFFFFFFFFFF, 0, 0, 0xFFFFFFFFFFFFFFFF, 0⟩, -- CG_JOB_KEY R216
  ⟨0x1008, 0, 0, 0, 0xFFFFFFFFFFFFFFFF, 0⟩, -- CG_KEY_IN_FORCE R216
  ⟨0x2000, 0, 0, 0, 0, 0⟩, -- STAIR_POS_TICK R299
  ⟨0x2008, 0, 0, 0, 0, 0⟩, -- STAIR_POS_HIGH R299
  ⟨0x2010, 0, 0, 0, 0, 0⟩, -- STAIR_EPOCH R299
  ⟨0x2018, 0, 0, 0xFFFFFF, 0, 0⟩, -- STAIR_SET R299
  ⟨0x2020, 0, 0, 0xFFFFFFFF, 0, 0⟩, -- STAIR_CLOSE R299
  ⟨0x2028, 0x20000, 0xC0000, 0, 0x20000, 0⟩, -- STAIR_SYNC R299
  ⟨0x2030, 0xFFFFFFFFFFFFFFFF, 0, 0, 0, 0⟩, -- STAIR_BEAT_COUNT R299
  ⟨0x2038, 0xFFFFFFFFFFFFFFFF, 0, 0, 0, 0⟩, -- STAIR_JUMP_COUNT R299
  ⟨0x2040, 0, 0, 0, 0, 0⟩, -- LAND_PENDING R299
  ⟨0x3000, 0xFFFFFFFFFFFF, 0, 0x1000000000000, 0xFFFFFFFFFFFF, 0⟩, -- FAB_JOB R335
  ⟨0x3008, 0x1FFFF, 0, 0, 0x1FFFF, 0⟩, -- FAB_EXPECT R335
  ⟨0x3010, 0, 0x10, 0, 0xFFFF00000007, 0⟩, -- FAB_STATE R335
  ⟨0x3018, 0, 0, 0, 0x1FFFF, 0⟩, -- FAB_MEMBERS R335
  ⟨0x3020, 0xFFFF, 0, 0, 0xFFFF, 0xC8⟩, -- FAB_SETTLE R335
  ⟨0x3028, 0xFFFFFFFFFFF, 0, 0, 0xFFFFFFFFFFF, 0⟩, -- FAB_ROSTER_MIRROR R335
  ⟨0x3030, 0, 0, 0, 0, 0⟩, -- FAB_ROSTER_GEN R335
  ⟨0x3038, 0xFFFFFFFFFFF, 0, 0, 0xFFFFFFFFFFF, 0⟩, -- FAB_BX_TABLE R335
  ⟨0x3040, 0x1FFF7FFF, 0, 0, 0x1FFF7FFF, 0⟩, -- FAB_BX_COUNTS R335
  ⟨0x3048, 0xFFFFFFFFFFFFFFFF, 0, 0, 0, 0⟩, -- FAB_STALE_COUNT R335
  ⟨0x3050, 0xFFFFFFFFFFFFFFFF, 0, 0, 0, 0⟩, -- FAB_DUP_COUNT R335
  ⟨0x3058, 0xFFFFFFFFFFFFFFFF, 0, 0, 0, 0⟩, -- FAB_RESTART_COUNT R335
  ⟨0x4000, 0, 0, 0, 0, 0⟩, -- DOM_HEALTH R362
  ⟨0x4008, 0, 0, 0, 0, 0⟩, -- DOM_IN_RESET R362
  ⟨0x4010, 0, 0x200, 0x1FF, 0, 0⟩, -- DOM_RESET R362
  ⟨0x4018, 0xFFFFFFFFFFFFFFFF, 0, 0, 0, 0⟩, -- DOM_RESET_COUNT R362
  ⟨0x4020, 0x3F0FFFFFFFFFFF, 0, 0, 0x3F0FFFFFFFFFFF, 0⟩, -- FLOG_RING R362
  ⟨0x4028, 0, 0, 0, 0xFFFFFFFF, 0⟩, -- FLOG_WRITE R362
  ⟨0x4030, 0xFFFFFFFF, 0, 0, 0xFFFFFFFF, 0⟩, -- FLOG_READ R362
  ⟨0x4038, 0, 0, 0, 0xFFFFFFFF, 0⟩, -- FLOG_SEQ R362
  ⟨0x4040, 0xFFFFFFFFFFFFFFFF, 0, 0, 0, 0⟩, -- FLOG_OVERFLOW_COUNT R362
  ⟨0x4048, 0xFFFFFFFFFFF, 0, 0, 0, 0⟩, -- FLOG_COPY_DEST R362
  ⟨0x4050, 0, 0, 0xFFFFFFFF, 0, 0⟩, -- FLOG_COPY R362
  ⟨0x4058, 0, 0, 0, 0, 0⟩, -- FLOG_DROP_GUARD R362
  ⟨0x5000, 0xFFFFFFFFFFF, 0, 0, 0xFFFFFFFFFFF, 0⟩, -- ANNEX_REGION R363
  ⟨0x5008, 0xFFFFFFFFFFF, 0, 0, 0xFFFFFFFFFFF, 0⟩  -- ANNEX_SIZE R363
  ] ++
  [
  ⟨0x5010, 0xFFFFFFFFFFF, 0, 0, 0xFFFFFFFFFFF, 0⟩, -- ANNEX_ITEMS R363
  ⟨0x5018, 0xFFF, 0, 0, 0xFFF, 0⟩, -- ANNEX_COUNT R363
  ⟨0x5020, 0xFFFFFFFFFFFFFFFF, 0, 0, 0xFFFFFFFFFFFFFFFF, 0⟩, -- ANNEX_KEY0 R363
  ⟨0x5028, 0xFFFFFFFFFFFFFFFF, 0, 0, 0xFFFFFFFFFFFFFFFF, 0⟩, -- ANNEX_KEY1 R363
  ⟨0x5030, 0xFFFFFFFFFFFFFFFF, 0, 0, 0xFFFFFFFFFFFFFFFF, 0⟩, -- ANNEX_KEY2 R363
  ⟨0x5038, 0xFFFFFFFFFFFFFFFF, 0, 0, 0xFFFFFFFFFFFFFFFF, 0⟩, -- ANNEX_KEY3 R363
  ⟨0x5040, 1, 2, 0, 1, 0⟩, -- ANNEX_CTRL R363
  ⟨0x5048, 0, 0, 0, 0, 0⟩, -- ANNEX_NEED R363
  ⟨0x5050, 0, 0, 0, 0xFFFFFFFFFFFFFFFF, 0⟩, -- ANNEX_STATE R363
  ⟨0x5058, 0xFFFFFFFFFFFFFFFF, 0, 0, 0, 0⟩, -- ANNEX_BYTES_COUNT R363
  ⟨0x5060, 0xFFFFFFFFFFF, 0, 0, 0, 0⟩, -- RST_PLAN R363
  ⟨0x5068, 0xFFFFF, 0, 0, 0, 0⟩, -- RST_PLAN_COUNT R363
  ⟨0x5070, 0, 0, 7, 0, 0⟩, -- RST_CTRL R363
  ⟨0x5078, 0, 0, 0, 0, 0⟩, -- RST_STATUS R363
  ⟨0x6000, 0xFFF, 0, 0, 0xFFF, 0xA28⟩, -- PWR_LIMIT R389
  ⟨0x6008, 0xF, 0, 0, 0xF, 4⟩, -- PWR_WINDOW R389
  ⟨0x6010, 6, 0, 1, 6, 0⟩, -- PWR_CTRL R389
  ⟨0x6018, 0, 0, 0, 0, 0x10⟩, -- PWR_STATUS R389
  ⟨0x6020, 0, 0, 0, 0, 0⟩, -- PWR_MEASURE R389
  ⟨0x6028, 0xFFFFFFFFFFFF, 0, 0, 0xFFFFFFFFFFFF, 0⟩, -- PWR_SLOW_BASIS R389
  ⟨0x6030, 0, 0, 0, 0, 0⟩, -- PWR_SLOW_LAST R389
  ⟨0x6038, 0, 0, 0, 0, 0⟩, -- PWR_SLOW_LAST_TICK R389
  ⟨0x6040, 0xFFFFFFFFFFFFFFFF, 0, 0, 0, 0⟩, -- PWR_GRANT_COUNT R389
  ⟨0x6048, 0xFFFFFFFFFFFFFFFF, 0, 0, 0, 0⟩, -- PWR_GRANT_WAIT_COUNT R389
  ⟨0x6050, 0xFFFFFFFFFFFFFFFF, 0, 0, 0, 0⟩, -- PWR_WITHDRAW_COUNT R389
  ⟨0x6058, 0xFFFFFFFFFFFFFFFF, 0, 0, 0, 0⟩, -- PWR_CEILING_TRIP_COUNT R389
  ⟨0x6060, 0xFFFFFFFFFFFFFFFF, 0, 0, 0, 0⟩, -- PWR_SLOW_SENT_COUNT R389
  ⟨0x6068, 0xFFFFFFFFFFFFFFFF, 0, 0, 0, 0⟩, -- PWR_SLOW_RECV_COUNT R389
  ⟨0x6070, 0, 0, 0, 0xFFFFFFFFFFFFFFFF, 0⟩, -- ENERGY_TOTAL R389
  ⟨0x6078, 0, 0, 0, 0xFFFFFFFFFFFFFFFF, 0⟩, -- ENERGY_JOB R389
  ⟨0x6080, 0, 0, 0, 0xFFFFFFFF, 0⟩, -- ENERGY_JOB_ID R389
  ⟨0x6088, 0xFFFFFFFFFFFFFFFF, 0, 0, 0, 0⟩, -- ENERGY_IDLE R389
  ⟨0x6090, 0xFFFFFFFFFFFFFFFF, 0, 0, 0, 0⟩, -- ENERGY_OVERHEAD R389
  ⟨0x7000, 0xFFFFFFFFFFFFFFFF, 0, 0, 0xFFFFFFFFFFFFFFFF, 0⟩, -- HALL_MSI_FAULT R399
  ⟨0x7008, 0xFFFFFFFFFFFFFFFF, 0, 0, 0xFFFFFFFFFFFFFFFF, 0⟩, -- HALL_MSI_RESTORE R399
  ⟨0x7010, 0xFFFFFFFFFFFFFFFF, 0, 0, 0xFFFFFFFFFFFFFFFF, 0⟩, -- HALL_MSI_FABRIC R399
  ⟨0x7018, 0xFFFFFFFFFFFFFFFF, 0, 0, 0xFFFFFFFFFFFFFFFF, 0⟩, -- HALL_MSI_POWER R399
  ⟨0x7020, 0xFFFFFFFFFFFFFFFF, 0, 0, 0xFFFFFFFFFFFFFFFF, 0⟩, -- HALL_MSI_ACCESS R399
  ⟨0x7028, 0xFFFFFFFFFFFFFFFF, 0, 0, 0, 0⟩, -- HALL_MSI_DROP_COUNT R399
  ⟨0x8000, 0, 0, 0, 0, 0⟩  -- BOOT_STATUS R434
  ] ++
  [
  ⟨0x8008, 0, 0, 0, 0, 0⟩, -- BOOT_SET R434
  ⟨0x8010, 0, 0, 0, 0, 0⟩, -- BOOT_MIN_SVN R434
  ⟨0x8018, 0, 0, 0, 0, 0⟩, -- BOOT_COUNT R434
  ⟨0x8020, 0, 0, 0, 0, 0⟩, -- UPD_STATUS R434
  ⟨0x8028, 0, 0, 0, 0, 0⟩  -- BOOT_TIME R434
  ]

/-- Registers: walk registers of every domain but the Hall. -/
def walkRegs : List RegDef :=
  [
  ⟨0x100800, 0xFFFFFFFFFFF, 0, 0, 0, 0⟩, -- WALK_DEST R231
  ⟨0x100808, 0xFFFFFFFF, 0, 0, 0, 0⟩, -- WALK_CAP R231
  ⟨0x100810, 0, 0, 0, 0, 0⟩, -- WALK_SIZE R231
  ⟨0x100818, 0, 0, 3, 0, 0⟩, -- WALK_START R231
  ⟨0x100820, 0, 6, 0, 0, 0⟩  -- WALK_STATUS R231
  ]

/-- Registers: one queue, relative to 0x100000 + 0x40 q. -/
def queueRegs : List RegDef :=
  [
  ⟨0, 3, 0, 4, 3, 0⟩, -- Q_CTRL R221
  ⟨8, 0x1F0FFFFFFFFFFF, 0, 0, 0x1F0FFFFFFFFFFF, 0⟩, -- Q_RING R221
  ⟨0x10, 0xFFFFFFFFFFF, 0, 0, 0xFFFFFFFFFFF, 0⟩, -- Q_CPL_BASE R221
  ⟨0x18, 0, 0, 0xFFFFFFFF, 0xFFFFFFFF, 0⟩, -- Q_TAIL R221
  ⟨0x20, 0xFFFFFFFF, 0, 0, 0xFFFFFFFF, 0⟩, -- Q_CPL_READ R221
  ⟨0x28, 0, 0, 0, 0xFFFFFFFFFFFFFFFF, 0⟩, -- Q_PROGRESS R221
  ⟨0x30, 0, 0xC, 0, 0xFFFFFFFFFFFF0002, 0⟩  -- Q_STATUS R221
  ]

/-- Registers: CD, MSD and IOD, common part. -/
def dieRegs : List RegDef :=
  [
  ⟨0x101000, 0, 0, 0, 0, 0⟩, -- LAND_PENDING_D R300
  ⟨0x101008, 0xFFFFFFFFFFFFFFFF, 0, 0, 0, 0⟩, -- LAND_FIRED_COUNT R300
  ⟨0x101010, 7, 0, 0, 7, 0⟩, -- LP_CTRL R300
  ⟨0x101018, 0xFFFFFFFFFFFF, 0, 0, 0, 0⟩, -- LP_HINT R300
  ⟨0x101020, 0, 0, 0, 0, 0⟩, -- LP_STATE R300
  ⟨0x101028, 0xFFFFFFFFFFFFFFFF, 0, 0, 0, 0⟩, -- LP_RESIDENCY_S1 R300
  ⟨0x101030, 0xFFFFFFFFFFFFFFFF, 0, 0, 0, 0⟩, -- LP_RESIDENCY_S2 R300
  ⟨0x101038, 0xFFFFFFFFFFFFFFFF, 0, 0, 0, 0⟩, -- LP_RESIDENCY_S3 R300
  ⟨0x101040, 0xFFFFFFFFFFFFFFFF, 0, 0, 0, 0⟩, -- LP_RESIDENCY_S4 R300
  ⟨0x101048, 0xFFFFFFFFFFFFFFFF, 0, 0, 0, 0⟩, -- LP_WAKE_LATE_COUNT R300
  ⟨0x103000, 0xFFFFFFFFFFFFFFFF, 0, 0, 0xFFFFFFFFFFFFFFFF, 0⟩, -- Q_MSI0 R398
  ⟨0x103008, 0xFFFFFFFFFFFFFFFF, 0, 0, 0xFFFFFFFFFFFFFFFF, 0⟩, -- Q_MSI1 R398
  ⟨0x103010, 0xFFFFFFFFFFFFFFFF, 0, 0, 0xFFFFFFFFFFFFFFFF, 0⟩, -- Q_MSI2 R398
  ⟨0x103018, 0xFFFFFFFFFFFFFFFF, 0, 0, 0xFFFFFFFFFFFFFFFF, 0⟩, -- Q_MSI3 R398
  ⟨0x103020, 0xFFFFFFFFFFFFFFFF, 0, 0, 0xFFFFFFFFFFFFFFFF, 0⟩, -- Q_MSI4 R398
  ⟨0x103028, 0xFFFFFFFFFFFFFFFF, 0, 0, 0xFFFFFFFFFFFFFFFF, 0⟩, -- Q_MSI5 R398
  ⟨0x103030, 0xFFFFFFFFFFFFFFFF, 0, 0, 0xFFFFFFFFFFFFFFFF, 0⟩, -- Q_MSI6 R398
  ⟨0x103038, 0xFFFFFFFFFFFFFFFF, 0, 0, 0xFFFFFFFFFFFFFFFF, 0⟩, -- Q_MSI7 R398
  ⟨0x103040, 0xFFFFFFFFFFFFFFFF, 0, 0, 0xFFFFFFFFFFFFFFFF, 0⟩, -- Q_MSI8 R398
  ⟨0x103048, 0xFFFFFFFFFFFFFFFF, 0, 0, 0xFFFFFFFFFFFFFFFF, 0⟩, -- Q_MSI9 R398
  ⟨0x103050, 0xFFFFFFFFFFFFFFFF, 0, 0, 0xFFFFFFFFFFFFFFFF, 0⟩, -- Q_MSI10 R398
  ⟨0x103058, 0xFFFFFFFFFFFFFFFF, 0, 0, 0xFFFFFFFFFFFFFFFF, 0⟩, -- Q_MSI11 R398
  ⟨0x103060, 0xFFFFFFFFFFFFFFFF, 0, 0, 0xFFFFFFFFFFFFFFFF, 0⟩, -- Q_MSI12 R398
  ⟨0x103068, 0xFFFFFFFFFFFFFFFF, 0, 0, 0xFFFFFFFFFFFFFFFF, 0⟩, -- Q_MSI13 R398
  ⟨0x103070, 0xFFFFFFFFFFFFFFFF, 0, 0, 0xFFFFFFFFFFFFFFFF, 0⟩, -- Q_MSI14 R398
  ⟨0x103078, 0xFFFFFFFFFFFFFFFF, 0, 0, 0xFFFFFFFFFFFFFFFF, 0⟩  -- Q_MSI15 R398
  ]

/-- Registers: Hall, CD, MSD and IOD. -/
def powerRegs : List RegDef :=
  [
  ⟨0x102000, 0x700, 0, 0, 0x70700, 0⟩, -- PWR_OPPOINT R390
  ⟨0x102008, 0, 0, 0, 0, 0⟩, -- PWR_SENSE R390
  ⟨0x102010, 0xFFFFFFFFFFFFFFFF, 0, 0, 0, 0⟩, -- PWR_DROOP_COUNT R390
  ⟨0x102018, 0xFFFFFFFFFFFFFFFF, 0, 0, 0, 0⟩, -- PWR_CONVERGE_COUNT R390
  ⟨0x102020, 0, 0, 0, 0x1FF, 0⟩, -- PWR_AGE R390
  ⟨0x102028, 0, 0, 0, 0, 0⟩, -- VTABLE0 R390
  ⟨0x102030, 0, 0, 0, 0, 0⟩, -- VTABLE1 R390
  ⟨0x102038, 0, 0, 0, 0, 0⟩, -- VTABLE2 R390
  ⟨0x102040, 0, 0, 0, 0, 0⟩, -- VTABLE3 R390
  ⟨0x102048, 0, 0, 0, 0, 0⟩, -- VTABLE4 R390
  ⟨0x102050, 0, 0, 0, 0, 0⟩  -- VTABLE5 R390
  ]

/-- Registers: the Hall. -/
def hallRegs : List RegDef :=
  [
  ⟨0x104000, 0, 0, 0, 0, 0⟩, -- HALL_ACCESS_LAST R394
  ⟨0x104008, 0xFFFFFFFFFFFFFFFF, 0, 0, 0, 0⟩  -- HALL_ACCESS_COUNT R394
  ]

/-- Registers: one engine, relative to 0x200000 + 0x40 e. -/
def engineRegs : List RegDef :=
  [
  ⟨0, 0xFFFFFFFFFFFFFFFF, 0, 0, 0, 0⟩, -- ENG_SAT_COUNT R110
  ⟨8, 0xFFFFFFFFFFFFFFFF, 0, 0, 0, 0⟩, -- ENG_HEADROOM_COUNT R110
  ⟨0x10, 0xFFFFFFFFFFFFFFFF, 0, 0, 0, 0⟩, -- ENG_POISON_COUNT R110
  ⟨0x18, 0xFFFFFFFFFFFFFFFF, 0, 0, 0, 0⟩, -- ENG_UNIT_ROUND_COUNT R110
  ⟨0x20, 0xFFFFFFFFFFFFFFFF, 0, 0, 0, 0⟩  -- ENG_EXACT_TEST_COUNT R110
  ]

/-- Registers: every CD. -/
def cdRegs : List RegDef :=
  [
  ⟨0x200800, 0xFFFFFFFFFFFFFFFF, 0, 0, 0, 0⟩, -- ERRC_OUTLIER_COUNT R145
  ⟨0x200808, 0xFFFFFFFFFFFFFFFF, 0, 0, 0, 0⟩, -- ERRC_PROMOTE_COUNT R145
  ⟨0x200810, 0xFFFFFFFFFFFFFFFF, 0, 0, 0, 0⟩, -- ERRC_RMTILE_COUNT R145
  ⟨0x200818, 0xFFFFFFFFFFFFFFFF, 0, 0, 0, 0⟩, -- ERRC_POOL_FULL_COUNT R145
  ⟨0x200820, 0xFFFFFFFFFFFFFFFF, 0, 0, 0, 0⟩, -- ERRC_ROT_SAT_COUNT R145
  ⟨0x200828, 0xFFFFFFFFFFFFFFFF, 0, 0, 0, 0⟩, -- ERRC_LINTEL_SAT_COUNT R145
  ⟨0x201000, 0, 0, 0, 0, 0⟩, -- TRAIN_STEP_STATUS R171
  ⟨0x201010, 0xFFFFFFFFFFFFFFFF, 0, 0, 0, 0⟩, -- HEARTH_ELEM_COUNT0 R171
  ⟨0x201018, 0xFFFFFFFFFFFFFFFF, 0, 0, 0, 0⟩, -- HEARTH_ELEM_COUNT1 R171
  ⟨0x201020, 0xFFFFFFFFFFFFFFFF, 0, 0, 0, 0⟩, -- HEARTH_NONFINITE_COUNT R171
  ⟨0x201040, 0, 0, 0, 0, 0⟩, -- LG_KEY R216
  ⟨0x201048, 0xFFFFFFFFFFFFFFFF, 0, 0, 0, 0⟩, -- LG_DRAW_COUNT R216
  ⟨0x201050, 0xFFFFFFFFFFFFFFFF, 0, 0, 0, 0⟩, -- CG_DRAW_COUNT R216
  ⟨0x201080, 0, 0xF, 0, 0xF, 0⟩  -- DET_BREAK R230
  ]

/-- Registers: CD0 only. -/
def cd0Regs : List RegDef :=
  [
  ⟨0x200830, 0xFFFFFFFFFFFFFFFF, 0, 0, 0, 0⟩, -- ERRC_LAYER_RISE_COUNT R145
  ⟨0x200838, 0xFFFFFFFFFFFFFFFF, 0, 0, 0, 0⟩, -- ERRC_STORM_COUNT R145
  ⟨0x201008, 0, 2, 1, 0, 0⟩  -- TRAIN_SKIP_REQUEST R171
  ]

/-- Registers: every MSD. -/
def msdRegs : List RegDef :=
  [
  ⟨0x101050, 0xFFFFFFFFFFFFFFFF, 0, 0, 0, 0⟩  -- LAND_CLIPPED_COUNT R300
  ]

/-- Registers: MSD0 only. -/
def msd0Regs : List RegDef :=
  [
  ⟨0x200000, 0x7FFF, 0, 0, 0x7FFF, 0⟩, -- STASH_LARDER_SHARE R191
  ⟨0x200008, 0xFFFFFFFFFFFFFFFF, 0, 0, 0, 0⟩, -- STASH_SPILL_COUNT R191
  ⟨0x200010, 0xFFFFFFFFFFFFFFFF, 0, 0, 0, 0⟩, -- STASH_DROP_COUNT R191
  ⟨0x200018, 0xFFFFFFFFFFFFFFFF, 0, 0, 0, 0⟩, -- STASH_EXHAUSTED_COUNT R191
  ⟨0x200020, 0xFFFFFFFFFFFFFFFF, 0, 0, 0, 0⟩  -- STASH_MOVE_SKIP_COUNT R191
  ]

/-- Registers: one port, relative to 0x300000 + 0x100 p. -/
def portRegs : List RegDef :=
  [
  ⟨0, 3, 0, 4, 3, 0⟩, -- PORT_CTRL R334
  ⟨8, 0, 0, 0, 0, 0⟩, -- PORT_STATUS R334
  ⟨0x10, 0xFFFFFFFFFFFFFFFF, 0, 0, 0, 0⟩, -- PORT_RETRY_COUNT R334
  ⟨0x18, 0xFFFFFFFFFFFFFFFF, 0, 0, 0, 0⟩, -- PORT_FEC_CORR_COUNT R334
  ⟨0x20, 0xFFFFFFFFFFFFFFFF, 0, 0, 0, 0⟩, -- PORT_FEC_UNCORR_COUNT R334
  ⟨0x28, 0xFFFFFFFFFFFFFFFF, 0, 0, 0, 0⟩, -- PORT_RETRAIN_COUNT R334
  ⟨0x30, 0xFFFFFFFFFFFFFFFF, 0, 0, 0, 0⟩, -- PORT_LANE_RETIRE_COUNT R334
  ⟨0x38, 0x1F0FFFFFFFFFFF, 0, 0, 0x1F0FFFFFFFFFFF, 0⟩, -- FRAME_TX_RING R334
  ⟨0x40, 0, 0, 0xFFFFFFFF, 0xFFFFFFFF, 0⟩, -- FRAME_TX_TAIL R334
  ⟨0x48, 0, 0, 0, 0xFFFFFFFF, 0⟩, -- FRAME_TX_HEAD R334
  ⟨0x50, 0x1F0FFFFFFFFFFF, 0, 0, 0x1F0FFFFFFFFFFF, 0⟩, -- FRAME_RX_RING R334
  ⟨0x58, 0, 0, 0xFFFFFFFF, 0xFFFFFFFF, 0⟩, -- FRAME_RX_TAIL R334
  ⟨0x60, 0, 0, 0, 0xFFFFFFFF, 0⟩, -- FRAME_RX_HEAD R334
  ⟨0x68, 0xFFFFFFFFFFFFFFFF, 0, 0, 0, 0⟩, -- FRAME_DROP_COUNT R334
  ⟨0x70, 0xFFFFFFFFFFFFFFFF, 0, 0, 0, 0⟩  -- FRAME_CTRL_DROP_COUNT R334
  ]

/-- Registers: identity registers of every domain. -/
def identRegs : List RegDef :=
  [
  ⟨0xF00, 0, 0, 0, 0, 0⟩, -- DOM_INFO R441
  ⟨0xF08, 0, 0, 0, 0, 0⟩, -- DOM_SVN R441
  ⟨0xF40, 0, 0, 0, 0, 0⟩, -- DOM_DIGEST0 R441
  ⟨0xF48, 0, 0, 0, 0, 0⟩, -- DOM_DIGEST1 R441
  ⟨0xF50, 0, 0, 0, 0, 0⟩, -- DOM_DIGEST2 R441
  ⟨0xF58, 0, 0, 0, 0, 0⟩, -- DOM_DIGEST3 R441
  ⟨0xF60, 0, 0, 0, 0, 0⟩, -- DOM_DIGEST4 R441
  ⟨0xF68, 0, 0, 0, 0, 0⟩, -- DOM_DIGEST5 R441
  ⟨0xF70, 0, 0, 0, 0, 0⟩, -- DOM_DIGEST6 R441
  ⟨0xF78, 0, 0, 0, 0, 0⟩  -- DOM_DIGEST7 R441
  ]

/-- Registers: one letterbox, relative to the box. -/
def boxRegDefs : List RegDef :=
  [
  ⟨0x1000, 0, 0, 0x1F, 0, 0⟩, -- LB_CLAIM R402
  ⟨0x1008, 0, 0, 0xF1F, 0, 0⟩, -- LB_RING R402
  ⟨0x1010, 0, 0, 0xFFFFFFFFFFFFF, 0, 0⟩, -- LB_ACK R402
  ⟨0x1018, 0, 0, 0xF1F, 0, 0⟩, -- LB_RELEASE R402
  ⟨0x1020, 0, 0xFFFFFFFF, 0, 0, 0⟩, -- LB_DOORBELL R402
  ⟨0x1028, 0xFFFFFFFF, 0, 0, 0xFFFFFFFF, 0⟩, -- LB_MASK R402
  ⟨0x1030, 0, 0, 0, 0, 0⟩, -- LB_STATE R402
  ⟨0x1038, 0, 0xFFFF, 0, 0, 0⟩, -- LB_ACKED R402
  ⟨0x1040, 0, 7, 0, 0, 0⟩, -- LB_STATUS R402
  ⟨0x1048, 0xFFFFFFFFFFFFFFFF, 0, 0, 0xFFFFFFFFFFFFFFFF, 0⟩, -- LB_RX_MSI R402
  ⟨0x1050, 0xFFFFFFFFFFFFFFFF, 0, 0, 0xFFFFFFFFFFFFFFFF, 0⟩, -- LB_ACK_MSI R402
  ⟨0x1058, 0xFFFFFFFFFFFFFFFF, 0, 0, 0xFFFFFFFFFFFFFFFF, 0⟩, -- LB_FULL_MSI R402
  ⟨0x1100, 0, 0, 0, 0, 0⟩  -- LB_GRANT R402
  ]

/-! Register offsets by name. -/
abbrev Reg.MODULE_IDENT : Nat := 0
abbrev Reg.DOMAIN_PRESENT : Nat := 8
abbrev Reg.HBM_WINDOW : Nat := 0x10
abbrev Reg.CG_JOB_KEY : Nat := 0x1000
abbrev Reg.CG_KEY_IN_FORCE : Nat := 0x1008
abbrev Reg.STAIR_POS_TICK : Nat := 0x2000
abbrev Reg.STAIR_POS_HIGH : Nat := 0x2008
abbrev Reg.STAIR_EPOCH : Nat := 0x2010
abbrev Reg.STAIR_SET : Nat := 0x2018
abbrev Reg.STAIR_CLOSE : Nat := 0x2020
abbrev Reg.STAIR_SYNC : Nat := 0x2028
abbrev Reg.STAIR_BEAT_COUNT : Nat := 0x2030
abbrev Reg.STAIR_JUMP_COUNT : Nat := 0x2038
abbrev Reg.LAND_PENDING : Nat := 0x2040
abbrev Reg.FAB_JOB : Nat := 0x3000
abbrev Reg.FAB_EXPECT : Nat := 0x3008
abbrev Reg.FAB_STATE : Nat := 0x3010
abbrev Reg.FAB_MEMBERS : Nat := 0x3018
abbrev Reg.FAB_SETTLE : Nat := 0x3020
abbrev Reg.FAB_ROSTER_MIRROR : Nat := 0x3028
abbrev Reg.FAB_ROSTER_GEN : Nat := 0x3030
abbrev Reg.FAB_BX_TABLE : Nat := 0x3038
abbrev Reg.FAB_BX_COUNTS : Nat := 0x3040
abbrev Reg.FAB_STALE_COUNT : Nat := 0x3048
abbrev Reg.FAB_DUP_COUNT : Nat := 0x3050
abbrev Reg.FAB_RESTART_COUNT : Nat := 0x3058
abbrev Reg.DOM_HEALTH : Nat := 0x4000
abbrev Reg.DOM_IN_RESET : Nat := 0x4008
abbrev Reg.DOM_RESET : Nat := 0x4010
abbrev Reg.DOM_RESET_COUNT : Nat := 0x4018
abbrev Reg.FLOG_RING : Nat := 0x4020
abbrev Reg.FLOG_WRITE : Nat := 0x4028
abbrev Reg.FLOG_READ : Nat := 0x4030
abbrev Reg.FLOG_SEQ : Nat := 0x4038
abbrev Reg.FLOG_OVERFLOW_COUNT : Nat := 0x4040
abbrev Reg.FLOG_COPY_DEST : Nat := 0x4048
abbrev Reg.FLOG_COPY : Nat := 0x4050
abbrev Reg.FLOG_DROP_GUARD : Nat := 0x4058
abbrev Reg.ANNEX_REGION : Nat := 0x5000
abbrev Reg.ANNEX_SIZE : Nat := 0x5008
abbrev Reg.ANNEX_ITEMS : Nat := 0x5010
abbrev Reg.ANNEX_COUNT : Nat := 0x5018
abbrev Reg.ANNEX_KEY0 : Nat := 0x5020
abbrev Reg.ANNEX_KEY1 : Nat := 0x5028
abbrev Reg.ANNEX_KEY2 : Nat := 0x5030
abbrev Reg.ANNEX_KEY3 : Nat := 0x5038
abbrev Reg.ANNEX_CTRL : Nat := 0x5040
abbrev Reg.ANNEX_NEED : Nat := 0x5048
abbrev Reg.ANNEX_STATE : Nat := 0x5050
abbrev Reg.ANNEX_BYTES_COUNT : Nat := 0x5058
abbrev Reg.RST_PLAN : Nat := 0x5060
abbrev Reg.RST_PLAN_COUNT : Nat := 0x5068
abbrev Reg.RST_CTRL : Nat := 0x5070
abbrev Reg.RST_STATUS : Nat := 0x5078
abbrev Reg.PWR_LIMIT : Nat := 0x6000
abbrev Reg.PWR_WINDOW : Nat := 0x6008
abbrev Reg.PWR_CTRL : Nat := 0x6010
abbrev Reg.PWR_STATUS : Nat := 0x6018
abbrev Reg.PWR_MEASURE : Nat := 0x6020
abbrev Reg.PWR_SLOW_BASIS : Nat := 0x6028
abbrev Reg.PWR_SLOW_LAST : Nat := 0x6030
abbrev Reg.PWR_SLOW_LAST_TICK : Nat := 0x6038
abbrev Reg.PWR_GRANT_COUNT : Nat := 0x6040
abbrev Reg.PWR_GRANT_WAIT_COUNT : Nat := 0x6048
abbrev Reg.PWR_WITHDRAW_COUNT : Nat := 0x6050
abbrev Reg.PWR_CEILING_TRIP_COUNT : Nat := 0x6058
abbrev Reg.PWR_SLOW_SENT_COUNT : Nat := 0x6060
abbrev Reg.PWR_SLOW_RECV_COUNT : Nat := 0x6068
abbrev Reg.ENERGY_TOTAL : Nat := 0x6070
abbrev Reg.ENERGY_JOB : Nat := 0x6078
abbrev Reg.ENERGY_JOB_ID : Nat := 0x6080
abbrev Reg.ENERGY_IDLE : Nat := 0x6088
abbrev Reg.ENERGY_OVERHEAD : Nat := 0x6090
abbrev Reg.HALL_MSI_FAULT : Nat := 0x7000
abbrev Reg.HALL_MSI_RESTORE : Nat := 0x7008
abbrev Reg.HALL_MSI_FABRIC : Nat := 0x7010
abbrev Reg.HALL_MSI_POWER : Nat := 0x7018
abbrev Reg.HALL_MSI_ACCESS : Nat := 0x7020
abbrev Reg.HALL_MSI_DROP_COUNT : Nat := 0x7028
abbrev Reg.BOOT_STATUS : Nat := 0x8000
abbrev Reg.BOOT_SET : Nat := 0x8008
abbrev Reg.BOOT_MIN_SVN : Nat := 0x8010
abbrev Reg.BOOT_COUNT : Nat := 0x8018
abbrev Reg.UPD_STATUS : Nat := 0x8020
abbrev Reg.BOOT_TIME : Nat := 0x8028
abbrev Reg.WALK_DEST : Nat := 0x100800
abbrev Reg.WALK_CAP : Nat := 0x100808
abbrev Reg.WALK_SIZE : Nat := 0x100810
abbrev Reg.WALK_START : Nat := 0x100818
abbrev Reg.WALK_STATUS : Nat := 0x100820
abbrev Reg.Q_CTRL : Nat := 0
abbrev Reg.Q_RING : Nat := 8
abbrev Reg.Q_CPL_BASE : Nat := 0x10
abbrev Reg.Q_TAIL : Nat := 0x18
abbrev Reg.Q_CPL_READ : Nat := 0x20
abbrev Reg.Q_PROGRESS : Nat := 0x28
abbrev Reg.Q_STATUS : Nat := 0x30
abbrev Reg.LAND_PENDING_D : Nat := 0x101000
abbrev Reg.LAND_FIRED_COUNT : Nat := 0x101008
abbrev Reg.LP_CTRL : Nat := 0x101010
abbrev Reg.LP_HINT : Nat := 0x101018
abbrev Reg.LP_STATE : Nat := 0x101020
abbrev Reg.LP_RESIDENCY_S1 : Nat := 0x101028
abbrev Reg.LP_RESIDENCY_S2 : Nat := 0x101030
abbrev Reg.LP_RESIDENCY_S3 : Nat := 0x101038
abbrev Reg.LP_RESIDENCY_S4 : Nat := 0x101040
abbrev Reg.LP_WAKE_LATE_COUNT : Nat := 0x101048
abbrev Reg.Q_MSI0 : Nat := 0x103000
abbrev Reg.Q_MSI1 : Nat := 0x103008
abbrev Reg.Q_MSI2 : Nat := 0x103010
abbrev Reg.Q_MSI3 : Nat := 0x103018
abbrev Reg.Q_MSI4 : Nat := 0x103020
abbrev Reg.Q_MSI5 : Nat := 0x103028
abbrev Reg.Q_MSI6 : Nat := 0x103030
abbrev Reg.Q_MSI7 : Nat := 0x103038
abbrev Reg.Q_MSI8 : Nat := 0x103040
abbrev Reg.Q_MSI9 : Nat := 0x103048
abbrev Reg.Q_MSI10 : Nat := 0x103050
abbrev Reg.Q_MSI11 : Nat := 0x103058
abbrev Reg.Q_MSI12 : Nat := 0x103060
abbrev Reg.Q_MSI13 : Nat := 0x103068
abbrev Reg.Q_MSI14 : Nat := 0x103070
abbrev Reg.Q_MSI15 : Nat := 0x103078
abbrev Reg.PWR_OPPOINT : Nat := 0x102000
abbrev Reg.PWR_SENSE : Nat := 0x102008
abbrev Reg.PWR_DROOP_COUNT : Nat := 0x102010
abbrev Reg.PWR_CONVERGE_COUNT : Nat := 0x102018
abbrev Reg.PWR_AGE : Nat := 0x102020
abbrev Reg.VTABLE0 : Nat := 0x102028
abbrev Reg.VTABLE1 : Nat := 0x102030
abbrev Reg.VTABLE2 : Nat := 0x102038
abbrev Reg.VTABLE3 : Nat := 0x102040
abbrev Reg.VTABLE4 : Nat := 0x102048
abbrev Reg.VTABLE5 : Nat := 0x102050
abbrev Reg.HALL_ACCESS_LAST : Nat := 0x104000
abbrev Reg.HALL_ACCESS_COUNT : Nat := 0x104008
abbrev Reg.ENG_SAT_COUNT : Nat := 0
abbrev Reg.ENG_HEADROOM_COUNT : Nat := 8
abbrev Reg.ENG_POISON_COUNT : Nat := 0x10
abbrev Reg.ENG_UNIT_ROUND_COUNT : Nat := 0x18
abbrev Reg.ENG_EXACT_TEST_COUNT : Nat := 0x20
abbrev Reg.ERRC_OUTLIER_COUNT : Nat := 0x200800
abbrev Reg.ERRC_PROMOTE_COUNT : Nat := 0x200808
abbrev Reg.ERRC_RMTILE_COUNT : Nat := 0x200810
abbrev Reg.ERRC_POOL_FULL_COUNT : Nat := 0x200818
abbrev Reg.ERRC_ROT_SAT_COUNT : Nat := 0x200820
abbrev Reg.ERRC_LINTEL_SAT_COUNT : Nat := 0x200828
abbrev Reg.TRAIN_STEP_STATUS : Nat := 0x201000
abbrev Reg.HEARTH_ELEM_COUNT0 : Nat := 0x201010
abbrev Reg.HEARTH_ELEM_COUNT1 : Nat := 0x201018
abbrev Reg.HEARTH_NONFINITE_COUNT : Nat := 0x201020
abbrev Reg.LG_KEY : Nat := 0x201040
abbrev Reg.LG_DRAW_COUNT : Nat := 0x201048
abbrev Reg.CG_DRAW_COUNT : Nat := 0x201050
abbrev Reg.DET_BREAK : Nat := 0x201080
abbrev Reg.ERRC_LAYER_RISE_COUNT : Nat := 0x200830
abbrev Reg.ERRC_STORM_COUNT : Nat := 0x200838
abbrev Reg.TRAIN_SKIP_REQUEST : Nat := 0x201008
abbrev Reg.LAND_CLIPPED_COUNT : Nat := 0x101050
abbrev Reg.STASH_LARDER_SHARE : Nat := 0x200000
abbrev Reg.STASH_SPILL_COUNT : Nat := 0x200008
abbrev Reg.STASH_DROP_COUNT : Nat := 0x200010
abbrev Reg.STASH_EXHAUSTED_COUNT : Nat := 0x200018
abbrev Reg.STASH_MOVE_SKIP_COUNT : Nat := 0x200020
abbrev Reg.PORT_CTRL : Nat := 0
abbrev Reg.PORT_STATUS : Nat := 8
abbrev Reg.PORT_RETRY_COUNT : Nat := 0x10
abbrev Reg.PORT_FEC_CORR_COUNT : Nat := 0x18
abbrev Reg.PORT_FEC_UNCORR_COUNT : Nat := 0x20
abbrev Reg.PORT_RETRAIN_COUNT : Nat := 0x28
abbrev Reg.PORT_LANE_RETIRE_COUNT : Nat := 0x30
abbrev Reg.FRAME_TX_RING : Nat := 0x38
abbrev Reg.FRAME_TX_TAIL : Nat := 0x40
abbrev Reg.FRAME_TX_HEAD : Nat := 0x48
abbrev Reg.FRAME_RX_RING : Nat := 0x50
abbrev Reg.FRAME_RX_TAIL : Nat := 0x58
abbrev Reg.FRAME_RX_HEAD : Nat := 0x60
abbrev Reg.FRAME_DROP_COUNT : Nat := 0x68
abbrev Reg.FRAME_CTRL_DROP_COUNT : Nat := 0x70
abbrev Reg.DOM_INFO : Nat := 0xF00
abbrev Reg.DOM_SVN : Nat := 0xF08
abbrev Reg.DOM_DIGEST0 : Nat := 0xF40
abbrev Reg.DOM_DIGEST1 : Nat := 0xF48
abbrev Reg.DOM_DIGEST2 : Nat := 0xF50
abbrev Reg.DOM_DIGEST3 : Nat := 0xF58
abbrev Reg.DOM_DIGEST4 : Nat := 0xF60
abbrev Reg.DOM_DIGEST5 : Nat := 0xF68
abbrev Reg.DOM_DIGEST6 : Nat := 0xF70
abbrev Reg.DOM_DIGEST7 : Nat := 0xF78
abbrev Reg.LB_CLAIM : Nat := 0x1000
abbrev Reg.LB_RING : Nat := 0x1008
abbrev Reg.LB_ACK : Nat := 0x1010
abbrev Reg.LB_RELEASE : Nat := 0x1018
abbrev Reg.LB_DOORBELL : Nat := 0x1020
abbrev Reg.LB_MASK : Nat := 0x1028
abbrev Reg.LB_STATE : Nat := 0x1030
abbrev Reg.LB_ACKED : Nat := 0x1038
abbrev Reg.LB_STATUS : Nat := 0x1040
abbrev Reg.LB_RX_MSI : Nat := 0x1048
abbrev Reg.LB_ACK_MSI : Nat := 0x1050
abbrev Reg.LB_FULL_MSI : Nat := 0x1058
abbrev Reg.LB_GRANT0 : Nat := 0x1100

/-- The five domain types, in the TYPE codes of R441. -/
inductive DomType where
  | porch | hall | cd | msd | iod
deriving DecidableEq, Repr

/-- The type of a domain ID (R29). -/
def domType (dom : Nat) : Option DomType :=
  if dom = 0 then some .hall else if dom = 1 then some .porch
  else if 0x10 ≤ dom ∧ dom ≤ 0x15 then some .cd
  else if 0x20 ≤ dom ∧ dom ≤ 0x27 then some .msd
  else if 0x30 ≤ dom ∧ dom ≤ 0x37 then some .iod
  else none

/-- The TYPE code (R416, R441). -/
def domCode : DomType → Nat
  | .porch => 0 | .hall => 1 | .cd => 2 | .msd => 3 | .iod => 4

/-- DOMAIN_PRESENT.FITTED (R30). -/
def fittedMask (variant : Nat) : Nat :=
  if variant = 0 then 0x003F003F003F0003 else if variant = 1 then 0x003300FF003F0003 else 0x00FF0033003F0003

/-- The die with this domain ID is fitted on the ordering item (R29, R30). -/
def fitted (variant dom : Nat) : Bool := decide (dom < 64) && bitAt (fittedMask variant) dom

/-- HBM3 stacks fitted (R30). -/
def hbmStacks (variant : Nat) : Nat := if variant = 0 then 12 else if variant = 1 then 16 else 8

/-- HBM_WINDOW.SIZE (R30, R33). -/
def hbmSize (variant : Nat) : Nat := hbmStacks variant * 0x860000000

/-- The fitted domains in ascending ID. -/
def domainIds (variant : Nat) : List Nat := (List.range 0x38).filter (fitted variant)

/-- The fitted domains of one type. -/
def domsOf (variant : Nat) (t : DomType) : List Nat := (domainIds variant).filter fun d => domType d = some t

/-- The site of a domain (R25): the same on every ordering item that fits it. -/
def siteOf (dom : Nat) : Nat :=
  if dom = 0 then 7 else if dom = 1 then 12
  else if 0x10 ≤ dom ∧ dom ≤ 0x15 then [2, 6, 8, 11, 13, 17].getD (dom - 0x10) 0
  else if 0x20 ≤ dom ∧ dom ≤ 0x27 then [1, 3, 10, 14, 16, 18, 5, 9].getD (dom - 0x20) 0
  else if dom = 0x32 then 5 else if dom = 0x33 then 9
  else if 0x30 ≤ dom ∧ dom ≤ 0x37 then [0, 4, 0, 0, 15, 19, 10, 14].getD (dom - 0x30) 0
  else 0

/-- The domain that stands on a site. -/
def domAtSite (variant site : Nat) : Option Nat := (domainIds variant).find? fun d => siteOf d = site

/-- Sites one edge apart (R38): neighbours in a row or a column of the 4 by 5 grid. -/
def sitesJoined (a b : Nat) : Bool :=
  (decide (a / 5 = b / 5) && (decide (a + 1 = b) || decide (b + 1 = a))) || decide (a + 5 = b) || decide (b + 5 = a)

/-- The neighbours of a domain. -/
def neighbours (variant dom : Nat) : List Nat :=
  (domainIds variant).filter fun d => sitesJoined (siteOf d) (siteOf dom)

/-- The index k of CDk, MSDk or IODk; 0 for the Hall and the Porch (R441). -/
def domIndex (dom : Nat) : Nat := if dom < 2 then 0 else dom % 16

/-- The common definition of a register that reads as zero and ignores writes (R442). -/
def absentReg (off : Nat) : RegDef := ⟨off, 0, 0, 0, 0, 0⟩

def regFind (l : List RegDef) (off : Nat) : Option RegDef := l.find? fun r => r.off = off

def hasWalk (t : DomType) : Bool := decide (t ≠ .hall)
def isDie (t : DomType) : Bool := decide (t = .cd) || decide (t = .msd) || decide (t = .iod)

/-- The register at an offset of the control block of a domain; none: reserved (R435, R442). -/
def regDef (dom off : Nat) : Option RegDef :=
  match domType dom with
  | none => none
  | some t =>
    if off < 0xF00 then (if t = .porch then regFind porchRegs off else none)
    else if off < 0x1000 then regFind identRegs off
    else if off < 0x100000 then (if t = .porch then regFind porchRegs off else none)
    else if off < 0x100400 then
      (if isDie t then (regFind queueRegs (off % 0x40)).map fun r => { r with off := off } else none)
    else if off < 0x101000 then (if hasWalk t then regFind walkRegs off else none)
    else if off < 0x102000 then
      (if isDie t then
        (match regFind dieRegs off with
         | some r => some (if off = Reg.LP_CTRL ∧ t = .iod then { r with reset := 2 } else if off = Reg.LP_CTRL then { r with reset := 4 } else r)
         | none => if t = .msd then regFind msdRegs off else none)
       else none)
    else if off < 0x103000 then
      (if t = .porch then none else
        (regFind powerRegs off).map fun r =>
          if off = Reg.PWR_SENSE ∧ t = .cd then { r with reset := 16 <<< 32 } else r)
    else if off < 0x104000 then (if isDie t then regFind dieRegs off else none)
    else if off < 0x200000 then (if t = .hall then regFind hallRegs off else none)
    else if off < 0x200400 ∧ t = .cd then (regFind engineRegs (off % 0x40)).map fun r => { r with off := off }
    else if off < 0x300000 then
      (if t = .cd then
        (match regFind cdRegs off with
         | some r => some r
         | none => (regFind cd0Regs off).map fun r => if dom = 0x10 then r else absentReg off)
       else if t = .msd then (regFind msd0Regs off).map fun r => if dom = 0x20 then r else absentReg off
       else none)
    else if off < 0x300200 ∧ t = .iod then (regFind portRegs (off % 0x100)).map fun r => { r with off := off }
    else none

/-- The key of a register in State.regs. -/
def regKey (dom off : Nat) : Nat := dom * 0x10000000 + off

/-- What an unlisted register holds: its reset value. The registers whose reset is "per item" or "per die" follow the ordering
item and the domain (R30, R441); those "from MRAM" or "from the loaded image" are written at power-on (R420). -/
def regDefault (variant key : Nat) : Word :=
  let dom := key / 0x10000000
  let off := key % 0x10000000
  match regDef dom off with
  | none => 0
  | some r =>
    if dom = 1 ∧ off = Reg.MODULE_IDENT then
      BitVec.ofNat 64 (variant + 1 <<< 8 + hbmStacks variant <<< 16 + 6 <<< 24)
    else if dom = 1 ∧ off = Reg.DOMAIN_PRESENT then BitVec.ofNat 64 (fittedMask variant)
    else if dom = 1 ∧ off = Reg.HBM_WINDOW then BitVec.ofNat 64 (hbmSize variant)
    else if off = Reg.DOM_INFO then
      BitVec.ofNat 64 (dom + (match domType dom with | some t => domCode t | none => 0) <<< 8
        + domIndex dom <<< 16 + siteOf dom <<< 24)
    else if off = Reg.LG_KEY then (if fitted variant dom then Config.lgKey dom else 0)
    else BitVec.ofNat 64 r.reset

/-- The offsets of every register of a domain's block, ascending (R444). -/
def regOffsets (dom : Nat) : List Nat :=
  let ident := identRegs.map (·.off)
  let queues := (List.range 16).flatMap fun q => queueRegs.map fun r => 0x100000 + 0x40 * q + r.off
  let walk := walkRegs.map (·.off)
  let die := (dieRegs.map (·.off)).filter (· < 0x102000)
  let msi := (dieRegs.map (·.off)).filter (0x103000 ≤ ·)
  let power := powerRegs.map (·.off)
  match domType dom with
  | none => []
  | some .porch =>
    ((porchRegs.map (·.off)).filter (· < 0xF00)) ++ ident ++ ((porchRegs.map (·.off)).filter (0x1000 ≤ ·)) ++ walk
  | some .hall => ident ++ power ++ hallRegs.map (·.off)
  | some .cd =>
    ident ++ queues ++ walk ++ die ++ power ++ msi
      ++ ((List.range 16).flatMap fun e => engineRegs.map fun r => 0x200000 + 0x40 * e + r.off)
      ++ ((cdRegs.map (·.off)).filter (· < 0x200830)) ++ ((cd0Regs.map (·.off)).filter (· < 0x201000))
      ++ [Reg.TRAIN_STEP_STATUS, Reg.TRAIN_SKIP_REQUEST] ++ ((cdRegs.map (·.off)).filter (0x201010 ≤ ·))
  | some .msd => ident ++ queues ++ walk ++ die ++ msdRegs.map (·.off) ++ power ++ msi ++ msd0Regs.map (·.off)
  | some .iod =>
    ident ++ queues ++ walk ++ die ++ power ++ msi
      ++ ((List.range 2).flatMap fun p => portRegs.map fun r => 0x300000 + 0x100 * p + r.off)

end Sys2Proof
end

