-- ==== Sys2Proof/Machine/State.lean ====
section
/-! DEFINITION. The state of one Kolir K20 module, as plain data: everything the spec names (INVENTORY.md, State), the queue of
commands that wait, and State.reset. The register bits themselves live in State.regs, one sparse table over all control
blocks; every other structure here holds what no register mirrors. -/
namespace Sys2Proof.Machine

/-- The module's record of what it has put on its pins and into other agents, newest last. -/
inductive Out where
  /-- A message-signalled interrupt: one 4-byte write of an identity to an interrupt file (R395). -/
  | msi (addr eiid : Nat)
  /-- A fabric packet handed to the ports (R311). -/
  | packet (tc : Nat) (bytes : List Byte)
  /-- A FABRIC_OUT message handed to TC2 (R408), beside its packet, whose payload layout the spec leaves open: destination, the EPOCH of its
  roster entry, SEQ, payload. -/
  | letter (dst epoch seq : Nat) (payload : List Byte)
  /-- A FABRIC_IN acknowledgement returned to its source in TC2 (R408): destination, SEQ, code. -/
  | letterAck (dst seq code : Nat)
  /-- The answer STALE_EPOCH to a request of an older epoch (R312): destination and the request's PSEQ. -/
  | staleAnswer (dst pseq : Nat)
  /-- A flit on a lane of a port (R302, R303). -/
  | flit (p : PortRef) (lane : Nat) (bytes : List Byte)
  /-- An IEEE 802.3 frame of a fabric port (R328). -/
  | frame (p : PortRef) (bytes : List Byte)
  /-- An Ethernet frame on a management lane, with its header and FCS (R423, R425, R456). -/
  | mgmt (lane : Nat) (bytes : List Byte)
  /-- An I3C in-band interrupt with its mandatory byte (R457). -/
  | ibi (b : Byte)
  /-- The bytes of an I3C private read (R457). -/
  | i3c (bytes : List Byte)
  /-- A value shifted out of the TAP (R458). -/
  | jtag (bits : Nat)
  /-- A letterbox signal given straight to domain firmware (R402): domain, box. -/
  | firmware (dom box : Nat)
  /-- Hart 0 of the Hall starts its boot payload in supervisor mode (R422): pc, and what a0 and a1 hold, the hart ID and the address of the
  devicetree. -/
  | hallStart (entry a0 a1 : Nat)
deriving DecidableEq, Repr

/-- Who started a program: a queue command, a landing, or nobody. -/
inductive Owner where
  | none
  | command (q seq : Nat)
  | landing (n : Nat)
deriving DecidableEq, Repr

/-- What an operation in flight still needs beyond its own work. -/
inductive OpNeed where
  /-- Nothing: the next OPERATION_COMPLETE completes it. -/
  | work
  /-- The step boundary's commit (R282). -/
  | close
  /-- Its grant in force (R275). -/
  | grant (n : Nat)
  /-- The firing of the landing that requests its grant (R275, R289). -/
  | landing (n : Nat)
  /-- The copy of a stash move, or the entry to fill before the copy starts (R183). -/
  | move (header entry : Nat)
  /-- Its collective (R319). -/
  | coll (key : Nat)
  /-- A HUPD under the update descriptor read at issue, of the step then in force (R149), which waits for the skip decision of that
  step (R169); the decision, once the step is over. -/
  | update (desc : List Byte) (step : Nat) (skip : Option Bool)
  /-- The OPEN of the stash with this header, which opens when the operation completes (R176). -/
  | opening (header : Nat)
deriving DecidableEq, Repr

/-- An operation in flight (R245, R246). -/
structure Op where
  id      : Nat
  reads   : List (Nat × Nat)
  writes  : List (Nat × Nat)
  banks   : List Nat
  entries : List (Nat × Nat)
  rdEntries : List (Nat × Nat)
  stashes : List Nat
  need    : OpNeed
  draw    : Nat
  status  : Nat
  flags   : Nat
  logged  : Bool
deriving DecidableEq, Repr

/-- One program unit (R217, R237, R243, R245). -/
structure ProgUnit where
  ref      : UnitRef
  owner    : Owner
  running  : Bool
  ended    : Bool
  stopped  : Bool
  paused   : Bool
  pc       : Nat
  store    : List Word
  g        : List Word
  t        : List Desc
  k        : List (BitVec 32)
  c        : List Word
  p        : BitVec 8
  st       : List Pos
  waiting  : Option Instr
  inFlight : List Op
  nextOp   : Nat
  status   : Nat
  statusOp : Nat
  flags    : Nat
deriving DecidableEq, Repr

/-- The progress of an accepted command. -/
inductive CmdStage where
  | accepted | running | finished
deriving DecidableEq, Repr

/-- An accepted command whose completion record is not written (R223, R224). -/
structure Cmd where
  seq    : Nat
  bytes  : List Byte
  stage  : CmdStage
  status : Nat
  flags  : Nat
  nj     : Nat
  /-- The RUN that caused a job restart: it keeps its own status (R227). -/
  kept   : Bool := false
deriving DecidableEq, Repr

/-- A queue beyond its registers: its ID, the last accepted TAIL, the incomplete commands in order (R224), and whether a
completion that was not DONE has been written since the last RESUME (R221, FAIL_SEQ). -/
structure Queue where
  id     : Nat
  tail   : Nat
  cmds   : List Cmd
  failed : Bool
deriving DecidableEq, Repr

/-- One Cellar entry (R91). -/
structure CellarEntry where
  a        : BitVec 128
  b        : BitVec 128
  poison   : Bool
  sat      : Bool
  headroom : Bool
deriving DecidableEq, Repr

/-- One output tile of a bank: its product scale as an FP64 pattern (0: empty) and TB_COUNT (R92). -/
structure CellarTile where
  p  : Nat
  tb : Nat
deriving DecidableEq, Repr

/-- What a bank holds (R144, R256). -/
inductive BankKind where
  | empty | plain | rmBf16 | rmFp16
deriving DecidableEq, Repr

/-- A lane generator: its 128-bit counter and which of the five draws comes next (R212). -/
structure Lane where
  ctr  : BitVec 128
  draw : Nat
deriving DecidableEq, Repr

/-- The pages of a placed stash entry, as the addresses of their first bytes (R173), and the byte ranges of the entry written so far,
as (first, end), ascending and apart: their total is the WRITTEN of R175. -/
structure EntryPages where
  entry : Nat
  attic : Bool
  pages : List Nat
  written : List (Nat × Nat)
deriving DecidableEq, Repr

/-- An OFFLOAD or PREFETCH whose copy has not been switched (R183, R184). -/
structure StashMove where
  entry   : Nat
  toAttic : Bool
  pages   : List Nat
  copying : Bool
  mover   : UnitRef
  op      : Nat
deriving DecidableEq, Repr

/-- An open stash (R176). -/
structure Stash where
  header : Nat
  budget : Nat
  placed : List EntryPages
  moves  : List StashMove
deriving DecidableEq, Repr

/-- The stash machinery: open stashes, the round-robin position (R173), the share in force (R191). -/
structure StashState where
  stashes : List Stash
  cursor : Nat
  share  : Nat
deriving DecidableEq, Repr

/-- A landing held in a table (R288 to R293). -/
structure Landing where
  n      : Nat
  table  : Nat
  target : Pos
  kind   : Nat
  record : Option Nat
  params : List Word
  holder : UnitRef
  wantOp : Option Nat
  fired  : Bool
deriving DecidableEq, Repr

/-- Where a power request stands (R370, R371). -/
inductive GrantStage where
  | queued | admitted | inForce
deriving DecidableEq, Repr

/-- Who asked for power: a sequencer by itself (R369), PGRANT (R275), a KIND 0x04 landing of LANDING (R289). -/
inductive GrantSource where
  | auto | pgrant | landing
deriving DecidableEq, Repr

/-- A power request or grant (R370, R371); admittedAt is PowerState.clock at its admission. -/
structure Grant where
  n       : Nat
  holder  : UnitRef
  watts   : Nat
  tick    : Nat
  source  : GrantSource
  stage   : GrantStage
  landing : Option Nat
  admittedAt : Nat
deriving DecidableEq, Repr

/-- The power controller beyond its registers (R365 to R386): clock counts the ticks that have passed, whatever TICK shows; lowered holds
the points by which each CD is lowered (R367); lastNotice is a clock value. -/
structure PowerState where
  clock     : Nat
  samples   : List Nat
  grants    : List Grant
  nextGrant : Nat
  lowWindow : Nat
  highWindow : Nat
  lowered   : List (Nat × Nat)
  thermal   : List (Nat × Nat)
  converge  : List (Nat × Nat)
  hotSides  : List (Nat × Nat)
  lift      : List (Nat × Nat)
  droop     : List Nat
  ramps     : List (Nat × Nat)
  rampHeld  : List Nat
  rampLandings : List (Nat × Nat)
  temps     : List (Nat × Nat)
  lastArr   : Nat
  lastNotice : Option Nat
  notified  : Bool
  idleNj    : Nat
  overNj    : Nat
  totalNj   : Nat
  jobNj     : Nat
deriving DecidableEq, Repr

/-- The phase of a domain's low-power state (R295). -/
inductive LpPhase where
  | stay | entering | waking
deriving DecidableEq, Repr

/-- A domain's low-power machine (R295 to R298): the state, its phase, the planned wake tick, a wake that waits for the entry,
and the tick at which the state was entered. -/
structure LowPower where
  dom   : Nat
  state : Nat
  phase : LpPhase
  wake  : Option Nat
  event : Bool
  since : Nat
deriving DecidableEq, Repr

/-- A state walk in progress (R231 to R233). -/
structure Walk where
  dom     : Nat
  quiesce : Bool
  start   : Pos
deriving DecidableEq, Repr

/-- A loaded image's identity (R416, R441). -/
structure ImageId where
  version : Nat
  svn     : Nat
  digest  : List Byte
deriving DecidableEq, Repr

/-- A domain beyond its registers: LOG_SEQ of the record of its reset, landing records it must still write
(R293), commands aborted by its reset (R227), engines that failed self-test (R28), spared pseudo-channels by stack (R460), open
refresh windows as landing and end tick (R289, R292), the image that was its source when its reset began (R427). -/
structure Domain where
  id       : Nat
  record   : Nat
  records  : List Nat
  aborted  : List (Nat × Nat)
  failed   : List Nat
  spared   : List (Nat × Nat)
  refresh  : List (Nat × Nat)
  image    : Option ImageId
deriving DecidableEq, Repr

/-- A flit that waits to leave (R303, R304): its type, class, SOP and EOP, the packet it belongs to as (DST, PSEQ), its payload. -/
structure QFlit where
  type    : Nat
  tc      : Nat
  sop     : Bool
  eop     : Bool
  id      : Nat × Nat
  payload : List Byte
deriving DecidableEq, Repr

/-- A Buergal port beyond its registers (R303 to R309): the lane that the next flit takes at the earliest, the replay buffer by SEQ, packets
being received (class, flits so far, bytes), flits that wait for credits or for room in the replay buffer, packets not yet acknowledged
(flits of them left to acknowledge, class, bytes). -/
structure Port where
  ref       : PortRef
  lane      : Nat
  nextTx    : Nat
  nextRx    : Nat
  replay    : List (Nat × List Byte)
  resendSeq : Nat
  resends   : Nat
  partials  : List (Nat × Nat × List Byte)
  waiting   : List QFlit
  credits   : List Nat
  delays    : List Int
  retrains  : Nat
  faults    : List Nat
  beats     : Bool
  addr      : Option Nat
  unacked   : List (Nat × Nat × List Byte)
deriving DecidableEq, Repr

/-- A present roster entry (R310). -/
structure Partner where
  addr     : Nat
  ports    : Nat
  job      : Nat
  rank     : Nat
  epoch    : Nat
  variant  : Nat
  contract : Nat
  serial   : Word
  changed  : Nat
deriving DecidableEq, Repr

/-- A restart vote received by a coordinator (R325). -/
structure Vote where
  rank     : Nat
  epoch    : Nat
  keystone : Bool
deriving DecidableEq, Repr

/-- A contribution to the restore-step agreement (R346): rank, last committed step, ANCHOR_STEP, anchor need. -/
structure Agreement where
  rank   : Nat
  step   : Nat
  anchor : Nat
  need   : Bool
deriving DecidableEq, Repr

/-- A collective packet that no COLL here has begun (R319): the epoch and the source of its route header, its payload. -/
structure EarlyColl where
  epoch   : Nat
  src     : Nat
  payload : List Byte
deriving DecidableEq, Repr

/-- The fabric beyond its registers (R310 to R327): news holds announcements beyond a gap, unrouted the packets that no ACTIVE port takes;
out says that the module has taken itself out of the job that FAB_JOB names (R343). -/
structure Fabric where
  roster    : List Partner
  announced : Nat
  gap       : Bool
  resend    : List Partner
  news      : List (List Byte)
  unrouted  : List (Nat × List Byte)
  out       : Bool
  members   : List Nat
  pseq      : List (Nat × Nat)
  seen      : List (Nat × Nat)
  received  : List (List Byte)
  voted     : Option Nat
  votes     : List Vote
  settled   : Bool
  cause     : Nat
  causeStatus : Nat
  agreeing  : Bool
  agrees    : List Agreement
  restoreTo : Option Nat
  held      : List (Nat × Nat × List Byte)
  coordinator : Option Nat
  earlyColl : List EarlyColl
  due       : List (PortRef × Nat × Nat × Nat)
deriving DecidableEq, Repr

/-- A boundary packet's items (R332): final, part, position, first index, skip, items as (value, sum). -/
structure BoundaryPart where
  final : Bool
  part  : Nat
  pos   : Nat
  first : Nat
  skip  : Bool
  items : List (Nat × Nat)
deriving DecidableEq, Repr

/-- A step boundary in progress (R281, R323). -/
structure Boundary where
  step    : Nat
  sent    : Bool
  sig     : Nat
  ledgers : List Nat
  layers  : List Nat
  parts   : List BoundaryPart
deriving DecidableEq, Repr

/-- A boundary packet that arrived before this module closed the step, or before it took the packet's epoch. -/
structure EarlyPart where
  epoch   : Nat
  step    : Nat
  ledgers : Nat
  layers  : Nat
  sig     : Nat
  body    : BoundaryPart
deriving DecidableEq, Repr

/-- The training flags of the step beyond the registers: a skip request made, the reduction header has left, a SKIPCARRY COLL
with units was issued (R167, R168, R171, R318); and the last step committed (R346). -/
structure TrainState where
  request   : Bool
  left      : Bool
  carried   : Bool
  committed : Nat
deriving DecidableEq, Repr

/-- A unit of a collective as received: sender's position, final, the index of the unit (and block) and its bytes. -/
structure CollUnit where
  pos   : Nat
  final : Bool
  index : Nat
  bytes : List Byte
deriving DecidableEq, Repr

/-- A collective in progress on this module (R315 to R322): the packets of its contribution as (DST, PSEQ), whether one of them had no
partner to go to, the positions whose header has come, two positions that disagree, this member's skip bit once its first packet has left,
and the OR of the others' bits. -/
structure Coll where
  key      : Nat
  collId   : Nat
  step     : Nat
  kind     : Nat
  etype    : Nat
  cflags   : Nat
  group    : List Nat
  src      : Nat
  dst      : Nat
  elements : Nat
  own      : List Byte
  units    : List CollUnit
  issuer   : UnitRef
  op       : Nat
  landing  : Option Nat
  sent     : List (Nat × Nat)
  stuck    : Bool
  headers  : List Nat
  bad      : Option (Nat × Nat)
  mySkip   : Option Bool
  skip     : Bool
deriving DecidableEq, Repr

/-- An Annex item record in force (R348): its owner's rank, and the record's fields. -/
structure AnnexItem where
  owner   : Nat
  itemId  : Nat
  ctrl    : Nat
  upd     : Nat
  src     : Nat
  offset  : Nat
  mib     : Nat
deriving DecidableEq, Repr

/-- What a member has sent in the enable exchange (R347): its rank, key check value, item records, and whether all came. -/
structure AnnexOffer where
  rank  : Nat
  kcv   : Nat
  items : List AnnexItem
  done  : Bool
deriving DecidableEq, Repr

/-- The automatic method of an item (R352): parity chosen, steps in a row below and at or above 1/20. -/
structure AnnexMethod where
  itemId : Nat
  parity : Bool
  below  : Nat
  above  : Nat
deriving DecidableEq, Repr

/-- A stored piece of a generation or of an anchor: its PFLAGS (with 8 in place of them for imported data, R359), its owner's rank, its
place and its bytes. -/
structure AnnexPiece where
  flags  : Nat
  owner  : Nat
  itemId : Nat
  step   : Nat
  offset : Nat
  bytes  : List Byte
deriving DecidableEq, Repr

/-- A generation, or an anchor (R349, R354): the members' ranks of its epoch, ascending, the item records it was filled under, and the
items that it holds in parity. -/
structure AnnexGen where
  anchor : Bool
  step   : Nat
  ranks  : List Nat
  items  : List AnnexItem
  parity : List Nat
deriving DecidableEq, Repr

/-- Bytes of a shard sent in the tails of all-gather packets of this step (R349): the holder's rank, the item, the bytes so far. -/
structure Ridden where
  holder : Nat
  itemId : Nat
  bytes  : List Byte
deriving DecidableEq, Repr

/-- A piece sent and not yet acknowledged: holder's address and the piece header (R349). -/
structure AnnexOwed where
  holder : Nat
  header : List Byte
deriving DecidableEq, Repr

/-- One member's sums for an item (R352). -/
structure AnnexSum where
  rank    : Nat
  itemId  : Nat
  step    : Nat
  changed : Nat
  total   : Nat
deriving DecidableEq, Repr

/-- The Annex beyond its registers (R347 to R354); parity: the items of METHOD 0 that the generation being filled holds in parity; updates:
the update records written in the step, by TENSOR_ID and address. -/
structure Annex where
  active  : Bool
  asking  : Bool
  region  : Nat
  key     : List Word
  items   : List AnnexItem
  offers  : List AnnexOffer
  methods : List AnnexMethod
  parity  : List Nat
  gens    : List AnnexGen
  pieces  : List AnnexPiece
  ridden  : List Ridden
  owed    : List AnnexOwed
  sums    : List AnnexSum
  anchorLanding : Option Nat
  anchorAt : Nat
  anchors : List (Nat × Nat × Bool)
  updates : List (Nat × Nat)
deriving DecidableEq, Repr

/-- A restore in progress (R355 to R357): the byte ranges fetched so far and the sources tried, DETAIL of the last copy refused on its
digest, and the module's own item. -/
structure Restore where
  waiting : Bool
  mode    : Nat
  step    : Nat
  index   : Nat
  offset  : Nat
  source  : Nat
  anchor  : Bool
  need    : Bool
  refused  : Option (Nat × Nat × Nat)
  written  : Bool
  fetched : List AnnexPiece
  done    : List (Nat × List Byte)
  own     : List Byte
deriving DecidableEq, Repr

/-- One copy of the factory record (R413): the module serial, voltage tables by domain, spare assignments as CD and engine mapped out, the MAC
addresses of the management lanes. The variant code in it is State.variant. -/
structure Factory where
  serial  : Word
  vtables : List (Nat × List Word)
  spares  : List (Nat × Nat)
  macs    : List (List Byte)
deriving DecidableEq, Repr

/-- Porch MRAM (R413): what the Porch keeps there (the die of the last thermal trip, the cause of the last input shutdown, the domains
of records owed to the next power-on among it), and what Falnu writes: the two copies of the factory record, PUF helper data, the three
certificates, the image set. -/
structure Mram where
  minSvn     : Nat
  bootCount  : Nat
  ageing     : List (Nat × Nat)
  lastTrip   : Option Nat
  shutdown   : Option Nat
  unlogged   : List Nat
  copyA      : Factory
  copyB      : Factory
  puf        : List Byte
  certRoot   : List Byte
  certCa     : List Byte
  certDevice : List Byte
  set        : List Byte
deriving DecidableEq, Repr

/-- The boot, update and recovery machinery (R420 to R427): the copies of the verified images in reserved HBM by TYPE, those that an UPDATE
has staged, records held for step 6 (status, domain), the
payload digest, a running UPDATE with its slot and the domains still to reset, the offset that recovery asks for with TOTAL and lane,
a retry that is due, a MODULE_RESET that is due, a held write of FAB_JOB, and whether the Porch firmware runs. -/
structure Boot where
  copies    : List (List Byte)
  staged    : List (List Byte)
  records   : List (Nat × Nat)
  payload   : List Byte
  updating  : Bool
  updSlot   : Nat
  updQueue  : List Nat
  recovery  : Option Nat
  recTotal  : Nat
  recLane   : Nat
  retry     : Bool
  resetIn   : Bool
  heldJob   : Option Nat
  firmware  : Bool
deriving DecidableEq, Repr

/-- The pins (R452 to R454) and the management interfaces (R457, R458). -/
structure Pins where
  pwrGood : Bool
  resetN  : Bool
  i3cAddr : Option (BitVec 7)
  jtagIr  : Nat
  scan    : BitVec 22
deriving DecidableEq, Repr

/-- A stop of the model. No meaning here stops with one (NOTES.md, Stops): the spec gives every command an effect or leaves a
value open, and an open value is a free value. -/
inductive Fault where
  /-- Never raised; named so that the type is not empty. Safe: nothing stops with it. -/
  | unreachable
deriving DecidableEq, Repr

/-- Why a command has no meaning. -/
inductive Refusal where
  /-- Raised by a dispatch arm that stands for a row of the table without a meaning. Safe: the model claims nothing of it. -/
  | notModelled (mnemonic : String)
deriving DecidableEq, Repr

/-- The module's state. -/
structure State where
  pending   : List Instr
  freeCtr   : Nat
  variant   : Nat
  mem       : List Host.Cell
  regs      : List (Nat × Word)
  boxRegs   : List (Nat × Word)
  boxMem    : List Host.Cell
  pos       : Pos
  stepTick  : Nat
  slew      : Int
  sinceSlew : Nat
  missed    : Nat
  boundary  : Option Boundary
  early     : List EarlyPart
  train     : TrainState
  units     : List ProgUnit
  queues    : List Queue
  entries   : List (Nat × CellarEntry)
  tiles     : List (Nat × CellarTile)
  bankKinds : List (Nat × BankKind)
  lanes     : List (Nat × Lane)
  hearth    : List (Nat × List Word)
  stash     : StashState
  landings  : List Landing
  nextLanding : Nat
  power     : PowerState
  lps       : List LowPower
  walks     : List Walk
  domains   : List Domain
  ports     : List Port
  fabric    : Fabric
  colls     : List Coll
  nextColl  : Nat
  annex     : Annex
  restore   : Restore
  faults    : List (List Byte)
  imsic     : List (Nat × Nat)
  mram      : Mram
  store     : List Host.Cell
  boot      : Boot
  pins      : Pins
  out       : List Out
deriving DecidableEq, Repr

/-- Power controller right after reset: nothing measured, nothing granted. -/
def PowerState.initial : PowerState :=
  { clock := 0, samples := [], grants := [], nextGrant := 0, lowWindow := 0, highWindow := 0, lowered := [], thermal := [],
    converge := [], hotSides := [], lift := [], droop := [], ramps := [], rampHeld := [], rampLandings := [], temps := [],
    lastArr := 0, lastNotice := none, notified := false, idleNj := 0, overNj := 0, totalNj := 0, jobNj := 0 }

/-- No job, an empty roster. -/
def Fabric.initial : Fabric :=
  { roster := [], announced := 0, gap := false, resend := [], news := [], unrouted := [], out := false, members := [], pseq := [], seen := [], received := [],
    voted := none, votes := [], settled := false, cause := 0, causeStatus := 0, agreeing := false, agrees := [],
    restoreTo := none, held := [], coordinator := none, earlyColl := [], due := [] }

/-- No Annex configured. -/
def Annex.initial : Annex :=
  { active := false, asking := false, region := 0, key := [], items := [], offers := [], methods := [], parity := [], gens := [],
    pieces := [], ridden := [], owed := [], sums := [], anchorLanding := none, anchorAt := 0, anchors := [], updates := [] }

/-- No restore running. -/
def Restore.initial : Restore :=
  { waiting := false, mode := 0, step := 0, index := 0, offset := 0, source := 0, anchor := false, need := false,
    refused := none, written := false, fetched := [], done := [], own := [] }

/-- A factory record without content (log entry 3). -/
def Factory.blank : Factory := { serial := 0, vtables := [], spares := [], macs := [] }

/-- Porch MRAM as this model's module leaves the factory (log entry 3). -/
def Mram.initial : Mram :=
  { minSvn := 0, bootCount := 0, ageing := [], lastTrip := none, shutdown := none, unlogged := [], copyA := Factory.blank, copyB := Factory.blank, puf := [],
    certRoot := [], certCa := [], certDevice := [], set := [] }

/-- Boot finished, firmware running (R420). -/
def Boot.initial : Boot :=
  { copies := [], staged := [], records := [], payload := List.replicate 64 0, updating := false, updSlot := 0, updQueue := [],
    recovery := none, recTotal := 0, recLane := 0, retry := false, resetIn := false, heldJob := none, firmware := true }

/-- The module right after power-on reset: BOOT_STATUS.STATE READY, every other register at its reset value (R420). The
ordering item is SK20-B (log entry 2). -/
def State.reset : State :=
  { pending := [], freeCtr := 0, variant := 0, mem := [], regs := [(regKey 1 Reg.BOOT_STATUS, 4)], boxRegs := [], boxMem := [],
    pos := 0, stepTick := 0, slew := 0, sinceSlew := 0, missed := 0, boundary := none, early := [],
    train := { request := false, left := false, carried := false, committed := 0 },
    units := [], queues := [], entries := [], tiles := [], bankKinds := [], lanes := [], hearth := [],
    stash := { stashes := [], cursor := 0, share := 0 }, landings := [], nextLanding := 0, power := PowerState.initial,
    lps := [], walks := [], domains := [], ports := [], fabric := Fabric.initial, colls := [], nextColl := 0,
    annex := Annex.initial, restore := Restore.initial, faults := [], imsic := [], mram := Mram.initial, store := [],
    boot := Boot.initial, pins := { pwrGood := true, resetN := true, i3cAddr := none, jtagIr := 1, scan := 0 }, out := [] }

end Sys2Proof.Machine
end

