-- ==== Sys2Proof/Machine/Ops.lean ====
section
/-! DEFINITION. The named operations over registers, memory, domains, units, interrupts and fault records that every meaning
uses. A raw register operation reads or writes the held bits; what an agent's access does is in Machine/Control.lean. -/
namespace Sys2Proof.Machine

/-! Statuses (R19). -/
abbrev stDone : Nat := 0x0000
abbrev stAbortedReset : Nat := 0x0001
abbrev stAbortedRestart : Nat := 0x0002
abbrev stLength : Nat := 0x0101
abbrev stReserved : Nat := 0x0102
abbrev stAlign : Nat := 0x0103
abbrev stStash : Nat := 0x0201
abbrev stHeadroom : Nat := 0x0202
abbrev stDigest : Nat := 0x0301
abbrev stCursor : Nat := 0x0303
abbrev stMinority : Nat := 0x0401
abbrev stStale : Nat := 0x0402
abbrev stGrant : Nat := 0x0501
abbrev stSignature : Nat := 0x0601
abbrev stLost : Nat := 0x0701

/-! Informational flags (R21), as the FLAGS bits of R225. -/
abbrev flNan : Nat := 1
abbrev flSat : Nat := 2
abbrev flTile : Nat := 4
abbrev flLayer : Nat := 8
abbrev flStorm : Nat := 16
abbrev flSkipped : Nat := 32

/-- FAB_STATE.STATE codes (R335). -/
abbrev fabNoJob : Nat := 0
abbrev fabForming : Nat := 1
abbrev fabRunning : Nat := 2
abbrev fabRestarting : Nat := 3
abbrev fabStopped : Nat := 4

/-! Registers. -/

/-- The bits a register holds. -/
def getReg (s : State) (dom off : Nat) : Word := tblGet (regDefault s.variant) s.regs (regKey dom off)

/-- Store bits in a register. -/
def setReg (s : State) (dom off : Nat) (w : Word) : State :=
  { s with regs := tblSet (regDefault s.variant) s.regs (regKey dom off) w }

/-- A field of a register. -/
def rf (s : State) (dom off hi lo : Nat) : Nat := fld (getReg s dom off).toNat hi lo

/-- Store a field of a register, the other bits kept. -/
def setRf (s : State) (dom off hi lo v : Nat) : State :=
  setReg s dom off (BitVec.ofNat 64 (setFld (getReg s dom off).toNat hi lo v))

/-- One bit of a register. -/
def rb (s : State) (dom off i : Nat) : Bool := rf s dom off i i = 1
def setRb (s : State) (dom off i : Nat) (b : Bool) : State := setRf s dom off i i (b2n b)

/-- A counter rises by n and stops at all ones (R110). -/
def bump (s : State) (dom off n : Nat) : State :=
  setReg s dom off (BitVec.ofNat 64 (satAdd 64 (getReg s dom off).toNat n))

/-- Porch registers. -/
abbrev porchDom : Nat := 1
def pf (s : State) (off hi lo : Nat) : Nat := rf s porchDom off hi lo
def setPf (s : State) (off hi lo v : Nat) : State := setRf s porchDom off hi lo v
def fabState (s : State) : Nat := pf s Reg.FAB_STATE 2 0

/-! Domains. -/

def inReset (s : State) (dom : Nat) : Bool := bitAt (getReg s porchDom Reg.DOM_IN_RESET).toNat dom
def isLost (s : State) (dom : Nat) : Bool := bitAt (getReg s porchDom Reg.DOM_HEALTH).toNat dom
/-- In reset or lost: the Corridor answers its requests with DOMAIN_LOST (R44, R343). -/
def isDown (s : State) (dom : Nat) : Bool := inReset s dom || isLost s dom
def isFitted (s : State) (dom : Nat) : Bool := fitted s.variant dom
/-- Fitted and not lost. -/
def present (s : State) (dom : Nat) : Bool := isFitted s dom && !isLost s dom
def fittedOf (s : State) (t : DomType) : List Nat := domsOf s.variant t
def presentOf (s : State) (t : DomType) : List Nat := (fittedOf s t).filter fun d => !isLost s d
/-- The fitted CDs, MSDs and IODs. -/
def dies (s : State) : List Nat := (domainIds s.variant).filter fun d => decide (0x10 ≤ d)

def blankDomain (dom : Nat) : Domain := ⟨dom, 0, [], [], [], [], [], none⟩
def getDomain (s : State) (dom : Nat) : Domain := (s.domains.find? fun d => d.id = dom).getD (blankDomain dom)

/-- Replace the element that satisfies p, or append. -/
def upsert {α : Type} (p : α → Bool) (x : α) : List α → List α
  | [] => [x]
  | y :: t => if p y then x :: t else y :: upsert p x t

def setDomain (s : State) (d : Domain) : State := { s with domains := upsert (fun e => e.id = d.id) d s.domains }

/-! Memory. -/

/-- A byte of HBM or SRAM; a byte that nothing has written reads as zero (log entry 1). -/
def memDefault (_ : Nat) : Byte := 0
def getByte (s : State) (a : Nat) : Byte := tblGet memDefault s.mem a
def readMem (s : State) (a n : Nat) : List Byte := (List.range n).map fun i => getByte s (a + i)
def readNat (s : State) (a n : Nat) : Nat := leNat (readMem s a n)
def writeMem (s : State) (a : Nat) (bs : List Byte) : State := { s with mem := tblSetRun memDefault s.mem a bs }
def writeNat (s : State) (a len v : Nat) : State := writeMem s a (leBytes len v)

/-- The canonical form of memory. -/
def memWf (m : List Host.Cell) : Bool := tblWf memDefault m

/-! The address space (R32 to R36). -/

abbrev sramBase : Nat := 0x10000000000
abbrev controlBase : Nat := 0x18000000000
abbrev controlEnd : Nat := 0x1C000000000
abbrev boxBase : Nat := 0x1C000000000
abbrev boxEnd : Nat := 0x1C100000000
abbrev pageSize : Nat := 0x10000

/-- The base of a domain's SRAM slot (R35). -/
def slotBase (dom : Nat) : Nat :=
  sramBase + (if dom < 0x20 then dom - 0x10 else 6 + (dom - 0x20)) * 0x100000000

/-- The whole SRAM of a domain. -/
def sramSize (dom : Nat) : Nat := match domType dom with
  | some .cd => 0x60000000
  | some .msd => 0x40000000
  | _ => 0

/-- Pages of the stash share in force on each MSD (R172, R191). -/
def sharePages (s : State) : Nat := min s.stash.share 16384

/-- The part of a domain's SRAM that programs address: the stash part of a Larder is as unmapped (R172). -/
def sramOpen (s : State) (dom : Nat) : Nat :=
  sramSize dom - (if domType dom = some .msd then sharePages s * pageSize else 0)

/-- The domain whose SRAM slot holds an address. -/
def sramDom (a : Nat) : Option Nat :=
  if a < sramBase ∨ sramBase + 0x1000000000 ≤ a then none else
    let slot := (a - sramBase) / 0x100000000
    if slot < 6 then some (0x10 + slot) else if slot < 14 then some (0x20 + (slot - 6)) else none

/-- Every byte of a range lies in mapped HBM or in the open part of one SRAM window; the empty range does. -/
def memMapped (s : State) (a len : Nat) : Bool :=
  decide (len = 0) || decide (a + len ≤ hbmSize s.variant) ||
    match sramDom a with
    | some d => isFitted s d && decide (a + len ≤ slotBase d + sramOpen s d)
    | none => false

def inHbm (s : State) (a len : Nat) : Bool := decide (a + len ≤ hbmSize s.variant)

/-- The stack and the MSD (domain ID) that hold an HBM address (R34). -/
def hbmStack (s : State) (a : Nat) : Nat := (a / 4096) % hbmStacks s.variant
def stackMsd (s : State) (stack : Nat) : Nat := (fittedOf s .msd).getD (stack / 2) 0x20

/-- A memory range needs a domain that is in reset or lost (R44, R343). -/
def needsDown (s : State) (a len : Nat) : Bool :=
  decide (0 < len) &&
    if inHbm s a len then
      let first := a / 4096
      let last := (a + len - 1) / 4096
      let chips := if hbmStacks s.variant ≤ last + 1 - first then List.range (hbmStacks s.variant)
        else (List.range (last + 1 - first)).map fun i => (first + i) % hbmStacks s.variant
      chips.any fun k => isDown s (stackMsd s k)
    else match sramDom a with
      | some d => isDown s d
      | none => false

/-- A control-block address: domain and offset (R14). -/
def controlAt (a : Nat) : Option (Nat × Nat) :=
  if controlBase ≤ a ∧ a < controlEnd then
    some ((a - controlBase) / 0x10000000, (a - controlBase) % 0x10000000)
  else none

/-- The letterbox that exists at an address: owner, box, offset in the box (R400). -/
def boxAt (s : State) (a : Nat) : Option (Nat × Nat × Nat) :=
  if boxBase ≤ a ∧ a < boxEnd then
    let o := (a - boxBase) / 0x400000
    let b := (a - boxBase) % 0x400000 / 0x2000
    let ok := isFitted s o && (if o = 0 then (b = 0x40 || b = 0x41 || (b ≠ 0 && isFitted s b)) else b = 0)
    if ok then some (o, b, (a - boxBase) % 0x2000) else none
  else none

/-- The single address is one that R36 covers. -/
def refusedAddr (s : State) (a : Nat) : Bool :=
  !memMapped s a 1 &&
    (match controlAt a with
     | some (d, _) => !isFitted s d
     | none => (boxAt s a).isNone)

/-! Free values (log entry 7). -/

/-- The next index for a value the spec leaves open. -/
def tick (s : State) : State := { s with freeCtr := s.freeCtr + 1 }

/-! Outputs and interrupts. -/

def emit (o : Out) (s : State) : State := { s with out := s.out ++ [o] }

/-- A write of an identity to a file makes it pending (R395); a Hall that is down keeps nothing. -/
def pend (hart file eiid : Nat) (s : State) : State :=
  if isDown s 0 ∨ (hart * 8 + file, eiid) ∈ s.imsic then s else { s with imsic := s.imsic ++ [(hart * 8 + file, eiid)] }

/-- Send the interrupt of a route (R395, R396, R397). -/
def sendMsi (route : Word) (s : State) : State :=
  let r := route.toNat
  let eiid := fld r 7 0
  let hart := fld r 21 16
  let file := fld r 26 24
  if !bitAt r 31 then s
  else if eiid = 0 ∨ 5 ≤ file then bump s porchDom Reg.HALL_MSI_DROP_COUNT 1
  else
    pend hart file eiid (emit (.msi (controlBase + 0x8000000 + hart * 0x8000 + file * 0x1000) eiid) s)

/-- Set FAB_STATE.STATE; every change sends HALL_MSI_FABRIC (R399). -/
def setFabState (v : Nat) (s : State) : State :=
  if fabState s = v then s
  else sendMsi (getReg s porchDom Reg.HALL_MSI_FABRIC) (setPf s Reg.FAB_STATE 2 0 v)

/-! Fault records (R338, R339). -/

/-- What a fault record says beside its number and position. -/
structure FaultInfo where
  status : Nat
  cls    : Nat
  dom    : Nat
  cmd    : Option (Nat × Nat) := none
  addr   : Option Nat := none
  detail : Option (Nat × Nat × Nat) := none
  unit   : Nat := 0
deriving DecidableEq, Repr

/-- The 64 bytes of a record (R338). -/
def faultBytes (seq : Nat) (p : Pos) (f : FaultInfo) : List Byte :=
  let q := f.cmd.getD (0, 0)
  let d := f.detail.getD (0, 0, 0)
  leBytes 4 seq ++ leBytes 2 f.status ++ leBytes 1 f.cls ++ leBytes 1 f.dom ++ leBytes 2 q.1
    ++ leBytes 1 (b2n f.cmd.isSome + 2 * b2n f.addr.isSome + 4 * b2n f.detail.isSome)
    ++ leBytes 1 (f.unit % 4) ++ leBytes 4 q.2 ++ posBytes p ++ [0]
    ++ leBytes 8 (f.addr.getD 0 % 2 ^ 44) ++ leBytes 8 d.1 ++ leBytes 8 d.2.1 ++ leBytes 8 d.2.2

/-- The fault ring takes records (R362); a misaligned BASE acts as its reset value 0 (R11). -/
def flogLog2 (s : State) : Nat := pf s Reg.FLOG_RING 52 48
def flogBase (s : State) : Nat := let b := pf s Reg.FLOG_RING 43 0; if b % 64 = 0 then b else 0
def flogOn (s : State) : Bool :=
  decide (pf s Reg.FLOG_RING 53 53 = 1) && decide (4 ≤ flogLog2 s) && decide (flogLog2 s ≤ 16)

/-- Counts that wrap modulo 2^32 (R221). -/
def sub32 (a b : Nat) : Nat := (a + 2 ^ 32 - b % 2 ^ 32) % 2 ^ 32

/-- Place a record in the fault ring, or count an overflow (R339). -/
def flogPlace (bytes : List Byte) (s : State) : State :=
  if !flogOn s then s else
    let w := pf s Reg.FLOG_WRITE 31 0
    let a := flogBase s + 64 * (w % 2 ^ flogLog2 s)
    if sub32 w (pf s Reg.FLOG_READ 31 0) < 2 ^ flogLog2 s ∧ memMapped s a 64 = true ∧ needsDown s a 64 = false then
      setPf (writeMem s a bytes) Reg.FLOG_WRITE 31 0 ((w + 1) % 2 ^ 32)
    else bump s porchDom Reg.FLOG_OVERFLOW_COUNT 1

/-- Bytes written where a domain that answers serves them: a domain in reset or lost takes none (R44). -/
def writeServed (a : Nat) (bs : List Byte) (s : State) : State :=
  if needsDown s a bs.length then
    bs.zipIdx.foldl (fun s b => if needsDown s (a + b.2) 1 then s else writeMem s (a + b.2) [b.1]) s
  else writeMem s a bs

/-- Write a fault record: internal log, fault ring, interrupt (FAULT_RECORD_WRITE). -/
def logFault (f : FaultInfo) (s : State) : State :=
  let seq := pf s Reg.FLOG_SEQ 31 0
  let bytes := faultBytes seq s.pos f
  let kept := s.faults ++ [bytes]
  let s := { s with faults := kept.drop (kept.length - 4096) }
  let s := flogPlace bytes (setPf s Reg.FLOG_SEQ 31 0 ((seq + 1) % 2 ^ 32))
  sendMsi (getReg s porchDom Reg.HALL_MSI_FAULT) s

/-- The LOG_SEQ that the next record takes. -/
def nextLogSeq (s : State) : Nat := pf s Reg.FLOG_SEQ 31 0

/-! Program units. -/

/-- A unit that runs nothing: every register zero, p0 one (R237). -/
def idleUnit (u : UnitRef) : ProgUnit :=
  { ref := u, owner := .none, running := false, ended := false, stopped := false, paused := false, pc := 0, store := [],
    g := List.replicate 32 0, t := List.replicate 32 0, k := List.replicate 16 0, c := List.replicate 16 0, p := 1,
    st := List.replicate 4 0, waiting := none, inFlight := [], nextOp := 0, status := 0, statusOp := 0, flags := 0 }

def getUnit (s : State) (u : UnitRef) : ProgUnit := (s.units.find? fun x => x.ref = u).getD (idleUnit u)
def setUnit (s : State) (x : ProgUnit) : State := { s with units := upsert (fun y => y.ref = x.ref) x s.units }

/-- The UNIT code of R217. -/
def unitCode : UnitKind → Nat
  | .sequencer => 0 | .carrier => 1 | .link => 2

/-- Units of a kind that a domain has: one sequencer (R26); of carriers and link engines at least one, the number left open (R217, log entry
64), each index within the two bytes of R388. -/
def unitsFitted (dom : Nat) (k : UnitKind) : Nat :=
  if k = .sequencer then 1
  else min (1 + Config.moreUnits ((domType dom).elim 0 domCode) (unitCode k)) 65536

/-- The flags of a RUN so far: of the operations that have completed and of those in flight (R223). -/
def ProgUnit.allFlags (x : ProgUnit) : Nat := x.inFlight.foldl (fun n o => n ||| o.flags) x.flags

/-- The command that a unit's program serves, as fault records name it. -/
def ownerCmd : Owner → Option (Nat × Nat)
  | .command q seq => some (q, seq)
  | _ => none

/-- g register n reads 0 for n = 0 (R237). -/
def gReg (x : ProgUnit) (n : Nat) : Nat := if n = 0 then 0 else (x.g.getD n 0).toNat
def setG (x : ProgUnit) (n v : Nat) : ProgUnit :=
  if n = 0 then x else { x with g := x.g.set n (BitVec.ofNat 64 v) }
def tReg (x : ProgUnit) (n : Nat) : Nat := (x.t.getD n 0).toNat
def setT (x : ProgUnit) (n v : Nat) : ProgUnit := { x with t := x.t.set n (BitVec.ofNat 512 v) }
def kReg (x : ProgUnit) (n : Nat) : Nat := (x.k.getD n 0).toNat
def setK (x : ProgUnit) (n v : Nat) : ProgUnit := { x with k := x.k.set n (BitVec.ofNat 32 v) }
def cReg (x : ProgUnit) (n : Nat) : Nat := (x.c.getD n 0).toNat
def setC (x : ProgUnit) (n v : Nat) : ProgUnit := { x with c := x.c.set n (BitVec.ofNat 64 v) }
def stReg (x : ProgUnit) (n : Nat) : Pos := x.st.getD n 0
def setSt (x : ProgUnit) (n : Nat) (v : Pos) : ProgUnit := { x with st := x.st.set n v }
/-- p0 always reads 1 and ignores writes (R237). -/
def pReg (x : ProgUnit) (n : Nat) : Bool := n == 0 || bitAt x.p.toNat n
def setP (x : ProgUnit) (n : Nat) (b : Bool) : ProgUnit :=
  if n = 0 then x else { x with p := BitVec.ofNat 8 (setFld x.p.toNat n n (b2n b)) }

/-- The operand slots of R236, within the 56 operand bits. -/
def slotF1 (x : Fields) : Nat := fld x.toNat 51 47
def slotF2 (x : Fields) : Nat := fld x.toNat 46 42
def slotF3 (x : Fields) : Nat := fld x.toNat 41 37
def slotF4 (x : Fields) : Nat := fld x.toNat 36 32
def slotF5 (x : Fields) : Nat := fld x.toNat 31 27
def slotF6 (x : Fields) : Nat := fld x.toNat 26 22

/-! Queues. -/

def getQueue (s : State) (q : Nat) : Queue := (s.queues.find? fun x => x.id = q).getD ⟨q, 0, [], false⟩
def setQueue (s : State) (x : Queue) : State := { s with queues := upsert (fun y => y.id = x.id) x s.queues }
/-- The register of a queue: queue ID is domain × 256 + q (R220, R221). -/
def qReg (q off : Nat) : Nat := 0x100000 + 0x40 * (q % 256) + off
def qf (s : State) (q off hi lo : Nat) : Nat := rf s (q / 256) (qReg q off) hi lo
def setQf (s : State) (q off hi lo v : Nat) : State := setRf s (q / 256) (qReg q off) hi lo v
/-- A queue ID that names a queue: q below 16 in a fitted CD, MSD or IOD. -/
def queueExists (s : State) (q : Nat) : Bool :=
  decide (q % 256 < 16) && decide (0x10 ≤ q / 256) && isFitted s (q / 256)

/-- Mark a running command finished with its status and flags. -/
def finishCmd (q seq status flags : Nat) (s : State) : State :=
  let x := getQueue s q
  setQueue s { x with cmds := x.cmds.map fun c =>
    if c.seq = seq then { c with stage := .finished, status := status, flags := c.flags ||| flags } else c }

/-- The flags of a command that a unit is still running (R223). -/
def runFlags (s : State) (q seq : Nat) : Nat :=
  ((s.units.filter fun x => x.running && decide (x.owner = .command q seq)).map (·.allFlags)).foldl (· ||| ·) 0

/-! Job. -/

/-- The factory record in use (R413): copy B where BOOT_STATUS.FACTORY_B says so. -/
def factory (s : State) : Factory := if pf s Reg.BOOT_STATUS 6 6 = 1 then s.mram.copyB else s.mram.copyA

def jobId (s : State) : Nat := pf s Reg.FAB_JOB 31 0
def jobRank (s : State) : Nat := pf s Reg.FAB_JOB 47 32
def fabAddr (s : State) : Nat := pf s Reg.FAB_STATE 31 16
/-- The module is in a job: FORMING still counts as the state before it (R314, log entry 24). -/
def inJob (s : State) : Bool := decide (fabForming < fabState s)
/-- The ranks of the epoch's members: this module alone outside a job, as rank 0 (R314). -/
def memberRanks (s : State) : List Nat := if inJob s then s.fabric.members else [0]
def myRank (s : State) : Nat := if inJob s then jobRank s else 0
/-- The position of this module in ascending rank order (R332). -/
def myPos (s : State) : Nat := ((memberRanks s).filter (· < myRank s)).length

/-- The present partner of a rank in this job. -/
def partnerOf (s : State) (rank : Nat) : Option Partner :=
  s.fabric.roster.find? fun p => p.job = jobId s && p.rank = rank

end Sys2Proof.Machine
end

