-- ==== Sys2Proof/Machine/PowerOps.lean ====
section
/-! DEFINITION. Power grants (R368 to R374), issue rates (R365) and operating points (R375, R376) as operations other meanings
use. Powers are compared exactly, in milliwatts or microwatts. -/
namespace Sys2Proof.Machine

/-! Issue rates. -/

def lookup (d : Nat) (l : List (Nat × Nat)) (k : Nat) : Nat := ((l.find? fun e => e.1 = k).map (·.2)).getD d
def assign (l : List (Nat × Nat)) (k v : Nat) : List (Nat × Nat) := upsert (fun e => e.1 = k) (k, v) l

/-- The effective rate of a CD (R365), with or without the halving of a droop window. -/
def cdRate (s : State) (cd : Nat) (droop : Bool) : Nat :=
  let low := min (pf s Reg.PWR_STATUS 4 0) (min (lookup 16 s.power.thermal cd) (lookup 16 s.power.converge cd))
  max 1 (if droop && s.power.droop.contains cd then low / 2 else low)

/-- PWR_SENSE.ISSUE_RATE of every CD follows its caps (R365, R390). -/
def showRates (s : State) : State :=
  (fittedOf s .cd).foldl (fun s d => setRf s d Reg.PWR_SENSE 36 32 (cdRate s d true)) s

/-- The limiter rate in PWR_STATUS, and with it every CD's rate. -/
def setLimiter (r : Nat) (s : State) : State := showRates (setPf s Reg.PWR_STATUS 4 0 r)

/-! Estimates. -/

/-- V_SET of a point of a die (R377). -/
def vset (s : State) (dom point : Nat) : Nat := rf s dom (Reg.VTABLE0 + 8 * point) 15 0

/-- A unit's estimate in µW at the operating point in force (R368): milliwatts × f/1.2 GHz × (V/V at 1.2 GHz)². The clock of
point k is (8 − k)/8 of 1.2 GHz (R375). A table without voltages scales by 1 (log entry 22). -/
def scaleDraw (s : State) (dom milli : Nat) : Nat :=
  let k := rf s dom Reg.PWR_OPPOINT 2 0
  let v := vset s dom k
  let v0 := vset s dom 0
  let u := milli * 1000 * (8 - k) / 8
  if v0 = 0 then u else u * (v * v) / (v0 * v0)

/-! Grants. -/

/-- The sum of the last ten samples in mW: ten times M_100 (R364). -/
def lastTen (s : State) : Nat := (s.power.samples.drop (s.power.samples.length - 10)).foldl (· + ·) 0

def grantsWhere (s : State) (p : Grant → Bool) : Nat := ((s.power.grants.filter p).map (·.watts)).foldl (· + ·) 0

/-- R of R370: watts admitted less than 100 µs (10,000 ticks) ago, whatever TICK did since. -/
def recentWatts (s : State) : Nat :=
  grantsWhere s fun g => g.stage ≠ .queued && decide (s.power.clock - g.admittedAt < 10000)

/-- PWR_MEASURE.GRANTED and QUEUED. -/
def showGrants (s : State) : State :=
  setPf (setPf s Reg.PWR_MEASURE 47 32 (grantsWhere s fun g => g.stage = .inForce)) Reg.PWR_MEASURE 63 48
    (s.power.grants.filter fun g => g.stage = .queued).length

/-- Admit heads of the queue in turn until one fails the test (R370); nothing under CEILING_HOLD (R372) or an emergency
(R373). The list bounds the number of admissions. -/
def admitLoop : List Nat → State → State
  | [], s => s
  | n :: rest, s =>
    match s.power.grants.find? fun g => g.n = n with
    | none => admitLoop rest s
    | some g =>
      if lastTen s + 10000 * (recentWatts s + g.watts) ≤ 10000 * 3400 then
        let gs := s.power.grants.map fun x => if x.n = n then { x with stage := .admitted, tick := posTick s.pos, admittedAt := s.power.clock } else x
        admitLoop rest (bump { s with power := { s.power with grants := gs } } porchDom Reg.PWR_GRANT_COUNT 1)
      else s

def letIn (s : State) : State :=
  if bitAt (pf s Reg.PWR_STATUS 8 7) 0 ∨ bitAt (pf s Reg.PWR_STATUS 8 7) 1 then showGrants s
  else showGrants (admitLoop ((s.power.grants.filter fun g => g.stage = .queued).map (·.n)) s)

/-- The order of requests that enter in one tick (R370). -/
def grantKey (g : Grant) : Nat := g.holder.dom * 2 ^ 40 + unitCode g.holder.kind * 2 ^ 32 + g.holder.idx
def enqueue (g : Grant) : List Grant → List Grant
  | [] => [g]
  | y :: t =>
    if y.stage = .queued ∧ y.tick = g.tick ∧ grantKey g < grantKey y then g :: y :: t else y :: enqueue g t

/-- A request enters the queue and the head is tested (R370); the answer is its number. -/
def request (u : UnitRef) (watts : Nat) (source : GrantSource) (landing : Option Nat) (s : State) : State × Nat :=
  let n := s.power.nextGrant
  let g : Grant := ⟨n, u, watts, posTick s.pos, source, .queued, landing, 0⟩
  let s := letIn { s with power := { s.power with grants := enqueue g s.power.grants, nextGrant := n + 1 } }
  let waits := s.power.grants.any fun g => g.n = n && g.stage = .queued
  (if waits then bump s porchDom Reg.PWR_GRANT_WAIT_COUNT 1 else s, n)

/-- Remove grants and requests. -/
def dropGrants (p : Grant → Bool) (s : State) : State :=
  showGrants { s with power := { s.power with grants := s.power.grants.filter fun g => !p g } }

/-- What issue does with an operation's estimate (R275, R369). -/
inductive Gate where
  | go | wait (ask : Nat)
deriving DecidableEq, Repr

/-- A PGRANT of the unit is accepted and not yet in force, or waits in the Porch table for its position (R275): a landing of KIND 0x04
without a record. -/
def pgrantPending (s : State) (u : UnitRef) : Bool :=
  (s.power.grants.any fun g => g.holder = u && g.source = .pgrant && g.stage ≠ .inForce)
    || s.landings.any fun l => l.kind = 4 && l.record.isNone && l.holder = u && !l.fired

/-- A sequencer's E against its automatic grant G (R369); every unit waits for its own PGRANTs with the work that they cover (R275, log
entry 23): what the model has an estimate for, and what moves data. -/
def gate (s : State) (x : ProgUnit) (draw : Nat) (moves : Bool) : Gate :=
  let own := fun (force : Bool) => grantsWhere s fun g =>
    g.holder = x.ref && g.source = .auto && (decide (g.stage = .inForce) == force)
  let held := own true
  let asked := own false
  if draw = 0 && !moves then .go
  else if pgrantPending s x.ref then .wait 0
  else match x.ref.kind with
    | .sequencer =>
      let e := ((x.inFlight.map (·.draw)).foldl (· + ·) 0) + draw
      if e ≤ (held + 40) * 1000000 then .go
      else if e ≤ (held + asked + 40) * 1000000 then .wait 0
      else .wait (16 * ceilDiv (ceilDiv e 1000000 - held - asked) 16)
    | _ => .go

/-- GRANT_WITHDRAWN of R373: every grant and request goes; a waiting PGRANT completes with the status. The operations that wait
at issue are ended by the caller. -/
def withdrawGrants (s : State) : State :=
  let gone := s.power.grants.filterMap fun g => if g.stage = .inForce then none else some g.n
  let mark := fun (o : Op) => match o.need with
    | .grant n => if gone.contains n then { o with need := OpNeed.work, status := stGrant } else o
    | _ => o
  let s := { s with units := s.units.map fun x => { x with inFlight := x.inFlight.map mark } }
  bump (dropGrants (fun _ => true) s) porchDom Reg.PWR_WITHDRAW_COUNT 1

/-! Energy (R386, R387): registers in microjoules, the rest of a microjoule in State.power. -/

/-- Add nanojoules to a counter whose rest is r: the new rest. -/
def addEnergy (off r nj : Nat) (s : State) : State × Nat := (bump s porchDom off ((r + nj) / 1000), (r + nj) % 1000)

def addIdle (nj : Nat) (s : State) : State :=
  let r := addEnergy Reg.ENERGY_IDLE s.power.idleNj nj s
  { r.1 with power := { r.1.power with idleNj := r.2 } }
def addOverhead (nj : Nat) (s : State) : State :=
  let r := addEnergy Reg.ENERGY_OVERHEAD s.power.overNj nj s
  { r.1 with power := { r.1.power with overNj := r.2 } }
def addTotal (nj : Nat) (s : State) : State :=
  let r := addEnergy Reg.ENERGY_TOTAL s.power.totalNj nj s
  { r.1 with power := { r.1.power with totalNj := r.2 } }
def addJob (nj : Nat) (s : State) : State :=
  let r := addEnergy Reg.ENERGY_JOB s.power.jobNj nj s
  { r.1 with power := { r.1.power with jobNj := r.2 } }

/-! Operating points. A higher point is a smaller number. -/

/-- The domains with operating points (R375, R390). -/
def powered (s : State) : List Nat := (domainIds s.variant).filter fun d => decide (d ≠ porchDom)

def emergency (s : State) : Bool := decide (pf s Reg.PWR_STATUS 7 7 = 1)

/-- The point of a die's target: above 5 used as 5 (R390), and no higher than MAX_ALLOWED (R378). -/
def targetPoint (s : State) (dom : Nat) : Nat := max (min 5 (rf s dom Reg.PWR_OPPOINT 10 8)) (rf s dom Reg.PWR_OPPOINT 18 16)

/-- Points by which a CD runs lowered (R367). -/
def loweredBy (s : State) (dom : Nat) : Nat := min (lookup 0 s.power.lowered dom) (5 - targetPoint s dom)

/-- The point a die would run at but for its neighbours: its target's, lowered for a CD by R367 and R382. -/
def ownPoint (s : State) (dom : Nat) : Nat :=
  if domType dom = some .cd then (if emergency s then 5 else targetPoint s dom + loweredBy s dom) else targetPoint s dom

/-- OP_FALLBACK says that a CD runs lowered (R367). -/
def showFallback (s : State) : State :=
  setPf s Reg.PWR_STATUS 5 5 (b2n ((fittedOf s .cd).any fun d => decide (0 < loweredBy s d)))

/-- The point it runs at: raised by R381, never above MAX_ALLOWED (R378); a CD in an emergency stays at point 5. -/
def wantedPoint (s : State) (dom : Nat) : Nat :=
  let t := ownPoint s dom
  let t := if domType dom = some .cd && emergency s then t else t - lookup 0 s.power.lift dom
  max t (rf s dom Reg.PWR_OPPOINT 18 16)

/-- The supply of a die at a point: V_SET and the ageing offset (R377, R378). -/
def supply (s : State) (dom point : Nat) : Nat := vset s dom point + 5 * rf s dom Reg.PWR_AGE 7 0

/-- PWR_SENSE.VOLT_MV shows the supply of the point in force (R390). -/
def showSupply (dom : Nat) (s : State) : State := setRf s dom Reg.PWR_SENSE 27 16 (supply s dom (rf s dom Reg.PWR_OPPOINT 2 0))

/-- Start or redirect a die's ramp towards its wanted point (R376): inside a droop window it waits, held. -/
def startRamp (dom : Nat) (s : State) : State :=
  let p := wantedPoint s dom
  if isDown s dom then s
  else if p = rf s dom Reg.PWR_OPPOINT 2 0 ∧ rf s dom Reg.PWR_OPPOINT 24 24 = 0 ∧ !s.power.rampHeld.contains dom then s
  else
    let s := { s with power := { s.power with ramps := assign s.power.ramps dom p } }
    if s.power.droop.contains dom && decide (rf s dom Reg.PWR_OPPOINT 24 24 = 0) then
      { s with power := { s.power with rampHeld := if s.power.rampHeld.contains dom then s.power.rampHeld
          else s.power.rampHeld ++ [dom] } }
    else if s.power.rampHeld.contains dom then s
    else setRf s dom Reg.PWR_OPPOINT 24 24 1

/-- A pair of neighbours more than 200 mV apart, the lower one first, that can still be raised (R381). -/
def apart (s : State) : Option Nat :=
  (powered s).find? fun d =>
    let p := wantedPoint s d
    !(domType d = some .cd && emergency s) && decide (0 < p) && decide (rf s d Reg.PWR_OPPOINT 18 16 < p)
      && (neighbours s.variant d).any fun e =>
        decide (e ≠ porchDom) && decide (supply s d p + 200 < supply s e (wantedPoint s e))

/-- Raise lower neighbours one point at a time; a die has five points to rise. -/
def liftLoop : Nat → State → State
  | 0, s => s
  | n + 1, s => match apart s with
    | none => s
    | some d => liftLoop n { s with power := { s.power with lift := assign s.power.lift d (lookup 0 s.power.lift d + 1) } }

/-- R381 for voltages: the lifts that the points now need; each point raised, and each return, is one action. -/
def relift (s : State) : State :=
  let old := s.power.lift
  let s := liftLoop (5 * (powered s).length) { s with power := { s.power with lift := [] } }
  (powered s).foldl (fun s d =>
    let a := lookup 0 old d
    let b := lookup 0 s.power.lift d
    let n := if a < b then b - a else if b < a then 1 else 0
    if n = 0 then s else bump s d Reg.PWR_CONVERGE_COUNT n) s

/-- Every die heads for the point that the rules now give it. -/
def retarget (s : State) : State := let s := relift (showFallback s); (powered s).foldl (fun s d => startRamp d s) s

/-- A new target for a die (R375): the register, then the ramps. -/
def setTarget (dom point : Nat) (s : State) : State := retarget (setRf s dom Reg.PWR_OPPOINT 10 8 point)

end Sys2Proof.Machine
end

