-- ==== Sys2Proof/Machine/LandingOps.lean ====
section
/-! DEFINITION. Landing records and tables (R288 to R293): what the module writes into a record, and how a landing ends. -/
namespace Sys2Proof.Machine

/-- Write into a landing's record, when it has one that can be reached. -/
def recordWrite (l : Landing) (off : Nat) (bs : List Byte) (s : State) : State :=
  match l.record with
  | some a => if needsDown s (a + off) bs.length then s else writeMem s (a + off) bs
  | none => s

def findLanding (s : State) (n : Nat) : Option Landing := s.landings.find? fun l => l.n = n

/-- Pending landings of a table: LAND_PENDING (R299, R300). -/
def pendingIn (s : State) (dom : Nat) : Nat := (s.landings.filter fun l => l.table = dom && !l.fired).length

/-- A landing's record takes a STATE after its STATUS; the landing leaves the table (R291, R293). -/
def closeLanding (l : Landing) (state status : Nat) (s : State) : State :=
  let s := recordWrite l 0 [BitVec.ofNat 8 state] (recordWrite l 2 (leBytes 2 status) s)
  { s with landings := s.landings.filter fun m => m.n ≠ l.n }

/-- The action of a landing ends (R291). -/
def endLanding (n status : Nat) (s : State) : State :=
  match findLanding s n with
  | some l => closeLanding l 3 status s
  | none => s

/-- A job restart cancels pending landings and ends running actions, open refresh windows among them (R248, R293). -/
def abortLandings (s : State) : State :=
  let s := s.landings.foldl (fun s l => closeLanding l (if l.fired then 3 else 4) stAbortedRestart s) s
  { s with power := { s.power with rampLandings := [] }, domains := s.domains.map fun d => { d with refresh := [] } }

/-- A domain reset loses the table; the record addresses are kept (R293). -/
def loseLandings (dom : Nat) (s : State) : State :=
  let mine := s.landings.filter fun l => l.table = dom
  let d := getDomain s dom
  setDomain { s with landings := s.landings.filter fun l => l.table ≠ dom }
    { d with records := d.records ++ mine.filterMap (·.record) }

/-- The records a domain kept are written on leaving reset (R293). -/
def writeLostLandings (dom : Nat) (s : State) : State :=
  let d := getDomain s dom
  let s := d.records.foldl (fun s a => writeServed a [4] (writeServed (a + 2) (leBytes 2 stAbortedReset) s)) s
  setDomain s { d with records := [] }

end Sys2Proof.Machine
end

