-- ==== Sys2Proof/Machine/PortOps.lean ====
section
/-! DEFINITION. Ports and flits (R302 to R309, R330): the registers and the link layer of one port, what it sends, its states. -/
namespace Sys2Proof.Machine

def portReg (p : PortRef) (off : Nat) : Nat := 0x300000 + 0x100 * p.port + off
def portF (s : State) (p : PortRef) (off hi lo : Nat) : Nat := rf s p.iod (portReg p off) hi lo
def setPortF (s : State) (p : PortRef) (off hi lo v : Nat) : State := setRf s p.iod (portReg p off) hi lo v
def bumpPort (s : State) (p : PortRef) (off n : Nat) : State := bump s p.iod (portReg p off) n
def blankPort (p : PortRef) : Port :=
  { ref := p, lane := 0, nextTx := 0, nextRx := 0, replay := [], resendSeq := 0, resends := 0, partials := [], waiting := [],
    credits := [0, 0, 0, 0], delays := [], retrains := 0, faults := [], beats := false, addr := none, unacked := [] }
def getPort (s : State) (p : PortRef) : Port := (s.ports.find? fun (y : Port) => decide (y.ref = p)).getD (blankPort p)
def setPort (s : State) (x : Port) : State := { s with ports := upsert (fun (y : Port) => decide (y.ref = x.ref)) x s.ports }

/-- Port states (R305). -/
abbrev ptDown : Nat := 0
abbrev ptDetect : Nat := 1
abbrev ptEqualise : Nat := 2
abbrev ptLock : Nat := 3
abbrev ptMeasure : Nat := 4
abbrev ptDescribe : Nat := 5
abbrev ptActive : Nat := 6
abbrev ptRetrain : Nat := 7
abbrev ptFailed : Nat := 8
def portState (s : State) (p : PortRef) : Nat := portF s p Reg.PORT_STATUS 3 0
def setPortState (v : Nat) (p : PortRef) (s : State) : State := setPortF s p Reg.PORT_STATUS 3 0 v

/-- A port of a fitted IOD that is not down. -/
def portUp (s : State) (p : PortRef) : Bool :=
  decide (domType p.iod = some .iod) && isFitted s p.iod && !isDown s p.iod && decide (p.port < 2)
/-- Every port of the item, in the beat order of R283. -/
def allPorts (s : State) : List PortRef := (fittedOf s .iod).flatMap fun d => [⟨d, 0⟩, ⟨d, 1⟩]
def activePorts (s : State) : List PortRef := (allPorts s).filter fun p => portUp s p && portState s p = ptActive

/-! Flits (R302). -/

abbrev flitIdle : Nat := 0
abbrev flitData : Nat := 1
abbrev flitRetry : Nat := 2
abbrev flitTimestamp : Nat := 3
abbrev flitDescriptor : Nat := 4
abbrev flitBeat : Nat := 5
abbrev flitAnnounce : Nat := 6
abbrev flitCredit : Nat := 7

/-- The 640 bytes of a flit. -/
def flitBytes (type tc seq ack : Nat) (sop eop : Bool) (payload : List Byte) : List Byte :=
  let body := leBytes 1 (type + 16 * b2n sop + 32 * b2n eop + 64 * tc) ++ leBytes 3 seq ++ leBytes 3 ack ++ [0, 0, 0]
    ++ leBytes 2 payload.length ++ leBytes 4 0 ++ payload ++ List.replicate (616 - payload.length) 0
  body ++ leBytes 8 (crc64 body)

def mod24 (n : Nat) : Nat := n % 2 ^ 24
/-- The highest SEQ received in order (R302). -/
def ackOf (x : Port) : Nat := mod24 (x.nextRx + 2 ^ 24 - 1)

/-- Flits that take a SEQ and stay in the replay buffer (R303). -/
def sequenced (type : Nat) : Bool := type = flitData || type = flitAnnounce || type = flitDescriptor

/-- The next lane of a port: round-robin over the active ones in ascending order (R303); lane 0 before any is locked. -/
def nextLane (s : State) (p : PortRef) : Nat :=
  let active := (List.range 8).filter fun l => bitAt (portF s p Reg.PORT_STATUS 11 4) l
  (active.find? fun l => decide ((getPort s p).lane ≤ l)).getD (active.headD 0)

/-- Put the bytes of a flit on the next lane. -/
def onLane (p : PortRef) (f : List Byte) (s : State) : State :=
  let l := nextLane s p
  emit (.flit p l f) (setPort s { getPort s p with lane := l + 1 })

/-- Put a flit on the lanes. -/
def sendFlit (p : PortRef) (type tc : Nat) (sop eop : Bool) (payload : List Byte) (s : State) : State :=
  let x := getPort s p
  if sequenced type then
    let f := flitBytes type tc x.nextTx (ackOf x) sop eop payload
    onLane p f (setPort s { x with nextTx := mod24 (x.nextTx + 1), replay := x.replay ++ [(x.nextTx, f)] })
  else onLane p (flitBytes type tc 0 (ackOf x) sop eop payload) s

/-! What a packet takes along at the moment it leaves. -/

def pkDst (pk : List Byte) : Nat := recNat pk 0 2
def pkSrc (pk : List Byte) : Nat := recNat pk 2 2
def pkKind (pk : List Byte) : Nat := recNat pk 4 1
def pkEpoch (pk : List Byte) : Nat := recNat pk 6 2
def pkPseq (pk : List Byte) : Nat := recNat pk 8 4
def pkLength (pk : List Byte) : Nat := recNat pk 12 2
def pkPayload (pk : List Byte) : List Byte := (pk.drop 16).take (pkLength pk)
/-- A packet among those sent, by its header. -/
def pkId (pk : List Byte) : Nat × Nat := (pkDst pk, pkPseq pk)

/-- This module's skip bit of R167. -/
def moduleSkip (s : State) : Bool := s.train.request || (fittedOf s .cd).any fun d => rb s d Reg.TRAIN_STEP_STATUS 32

/-- The skip bit of the SKIPCARRY COLL that a packet belongs to is taken as its first packet leaves (R322). -/
def takeSkip (id : Nat × Nat) (s : State) : State :=
  let take := fun (c : Coll) =>
    if bitAt c.cflags 0 && c.sent.contains id && c.mySkip.isNone then { c with mySkip := some (moduleSkip s) } else c
  let gone := s.colls.any fun c => bitAt c.cflags 0 && c.sent.contains id
  { s with colls := s.colls.map take, train := { s.train with left := s.train.left || gone } }

/-- The first flit of a packet as it leaves: a letter carries the EPOCH that the roster then gives its destination (R408), a packet of a
SKIPCARRY COLL its member's skip bit (R322). -/
def stampFlit (s : State) (w : QFlit) : List Byte :=
  if pkKind w.payload = 5 then
    match s.fabric.roster.find? fun r => r.addr = pkDst w.payload with
    | some r => patch w.payload 6 (leBytes 2 r.epoch)
    | none => w.payload
  else match s.colls.find? fun c => bitAt c.cflags 0 && c.sent.contains w.id with
    | some c => patch w.payload 26 (leBytes 1 (setFld (recNat w.payload 26 1) 0 0 (b2n (c.mySkip.getD false))))
    | none => w.payload

/-- A flit of a packet leaves; with the first one the packet's own copy takes the header that has left. -/
def leave (p : PortRef) (w : QFlit) (s : State) : State :=
  if w.sop then
    let s := takeSkip w.id s
    let b := stampFlit s w
    let x := getPort s p
    let x := { x with unacked := x.unacked.map fun u => if pkId u.2.2 = w.id then (u.1, u.2.1, patch u.2.2 0 (b.take 48)) else u }
    sendFlit p w.type w.tc w.sop w.eop b (setPort s x)
  else sendFlit p w.type w.tc w.sop w.eop w.payload s

/-- A waiting flit may leave: the replay buffer has room (R303) and, for DATA, its class has credits and nothing before it waits (R304). -/
def mayLeave (x : Port) (stuck : List Nat) (w : QFlit) : Bool :=
  decide (x.replay.length < 4096)
    && (decide (w.type ≠ flitData) || (decide (0 < x.credits.getD w.tc 0) && !stuck.contains w.tc))

/-- Send waiting flits in turn; a class without credits is passed over. -/
def drainLoop (p : PortRef) : List QFlit → List QFlit → List Nat → State → State
  | [], kept, _, s => setPort s { getPort s p with waiting := kept.reverse }
  | w :: rest, kept, stuck, s =>
    let x := getPort s p
    if !mayLeave x stuck w then drainLoop p rest (w :: kept) (if w.type = flitData then w.tc :: stuck else stuck) s
    else
      let x := if w.type = flitData then { x with credits := x.credits.set w.tc (x.credits.getD w.tc 0 - 1) } else x
      drainLoop p rest kept stuck (leave p w (setPort s x))

def drainPort (p : PortRef) (s : State) : State := drainLoop p (getPort s p).waiting [] [] s

/-- An ANNOUNCE or DESCRIPTOR flit: it waits where the replay buffer is full (R303). -/
def queueFlit (p : PortRef) (type : Nat) (payload : List Byte) (s : State) : State :=
  let x := getPort s p
  drainPort p (setPort s { x with waiting := x.waiting ++ [⟨type, 0, false, false, (0, 0), payload⟩] })

/-- Cut a packet into DATA flits on a port (R311). -/
def packetFlits (tc : Nat) (bytes : List Byte) : List QFlit :=
  let n := ceilDiv bytes.length 616
  (List.range n).map fun i => ⟨flitData, tc, decide (i = 0), decide (i + 1 = n), pkId bytes, (bytes.drop (616 * i)).take 616⟩

def queuePacket (p : PortRef) (tc : Nat) (bytes : List Byte) (s : State) : State :=
  let x := getPort s p
  let fs := packetFlits tc bytes
  drainPort p (setPort s { x with waiting := x.waiting ++ fs, unacked := x.unacked ++ [(fs.length, tc, bytes)] })

/-- The partner has every flit up to SEQ n: the replay buffer and the unacknowledged packets shrink (R302, R303). -/
def ackFlits (p : PortRef) (n : Nat) (s : State) : State :=
  let x := getPort s p
  let gone := fun (e : Nat × List Byte) => decide (mod24 (n + 2 ^ 24 - e.1) < 2 ^ 23)
  let dataGone := (x.replay.filter fun e => gone e && decide (recNat e.2 0 1 % 16 = flitData)).length
  let rec drop : Nat → List (Nat × Nat × List Byte) → List (Nat × Nat × List Byte)
    | _, [] => []
    | k, u :: rest => if k = 0 then u :: rest else if u.1 ≤ k then drop (k - u.1) rest else (u.1 - k, u.2) :: rest
  setPort s { x with replay := x.replay.filter fun e => !gone e, unacked := drop dataGone x.unacked }

/-- Hand a packet to a port: the first ACTIVE one takes it (R319 leaves the choice to the module, log entry 45). Without one it waits for a
port to become ACTIVE. -/
def routePacket (tc : Nat) (bytes : List Byte) (s : State) : State :=
  let s := emit (.packet tc bytes) s
  match (activePorts s).head? with
  | some p => queuePacket p tc bytes s
  | none => { s with fabric := { s.fabric with unrouted := s.fabric.unrouted ++ [(tc, bytes)] } }

/-- What waited for an ACTIVE port leaves over this one. -/
def routeWaiting (p : PortRef) (s : State) : State :=
  s.fabric.unrouted.foldl (fun s u => queuePacket p u.1 u.2 s) { s with fabric := { s.fabric with unrouted := [] } }

/-- Return the credits of received flits of a class (R304). -/
def giveCredits (p : PortRef) (tc n : Nat) (s : State) : State :=
  sendFlit p flitCredit 0 false false ((List.range 4).flatMap fun c => leBytes 2 (if c = tc then n else 0)) s

/-- The credits of a held packet go back: the first entry that a test on source and PSEQ names (R408). -/
def releaseDue (test : Nat → Nat → Bool) (s : State) : State :=
  match s.fabric.due.find? fun d => test d.2.2.1 d.2.2.2 with
  | some d => giveCredits d.1 2 d.2.1 { s with fabric := { s.fabric with due := s.fabric.due.erase d } }
  | none => s

/-- A port has left ACTIVE: what it had not acknowledged goes over another ACTIVE port, too (R306). Its own flits stay for the resends that
R303 asks for once it is ACTIVE again, with credits that the partner then grants anew. -/
def reroute (p : PortRef) (s : State) : State :=
  let x := getPort s p
  let s := setPort s { x with credits := [0, 0, 0, 0] }
  let s := { s with fabric := { s.fabric with due := s.fabric.due.filter fun d => d.1 ≠ p } }
  match (activePorts s).find? (· ≠ p) with
  | some y => x.unacked.foldl (fun s u => queuePacket y u.2.1 u.2.2 s) s
  | none => s

/-- A port that is turned off starts anew, SEQ 0 in each direction (log entry 46). -/
def turnOff (p : PortRef) (s : State) : State :=
  let s := if portState s p = ptActive then reroute p (setPortState ptDown p s) else setPortState ptDown p s
  setPort (setPortF s p Reg.PORT_STATUS 13 13 0) (blankPort p)

/-! Training (R305 to R309). -/

/-- Enter RETRAIN; after three retrains without reaching ACTIVE the port fails (log entry 46). -/
def enterRetrain (p : PortRef) (s : State) : State :=
  let was := portState s p
  let x := getPort s p
  let s := setPort (bumpPort s p Reg.PORT_RETRAIN_COUNT 1) { x with retrains := x.retrains + 1, delays := [] }
  let s := setPortState (if 3 < x.retrains + 1 then ptFailed else ptRetrain) p s
  if was = ptActive then reroute p s else s

/-- The module's descriptor (R308). -/
def descriptorBytes (s : State) (p : PortRef) : List Byte :=
  leBytes 4 0x4247524C ++ [1, BitVec.ofNat 8 s.variant, 1, BitVec.ofNat 8 (domIndex p.iod + 16 * p.port)]
    ++ leBytes 8 (factory s).serial.toNat ++ leBytes 4 (if s.fabric.out then 0 else jobId s) ++ leBytes 2 (jobRank s) ++ leBytes 2 (posEpoch s.pos)
    ++ leBytes 1 (portF s p Reg.PORT_STATUS 11 4) ++ List.replicate 39 0

def sendDescriptor (p : PortRef) (s : State) : State := queueFlit p flitDescriptor (descriptorBytes s p) s

/-- A fresh descriptor on every ACTIVE port (R308). -/
def announceSelf (s : State) : State := (activePorts s).foldl (fun s p => sendDescriptor p s) s

/-- One timestamp request (R307, R330). -/
def sendTimestamp (p : PortRef) (s : State) : State :=
  sendFlit p flitTimestamp 0 false false (List.replicate 8 0 ++ leBytes 8 (Config.portClock s.freeCtr).toNat ++ List.replicate 16 0)
    (tick s)

/-- A write of PORT_CTRL (R305, R334): ENABLE 0 turns the port off (log entry 46). -/
def writePortCtrl (p : PortRef) (v : Nat) (s : State) : State :=
  let was := portState s p
  let s := setPortF s p Reg.PORT_CTRL 2 0 (fld v 2 0)
  if !bitAt v 0 then
    if was = ptDown then s else turnOff p s
  else if was = ptDown then setPortState ptDetect p s
  else if bitAt v 2 ∧ was = ptActive then enterRetrain p s
  else s

/-! Receiving (R303). -/

/-- The flit's fields. -/
def flType (f : List Byte) : Nat := recNat f 0 1 % 16
def flSop (f : List Byte) : Bool := bitAt (recNat f 0 1) 4
def flEop (f : List Byte) : Bool := bitAt (recNat f 0 1) 5
def flTc (f : List Byte) : Nat := recNat f 0 1 / 64
def flSeq (f : List Byte) : Nat := recNat f 1 3
def flAck (f : List Byte) : Nat := recNat f 4 3
def flCredit (f : List Byte) : Nat := recNat f 8 2
def flPlen (f : List Byte) : Nat := recNat f 10 2
def flPayload (f : List Byte) : List Byte := (f.drop 16).take (flPlen f)

/-- PLEN fits the TYPE (R330). -/
def plenOk (f : List Byte) : Bool :=
  let n := flPlen f
  match flType f with
  | 0 => n = 0
  | 1 => decide (1 ≤ n) && decide (n ≤ 616)
  | 2 => n = 4
  | 3 => n = 32
  | 4 => n = 64
  | 5 => n = 16
  | 6 => let c := recNat f 20 2; decide (c ≤ 19) && decide (n = 8 + 32 * c)
  | 7 => n = 8
  | _ => false

def zeros (b : List Byte) (off len : Nat) : Bool := decide (recNat b off len = 0)

/-- A change record without reserved values (R310, R331). -/
def changeOk (r : List Byte) : Bool :=
  let kind := recNat r 24 1
  decide (1 ≤ kind) && decide (kind ≤ 3) && decide (recNat r 2 1 ≤ 1) && decide (recNat r 3 1 ≤ 16) && zeros r 14 2 && zeros r 25 7

/-- The payload of a flit holds no reserved value (R308, R330, R331). -/
def payloadOk (type : Nat) (b : List Byte) : Bool :=
  match type with
  | 2 => zeros b 3 1
  | 3 => decide (recNat b 0 1 ≤ 1) && zeros b 1 7 && (decide (recNat b 0 1 = 1) || zeros b 16 16)
  | 4 => decide (recNat b 0 4 = 0x4247524C) && decide (recNat b 4 1 = 1) && zeros b 5 2 && decide (recNat b 22 2 < 2) && zeros b 25 39
  | 5 => zeros b 12 4
  | 6 => decide (recNat b 6 1 < 8) && zeros b 7 1
      && (List.range (recNat b 4 2)).all fun i => changeOk ((b.drop (8 + 32 * i)).take 32)
  | _ => true

/-- The flit is whole: 640 bytes, its CRC right, its PLEN fitting, and nothing reserved in it, which counts as a failed CRC (R11). -/
def flitGood (f : List Byte) : Bool :=
  decide (f.length = 640) && decide (crc64 (f.take 632) = recNat f 632 8) && plenOk f && zeros f 7 1 && zeros f 12 4
    && payloadOk (flType f) (flPayload f)

/-- Ask for a resend from the SEQ expected next. -/
def sendRetry (p : PortRef) (s : State) : State :=
  sendFlit p flitRetry 0 false false (leBytes 3 (getPort s p).nextRx ++ [0]) s

/-- What a received flit is to the link layer. -/
inductive Received where
  /-- Not taken: lost, damaged, out of order (a RETRY has left where R303 asks for one) or repeated. -/
  | dropped (s : State)
  /-- Taken, with acknowledgement and credits applied. -/
  | taken (s : State)
deriving DecidableEq, Repr

/-- Add credits to a class. -/
def addCredits (p : PortRef) (tc n : Nat) (s : State) : State :=
  let x := getPort s p
  setPort s { x with credits := x.credits.set tc (x.credits.getD tc 0 + n) }

/-- The link layer's part of a received flit (R303): FEC with the symbols that it corrected, none where it cannot; CRC, PLEN, SEQ, then ACK
and CREDIT. The command names the type; a flit of another type is no such command. -/
def linkIn (type : Nat) (p : PortRef) (fec : Option Nat) (f : List Byte) (s : State) : Received :=
  match fec with
  | none => .dropped (sendRetry p (bumpPort s p Reg.PORT_FEC_UNCORR_COUNT 1))
  | some n =>
  if flitGood f && decide (flType f ≠ type) then .dropped s
  else
  let s := bumpPort s p Reg.PORT_FEC_CORR_COUNT n
  if !flitGood f then .dropped (sendRetry p s)
  else
    let x := getPort s p
    let late := sequenced type && decide (flSeq f ≠ x.nextRx)
    if late then
      -- an older flit comes again after a resend; a newer one shows that one is missing
      if mod24 (flSeq f + 2 ^ 24 - x.nextRx) < 2 ^ 23 then .dropped (sendRetry p s) else .dropped s
    else
      let s := if sequenced type then setPort s { x with nextRx := mod24 (x.nextRx + 1) } else s
      .taken (drainPort p (addCredits p (flCredit f % 4) (flCredit f / 4) (ackFlits p (flAck f) s)))

end Sys2Proof.Machine
end

