-- ==== Sys2Proof/Machine/FabricOps.lean ====
section
/-! DEFINITION. Fabric packets (R311, R312): numbering, sending to an address, a rank or every member, and what a received packet
must pass before its kind is looked at. -/
namespace Sys2Proof.Machine

/-- The next PSEQ toward an address. -/
def nextPseq (s : State) (dst : Nat) : Nat := tblGet (fun _ => 0) s.fabric.pseq dst

/-- A packet as it goes out: route header and payload (R311), under an epoch. -/
def packetBytes (s : State) (epoch pkind dst : Nat) (payload : List Byte) : List Byte :=
  leBytes 2 dst ++ leBytes 2 (fabAddr s) ++ leBytes 1 pkind ++ [0] ++ leBytes 2 epoch
    ++ leBytes 4 (nextPseq s dst) ++ leBytes 2 payload.length ++ [0, 0] ++ payload

/-- PSEQ toward an address moves on. -/
def countPseq (dst : Nat) (s : State) : State :=
  { s with fabric := { s.fabric with pseq := tblSet (fun _ => 0) s.fabric.pseq dst ((nextPseq s dst + 1) % 2 ^ 32) } }

/-- Send a packet under an epoch. -/
def sendPacketAs (epoch tc pkind dst : Nat) (payload : List Byte) (s : State) : State :=
  routePacket tc (packetBytes s epoch pkind dst payload) (countPseq dst s)

def sendPacket (tc pkind dst : Nat) (payload : List Byte) (s : State) : State :=
  sendPacketAs (posEpoch s.pos) tc pkind dst payload s

/-- Send to a member of the job by rank, when the roster has it. -/
def sendToRank (tc pkind rank : Nat) (payload : List Byte) (s : State) : State :=
  match partnerOf s rank with
  | some p => sendPacket tc pkind p.addr payload s
  | none => s

/-- Send to every other member of the epoch that is present. -/
def sendToMembers (tc pkind : Nat) (payload : List Byte) (s : State) : State :=
  (s.fabric.members.filter (· ≠ jobRank s)).foldl (fun s r => sendToRank tc pkind r payload s) s

/-! Receiving. -/

/-- The codes of R19. -/
def statusCodes : List Nat :=
  [stDone, stAbortedReset, stAbortedRestart, stLength, stReserved, stAlign, stStash, stHeadroom, stDigest, stCursor, stMinority, stStale,
    stGrant, stSignature, stLost]

/-- A piece header without reserved values (R333); an ACK, a FETCH_REQ and a FETCH_REFUSED carry no data. -/
def pieceOk (b : List Byte) : Bool :=
  let kind := recNat b 0 1
  decide (32 ≤ b.length) && decide (1 ≤ kind) && decide (kind ≤ 6) && decide (recNat b 1 1 < 8)
    && (decide (kind = 3) || zeros b 24 8)
    && (if kind = 2 ∨ kind = 4 ∨ kind = 6 then decide (b.length = 32) else decide (b.length = 32 + recNat b 12 4))

/-- A collective header without reserved values (R320), and so the piece in the tail of an all-gather packet (R333). -/
def collHeaderOk (b : List Byte) : Bool :=
  decide (32 ≤ b.length) && decide (1 ≤ recNat b 8 1) && decide (recNat b 8 1 ≤ 4) && decide (recNat b 9 1 ≤ 6) && decide (recNat b 10 1 < 8)
    && zeros b 11 1 && zeros b 28 4
    && (let tail := b.drop (32 + recNat b 24 4)
        decide (recNat b 8 1 ≠ 3) || decide (recNat b 24 4 = 0) || tail.isEmpty || (decide (recNat tail 0 1 = 1) && pieceOk tail))

/-- A boundary packet whose items fill it (R332), or a slow notice (R384). -/
def boundaryOk (b : List Byte) : Bool :=
  match recNat b 0 1 with
  | 1 =>
    let items := recNat b 28 4
    let ledger := !bitAt (recNat b 1 1) 2
    decide (recNat b 1 1 < 8) && zeros b 12 4 && decide (b.length = 32 + (if ledger then 16 else 8) * items)
      && (!ledger || (List.range items).all fun i => zeros b (36 + 16 * i) 4)
  | 2 => decide (b.length = 32) && zeros b 3 1 && zeros b 21 11
  | _ => false

/-- A packet of the restart protocol without reserved values (R332). -/
def restartOk (b : List Byte) : Bool :=
  zeros b 1 3 && zeros b 12 4 && match recNat b 0 1 with
    | 1 => decide (b.length = 32) && statusCodes.contains (recNat b 20 2) && zeros b 22 10
    | 2 => decide (b.length = 32) && decide (recNat b 18 1 < 2) && zeros b 19 13
    | 3 => decide (b.length = 8224) && zeros b 18 2 && zeros b 28 4
    | 4 => decide (b.length = 32) && zeros b 18 2 && zeros b 28 4
    | 5 => decide (b.length = 32) && decide (recNat b 24 1 < 4) && zeros b 25 7
    | 6 => decide (b.length = 48) && decide (recNat b 40 1 < 2) && zeros b 41 7
    | 7 => decide (b.length = 32) && decide (recNat b 20 1 < 4) && zeros b 21 11
    | _ => false

/-- The payload of a packet holds no reserved value. -/
def payloadValid (kind : Nat) (b : List Byte) : Bool :=
  match kind with
  | 1 => collHeaderOk b
  | 2 => boundaryOk b
  | 3 => restartOk b
  | 6 => pieceOk b
  | _ => true

/-- A packet that R312 has discarded whatever its epoch: a reserved PKIND, field or value (R11), or another module's address. -/
def packetFlaw (s : State) (pk : List Byte) : Bool :=
  decide (pkKind pk = 0 ∨ 6 < pkKind pk) || !zeros pk 5 1 || !zeros pk 14 2 || decide (pkDst pk ≠ fabAddr s)
    || decide (8576 < pkLength pk) || decide (pk.length ≠ 16 + pkLength pk) || !payloadValid (pkKind pk) (pkPayload pk)

/-- What the fabric does with a packet before its kind matters. -/
inductive Arrival where
  /-- Discarded and counted, or a duplicate. -/
  | gone (s : State)
  /-- The sender is in a later epoch: the receiver joins the restart first (R312). -/
  | later (s : State)
  | here (s : State)
deriving DecidableEq, Repr

/-- A fetch asks for an answer, as a letter does, which its own command answers (R312, R408). -/
def isRequest (pk : List Byte) : Bool := pkKind pk = 6 && decide (recNat pk 16 1 = 4)

/-- A packet by which its source numbers what it sends here (R311). -/
def pkKey (pk : List Byte) : Nat × Nat := (pkSrc pk, pkPseq pk)

/-- R306 and R312: reserved values and the address, duplicates, the epoch. A packet that the data flits brought has passed the first two when
it was assembled. -/
def arrive (pk : List Byte) (s : State) : Arrival :=
  if !s.boot.firmware then .gone s else
  let known := s.fabric.received.contains pk
  let s := { s with fabric := { s.fabric with received := s.fabric.received.erase pk } }
  if packetFlaw s pk then .gone (bump s porchDom Reg.FAB_STALE_COUNT 1)
  else if !known && s.fabric.seen.contains (pkKey pk) then .gone (bump s porchDom Reg.FAB_DUP_COUNT 1)
  else
    let s := if known then s else { s with fabric := { s.fabric with seen := s.fabric.seen ++ [pkKey pk] } }
    if pkEpoch pk < posEpoch s.pos then
      let s := bump s porchDom Reg.FAB_STALE_COUNT 1
      .gone (if isRequest pk then emit (.staleAnswer (pkSrc pk) (pkPseq pk)) s else s)
    else if posEpoch s.pos < pkEpoch pk then .later s
    else .here s

end Sys2Proof.Machine
end

