-- ==== Sys2Proof/Machine/LetterOps.lean ====
section
/-! DEFINITION. Letterboxes (R400 to R412): slots, claims, rings, acknowledgements, releases, and what a reset does to them. A box
is named by its offset in the letterbox range. -/
namespace Sys2Proof.Machine

/-- Box b of owner o (R400). -/
def boxId (o b : Nat) : Nat := o * 0x400000 + b * 0x2000
def boxOwner (box : Nat) : Nat := box / 0x400000
def boxNo (box : Nat) : Nat := box % 0x400000 / 0x2000
abbrev fabricIn : Nat := 0x40 * 0x2000
abbrev fabricOut : Nat := 0x41 * 0x2000

def zeroWord (_ : Nat) : Word := 0
def getBox (s : State) (box off : Nat) : Word := tblGet zeroWord s.boxRegs (box + off)
def setBox (s : State) (box off : Nat) (w : Word) : State := { s with boxRegs := tblSet zeroWord s.boxRegs (box + off) w }
def setBoxBit (s : State) (box off i : Nat) (b : Bool) : State :=
  setBox s box off (BitVec.ofNat 64 (setFld (getBox s box off).toNat i i (b2n b)))

/-- Bytes of a slot. -/
def slotAddr (box n off : Nat) : Nat := box + 0x100 * n + off
def slotRead (s : State) (box n off len : Nat) : List Byte :=
  (List.range len).map fun i => tblGet memDefault s.boxMem (slotAddr box n off + i)
def slotNat (s : State) (box n off len : Nat) : Nat := leNat (slotRead s box n off len)
def slotWrite (s : State) (box n off : Nat) (bs : List Byte) : State :=
  { s with boxMem := tblSetRun memDefault s.boxMem (slotAddr box n off) bs }

/-- STATE and SENDER of a slot: 0 FREE, 1 CLAIMED, 2 POSTED, 3 ACKED (R401). -/
def slotState (s : State) (box n : Nat) : Nat := slotNat s box n 0 1
def slotSender (s : State) (box n : Nat) : Nat := slotNat s box n 1 1
def slotLength (s : State) (box n : Nat) : Nat := slotNat s box n 2 2
def slotSeq (s : State) (box n : Nat) : Nat := slotNat s box n 4 4
def slotPeer (s : State) (box n : Nat) : Nat := slotNat s box n 16 2
def setSlotState (s : State) (box n v : Nat) : State := slotWrite s box n 0 [BitVec.ofNat 8 v]
def freeSlot? (s : State) (box : Nat) : Option Nat := (List.range 16).find? fun n => slotState s box n = 0
/-- FREE, header and payload zeroed (R406). -/
def freeSlot (s : State) (box n : Nat) : State := slotWrite s box n 0 (List.replicate 256 0)

/-- The receiver is Hall software: the domain boxes and FABRIC_IN (R400). -/
def hallReceives (box : Nat) : Bool := decide (boxOwner box = 0) && decide (box ≠ fabricOut)

/-- Signal the receiver: LB_RX_MSI for Hall software, directly for firmware, nobody for the fabric (R402, R404). -/
def signalReceiver (box : Nat) (s : State) : State :=
  if hallReceives box then sendMsi (getBox s box Reg.LB_RX_MSI) s
  else if box = fabricOut then s
  else emit (.firmware (boxOwner box) (boxNo box)) s

/-- Signal the sender of a slot (R402, R405): firmware in a domain box or in an INBOX slot that another domain rang; otherwise
LB_ACK_MSI. -/
def signalSender (box n : Nat) (s : State) : State :=
  let src := slotNat s box n 8 1
  if boxOwner box = 0 ∧ box ≠ fabricOut then emit (.firmware (boxNo box) (boxNo box)) s
  else if boxOwner box ≠ 0 ∧ src ≠ 0 then emit (.firmware src (boxNo box)) s
  else sendMsi (getBox s box Reg.LB_ACK_MSI) s

/-- ACKED with a code (R405). -/
def ackSlot (box n code : Nat) (s : State) : State :=
  let seq := slotSeq s box n
  let s := slotWrite (setSlotState s box n 3) box n 10 (leBytes 2 code ++ leBytes 4 seq)
  signalSender box n (setBoxBit s box Reg.LB_ACKED n true)

/-- LB_CLAIM (R403): the lowest FREE slot, or NONE; a lost receiver gives none (R409). -/
def claim (box sender : Nat) (s : State) : State :=
  let grant := Reg.LB_GRANT0 + 8 * sender
  match (if bitAt (getBox s box Reg.LB_STATUS).toNat 3 then none else freeSlot? s box) with
  | some n =>
    setBox (slotWrite s box n 0 [1, BitVec.ofNat 8 sender]) box grant (BitVec.ofNat 64 (n + 16))
  | none => setBox s box grant 32

/-- Put a doorbell bit; the receiver is signalled when it becomes set while unmasked (R404). -/
def setBell (box i : Nat) (s : State) : State :=
  let was := bitAt (getBox s box Reg.LB_DOORBELL).toNat i
  let s := setBoxBit s box Reg.LB_DOORBELL i true
  if !was && !bitAt (getBox s box Reg.LB_MASK).toNat i then signalReceiver box s else s

/-- A packet of PKIND 0x05 in TC2: its route header takes the EPOCH of its destination's roster entry as it leaves (R408). -/
def sendTc2 (dst : Nat) (payload : List Byte) (s : State) : State := sendPacket 2 5 dst (payload.take 8576) s

/-- An acknowledgement of a FABRIC_IN message goes back to its source (R408). -/
def returnAck (dst seq code : Nat) (s : State) : State :=
  sendTc2 dst (Config.ackPayload seq code) (emit (.letterAck dst seq code) s)

/-- What the fabric does with a rung FABRIC_OUT slot (R408). A stopped module's request is refused (R327, log entry 125). -/
def sendLetter (n : Nat) (s : State) : State :=
  let peer := slotPeer s fabricOut n
  if fabState s = fabStopped then ackSlot fabricOut n stMinority s else
  match s.fabric.roster.find? fun p => p.addr = peer with
  | none => ackSlot fabricOut n stAbortedReset s
  | some p =>
    let seq := slotSeq s fabricOut n
    let message := slotRead s fabricOut n 32 (slotLength s fabricOut n)
    sendTc2 peer (Config.letterPayload seq message) (emit (.letter peer p.epoch seq message) s)

/-- LB_RING (R404): post a slot claimed by the sender; src is the ringing agent as SRC records it. A lost receiver answers at
once (R409). -/
def ring (box sender n src : Nat) (s : State) : State :=
  if slotState s box n = 1 ∧ slotSender s box n = sender ∧ slotLength s box n ≤ 224 ∧ box ≠ fabricIn then
    let s := setBell box sender (slotWrite (setSlotState s box n 2) box n 8 (leBytes 2 src))
    if box = fabricOut then sendLetter n s
    else if bitAt (getBox s box Reg.LB_STATUS).toNat 3 then ackSlot box n stAbortedReset s
    else s
  else setBoxBit s box Reg.LB_STATUS 0 true

/-- Fill a FREE slot of FABRIC_IN with a partner's message (R408). -/
def fillIn (src seq : Nat) (payload : List Byte) (n : Nat) (s : State) : State :=
  let s := slotWrite s fabricIn n 0 ([2, 0] ++ leBytes 2 payload.length ++ leBytes 4 seq ++ List.replicate 8 0
    ++ leBytes 2 src ++ List.replicate 14 0 ++ payload)
  let s := signalReceiver fabricIn s
  if (freeSlot? s fabricIn).isNone then sendMsi (getBox s fabricIn Reg.LB_FULL_MSI) s else s

/-- FABRIC_IN has lost its receiver: a message is answered at once (R409). -/
def answerLost (src seq : Nat) (s : State) : State := returnAck src seq stAbortedReset s

/-- A slot of FABRIC_IN is free again: the oldest held packet takes it (R408, R412). -/
def serveHeld (s : State) : State :=
  match s.fabric.held, freeSlot? s fabricIn with
  | (src, seq, payload) :: rest, some n =>
    releaseDue (fun a _ => a = src) (fillIn src seq payload n { s with fabric := { s.fabric with held := rest } })
  | _, _ => s

/-- LB_ACK (R405); on FABRIC_IN the code goes back to the source and the slot is free at once (R408). -/
def acknowledge (box n seq code : Nat) (s : State) : State :=
  if slotState s box n = 2 ∧ slotSeq s box n = seq then
    if box = fabricIn then
      serveHeld (freeSlot (returnAck (slotPeer s box n) seq code s) box n)
    else ackSlot box n code s
  else setBoxBit s box Reg.LB_STATUS 1 true

/-- LB_RELEASE (R406); FABRIC_IN takes none (R408). -/
def releaseSlot (box n sender : Nat) (s : State) : State :=
  let st := slotState s box n
  if (st = 1 ∨ st = 3) ∧ slotSender s box n = sender ∧ box ≠ fabricIn then freeSlot s box n
  else setBoxBit s box Reg.LB_STATUS 2 true

/-- A write of LB_MASK: clearing a mask bit whose doorbell bit is 1 signals the receiver, once per write (R404). -/
def maskWrite (box v : Nat) (s : State) : State :=
  let old := (getBox s box Reg.LB_MASK).toNat
  let bell := (getBox s box Reg.LB_DOORBELL).toNat
  let s := setBox s box Reg.LB_MASK (BitVec.ofNat 64 (v % 2 ^ 32))
  if (List.range 32).any fun i => bitAt old i && !bitAt v i && bitAt bell i then signalReceiver box s else s

/-- Registers of a box that show its slots: LB_STATE and LB_STATUS.POSTED (R402). -/
def boxView (s : State) (box off : Nat) : Word :=
  if off = Reg.LB_STATE then
    BitVec.ofNat 64 (((List.range 16).map fun n => slotState s box n * 4 ^ n).foldl (· + ·) 0)
  else if off = Reg.LB_STATUS then
    BitVec.ofNat 64 ((getBox s box off).toNat % 16 + 16 * ((List.range 16).filter fun n => slotState s box n = 2).length)
  else getBox s box off

/-- The boxes that a domain receives (R409). -/
def boxesOf (s : State) (dom : Nat) : List Nat :=
  if dom = 0 then fabricIn :: ((domainIds s.variant).filter (· ≠ 0)).map (boxId 0) else [boxId dom 0]

/-- One slot of a box whose receiver is reset (R409). -/
def resetSlot (box : Nat) (s : State) (n : Nat) : State :=
  let st := slotState s box n
  if st = 1 ∨ st = 2 then
    if box = fabricIn then
      freeSlot (returnAck (slotPeer s box n) (slotSeq s box n) stAbortedReset s) box n
    else ackSlot box n stAbortedReset (slotWrite s box n 32 (List.replicate 224 0))
  else s

/-- Letterboxes at step 1 of a domain's reset (R409, R410). -/
def resetBoxes (dom : Nat) (s : State) : State :=
  let s := (boxesOf s dom).foldl (fun s box =>
    setBox ((List.range 16).foldl (resetSlot box) s) box Reg.LB_DOORBELL 0) s
  let drop := fun (box : Nat) (own : Nat → Bool) (s : State) =>
    (List.range 16).foldl (fun s n => if slotState s box n = 1 ∧ own (slotSender s box n) = true then freeSlot s box n else s) s
  if dom = 0 then (List.range 16).foldl (fun s _ => serveHeld s) (drop fabricOut (fun _ => true) s)
  else drop (boxId 0 dom) (fun i => decide (i = 0)) s

/-- Messages that wait for a slot of a FABRIC_IN whose receiver is lost are answered (R409). -/
def answerHeld (s : State) : State :=
  s.fabric.held.foldl (fun s h => releaseDue (fun a _ => a = h.1) (answerLost h.1 h.2.1 s))
    { s with fabric := { s.fabric with held := [] } }

/-- A box whose receiver is lost answers what stands POSTED in it (R409). -/
def answerPosted (box : Nat) (s : State) : State :=
  (List.range 16).foldl (fun s n => if slotState s box n = 2 then resetSlot box s n else s) s

/-- RECEIVER_LOST of every box of a domain (R409): what waits there for the receiver is answered. -/
def setReceiverLost (dom : Nat) (b : Bool) (s : State) : State :=
  let s := (boxesOf s dom).foldl (fun s box =>
    let s := setBoxBit s box Reg.LB_STATUS 3 b
    if b then answerPosted box s else s) s
  if b && decide (dom = 0) then answerHeld s else s

/-- A message rung on FABRIC_OUT whose peer departs is answered (R408). -/
def answerDeparted (addr : Nat) (s : State) : State :=
  (List.range 16).foldl (fun s n =>
    if slotState s fabricOut n = 2 ∧ slotPeer s fabricOut n = addr then ackSlot fabricOut n stAbortedReset s else s) s

end Sys2Proof.Machine
end

