-- ==== Sys2Proof/Machine/StairOps.lean ====
section
/-! DEFINITION. The Stair position and the waits on it: every change of the position goes through moveTo (R278 to R280, R294,
R297), which ends the WAITSTs that the new position satisfies. -/
namespace Sys2Proof.Machine

/-- A domain's low-power machine; S0 when nothing is recorded. -/
def getLp (s : State) (dom : Nat) : LowPower :=
  (s.lps.find? fun l => l.dom = dom).getD ⟨dom, 0, .stay, none, false, 0⟩
def setLp (s : State) (l : LowPower) : State :=
  setRf { s with lps := upsert (fun x => x.dom = l.dom) l s.lps } l.dom Reg.LP_STATE 2 0 l.state
/-- The domain is in S0 and not on its way out of it. -/
def awake (s : State) (dom : Nat) : Bool := let l := getLp s dom; l.state = 0 && l.phase = .stay

/-- A wake begins, or waits for the end of an entry (R298). -/
def startWake (dom : Nat) (s : State) : State :=
  let l := getLp s dom
  if l.state = 0 then s
  else match l.phase with
    | .entering => setLp s { l with event := true }
    | .stay => setLp s { l with phase := .waking }
    | .waking => s

/-- An event for a domain that is not in S0 counts as late and wakes it (R298). -/
def lateEvent (dom : Nat) (s : State) : State :=
  if (getLp s dom).state = 0 then s else startWake dom (bump s dom Reg.LP_WAKE_LATE_COUNT 1)

/-- Move a unit past its current word; at WORDS the program ends (R244). -/
def advance (x : ProgUnit) (by' : Nat) : ProgUnit :=
  let pc := x.pc + by'
  { x with pc := pc, ended := x.ended || decide (x.store.length ≤ pc) }

/-- How a WAITST stands against a position (R273, R294): arrived (some true), expired (some false), still waiting (none). The
arrival is tested first, so it wins over a deadline reached with it. -/
def waitResult (x : ProgUnit) (f : Fields) (p : Pos) : Option Bool :=
  if (stReg x (slotF1 f % 4)).toNat ≤ p.toNat then some true
  else if bitAt f.toNat 0 ∧ (stReg x (slotF2 f % 4)).toNat ≤ p.toNat then some false
  else none

/-- A unit in WAITST whose wait the position ends. A WAITST that waits for room among 32 operations has not issued (R245). -/
def waitEnds (p : Pos) (x : ProgUnit) : Option (Fields × Bool) :=
  match x.waiting with
  | some (.waitst _ f) => if 32 ≤ x.inFlight.length then none else (waitResult x f p).map fun b => (f, b)
  | _ => none

/-- End the wait of one unit when the position satisfies it. -/
def serveWait (p : Pos) (x : ProgUnit) : ProgUnit :=
  match waitEnds p x with
  | some (f, b) => advance { setP x (slotF3 f % 8) b with waiting := none } 1
  | none => x

/-- Serve the waits of every unit whose domain is awake and not suspended (R233, R273, R298). -/
def serveWaits (s : State) : State :=
  { s with units := s.units.map fun x =>
      if x.running && !x.paused && awake s x.ref.dom && !inReset s x.ref.dom then serveWait s.pos x else x }

/-- LP_HINT clears in every die when a field above TICK changes (R297). -/
def clearHints (s : State) : State := (dies s).foldl (fun s d => setRf s d Reg.LP_HINT 47 0 0) s

/-- A HUPD in flight when its step ends keeps the decision of that step (R149, R169). -/
def keepDecision (s : State) (dom : Nat) (o : Op) : Op :=
  match o.need with
  | .update b step none =>
    if rb s dom Reg.TRAIN_STEP_STATUS 33 && rf s dom Reg.TRAIN_STEP_STATUS 31 0 = step then
      { o with need := .update b step (some (rb s dom Reg.TRAIN_STEP_STATUS 34)) }
    else o
  | _ => o
def keepDecisions (s : State) : State :=
  { s with units := s.units.map fun x => { x with inFlight := x.inFlight.map (keepDecision s x.ref.dom) } }

/-- The training fields take a new STEP with every flag cleared (R171), and its start tick is kept for slow notices (R383). -/
def freshStep (p : Pos) (s : State) : State :=
  let s := keepDecisions s
  let s := (fittedOf s .cd).foldl (fun s d => setRf s d Reg.TRAIN_STEP_STATUS 35 0 (posStep p)) s
  { s with stepTick := posTick p, train := { s.train with request := false, left := false, carried := false } }

/-- The position ends a wait in a domain: a unit's WAITST, or a pending landing of its table (R298, log entry 50). -/
def waitSatisfied (s : State) (dom : Nat) : Bool :=
  (s.units.any fun x => x.ref.dom = dom && x.running && !x.paused && (waitEnds s.pos x).isSome)
    || s.landings.any fun l => l.table = dom && !l.fired && decide (l.target.toNat ≤ s.pos.toNat)

/-- A change of a higher field that satisfies a wait wakes the domains that wait so (R298). -/
def wakeWaiters (s : State) : State :=
  (dies s).foldl (fun s d => if waitSatisfied s d && !isDown s d then lateEvent d s else s) s

/-- Give the Stair a new position (R278, R279). -/
def moveTo (p : Pos) (s : State) : State :=
  let higher := p.toNat / 2 ^ 48 ≠ s.pos.toNat / 2 ^ 48
  let newStep := p.toNat / 2 ^ 72 ≠ s.pos.toNat / 2 ^ 72
  let s := { s with pos := p }
  let s := if newStep then freshStep p s else s
  serveWaits (if higher then wakeWaiters (clearHints s) else s)

/-- Change only TICK; it never wraps (R287). -/
def moveTick (t : Nat) (s : State) : State :=
  moveTo (mkPos (posEpoch s.pos) (posStep s.pos) (posMb s.pos) (posPhase s.pos) (min t (2 ^ 48 - 1))) s

/-- A write of STAIR_SET (R280): forward only; a smaller pair is ignored and recorded. -/
def stairSet (v : Nat) (s : State) : State :=
  let new := fld v 23 8 * 256 + fld v 7 0
  let old := posMb s.pos * 256 + posPhase s.pos
  if old < new then moveTo (mkPos (posEpoch s.pos) (posStep s.pos) (fld v 23 8) (fld v 7 0) (posTick s.pos)) s
  else if new = old then s
  else setPf s Reg.STAIR_SYNC 18 18 1

end Sys2Proof.Machine
end

