-- ==== Sys2Proof/Machine/StashOps.lean ====
section
/-! DEFINITION. The stash machinery of R172 to R185: pages, placement, drops, moves, release and close. The header and the entry
records are read from memory at each use (R443); the budget is the one granted at OPEN. -/
namespace Sys2Proof.Machine

/-- The stash header's fields (R174). -/
def hdrCount (s : State) (h : Nat) : Nat := readNat s (h + 4) 4
def hdrTable (s : State) (h : Nat) : Nat := readNat s (h + 8) 8 % 2 ^ 44
def hdrBudget (s : State) (h : Nat) : Nat := readNat s (h + 16) 4
def hdrAttic (s : State) (h : Nat) : Nat := readNat s (h + 24) 8 % 2 ^ 44
def hdrAtticPages (s : State) (h : Nat) : Nat := readNat s (h + 32) 4
def hdrDropLog (s : State) (h : Nat) : Nat := readNat s (h + 40) 8 % 2 ^ 44
def hdrDrops (s : State) (h : Nat) : Nat := readNat s (h + 48) 4
def hdrSeq (s : State) (h : Nat) : Nat := readNat s (h + 52) 4

/-- The entry record's fields (R175). -/
def entAddr (s : State) (h e : Nat) : Nat := hdrTable s h + 32 * e
def entCtrl (s : State) (h e : Nat) : Nat := readNat s (entAddr s h e + 4) 1
def entState (s : State) (h e : Nat) : Nat := readNat s (entAddr s h e + 5) 1
def entSize (s : State) (h e : Nat) : Nat := readNat s (entAddr s h e + 8) 8
def entWritten (s : State) (h e : Nat) : Nat := readNat s (entAddr s h e + 16) 8
def entSeq (s : State) (h e : Nat) : Nat := readNat s (entAddr s h e + 24) 4
def recomputable (s : State) (h e : Nat) : Bool := bitAt (entCtrl s h e) 0
/-- The pages an entry takes: z of R177. -/
def entPages (s : State) (h e : Nat) : Nat := ceilDiv (entSize s h e) pageSize

def setEntState (s : State) (h e v : Nat) : State := writeNat s (entAddr s h e + 5) 1 v
def setEntWritten (s : State) (h e v : Nat) : State := writeNat s (entAddr s h e + 16) 8 v

def findStash (s : State) (h : Nat) : Option Stash := s.stash.stashes.find? fun x => x.header = h
def setStash (s : State) (x : Stash) : State :=
  { s with stash := { s.stash with stashes := s.stash.stashes.map fun y => if y.header = x.header then x else y } }

/-- Pages a stash holds in one region, both copies of a moving entry counted (R184). -/
def pagesIn (x : Stash) (attic : Bool) : List Nat :=
  (x.placed.filter fun e => e.attic = attic).flatMap (·.pages) ++ (x.moves.filter fun m => m.toAttic = attic).flatMap (·.pages)

def larderUsed (x : Stash) : Nat := (pagesIn x false).length
def atticUsed (x : Stash) : Nat := (pagesIn x true).length
/-- Larder pages that no open stash holds, on the MSDs that serve the stashes (R172, R173). -/
def larderLeft (s : State) : Nat :=
  sharePages s * (presentOf s .msd).length
    - ((s.stash.stashes.flatMap fun y => pagesIn y false).filter fun a => (sramDom a).any (present s)).length
/-- Larder pages that a stash may still take: within its budget, and only pages that exist once an MSD is lost. -/
def larderFree (s : State) (x : Stash) : Nat := min (x.budget - larderUsed x) (larderLeft s)
def atticFree (s : State) (x : Stash) : Nat := hdrAtticPages s x.header - atticUsed x

/-- Write LARDER_USED and ATTIC_USED into the header. -/
def storeUsed (s : State) (x : Stash) : State :=
  writeNat (writeNat s (x.header + 20) 4 (larderUsed x)) (x.header + 36) 4 (atticUsed x)

def putStash (s : State) (x : Stash) : State := storeUsed (setStash s x) x

/-- Larder pages are taken from the top of a Larder downward (R172): page k of an MSD. -/
def larderPage (dom k : Nat) : Nat := slotBase dom + sramSize dom - (k + 1) * pageSize

/-- Take n Larder pages round-robin over the MSDs that serve the stash (R173); within an MSD the topmost free page (log entry
14). The answer is the pages and the next position of the round. -/
def takeLarder (s : State) (used : List Nat) : Nat → Nat → List Nat → List Nat × Nat
  | 0, cur, acc => (acc, cur)
  | n + 1, cur, acc =>
    let msds := presentOf s .msd
    let free := fun d => ((List.range (sharePages s)).map (larderPage d)).find? fun a => !(used.contains a) && !(acc.contains a)
    let order := (List.range msds.length).map fun i => (cur + i) % msds.length
    match order.find? (fun i => (free (msds.getD i 0)).isSome) with
    | some i => takeLarder s used n (i + 1) (acc ++ [(free (msds.getD i 0)).getD 0])
    | none => (acc, cur)

/-- Take n Attic pages, lowest first (log entry 14). -/
def takeAttic (s : State) (x : Stash) (n : Nat) : List Nat :=
  (((List.range (hdrAtticPages s x.header)).map fun k => hdrAttic s x.header + k * pageSize).filter
    fun a => !((pagesIn x true).contains a)).take n

/-- Pages for z of an entry in one region; the round-robin position moves with a Larder allocation. -/
def allocate (s : State) (x : Stash) (attic : Bool) (z : Nat) : State × List Nat :=
  if attic then (s, takeAttic s x z)
  else
    let used := s.stash.stashes.flatMap fun y => pagesIn y false
    let r := takeLarder s used z s.stash.cursor []
    ({ s with stash := { s.stash with cursor := r.2 } }, r.1)

/-- An operation whose move is cancelled has nothing left to wait for (R184). -/
def freeMover (m : StashMove) (s : State) : State :=
  let x := getUnit s m.mover
  setUnit s { x with inFlight := x.inFlight.map fun o => if o.id = m.op then { o with need := .work } else o }

/-- Forget an entry's pages and its move. -/
def unplace (h e : Nat) (s : State) : State :=
  match findStash s h with
  | none => s
  | some x =>
    let s := (x.moves.filter fun m => m.entry = e).foldl (fun s m => freeMover m s) s
    putStash s { x with placed := x.placed.filter (fun p => p.entry ≠ e), moves := x.moves.filter (fun m => m.entry ≠ e) }

/-- A drop (R178): pages freed, STATE 4, WRITTEN 0, drop log, counts. -/
def dropEntry (h e : Nat) (s : State) : State :=
  let s := setEntWritten (setEntState (unplace h e s) h e 4) h e 0
  let n := hdrDrops s h
  let s := if n < hdrCount s h then writeMem s (hdrDropLog s h + 8 * n) (leBytes 4 e ++ leBytes 4 (entSeq s h e)) else s
  bump (writeNat s (h + 48) 4 ((n + 1) % 2 ^ 32)) 0x20 Reg.STASH_DROP_COUNT 1

/-- The entry takes WRITE_SEQ from the header (R177). -/
def takeSeq (h e : Nat) (s : State) : State :=
  let n := hdrSeq s h
  writeNat (writeNat s (entAddr s h e + 24) 4 n) (h + 52) 4 ((n + 1) % 2 ^ 32)

/-- Steps 1 and 2 of R177 (none: neither region has room). -/
def placeNow (h e : Nat) (s : State) : Option State :=
  match findStash s h with
  | none => none
  | some x =>
    let z := entPages s h e
    let go := fun (attic : Bool) (s : State) =>
      let a := allocate s x attic z
      let s := putStash a.1 { x with placed := x.placed ++ [⟨e, attic, a.2, []⟩] }
      setEntWritten (setEntState s h e (if attic then 2 else 1)) h e 0
    if z ≤ larderFree s x then some (takeSeq h e (go false s))
    else if z ≤ atticFree s x then some (bump (takeSeq h e (go true s)) 0x20 Reg.STASH_SPILL_COUNT 1)
    else none

/-- Entries that an unfinished read holds (R181). -/
def entriesRead (s : State) (h : Nat) : List Nat :=
  s.units.flatMap fun x => x.inFlight.flatMap fun o => (o.rdEntries.filter fun r => r.1 = h).map (·.2)

/-- A RELEASE of the entry, or a CLOSE of its stash, waits at issue: it refuses the reads that come after it (R185, log entry 114). -/
def releaseWaits (s : State) (h e : Nat) : Bool :=
  s.units.any fun x => match x.waiting with
    | some (.release _ f) => gReg x (slotF1 f) = h && gReg x (slotF2 f) = e
    | some (.closeStash _ f) => gReg x (slotF1 f) = h
    | _ => false

/-- Recomputable placed entries, youngest first, those under an unfinished read passed over (R177 step 4). -/
def victims (s : State) (x : Stash) : List Nat :=
  let es := (x.placed.map (·.entry)).filter fun e => recomputable s x.header e && !(entriesRead s x.header).contains e
  sortBy (fun a b => decide (entSeq s x.header b ≤ entSeq s x.header a)) es

/-- Both regions' free pages once the listed entries are gone. -/
def freeAfter (s : State) (x : Stash) (gone : List Nat) : Nat × Nat :=
  let y := { x with placed := x.placed.filter (fun p => !gone.contains p.entry),
                    moves := x.moves.filter (fun m => !gone.contains m.entry) }
  (larderFree { s with stash := { s.stash with stashes := s.stash.stashes.map fun o => if o.header = x.header then y else o } } y, atticFree s y)

/-- The outcome of placing an entry (R177). -/
inductive Placement where
  | placed (s : State)
  | discarded (s : State)
  | exhausted
deriving DecidableEq, Repr

/-- R177, steps 1 to 5, for an entry in STATE 0, 4 or 5. -/
def placeEntry (h e : Nat) (s : State) : Placement :=
  match placeNow h e s with
  | some s' => .placed s'
  | none =>
    if recomputable s h e then .discarded (dropEntry h e (takeSeq h e s))
    else match findStash s h with
      | none => .exhausted
      | some x =>
        let vs := victims s x
        let z := entPages s h e
        let fits := fun n => let f := freeAfter s x (vs.take n); decide (z ≤ f.1) || decide (z ≤ f.2)
        match (List.range (vs.length + 1)).find? fits with
        | none => .exhausted
        | some n =>
          match placeNow h e ((vs.take n).foldl (fun s v => dropEntry h v s) s) with
          | some s' => .placed s'
          | none => .exhausted

/-- The pages that serve an entry's reads: the old ones until a move's switch (R184). -/
def entryPages (s : State) (h e : Nat) : List Nat :=
  match findStash s h with
  | none => []
  | some x => ((x.placed.find? fun p => p.entry = e).map (·.pages)).getD []

/-- The pages of every copy of an entry. -/
def entryCopies (s : State) (h e : Nat) : List (List Nat) :=
  match findStash s h with
  | none => []
  | some x => (x.placed.filter fun p => p.entry = e).map (·.pages) ++ (x.moves.filter fun m => m.entry = e && m.copying).map (·.pages)

/-- The address of a byte of an entry on given pages. -/
def onPages (pages : List Nat) (o : Nat) : Nat := pages.getD (o / pageSize) 0 + o % pageSize

/-- The Attic region of a stash overlaps another open stash's: whatever is read from either is undefined (R176). -/
def overlapped (s : State) (h : Nat) : Bool :=
  let attic := fun (x : Nat) => (hdrAttic s x, hdrAtticPages s x * pageSize)
  s.stash.stashes.any fun y => y.header ≠ h && overlaps (attic h).1 (attic h).2 (attic y.header).1 (attic y.header).2

/-- Bytes of an entry as a read returns them (R181); of a stash whose Attic overlaps another's, free values (log entry 16). -/
def readEntry (s : State) (h e off n : Nat) : List Byte :=
  let pages := entryPages s h e
  let lost := overlapped s h
  (List.range n).map fun i => if lost then Config.overlapByte (s.freeCtr + off + i) else getByte s (onPages pages (off + i))

/-- Write bytes into every copy of an entry (R184). -/
def writeEntryAt (h e : Nat) (s : State) (off : Nat) (bs : List Byte) : State :=
  (entryCopies s h e).foldl (fun s pages =>
    (bs.zipIdx).foldl (fun s p => writeMem s (onPages pages (off + p.2)) [p.1]) s) s

/-- Add the range [lo, hi) to ascending ranges that lie apart. -/
def addRange : List (Nat × Nat) → Nat → Nat → List (Nat × Nat)
  | [], lo, hi => [(lo, hi)]
  | (a, b) :: t, lo, hi =>
    if hi < a then (lo, hi) :: (a, b) :: t
    else if b < lo then (a, b) :: addRange t lo hi
    else addRange t (min a lo) (max b hi)

/-- WRITTEN counts the bytes of the entry that have been written (R175); the ranges are (first byte, length). -/
def addWritten (h e : Nat) (ranges : List (Nat × Nat)) (s : State) : State :=
  match findStash s h with
  | none => s
  | some x =>
    let old := ((x.placed.find? fun p => p.entry = e).map (·.written)).getD []
    let now := (ranges.filter fun r => r.2 ≠ 0).foldl (fun l r => addRange l r.1 (r.1 + r.2)) old
    let s := setStash s { x with placed := x.placed.map fun p => if p.entry = e then { p with written := now } else p }
    setEntWritten s h e ((now.map fun r => r.2 - r.1).foldl (· + ·) 0)

/-- RELEASE of one entry (R185). -/
def releaseEntry (h e : Nat) (s : State) : State :=
  let st := entState s h e
  if 1 ≤ st ∧ st ≤ 4 then setEntState (unplace h e s) h e 5 else s

/-- CLOSE (R185): every entry released, the stash inactive; with the last one a waiting share takes effect (R191). -/
def closeStashAt (h : Nat) (s : State) : State :=
  let s := (List.range (hdrCount s h)).foldl (fun s e => releaseEntry h e s) s
  let rest := s.stash.stashes.filter fun x => x.header ≠ h
  { s with stash := { s.stash with stashes := rest,
                                   share := if rest.isEmpty then rf s 0x20 Reg.STASH_LARDER_SHARE 14 0 else s.stash.share } }

/-- A write of STASH_LARDER_SHARE: in force at once while no stash is open (R191). -/
def shareWritten (s : State) : State :=
  if s.stash.stashes.isEmpty then
    { s with stash := { s.stash with share := rf s 0x20 Reg.STASH_LARDER_SHARE 14 0 } } else s

/-- Larder pages that no open stash's budget takes (R176). -/
def freeShare (s : State) : Nat :=
  sharePages s * (presentOf s .msd).length - (s.stash.stashes.map (·.budget)).foldl (· + ·) 0

/-- End a move that a restart stops (R184): the entry returns to its source state, the new pages are freed. -/
def cancelMove (h : Nat) (m : StashMove) (s : State) : State :=
  match findStash s h with
  | none => s
  | some x =>
    let s := putStash s { x with moves := x.moves.filter (· ≠ m) }
    if m.copying then setEntState s h m.entry (if m.toAttic then 1 else 2) else s

/-- The moves of every open stash that p picks end as at a restart. -/
def cancelMovesOf (p : StashMove → Bool) (s : State) : State :=
  s.stash.stashes.foldl (fun s x => (x.moves.filter p).foldl (fun s m => cancelMove x.header m s) s) s
def cancelMoves (s : State) : State := cancelMovesOf (fun _ => true) s

end Sys2Proof.Machine
end

