-- ==== Sys2Proof/Machine/Recovery.lean ====
section
/-! DEFINITION. The job restart (R324, R345, R248) and the domain reset (R340 to R343), as operations that many events start. -/
namespace Sys2Proof.Machine

/-- A unit's program is over: nothing runs, nothing waits, nothing is in flight. -/
def stopUnit (x : ProgUnit) : ProgUnit := { idleUnit x.ref with nextOp := x.nextOp }

/-- A command that caused a restart is marked: it keeps its status through later faults, too (R227). -/
def keepCmd (q seq : Nat) (s : State) : State :=
  let x := getQueue s q
  setQueue s { x with cmds := x.cmds.map fun c => if c.seq = seq then { c with kept := true } else c }

/-- A restart aborts the command: one that caused a restart, or is aborted already, stays as it is. -/
def abortable (c : Cmd) : Bool := !c.kept && !(decide (c.stage = .finished) && decide (c.status = stAbortedRestart))

/-- The unwritten commands of one queue are aborted, each after its CLASS 4 record (R227, R345), with the flags of its operations so far
(R223). -/
def abortQueue (cause : Nat) (s : State) (q : Nat) : State :=
  ((getQueue s q).cmds.filter abortable).foldl (fun s c =>
    finishCmd q c.seq stAbortedRestart (runFlags s q c.seq) (logFault
      { status := stAbortedRestart, cls := 4, dom := q / 256, cmd := some (q, c.seq), detail := some (cause, 0, 0) } s)) s

/-- The flags that the RUNs of a queue have so far go into their commands before their units stop (R223). -/
def noteFlags (s : State) (q : Nat) : State :=
  let x := getQueue s q
  setQueue s { x with cmds := x.cmds.map fun c => { c with flags := c.flags ||| runFlags s q c.seq } }

/-- Queue IDs of every domain that is not down, in ascending order. -/
def liveQueues (s : State) : List Nat :=
  ((dies s).filter fun d => !isDown s d).flatMap fun d => (List.range 16).map fun q => d * 256 + q

/-- A restore, export or import has ended: STATE finished with its STATUS, and the message of R399. -/
def endRestore (status : Nat) (s : State) : State :=
  let s := setPf (setPf s Reg.RST_STATUS 1 0 3) Reg.RST_STATUS 31 16 status
  sendMsi (getReg s porchDom Reg.HALL_MSI_RESTORE) { s with restore := Restore.initial }

/-- An anchor copy in progress is discarded; complete anchors stay (R361). -/
def dropAnchorCopy (s : State) : State :=
  let partial' := fun (anchor : Bool) (step : Nat) =>
    s.annex.anchorLanding.isSome && anchor && decide (step = s.annex.anchorAt) && decide (step ≠ rf s porchDom Reg.ANNEX_STATE 63 32)
  let a := { s.annex with pieces := s.annex.pieces.filter (fun p => !partial' (bitAt p.flags 2) p.step)
                          gens := s.annex.gens.filter (fun g => !partial' g.anchor g.step) }
  { s with annex := { a with owed := [], ridden := [], anchorLanding := none, anchors := [] } }

/-- Every operation that waits or runs stops, and every accepted command is aborted (R248, R227, R345); landings are cancelled
(R293), stash moves undone (R184), grants ended (R371), collectives, the boundary and a running restore dropped (R361). -/
def abortAll (cause : Nat) (keep : Option (Nat × Nat)) (s : State) : State :=
  let s := (liveQueues s).foldl (abortQueue cause) (keep.elim s fun c => keepCmd c.1 c.2 s)
  let s := cancelMoves s
  let s := { s with units := s.units.map fun x => if isDown s x.ref.dom then x else stopUnit x }
  let s := dropGrants (fun _ => true) (abortLandings s)
  let late := fun (e : Nat) => decide (posEpoch s.pos < e)
  let s := { s with colls := [], boundary := none, early := s.early.filter fun e => late e.epoch }
  let s := { s with fabric := { s.fabric with earlyColl := s.fabric.earlyColl.filter fun e => late e.epoch } }
  let s := dropAnchorCopy (setPf s Reg.STAIR_SYNC 20 20 0)
  if pf s Reg.RST_STATUS 1 0 = 2 then endRestore stAbortedRestart s else s

/-- The payload common to PKIND 0x03 packets (R332). -/
def restartPayload (s : State) (rkind : Nat) (rest : List Byte) : List Byte :=
  [BitVec.ofNat 8 rkind, 0, 0, 0] ++ leBytes 4 (jobId s) ++ leBytes 2 (jobRank s) ++ leBytes 2 (posEpoch s.pos)
    ++ [0, 0, 0, 0] ++ rest

/-- Tell every present member (R324). -/
def sendRestart (cause status : Nat) (s : State) : State :=
  sendToMembers 1 3 (restartPayload s 1 (leBytes 4 cause ++ leBytes 2 status ++ List.replicate 10 0)) s

/-- JOB_RESTART (R324): in a running job the module enters RESTARTING, counts the restart, tells the members and aborts its
work. A restart that is already running is counted once. Outside a job, a local job-restart fault stops the work alone (R314;
log entry 24 for FORMING and STOPPED_MINORITY). -/
def jobRestart (cause status : Nat) (keep : Option (Nat × Nat)) (s : State) : State :=
  if fabState s = fabRunning then
    let s := bump (setFabState fabRestarting s) porchDom Reg.FAB_RESTART_COUNT 1
    let f := { s.fabric with voted := none, votes := [], settled := false, agreeing := false, agrees := [], restoreTo := none }
    let s := { s with fabric := { f with cause := cause, causeStatus := status, coordinator := none } }
    abortAll cause keep (sendRestart cause status s)
  else if fabState s = fabRestarting then
    abortAll cause keep s
  else abortAll cause keep s

/-- A packet of a later epoch makes a RUNNING module join the restart (R312, R324). -/
def joinRestart (s : State) : State := if fabState s = fabRunning then jobRestart 0 0 none s else s

/-- A local job-restart fault (R344): its CLASS 4 record, then the restart that it causes. -/
def restartFault (f : FaultInfo) (keep : Option (Nat × Nat)) (s : State) : State :=
  let n := nextLogSeq s
  jobRestart n f.status keep (logFault f s)

/-- The module is out of its job: FAB_STATE and FAB_MEMBERS are as in NO_JOB after reset (R314, log entry 128). -/
def leaveJob (s : State) : State :=
  let s := setPf (setPf s Reg.FAB_STATE 47 32 0) Reg.FAB_MEMBERS 16 0 0
  let s := setFabState fabNoJob (setPf s Reg.FAB_STATE 3 3 0)
  let f := { s.fabric with voted := none, votes := [], settled := false, agreeing := false, agrees := [], restoreTo := none }
  setPf { s with fabric := { f with members := [], earlyColl := [] }, boundary := none, early := [] } Reg.STAIR_SYNC 20 20 0

/-- The module takes itself out of its job, as a write to FAB_JOB does: its descriptor names no job from then on (R308, R313, R343). -/
def takeOut (s : State) : State :=
  let s := leaveJob s
  announceSelf { s with fabric := { s.fabric with out := true } }

/-- Every open stash is closed when an MSD is reset; its entries read STATE 5 (R342). -/
def closeAllStashes (s : State) : State := (s.stash.stashes.map (·.header)).foldl (fun s h => closeStashAt h s) s

/-- What a domain that stops carries with it: letterboxes, units, landings, grants, walks, moves, collectives, stashes, ports. Its
accepted commands wait for the completions of R227. -/
def dropDomain (dom : Nat) (s : State) : State :=
  let s := loseLandings dom (resetBoxes dom s)
  let lost := (List.range 16).flatMap fun q => (getQueue s (dom * 256 + q)).cmds.map fun c => (dom * 256 + q, c.seq)
  let d := getDomain s dom
  let s := ((List.range 16).map (dom * 256 + ·)).foldl noteFlags (setDomain s { d with aborted := d.aborted ++ lost, refresh := [] })
  let s := { s with units := s.units.map fun (x : ProgUnit) => if x.ref.dom = dom then stopUnit x else x }
  let s := { s with walks := s.walks.filter (fun w => w.dom ≠ dom), lps := s.lps.filter (fun l => l.dom ≠ dom) }
  let s := cancelMovesOf (fun m => m.mover.dom = dom) s
  let s := dropGrants (fun g => g.holder.dom = dom) { s with colls := s.colls.filter fun c => c.issuer.dom ≠ dom }
  let s := if domType dom = some .msd then closeAllStashes s else s
  let s := if domType dom = some .iod then [0, 1].foldl (fun s p => reroute ⟨dom, p⟩ s) s else s
  if dom = 0 then { s with imsic := [] } else s

/-- The identity of an image, from its header (R416). -/
def imageId (im : List Byte) : ImageId := ⟨recNat im 8 4, recNat im 12 4, (im.drop 64).take 64⟩

/-- The image that a domain would load now (R420, R426). -/
def sourceImage (s : State) (dom : Nat) : ImageId :=
  imageId (s.boot.copies.getD (match domType dom with | some t => domCode t | none => 0) [])

/-- Step 1 of a domain reset (R341), which fixes the image that its end loads (R427): the DOMAIN_LOST record, and all that stops; then the job restart where a job runs. -/
def domainReset (dom cause causeRec : Nat) (s : State) : State :=
  let s := bump (setRb s porchDom Reg.DOM_IN_RESET dom true) porchDom Reg.DOM_RESET_COUNT 1
  let n := nextLogSeq s
  let s := logFault { status := stLost, cls := 3, dom := dom, detail := some (cause, causeRec, 0) } s
  let s := setDomain s { getDomain s dom with record := n, image := some (sourceImage s dom) }
  let s := dropDomain dom s
  let fs := fabState s
  if fs = fabRunning ∨ fs = fabRestarting then jobRestart n stLost none s else s

end Sys2Proof.Machine
end

