-- ==== Sys2Proof/Machine/Num.lean ====
section
/-! DEFINITION. Exact numbers and their one rounding (R18). A Num is (a + b·√2) / d; every value of the narrow formats, of a
Cellar entry and of a quotient of wide values is one. A wide value (FP32, BF16, FP16) is exact as a sign and a magnitude in
units of 2^-149, the smallest FP32 subnormal. Rounding reads a real number only through its floors: an oracle fl with
fl k = (⌊x·2^k⌋, whether x·2^k is not an integer). -/
namespace Sys2Proof

/-- The exact real (a + b·√2) / d, with d > 0 (R94: rails A and B). -/
structure Num where
  a : Int
  b : Int
  d : Nat
deriving DecidableEq, Repr

/-- Integer square root: the largest r with r·r ≤ n, one bit at a time from bit i - 1 down. -/
def isqrtGo (n : Nat) : Nat → Nat → Nat
  | 0, r => r
  | i + 1, r => let r' := r + 2 ^ i; isqrtGo n i (if r' * r' ≤ n then r' else r)

/-- ⌊√n⌋. -/
def isqrt (n : Nat) : Nat := isqrtGo n (Nat.log2 n / 2 + 1) 0

def numOfInt (i : Int) : Num := ⟨i, 0, 1⟩

/-- Multiply by 2^k, k of either sign. -/
def numScale (x : Num) (k : Int) : Num :=
  if 0 ≤ k then ⟨x.a * (2 ^ k.toNat : Nat), x.b * (2 ^ k.toNat : Nat), x.d⟩
  else ⟨x.a, x.b, x.d * 2 ^ (-k).toNat⟩

def numNeg (x : Num) : Num := ⟨-x.a, -x.b, x.d⟩

def numAdd (x y : Num) : Num :=
  if x.d = y.d then ⟨x.a + y.a, x.b + y.b, x.d⟩
  else ⟨x.a * y.d + y.a * x.d, x.b * y.d + y.b * x.d, x.d * y.d⟩

def numSub (x y : Num) : Num := numAdd x (numNeg y)

def numMul (x y : Num) : Num := ⟨x.a * y.a + 2 * x.b * y.b, x.a * y.b + x.b * y.a, x.d * y.d⟩

/-- The sign of a + b·√2, decided on squares (R95). -/
def numSign (x : Num) : Int :=
  if 0 ≤ x.a ∧ 0 ≤ x.b then (if x.a = 0 ∧ x.b = 0 then 0 else 1)
  else if x.a ≤ 0 ∧ x.b ≤ 0 then -1
  else if 0 < x.a then (if x.a * x.a > 2 * x.b * x.b then 1 else -1)
  else (if 2 * x.b * x.b > x.a * x.a then 1 else -1)

def numAbs (x : Num) : Num := if numSign x < 0 then numNeg x else x
def numLt (x y : Num) : Bool := numSign (numSub x y) < 0
def numLe (x y : Num) : Bool := numSign (numSub x y) ≤ 0
def numMax (x y : Num) : Num := if numLt x y then y else x

/-- The floors of a nonnegative Num. -/
def numFl (x : Num) (k : Int) : Nat × Bool :=
  let y := numScale x k
  let r2 := (2 * y.b * y.b).toNat
  let s := isqrt r2
  let n : Int := if 0 ≤ y.b then y.a + (s : Int) else y.a - (s : Int) - (if s * s = r2 then 0 else 1)
  (n.toNat / y.d, !(decide (s * s = r2) && decide (n.toNat % y.d = 0)))

/-- The floors of √(n/d). -/
def sqrtFl (n d : Nat) (k : Int) : Nat × Bool :=
  let n' := if 0 ≤ k then n * 4 ^ k.toNat else n
  let d' := if 0 ≤ k then d else d * 4 ^ (-k).toNat
  let r := isqrt (n' / d')
  (r, !decide (r * r * d' = n'))

/-- The formats of R53. -/
inductive Fmt where
  | l1 | l2 | l3 | l4 | p5 | p6 | p7 | p8 | fp32 | bf16 | fp16
deriving DecidableEq, Repr

/-- Format codes (R53); the others are reserved. -/
def fmtOfCode : Nat → Option Fmt
  | 1 => some .l1 | 2 => some .l2 | 3 => some .l3 | 4 => some .l4
  | 5 => some .p5 | 6 => some .p6 | 7 => some .p7 | 8 => some .p8
  | 9 => some .fp32 | 10 => some .bf16 | 11 => some .fp16 | _ => none

def fmtCode : Fmt → Nat
  | .l1 => 1 | .l2 => 2 | .l3 => 3 | .l4 => 4 | .p5 => 5 | .p6 => 6 | .p7 => 7 | .p8 => 8
  | .fp32 => 9 | .bf16 => 10 | .fp16 => 11

def fmtWide : Fmt → Bool
  | .fp32 | .bf16 | .fp16 => true
  | _ => false

def fmtPair : Fmt → Bool
  | .p5 | .p6 | .p7 | .p8 => true
  | _ => false

/-- Bytes of a wide element. -/
def fmtBytes : Fmt → Nat
  | .fp32 => 4 | .bf16 => 2 | .fp16 => 2 | _ => 0

/-- Precision of a wide format and the exponent of its smallest subnormal. -/
def fmtPrec : Fmt → Nat
  | .fp32 => 24 | .bf16 => 8 | _ => 11
def fmtEmin : Fmt → Int
  | .fp32 => -149 | .bf16 => -133 | _ => -24

/-- Largest finite magnitude in units of 2^-149 (R80). -/
def fmtMax : Fmt → Nat
  | .fp32 => (2 ^ 24 - 1) * 2 ^ 253 | .bf16 => (2 ^ 8 - 1) * 2 ^ 269 | _ => (2 ^ 11 - 1) * 2 ^ 154

/-- Canonical quiet NaN patterns (R80). -/
def fmtNan : Fmt → Nat
  | .fp32 => 0x7FC00000 | .bf16 => 0x7FC0 | _ => 0x7E00

/-- A wide value read exactly: NaN, an infinity, or a finite value of sign neg and magnitude mag × 2^-149. -/
inductive FV where
  | nan
  | inf (neg : Bool)
  | fin (neg : Bool) (mag : Nat)
deriving DecidableEq, Repr

/-- Read a pattern of eb exponent bits and mb fraction bits whose subnormal unit is 2^(u - 149). -/
def ieeeRead (eb mb u bits : Nat) : FV :=
  let f := bits % 2 ^ mb
  let e := (bits >>> mb) % 2 ^ eb
  let s := bitAt bits (eb + mb)
  if e = 2 ^ eb - 1 then (if f = 0 then .inf s else .nan)
  else if e = 0 then .fin s (f * 2 ^ u)
  else .fin s ((2 ^ mb + f) * 2 ^ (e - 1 + u))

/-- The value of a wide pattern; widening to FP32 is exact (R79). -/
def fvRead : Fmt → Nat → FV
  | .fp32, b => ieeeRead 8 23 0 b
  | .bf16, b => ieeeRead 8 7 16 b
  | _, b => ieeeRead 5 10 125 b

/-- The pattern of a magnitude the format represents (units of 2^-149). -/
def magBits (f : Fmt) (neg : Bool) (mag : Nat) : Nat :=
  let p := fmtPrec f
  let v := mag / 2 ^ (fmtEmin f + 149).toNat
  let body := if v < 2 ^ (p - 1) then v else
    let sh := Nat.log2 v - (p - 1)
    (sh + 1) * 2 ^ (p - 1) + (v / 2 ^ sh - 2 ^ (p - 1))
  let signPos := match f with | .fp32 => 31 | _ => 15
  body + (if neg then 2 ^ signPos else 0)

/-- The pattern of an infinity. -/
def infBits (f : Fmt) (neg : Bool) : Nat :=
  let b := match f with | .fp32 => 0x7F800000 | .bf16 => 0x7F80 | _ => 0x7C00
  b + (if neg then (match f with | .fp32 => 2 ^ 31 | _ => 2 ^ 15) else 0)

/-- The pattern of a value that the format represents. -/
def fvBits (f : Fmt) : FV → Nat
  | .nan => fmtNan f
  | .inf n => infBits f n
  | .fin n m => magBits f n m

/-- One rounding of a magnitude to p bits above a smallest unit 2^emin: nearest-even (none) or stochastic with a 24-bit draw (some d),
R54, R77, R80. Answers the rounded magnitude in units of 2^-149, whether it lies above the largest finite value top, and whether the
value needed rounding (so that a stochastic mode takes its draw). -/
def roundAt (p : Nat) (emin : Int) (top : Nat) (rnd : Option Nat) (fl : Int → Nat × Bool) : Nat × Bool × Bool :=
  let q0 := (fl (-emin)).1
  let sh := if q0 < 2 ^ p then 0 else Nat.log2 q0 + 1 - p
  let e : Int := emin + sh
  let ts := fl (24 - e)
  let lo := ts.1 / 2 ^ 24
  let r := ts.1 % 2 ^ 24
  let inexact := decide (r ≠ 0) || ts.2
  let up := match rnd with
    | none => decide (2 ^ 23 < r) || (decide (r = 2 ^ 23) && (ts.2 || decide (lo % 2 = 1)))
    | some d => decide (d < r) || (decide (d = r) && ts.2)
  let unit := 2 ^ (e + 149).toNat
  let mag := (lo + b2n (inexact && up)) * unit
  (mag, decide (top < mag), inexact || decide (top < lo * unit))

/-- One rounding to a wide format. -/
def roundMag (f : Fmt) (rnd : Option Nat) (fl : Int → Nat × Bool) : Nat × Bool × Bool :=
  roundAt (fmtPrec f) (fmtEmin f) (fmtMax f) rnd fl

/-- A rounded result: its pattern, whether it saturated, whether a stochastic mode took a draw. -/
structure Rounded where
  bits : Nat
  sat  : Bool
  drew : Bool
deriving DecidableEq, Repr

/-- Round a nonzero real of sign neg to a wide format, saturating at its largest finite value (R78, R94). -/
def roundSat (f : Fmt) (rnd : Option Nat) (neg : Bool) (fl : Int → Nat × Bool) : Rounded :=
  let (m, past, drew) := roundMag f rnd fl
  if past then ⟨magBits f neg (fmtMax f), true, drew⟩ else ⟨magBits f neg m, false, drew⟩

/-- Round an exact Num; an exact zero is +0 (R94, R78). -/
def roundNum (f : Fmt) (rnd : Option Nat) (x : Num) : Rounded :=
  if numSign x = 0 then ⟨0, false, false⟩
  else roundSat f rnd (decide (numSign x < 0)) (numFl (numAbs x))

/-- Nearest-even rounding to FP32 where an overflow gives an infinity (R163: every other rounding of a program). -/
def roundInf (neg : Bool) (fl : Int → Nat × Bool) : FV :=
  let (m, past, _) := roundMag .fp32 none fl
  if past then .inf neg else .fin neg m

/-- The exact number a finite wide value stands for. -/
def fvNum : FV → Num
  | .fin n m => ⟨if n then -(m : Int) else m, 0, 2 ^ 149⟩
  | _ => ⟨0, 0, 1⟩

def fvIsNan : FV → Bool
  | .nan => true
  | _ => false
def fvIsInf : FV → Bool
  | .inf _ => true
  | _ => false
def fvIsFin : FV → Bool
  | .fin _ _ => true
  | _ => false
def fvNeg : FV → Bool
  | .nan => false
  | .inf n => n
  | .fin n _ => n
def fvIsZero : FV → Bool
  | .fin _ 0 => true
  | _ => false

/-- Convert a wide value to a wide format (R79): NaN to the canonical NaN, infinities kept, one rounding, saturation. -/
def fvConvert (f : Fmt) (rnd : Option Nat) : FV → Rounded
  | .nan => ⟨fmtNan f, false, false⟩
  | .inf n => ⟨infBits f n, false, false⟩
  | .fin n 0 => ⟨magBits f n 0, false, false⟩
  | .fin n m => roundSat f rnd n (numFl ⟨(m : Int), 0, 2 ^ 149⟩)

/-- A coarse scale: the FP32 pattern is positive, finite and normal (R61). -/
def scaleOk (bits : Nat) : Bool :=
  let e := fld bits 30 23
  !bitAt bits 31 && decide (e ≠ 0) && decide (e ≠ 255)

/-- A finite FP32 pattern as an exact number. -/
def fp32Num (bits : Nat) : Num := fvNum (fvRead .fp32 bits)

/-- An FP64 pattern that is positive, finite and normal, as an exact number: (m + 2^52) · 2^(e - 1075) (R92, R101). -/
def fp64Num (bits : Nat) : Num :=
  numScale ⟨((2 ^ 52 + bits % 2 ^ 52 : Nat) : Int), 0, 1⟩ ((fld bits 62 52 : Int) - 1075)

def fp64Ok (bits : Nat) : Bool :=
  !bitAt bits 63 && decide (fld bits 62 52 ≠ 0) && decide (fld bits 62 52 ≠ 2047)

/-- The exact product of two FP32 coarse scales as an FP64 pattern (R92): at most 48 significant bits. -/
def scaleProduct (a b : Nat) : Nat :=
  let m := (2 ^ 23 + a % 2 ^ 23) * (2 ^ 23 + b % 2 ^ 23)
  let sh := Nat.log2 m
  let e := fld a 30 23 + fld b 30 23 + sh - 46 + (1023 - 254)
  e * 2 ^ 52 + (m * 2 ^ (52 - sh)) % 2 ^ 52

end Sys2Proof
end

