-- ==== Sys2Proof/Machine/Lattice.lean ====
section
/-! DEFINITION. The narrow formats (R47 to R52), their encoding (R74 to R77) and the tile-scale word (R59, R71). Scaled magnitudes
are exact Nums, so that ties and irrational midpoints are decided exactly (R75). -/
namespace Sys2Proof

/-- Width of a narrow element, and of its tail (R48, R52). -/
def fmtWidth (f : Fmt) : Nat := fmtCode f
def tailWidth (f : Fmt) : Nat := if fmtPair f then fmtCode f - 4 else 0
/-- Width of the codes, or of the head plane (R55). -/
def headWidth (f : Fmt) : Nat := if fmtPair f then 4 else fmtCode f
/-- Largest magnitude code of an L format of width w (R48); L1 has no magnitude code. -/
def cmaxOf (w : Nat) : Nat := 2 ^ (w - 1) - 1
/-- log2 of M, the largest magnitude of a format (R48, R66). -/
def fmtTopLog : Fmt → Nat
  | .l1 => 0 | .l2 => 0 | .l3 => 1 | _ => 3

/-- μ(c) (R47). -/
def mu (c : Nat) : Num :=
  if c = 0 then ⟨0, 0, 1⟩
  else if c % 2 = 1 then ⟨((2 ^ ((c - 1) / 2) : Nat) : Int), 0, 1⟩
  else ⟨0, ((2 ^ ((c - 2) / 2) : Nat) : Int), 1⟩

/-- A sign applied. -/
def signed (neg : Bool) (x : Num) : Num := if neg then numNeg x else x

/-- The value of an L element of width w in units of 2^f × S; s = 1, c = 0 reads as 0 (R49). -/
def lValue (w word : Nat) : Num :=
  if w = 1 then signed (bitAt word 0) ⟨1, 0, 1⟩
  else signed (bitAt word (w - 1)) (mu (word % 2 ^ (w - 1)))

/-- The value of an element in units of 2^f × S (R47, R52). -/
def elemValue (f : Fmt) (word : Nat) : Num :=
  if fmtPair f then
    numAdd (lValue 4 (word % 16)) (numScale (lValue (tailWidth f) (word / 16)) (-4))
  else lValue (fmtWidth f) word

/-- A lattice rounding: the code, and whether it took the draw. -/
structure LatticeRound where
  code : Nat
  drew : Bool
deriving DecidableEq, Repr

/-- The largest code c ≤ n with μ(c) ≤ m. -/
def latticeFloor (m : Num) : Nat → Nat
  | 0 => 0
  | n + 1 => if numLe (mu (n + 1)) m then n + 1 else latticeFloor m n

/-- round_lattice: nearest (none) or stochastic with a 24-bit draw (R75, R77). -/
def roundLattice (m : Num) (cmax : Nat) (rnd : Option Nat) : LatticeRound :=
  let lo := latticeFloor m cmax
  if lo = cmax ∨ numSign (numSub m (mu lo)) = 0 then ⟨lo, false⟩
  else
    let below := numSub m (mu lo)
    let gap := numSub (mu (lo + 1)) (mu lo)
    match rnd with
    | none =>
      let twice := numSub (numAdd below below) gap
      let up := numSign twice
      ⟨if up < 0 then lo else if 0 < up then lo + 1 else if lo % 2 = 0 then lo else lo + 1, false⟩
    | some d =>
      let up := numLt (numMul ⟨(d : Int), 0, 1⟩ gap) (numScale below 24)
      ⟨if up then lo + 1 else lo, true⟩

/-- The largest representable magnitude, in units: M for L, 8 plus the tail's largest for P (R74). -/
def topOf (f : Fmt) : Num := match f with
  | .l1 => ⟨1, 0, 1⟩ | .l2 => ⟨1, 0, 1⟩ | .l3 => ⟨2, 0, 1⟩ | .l4 => ⟨8, 0, 1⟩
  | .p5 => ⟨129, 0, 16⟩ | .p6 => ⟨129, 0, 16⟩ | .p7 => ⟨65, 0, 8⟩ | _ => ⟨17, 0, 2⟩

/-- An encoded element: its word, whether it saturated, whether it took the draw. -/
structure Encoded where
  word : Nat
  sat  : Bool
  drew : Bool
deriving DecidableEq, Repr

/-- An L element from a code; sign cleared at zero. -/
def lWord (w : Nat) (neg : Bool) (c : Nat) : Nat := if c = 0 then 0 else c + (if neg then 2 ^ (w - 1) else 0)

/-- encode: y is the signed scaled value; none stands for an infinity of sign neg (R74 to R76). -/
def encodeElem (f : Fmt) (neg : Bool) (y : Option Num) (rnd : Option Nat) : Encoded :=
  let top := topOf f
  let m := match y with | some v => numAbs v | none => top
  let sat := y.isNone || numLt top m
  let m := if sat then top else m
  if f = .l1 then ⟨b2n neg, sat, false⟩
  else if fmtPair f then
    let ch := (roundLattice (if numLt ⟨8, 0, 1⟩ m then ⟨8, 0, 1⟩ else m) 7 none).code
    let head := lWord 4 neg ch
    let r := numScale (numSub (signed neg m) (signed (neg && decide (0 < ch)) (mu ch))) 4
    let rn := decide (numSign r < 0)
    let w := tailWidth f
    if w = 1 then ⟨head + 16 * b2n rn, sat, false⟩
    else
      let cm := cmaxOf w
      let mag := numAbs r
      let t := roundLattice (if numLt (mu cm) mag then mu cm else mag) cm rnd
      ⟨head + 16 * lWord w rn t.code, sat, t.drew⟩
  else
    let w := fmtWidth f
    let r := roundLattice m (cmaxOf w) rnd
    ⟨lWord w neg r.code, sat, r.drew⟩

/-- The fine offset as the low five bits of the tile-scale word (R59). -/
def fineWord (f : Int) : Nat := wrapInt 5 f
def wordFine (w : Nat) : Int := sext 5 w
def wordPoison (w : Nat) : Bool := bitAt w 5 || bitAt w 7
def wordZero (w : Nat) : Bool := bitAt w 6

/-- The smallest fine offset from f upward with M·2^f·S ≥ t, at most +15 (R71). -/
def fineFrom (topLog : Nat) (scale t : Num) : Nat → Int → Int
  | 0, f => f
  | n + 1, f => if numLt (numScale scale (f + topLog)) t then fineFrom topLog scale t n (f + 1) else f

/-- The fine offset of a tile whose largest magnitude is t (none: infinite), S the coarse scale (R71). -/
def fineOf (f : Fmt) (scale : Num) (t : Option Num) : Int :=
  match t with
  | none => 15
  | some t => fineFrom (fmtTopLog f) scale t 31 (-16)

end Sys2Proof
end

