-- ==== Sys2Proof/Machine/Tiles.lean ====
section
/-! DEFINITION. Tile descriptors and the views they name (R239, R240): fields, checks, byte regions, and reading and writing
elements, tiles and tile-scale words in memory or in a stash entry. -/
namespace Sys2Proof.Machine

/-- Statuses collected by the checks of one item: the first failing one in the order of R228; any other status comes after. -/
def firstFail (l : List Nat) : Nat :=
  if l.contains stReserved then stReserved
  else if l.contains stAlign then stAlign
  else if l.contains stLength then stLength
  else (l.find? (· ≠ 0)).getD 0

/-- A condition that fails with a status. -/
def failIf (b : Bool) (status : Nat) : Nat := if b then status else 0

/-- A descriptor's fields (R239). -/
structure View where
  base    : Nat
  tail    : Nat
  scale   : Nat
  side    : Nat
  entry   : Nat
  rows    : Nat
  cols    : Nat
  stride  : Nat
  code    : Nat
  t       : Bool
  g       : Bool
  stash   : Bool
  slot    : Nat
  h       : Nat
  rotSide : Nat
  axis    : Nat
  layer   : Nat
  cgId    : Nat
  oRow    : Nat
  oCol    : Nat
  resv    : Bool
deriving DecidableEq, Repr

/-- Read a descriptor register. -/
def viewOf (d : Nat) : View :=
  { base := fld d 43 0, tail := fld d 107 64, scale := fld d 171 128, side := fld d 235 192, entry := fld d 247 236,
    rows := fld d 287 256, cols := fld d 319 288, stride := fld d 351 320, code := fld d 355 352, t := bitAt d 356,
    g := bitAt d 357, stash := bitAt d 358, slot := fld d 363 360, h := fld d 371 368, rotSide := fld d 372 372,
    axis := fld d 373 373, layer := fld d 415 384, cgId := fld d 447 416, oRow := fld d 479 448, oCol := fld d 511 480,
    resv := decide (fld d 63 44 ≠ 0) || decide (fld d 127 108 ≠ 0) || decide (fld d 191 172 ≠ 0) || decide (fld d 255 248 ≠ 0)
      || bitAt d 359 || decide (fld d 367 364 ≠ 0) || decide (fld d 375 374 ≠ 0) || decide (fld d 383 376 ≠ 0) }

/-- The format, FP32 standing in for a reserved code, which the checks refuse. -/
def vFmt (v : View) : Fmt := (fmtOfCode v.code).getD .fp32
/-- Extents as an operation sees them (R58, R239). -/
def seenRows (v : View) : Nat := if v.t then v.cols else v.rows
def seenCols (v : View) : Nat := if v.t then v.rows else v.cols
def isEmpty (v : View) : Bool := v.rows = 0 || v.cols = 0

/-- Tile rows and columns of a narrow view as stored. -/
def tileRows (v : View) : Nat := ceilDiv v.rows 16
def tileCols (v : View) : Nat := ceilDiv v.cols 16
/-- Bytes of one tile's codes or head plane, and of its tail plane (R55). -/
def tileBytes (f : Fmt) : Nat := 32 * headWidth f
def tailBytes (f : Fmt) : Nat := 32 * tailWidth f

/-- A region of a view: start, bytes covered per row of the region, pitch between rows, rows. -/
structure RegionSpan where
  start : Nat
  row   : Nat
  pitch : Nat
  count : Nat
deriving DecidableEq, Repr

/-- The regions a view's rows and tiles cover: codes or heads or wide elements, tails, tile-scale words (R239, R246). With STASH
they are offsets in the entry. -/
def regions (v : View) : List RegionSpan :=
  let f := vFmt v
  let b := if v.stash then 0 else v.base
  if isEmpty v then []
  else if fmtWide f then [⟨b, v.cols * fmtBytes f, v.stride * fmtBytes f, v.rows⟩]
  else
    let r := fun (a n : Nat) => (⟨a, tileCols v * n, v.stride * n, tileRows v⟩ : RegionSpan)
    [r b (tileBytes f), r v.scale 1] ++ (if fmtPair f then [r v.tail (tailBytes f)] else [])

/-- Bytes from the first to the last of a region, gaps included. -/
def spanLen (r : RegionSpan) : Nat := r.pitch * (r.count - 1) + r.row
/-- The byte ranges that the view's rows and tiles cover, gaps left out. -/
def viewRows (v : View) : List (Nat × Nat) :=
  (regions v).flatMap fun r => (List.range r.count).map fun i => (r.start + i * r.pitch, r.row)

/-- Every covered byte of a region is mapped memory; the whole span is tried first. -/
def regionMapped (s : State) (r : RegionSpan) : Bool :=
  memMapped s r.start (spanLen r) || (List.range r.count).all fun i => memMapped s (r.start + i * r.pitch) r.row

/-- The address ranges of a view in memory; none for a stash view, whose pages no range outside the entry overlaps. -/
def viewRanges (v : View) : List (Nat × Nat) :=
  if v.stash then [] else (regions v).map fun r => (r.start, spanLen r)

/-- The stash entries a view names. -/
def viewEntries (v : View) : List (Nat × Nat) := if v.stash then [(v.base, v.entry)] else []

/-- R240 for one descriptor: the formats the operation takes, and whether it writes through the view. -/
def viewCheck (s : State) (v : View) (ok : Fmt → Bool) (writes : Bool) : List Nat :=
  let f := vFmt v
  let narrow := !fmtWide f
  let reserved := v.resv || (fmtOfCode v.code).isNone || !ok f || decide (1 ≤ v.h ∧ v.h ≤ 3) || decide (9 ≤ v.h)
    || (!v.stash && !fmtPair f && decide (v.tail ≠ 0)) || (v.stash && !fmtPair f && decide (v.tail ≠ 0))
    || (!narrow && decide (v.scale ≠ 0)) || (!v.stash && decide (v.entry ≠ 0))
    || (v.stash && (findStash s v.base).isNone)
  let misaligned :=
    if narrow then (!v.stash && decide (v.base % 32 ≠ 0)) || decide (v.tail % 32 ≠ 0) || decide (v.scale % 32 ≠ 0)
      || decide (v.oRow % 16 ≠ 0) || decide (v.oCol % 16 ≠ 0) || decide (v.side % 16 ≠ 0)
    else (!v.stash && decide (v.base % fmtBytes f ≠ 0)) || decide (v.side % 16 ≠ 0)
  let tooLong := decide (2 ^ 30 < v.rows) || decide (2 ^ 30 < v.cols)
    || decide (v.stride < (if narrow then tileCols v else v.cols))
  let outside :=
    if tooLong then true
    else if v.stash then
      let st := entState s v.base v.entry
      let placed := decide (1 ≤ st ∧ st ≤ 3)
      decide (hdrCount s v.base ≤ v.entry)
        || (regions v).any (fun r => decide (entSize s v.base v.entry < r.start + spanLen r))
        || (!writes && (!placed || releaseWaits s v.base v.entry))
    else (regions v).any fun r => !regionMapped s r
  [failIf reserved stReserved, failIf misaligned stAlign, failIf (tooLong || outside) stLength]

/-! Places: memory, or an entry of a stash. -/

inductive Place where
  | mem
  | entry (h e : Nat)
deriving DecidableEq, Repr

def viewPlace (v : View) : Place := if v.stash then .entry v.base v.entry else .mem

def placeRead (s : State) (p : Place) (a n : Nat) : List Byte :=
  match p with
  | .mem => readMem s a n
  | .entry h e => readEntry s h e a n

def placeWrite (p : Place) (s : State) (a : Nat) (bs : List Byte) : State :=
  match p with
  | .mem => writeMem s a bs
  | .entry h e => writeEntryAt h e s a bs

/-- The stored coordinates of a seen element. -/
def storedAt (v : View) (i j : Nat) : Nat × Nat := if v.t then (j, i) else (i, j)

/-- Address of a stored wide element. -/
def wideAddr (v : View) (i j : Nat) : Nat := (if v.stash then 0 else v.base) + (v.stride * i + j) * fmtBytes (vFmt v)

/-- A seen wide element's pattern. -/
def wideBits (s : State) (v : View) (i j : Nat) : Nat :=
  let c := storedAt v i j
  leNat (placeRead s (viewPlace v) (wideAddr v c.1 c.2) (fmtBytes (vFmt v)))
def wideGet (s : State) (v : View) (i j : Nat) : FV := fvRead (vFmt v) (wideBits s v i j)

/-- Write a seen wide element. -/
def widePut (v : View) (i j bits : Nat) (s : State) : State :=
  let c := storedAt v i j
  placeWrite (viewPlace v) s (wideAddr v c.1 c.2) (leBytes (fmtBytes (vFmt v)) bits)

/-- Index of a stored tile of a view, and the addresses of its planes and word. -/
def tileIndex (v : View) (ti tj : Nat) : Nat := v.stride * ti + tj
def codeAddr (v : View) (n : Nat) : Nat := (if v.stash then 0 else v.base) + n * tileBytes (vFmt v)
def tailAddr (v : View) (n : Nat) : Nat := v.tail + n * tailBytes (vFmt v)
def scaleAddr (v : View) (n : Nat) : Nat := v.scale + n

/-- The tile-scale word of a stored tile. -/
def tileWord (s : State) (v : View) (ti tj : Nat) : Nat :=
  leNat (placeRead s (viewPlace v) (scaleAddr v (tileIndex v ti tj)) 1)

/-- The element word of a stored element of format f, head plane and tail plane joined (R52, R55); the places are those of the view's
own format, which is f or the CAP of a layer record (R136). -/
def elemWord (s : State) (v : View) (f : Fmt) (i j : Nat) : Nat :=
  let n := tileIndex v (i / 16) (j / 16)
  let e := 16 * (i % 16) + j % 16
  let bits := fun (a w : Nat) =>
    let first := e * w / 8
    let last := ((e + 1) * w - 1) / 8
    fld (leNat (placeRead s (viewPlace v) (a + first) (last + 1 - first))) (e * w - 8 * first + w - 1) (e * w - 8 * first)
  bits (codeAddr v n) (headWidth f) + (if fmtPair f then 16 * bits (tailAddr v n) (tailWidth f) else 0)

/-- Write a whole stored tile of format f: 256 element words and its tile-scale word (R55, R59), in the places of the view's own
format (R136). -/
def writeTile (v : View) (f : Fmt) (ti tj : Nat) (words : List Nat) (word : Nat) (s : State) : State :=
  let n := tileIndex v ti tj
  let plane := fun (w : Nat) (pick : Nat → Nat) => ((words.zipIdx).map fun e => pick e.1 <<< (w * e.2)).foldl (· + ·) 0
  let h := headWidth f
  let s := placeWrite (viewPlace v) s (codeAddr v n) (leBytes (tileBytes f) (plane h fun x => x % 2 ^ h))
  let s := if fmtPair f then
      placeWrite (viewPlace v) s (tailAddr v n) (leBytes (tailBytes f) (plane (tailWidth f) fun x => x / 16)) else s
  placeWrite (viewPlace v) s (scaleAddr v n) [BitVec.ofNat 8 word]

/-- Some bytes of an entry lie in pages that a domain which is down would serve. -/
def entryDown (s : State) (pages : List Nat) (a n : Nat) : Bool :=
  decide (0 < n) && (List.range ((a + n - 1) / pageSize + 1 - a / pageSize)).any fun i =>
    let lo := max a ((a / pageSize + i) * pageSize)
    let hi := min (a + n) ((a / pageSize + i + 1) * pageSize)
    needsDown s (onPages pages lo) (hi - lo)

/-- Some byte of a region is served by a domain that is down; the gaps between its rows do not count, the whole span is tried first. -/
def regionDown (down : Nat → Nat → Bool) (r : RegionSpan) : Bool :=
  down r.start (spanLen r) && (List.range r.count).any fun i => down (r.start + i * r.pitch) r.row

/-- A view covers a byte that a domain which is down would have to serve (R44, R343). -/
def viewDown (s : State) (v : View) : Bool :=
  if v.stash then let pages := entryPages s v.base v.entry
    (regions v).any (regionDown (entryDown s pages))
  else (regions v).any (regionDown (needsDown s))

end Sys2Proof.Machine
end

