-- ==== Sys2Proof/Machine/AnnexOps.lean ====
section
/-! DEFINITION. The Annex (R347 to R354): items, generations, holders, pieces, digests, what a step sends and what its commit keeps. A piece
held for a generation or an anchor is a record of State.annex: where it lies within the Annex region is left open (log entry 41). Packets name
members by position; State keeps their ranks, which a change of membership leaves alone. -/
namespace Sys2Proof.Machine

abbrev miB : Nat := 0x100000
abbrev ownItemId : Nat := 0xFFFFFFFF
/-- Data bytes of one piece packet, and block digests of one (R333). -/
abbrev pieceMax : Nat := 8544

def memberCount (s : State) : Nat := (memberRanks s).length
/-- The members' ranks, ascending: a rank's index is its position (R332). -/
def ascRanks (s : State) : List Nat := sortBy (fun a b => decide (a ≤ b)) (memberRanks s)
def rankAt (s : State) (pos : Nat) : Nat := (ascRanks s).getD pos 0
def posOfRank (s : State) (rank : Nat) : Nat := ((memberRanks s).filter (· < rank)).length
def addrOf (s : State) (rank : Nat) : Option Nat := (partnerOf s rank).map (·.addr)

/-! Item records (R348). -/

def itemMethod (i : AnnexItem) : Nat := i.ctrl % 4
def itemGather (i : AnnexItem) : Bool := bitAt i.ctrl 2
def itemJobwide (i : AnnexItem) : Bool := bitAt i.ctrl 3
/-- Bytes of a shard: LEN MiB, the last of them short where the item ends in it (log entry 95). -/
def itemLen (i : AnnexItem) : Nat :=
  let whole := i.mib * miB
  let stop := Config.itemEnd i.itemId
  if i.offset + (whole - miB) < stop ∧ stop ≤ i.offset + whole then stop - i.offset else whole

/-- Read one 32-byte record. -/
def itemOf (owner : Nat) (b : List Byte) : AnnexItem :=
  { owner := owner, itemId := recNat b 0 4, ctrl := recNat b 4 1, upd := recNat b 8 4, src := recNat b 16 8,
    offset := recNat b 24 8 % 2 ^ 44, mib := recNat b 24 8 / 2 ^ 44 }

/-- The 32-byte records of a byte string. -/
def itemsOf (owner : Nat) (b : List Byte) : List AnnexItem :=
  (List.range (b.length / 32)).map fun i => itemOf owner ((b.drop (32 * i)).take 32)

/-- What is wrong with one record (R348): a reserved value or combination; a shard beyond mapped memory. -/
def itemBad (b : List Byte) : Bool :=
  let i := itemOf 0 b
  decide (i.ctrl / 16 ≠ 0) || decide (itemMethod i = 3) || decide (recNat b 5 3 ≠ 0) || decide (recNat b 12 4 ≠ 0)
    || decide (i.src / 2 ^ 44 ≠ 0) || decide (i.mib = 0) || decide (i.itemId = ownItemId)
    || (decide (itemMethod i = 2) && !itemGather i)
def itemFar (s : State) (b : List Byte) : Bool := let i := itemOf 0 b; !memMapped s i.src (itemLen i)

/-! Holders (R350, R351). -/

def mirrorHolders (n pos : Nat) : List Nat :=
  if n ≤ 1 then [] else if n = 2 then [(pos + 1) % 2] else [(pos + 1) % n, (pos + 2) % n]

/-- The parity group of a position: its first position and its size. -/
def parityGroup (n pos : Nat) : Nat × Nat :=
  let groups := if n % 8 < 3 ∧ 8 ≤ n then n / 8 else ceilDiv n 8
  let k := min (pos / 8) (groups - 1)
  (8 * k, if k + 1 = groups then n - 8 * k else 8)

def groupMates (n pos : Nat) : List Nat :=
  let g := parityGroup n pos
  ((List.range g.2).map fun i => g.1 + i).filter (· ≠ pos)

/-- The item records whose owners are members of the epoch. -/
def liveItems (s : State) : List AnnexItem := s.annex.items.filter fun i => (memberRanks s).contains i.owner
def myItems (s : State) : List AnnexItem := s.annex.items.filter fun i => i.owner = myRank s

/-- The stripe of member k that member m covers, positions within the group (R351). -/
def stripeOf (q m k : Nat) : Nat := (m + 2 * q - k - 1) % q

/-! Generations: who holds what (R349 to R352). -/

/-- The generation that a step fills now: an item is held in parity by METHOD 2, or by METHOD 0 where the sums have chosen so. -/
def genNow (s : State) (step : Nat) : AnnexGen :=
  let par := fun (i : AnnexItem) => decide (itemMethod i = 2) || (decide (itemMethod i = 0) && itemGather i && s.annex.parity.contains i.itemId)
  { anchor := false, step := step, ranks := ascRanks s, items := liveItems s, parity := (((liveItems s).filter par).map (·.itemId)).eraseDups }

/-- The generation, or anchor, of a step: as it was filled, else as it is being filled. -/
def genOf (s : State) (anchor : Bool) (step : Nat) : AnnexGen :=
  (s.annex.gens.find? fun g => decide (g.anchor = anchor) && decide (g.step = step)).getD (genNow s step)
def setGen (g : AnnexGen) (s : State) : State :=
  let same := fun (h : AnnexGen) => decide (h.anchor = g.anchor) && decide (h.step = g.step)
  { s with annex := { s.annex with gens := upsert same g s.annex.gens } }

def AnnexGen.count (g : AnnexGen) : Nat := g.ranks.length
def AnnexGen.pos (g : AnnexGen) (rank : Nat) : Nat := (g.ranks.filter (· < rank)).length
def AnnexGen.rank (g : AnnexGen) (pos : Nat) : Nat := g.ranks.getD pos 0
/-- The records of an item that is divided among the members. -/
def AnnexGen.shards (g : AnnexGen) (itemId : Nat) : List AnnexItem := g.items.filter fun i => i.itemId = itemId && !itemJobwide i
/-- The parity group of a member: its first position and its size; and the other members of it. -/
def AnnexGen.group (g : AnnexGen) (rank : Nat) : Nat × Nat := parityGroup g.count (g.pos rank)
def AnnexGen.mates (g : AnnexGen) (rank : Nat) : List Nat := (groupMates g.count (g.pos rank)).map g.rank
/-- The holders of a member's shard under mirror. -/
def AnnexGen.mirrors (g : AnnexGen) (rank : Nat) : List Nat := (mirrorHolders g.count (g.pos rank)).map g.rank
/-- The item is held in parity; no group forms among fewer than three members. -/
def AnnexGen.inParity (g : AnnexGen) (i : AnnexItem) : Bool := decide (3 ≤ g.count) && !itemJobwide i && g.parity.contains i.itemId
/-- Bytes of one stripe of an item in a member's group: the longest shard padded to q − 1 MiB, divided by q − 1. -/
def AnnexGen.stripe (g : AnnexGen) (itemId rank : Nat) : Nat :=
  let longest := (((g.shards itemId).filter fun i => g.group i.owner = g.group rank).map fun i => ceilDiv (itemLen i) miB).foldl max 0
  ceilDiv longest ((g.group rank).2 - 1) * miB
/-- The stripe of member k's shard that member m covers, by rank. -/
def AnnexGen.covers (g : AnnexGen) (m k : Nat) : Nat := let q := g.group m; stripeOf q.2 (g.pos m - q.1) (g.pos k - q.1)
/-- What a holder keeps of a shard: first byte within the shard, and how many. -/
def AnnexGen.part (g : AnnexGen) (i : AnnexItem) (holder : Nat) : Nat × Nat :=
  if g.inParity i then
    let n := g.stripe i.itemId i.owner
    let o := g.covers holder i.owner * n
    (o, min n (itemLen i - o))
  else (0, itemLen i)
def AnnexGen.holders (g : AnnexGen) (i : AnnexItem) : List Nat := if g.inParity i then g.mates i.owner else g.mirrors i.owner

/-- ANNEX_NEED (R347): four areas; a piece held for a peer at the larger of mirror size and parity share; own and JOBWIDE
items (log entry 42). -/
def annexNeed (s : State) : Nat :=
  let g := genNow s 0
  let me := myRank s
  let piece := fun (i : AnnexItem) =>
    max (if (g.mirrors i.owner).contains me then ceilDiv (itemLen i) miB else 0)
      (if 3 ≤ g.count ∧ (g.mates i.owner).contains me then g.stripe i.itemId i.owner / miB else 0)
  let peer := ((g.items.filter fun i => !itemJobwide i && decide (i.owner ≠ me)).map piece).foldl (· + ·) 0
  let own := ((g.items.filter fun i => itemJobwide i && decide (i.owner = me)).map (·.mib)).foldl (· + ·) 1
  4 * (peer + own) * miB

/-! Pieces and digests (R353). -/

def keyBytes (s : State) : List Byte := s.annex.key.flatMap fun w => leBytes 8 w.toNat
def kcvOf (key : List Byte) : Nat := leNat (kmac128 key [] 8 "SK20-ANNEX-KCV")

def blockDigest (key : List Byte) (itemId shard block step : Nat) (data : List Byte) : List Byte :=
  kmac128 key (leBytes 4 itemId ++ leBytes 8 shard ++ leBytes 8 block ++ leBytes 4 step ++ data) 16 "SK20-ANNEX"

/-- A shard's digest data: its block digests, then its shard digest. -/
def digestData (key : List Byte) (itemId shard step : Nat) (data : List Byte) : List Byte :=
  let blocks := (List.range (ceilDiv data.length miB)).flatMap fun k =>
    blockDigest key itemId shard k step ((data.drop (k * miB)).take miB)
  blocks ++ sha3_512 blocks

/-- A piece header (R333). -/
def pieceHeader (akind flags owner itemId step len off kcv : Nat) : List Byte :=
  leBytes 1 akind ++ leBytes 1 flags ++ leBytes 2 owner ++ leBytes 4 itemId ++ leBytes 4 step ++ leBytes 4 len ++ leBytes 8 off
    ++ leBytes 8 kcv

/-- A byte string cut into packets: (first index, bytes). -/
def chunksOf (size : Nat) (b : List Byte) : List (Nat × List Byte) :=
  (List.range (ceilDiv b.length size)).map fun k => (k * size, (b.drop (k * size)).take size)

/-- What a newer piece of the same name leaves of an older one. -/
def cutPiece (p q : AnnexPiece) : List AnnexPiece :=
  let unit := if bitAt p.flags 0 then 16 else 1
  let stop := fun (x : AnnexPiece) => x.offset + ceilDiv x.bytes.length unit
  if decide (q.flags ≠ p.flags) || decide (q.owner ≠ p.owner) || decide (q.itemId ≠ p.itemId) || decide (q.step ≠ p.step)
      || decide (stop q ≤ p.offset) || decide (stop p ≤ q.offset) then [q]
  else
    let low := { q with bytes := q.bytes.take (unit * (p.offset - q.offset)) }
    let high := { q with offset := stop p, bytes := q.bytes.drop (unit * (stop p - q.offset)) }
    [low, high].filter fun x => !x.bytes.isEmpty

/-- Keep a piece, in place of what older ones of its name hold there. -/
def storePiece (p : AnnexPiece) (s : State) : State :=
  { s with annex := { s.annex with pieces := s.annex.pieces.flatMap (cutPiece p) ++ [p] } }

def annexOn (s : State) : Bool := s.annex.active && inJob s

/-- Owe an acknowledgement for a piece that leaves, and count its bytes (R349). -/
def owePiece (addr : Nat) (header data : List Byte) (s : State) : State :=
  bump { s with annex := { s.annex with owed := s.annex.owed ++ [⟨addr, header⟩] } } porchDom Reg.ANNEX_BYTES_COUNT data.length

/-- Send one piece packet (R349). -/
def sendPiece (g : AnnexGen) (flags itemId holder : Nat) (c : Nat × List Byte) (s : State) : State :=
  match addrOf s holder with
  | none => s
  | some a =>
    let h := pieceHeader 1 flags (g.pos (myRank s)) itemId g.step c.2.length c.1 0
    owePiece a h c.2 (sendPacket 0 6 a (h ++ c.2) s)

/-- Bytes of a holder's part that have ridden in tails and still are as they were then. -/
def riddenOf (s : State) (holder itemId : Nat) (bytes : List Byte) : Nat :=
  match s.annex.ridden.find? fun r => r.holder = holder && r.itemId = itemId with
  | some r => if bytes.take r.bytes.length = r.bytes then r.bytes.length else 0
  | none => 0

/-- Send data and digests of one shard to its holders (R349): a shard's bytes in full under mirror; under parity the stripe that
each holder covers; less what has ridden in tails. -/
def sendShard (g : AnnexGen) (data : Bool) (i : AnnexItem) (bytes : List Byte) (s : State) : State :=
  let fl := if g.anchor then 4 else 0
  let dig := (chunksOf pieceMax (digestData (keyBytes s) i.itemId i.offset g.step bytes)).map fun c => (c.1 / 16, c.2)
  (g.holders i).foldl (fun s h =>
    let r := g.part i h
    let mine := (bytes.drop r.1).take r.2
    let had := if g.anchor then 0 else riddenOf s h i.itemId mine
    let part := (chunksOf pieceMax (mine.drop had)).map fun c => (c.1 + had + r.1 + i.offset, c.2)
    let s := if data then part.foldl (fun s c => sendPiece g fl i.itemId h c s) s else s
    dig.foldl (fun s c => sendPiece g (fl + 1) i.itemId h c s) s) s

/-- The next bytes owed to a holder that the unused tail of an all-gather packet takes: a piece header and its data (R333, R349). -/
def ridePiece (holder room : Nat) (s : State) : List Byte × State :=
  let g := genNow s (posStep s.pos)
  let had := fun (i : AnnexItem) => ((s.annex.ridden.find? fun r => r.holder = holder && r.itemId = i.itemId).map (·.bytes)).getD []
  let next := (myItems s).find? fun i => !itemJobwide i && !itemGather i && (g.holders i).contains holder
    && decide ((had i).length < (g.part i holder).2) && !needsDown s i.src (itemLen i)
  match next, addrOf s holder with
  | some i, some a =>
    if !annexOn s ∨ room ≤ 32 then ([], s) else
    let r := g.part i holder
    let old := had i
    let o := r.1 + old.length
    let data := readMem s (i.src + o) (min (room - 32) (r.2 - old.length))
    let h := pieceHeader 1 0 (g.pos (myRank s)) i.itemId g.step data.length (i.offset + o) 0
    let same := fun (x : Ridden) => decide (x.holder = holder) && decide (x.itemId = i.itemId)
    let s := { s with annex := { s.annex with ridden := upsert same ⟨holder, i.itemId, old ++ data⟩ s.annex.ridden } }
    (h ++ data, owePiece a h data s)
  | _, _ => ([], s)

/-- Keep a shard of this module's own with its digests. -/
def keepOwn (itemId offset step : Nat) (bytes : List Byte) (s : State) : State :=
  let p := fun (flags off : Nat) (b : List Byte) =>
    ({ flags := flags, owner := myRank s, itemId := itemId, step := step, offset := off, bytes := b } : AnnexPiece)
  storePiece (p 1 0 (digestData (keyBytes s) itemId offset step bytes)) (storePiece (p 0 offset bytes) s)

/-- The capture at the write of STAIR_CLOSE (R349): each shard is kept for its group, and what its holders do not have yet is sent. -/
def annexCapture (step : Nat) (s : State) : State :=
  if annexOn s then
    let g := genNow s step
    let s := ((myItems s).filter fun i => !itemJobwide i).foldl (fun s i =>
      let b := readMem s i.src (itemLen i)
      sendShard g (!itemGather i) i b (keepOwn i.itemId i.offset step b s)) (setGen g s)
    { s with annex := { s.annex with ridden := [] } }
  else s

/-! Fields of a piece header (R333). -/
def phKind (b : List Byte) : Nat := recNat b 0 1
def phFlags (b : List Byte) : Nat := recNat b 1 1
def phOwner (b : List Byte) : Nat := recNat b 2 2
def phItem (b : List Byte) : Nat := recNat b 4 4
def phStep (b : List Byte) : Nat := recNat b 8 4
def phLen (b : List Byte) : Nat := recNat b 12 4
def phOffset (b : List Byte) : Nat := recNat b 16 8
def phKcv (b : List Byte) : Nat := recNat b 24 8
def phData (b : List Byte) : List Byte := (b.drop 32).take (phLen b)

/-- The generation that a piece header names, and the piece with its owner's rank. -/
def phGen (s : State) (b : List Byte) : AnnexGen := genOf s (bitAt (phFlags b) 2) (phStep b)
def pieceOf (s : State) (b : List Byte) : AnnexPiece :=
  ⟨phFlags b, (phGen s b).rank (phOwner b), phItem b, phStep b, phOffset b, phData b⟩

/-- A piece is stored, then acknowledged to its sender (R333, R349). -/
def takePiece (src : Nat) (b : List Byte) (s : State) : State :=
  if phKind b = 1 ∧ s.annex.active = true then
    sendPacket 0 6 src (pieceHeader 2 (phFlags b) (phOwner b) (phItem b) (phStep b) 0 (phOffset b) 0) (storePiece (pieceOf s b) s)
  else s

/-- The module's own item (R349). -/
def ownItemBytes (step : Nat) (s : State) : List Byte :=
  leBytes 8 (getReg s porchDom Reg.CG_JOB_KEY).toNat ++ leBytes 8 (getReg s porchDom Reg.CG_KEY_IN_FORCE).toNat
    ++ leBytes 4 step ++ leBytes 2 (posEpoch s.pos) ++ leBytes 2 (pf s Reg.FAB_STATE 47 32)
    ++ leBytes 4 (pf s Reg.FAB_MEMBERS 16 0) ++ List.replicate 36 0

/-- The sum of SUMU64 (R316). -/
def sumU64 (xs : List Nat) : Nat := min (xs.foldl (· + ·) 0) (2 ^ 64 - 1)

/-- An item's sums of the step over the update records it names (R352). -/
def stepSums (s : State) (i : AnnexItem) : Nat × Nat :=
  let rs := (s.annex.updates.filter fun u => decide (u.1 = i.upd) && decide (i.upd ≠ 0)).map (·.2)
  (sumU64 (rs.map fun a => readNat s (a + 24) 8), sumU64 (rs.map fun a => readNat s (a + 16) 8))

/-- Items that use METHOD 0, one record for each ITEM_ID: every member has sums for each, whether or not it owns a shard (R352). -/
def measured (s : State) : List AnnexItem :=
  ((liveItems s).filter fun i => itemMethod i = 0 && !itemJobwide i).foldl
    (fun l i => if l.any (fun j => decide (j.itemId = i.itemId)) then l else l ++ [i]) []

/-- A member's sums for an item arrive (R352): when every member's have, the method follows. -/
def addSums (x : AnnexSum) (final : Bool) (s : State) : State :=
  let all := upsert (fun y => y.rank = x.rank && y.itemId = x.itemId && y.step = x.step) x s.annex.sums
  let mine := all.filter fun y => y.itemId = x.itemId && y.step = x.step
  if final || (memberRanks s).all fun r => mine.any fun y => y.rank = r then
    let changed := if final then x.changed else sumU64 (mine.map (·.changed))
    let total := if final then x.total else sumU64 (mine.map (·.total))
    let low := decide (20 * changed < total)
    let m := (s.annex.methods.find? fun m => m.itemId = x.itemId).getD ⟨x.itemId, false, 0, 0⟩
    let below := if low then m.below + 1 else 0
    let above := if low then 0 else m.above + 1
    let shards := (genNow s x.step).shards x.itemId
    let len : Nat := (shards.map itemLen).foldl (· + ·) 0
    let parity := if m.parity then decide (above < 8) else decide (8 ≤ below) && shards.all itemGather && decide (64 * miB ≤ len)
    let ms := upsert (fun (y : AnnexMethod) => decide (y.itemId = x.itemId)) ⟨x.itemId, parity, below, above⟩ s.annex.methods
    { s with annex := { s.annex with methods := ms, sums := all.filter fun y => !(y.itemId = x.itemId && y.step = x.step) } }
  else { s with annex := { s.annex with sums := all } }

/-- The exchange of sums after a commit (R352). -/
def sendSums (step : Nat) (s : State) : State :=
  (measured s).foldl (fun s i =>
    let v := stepSums s i
    let body := leBytes 4 i.itemId ++ leBytes 4 step ++ leBytes 8 v.1 ++ leBytes 8 v.2 ++ List.replicate 8 0
    addSums ⟨myRank s, i.itemId, step, v.1, v.2⟩ false (sendToMembers 1 3 (restartPayload s 6 body) s)) s

/-- The commit of a step (R349): local copies of JOBWIDE items, the module's own item, ROLLING_STEP, the two newest generations, the methods
of the next one (R352); then the sums. -/
def annexCommit (step : Nat) (s : State) : State :=
  if annexOn s then
    let s := ((myItems s).filter itemJobwide).foldl (fun s i => keepOwn i.itemId i.offset step (readMem s i.src (itemLen i)) s) s
    let s := keepOwn ownItemId 0 step (ownItemBytes step s) s
    let kept := s.annex.pieces.filter fun p => bitAt p.flags 2 || decide (step ≤ p.step + 1)
    let gens := s.annex.gens.filter fun g => g.anchor || decide (step ≤ g.step + 1)
    let parity := (s.annex.methods.filter (·.parity)).map (·.itemId)
    let s := setPf { s with annex := { s.annex with pieces := kept, gens := gens, parity := parity } } Reg.ANNEX_STATE 31 0 step
    let s := sendSums step s
    { s with annex := { s.annex with updates := [] } }
  else { s with annex := { s.annex with updates := [] } }

/-- An all-gather that carries a GATHER item has ended (R349): the holders among its members keep the shards, or the stripes they
cover, of the others. group lists ranks, parts the contribution of each position. -/
def gatherPieces (src step : Nat) (group : List Nat) (parts : List (List Byte)) (s : State) : State :=
  if !annexOn s then s else
    let me := myRank s
    let g := genNow s step
    ((myItems s).filter fun i => itemGather i && decide (i.src = src)).foldl (fun s own =>
      (group.zip parts).foldl (fun s rp =>
        match (g.shards own.itemId).find? fun i => i.owner = rp.1 && decide (rp.1 ≠ me) with
        | none => s
        | some i =>
          if (g.holders i).contains me then
            let r := g.part i me
            storePiece ⟨0, rp.1, i.itemId, step, i.offset + r.1, (rp.2.drop r.1).take r.2⟩ s
          else s) s) s

/-- Bytes [off, off + len) of a copy, joined from its pieces. -/
def copyFrom (ps : List AnnexPiece) : Nat → Nat → Nat → Option (List Byte)
  | 0, _, len => if len = 0 then some [] else none
  | fuel + 1, off, len =>
    if len = 0 then some [] else
      match ps.find? fun p => decide (p.offset ≤ off) && decide (off < p.offset + p.bytes.length) with
      | none => none
      | some p =>
        let b := (p.bytes.drop (off - p.offset)).take len
        (copyFrom ps fuel (off + b.length) (len - b.length)).map (b ++ ·)

/-- A range of a held copy; digests count block digests of 16 bytes. -/
def heldCopy (ps : List AnnexPiece) (flags owner itemId step off len : Nat) : Option (List Byte) :=
  let mine := ps.filter fun p => p.flags = flags && p.owner = owner && p.itemId = itemId && p.step = step
  if bitAt flags 0 then copyFrom (mine.map fun p => { p with offset := 16 * p.offset }) (mine.length + 1) (16 * off) len
  else copyFrom mine (mine.length + 1) off len

def xorBytes (a b : List Byte) : List Byte := List.zipWith (· ^^^ ·) a b

/-- The parity this module holds for an item (R351): bytes [off, off + len) of P_m, formed from the stripes kept. -/
def parityCopy (s : State) (anchor : Bool) (itemId step off len : Nat) : Option (List Byte) :=
  let me := myRank s
  let g := genOf s anchor step
  (g.mates me).foldl (fun acc k =>
    match acc, (g.shards itemId).find? fun i => i.owner = k with
    | some b, some i =>
      let o := g.covers me k * g.stripe itemId me + off
      -- beyond the shard the padding is zero
      let have' := min len (itemLen i - o)
      (heldCopy s.annex.pieces (if anchor then 4 else 0) k itemId step (i.offset + o) have').map fun d =>
        xorBytes b (d ++ List.replicate (len - have') 0)
    | some b, none => some b
    | none, _ => none) (some (List.replicate len 0))

/-! Anchors (R354). -/

/-- Only the anchors of these steps stay. -/
def keepAnchors (steps : List Nat) (s : State) : State :=
  let pieces := s.annex.pieces.filter fun p => !bitAt p.flags 2 || steps.contains p.step
  { s with annex := { s.annex with pieces := pieces, gens := s.annex.gens.filter fun g => !g.anchor || steps.contains g.step } }

/-- Every member's anchor contribution is there, or a FINAL one: the exchange completes. -/
def addAnchor (pos step : Nat) (final : Bool) (s : State) : State :=
  let all := upsert (fun (y : Nat × Nat × Bool) => decide (y.1 = pos)) (pos, step, true) s.annex.anchors
  let s := { s with annex := { s.annex with anchors := all } }
  if s.annex.anchorLanding.isSome && (final || (List.range (memberCount s)).all fun p => all.any fun y => y.1 = p) then
    let same := all.all fun y => y.2.1 = s.annex.anchorAt
    let n := s.annex.anchorLanding.getD 0
    let s := { s with annex := { s.annex with anchors := [], anchorLanding := none } }
    if same then
      let old := pf s Reg.ANNEX_STATE 63 32
      let at' := s.annex.anchorAt
      endLanding n stDone (setPf (keepAnchors [old, at'] s) Reg.ANNEX_STATE 63 32 at')
    else endLanding n stReserved s
  else s

/-- Once nothing of the anchor copy is owed, this member contributes (R354). -/
def anchorReady (s : State) : State :=
  if s.annex.anchorLanding.isSome && !(s.annex.owed.any fun o => bitAt (recNat o.header 1 1) 2)
      && !(s.annex.anchors.any fun y => y.1 = myPos s) then
    let body := leBytes 4 s.annex.anchorAt ++ [1] ++ List.replicate 11 0
    addAnchor (myPos s) s.annex.anchorAt false (sendToMembers 1 3 (restartPayload s 7 body) s)
  else s

/-- A KIND 0x03 landing fires (R354): the newest complete generation goes to the older anchor area, each item by the other method than
that generation holds it by. -/
def openAnchor (n : Nat) (s : State) : State :=
  let step := pf s Reg.ANNEX_STATE 31 0
  let me := myRank s
  let g := genOf s false step
  let live := liveItems s
  let a : AnnexGen := { anchor := true, step := step, ranks := ascRanks s, items := live
                        parity := (live.filter fun i => !g.inParity i).map (·.itemId) }
  let s := setGen a (keepAnchors [pf s Reg.ANNEX_STATE 63 32] s)
  let s := { s with annex := { s.annex with anchorLanding := some n, anchorAt := step } }
  let s := (s.annex.pieces.filter fun p => p.step = step && p.owner = me && decide (p.flags < 4)).foldl (fun s p =>
    storePiece { p with flags := p.flags + 4 } s) s
  let s := if annexOn s then
      ((myItems s).filter fun i => !itemJobwide i).foldl (fun s i =>
        match heldCopy s.annex.pieces 0 me i.itemId step i.offset (itemLen i) with
        | some b => sendShard a true i b s
        | none => s) s
    else s
  anchorReady s

end Sys2Proof.Machine
end

