-- ==== Sys2Proof/Machine/Ledger.lean ====
section
/-! DEFINITION. Scale-ledger records (R62 to R69, R462): checks, contributions and the commit of a step. -/
namespace Sys2Proof.Machine

abbrev ledgerBytes : Nat := 304
def ledDepth (s : State) (a : Nat) : Nat := readNat s (a + 4) 1 % 128
def ledFormat (s : State) (a : Nat) : Nat := readNat s (a + 5) 1 % 16
def ledValid (s : State) (a : Nat) : Nat := readNat s (a + 6) 1
def ledHead (s : State) (a : Nat) : Nat := readNat s (a + 7) 1
def ledCoarse (s : State) (a : Nat) : Nat := readNat s (a + 8) 4
def ledMask (s : State) (a : Nat) : Nat := readNat s (a + 16) 8
def ledSat (s : State) (a : Nat) : Nat := readNat s (a + 24) 4
def ledInit (s : State) (a : Nat) : Nat := readNat s (a + 28) 4
def ledMax (s : State) (a : Nat) : Nat := readNat s (a + 36) 4
def ledHist (s : State) (a j : Nat) : Nat := readNat s (a + 48 + 4 * j) 4

/-- Reserved fields and reserved values of a record (R62, R63), FORMAT aside. -/
def ledReserved (s : State) (a : Nat) : Bool :=
  bitAt (readNat s (a + 4) 1) 7 || decide (readNat s (a + 5) 1 / 16 ≠ 0) || decide (readNat s (a + 40) 8 ≠ 0)
    || decide (64 < ledValid s a) || decide (63 < ledHead s a) || !scaleOk (ledInit s a)

def ledDepthBad (s : State) (a : Nat) : Bool := ledDepth s a = 0 || decide (64 < ledDepth s a)

/-- The checks of an operation that uses the record with a format and its COARSE (R61, R63). -/
def ledgerCheck (s : State) (a fmt : Nat) : List Nat :=
  if memMapped s a ledgerBytes then
    [failIf (ledReserved s a || decide (ledFormat s a ≠ fmt) || !scaleOk (ledCoarse s a)) stReserved,
     failIf (decide (a % 16 ≠ 0)) stAlign, failIf (ledDepthBad s a) stLength]
  else [failIf (decide (a % 16 ≠ 0)) stAlign, stLength]

/-- The larger of two FP32 patterns, as FMAX32 (R316): NaN gives the canonical NaN, +0 is above −0. -/
def fmax32 (a b : Nat) : Nat :=
  match fvRead .fp32 a, fvRead .fp32 b with
  | .nan, _ => fmtNan .fp32
  | _, .nan => fmtNan .fp32
  | x, y =>
    let key := fun (v : FV) (bits : Nat) => match v with
      | .inf n => if n then -(2 ^ 40 : Int) else 2 ^ 40
      | .fin n _ => if n then -((bits % 2 ^ 31 : Nat) : Int) - 1 else ((bits % 2 ^ 31 : Nat) : Int)
      | .nan => 0
    if key x a < key y b then b else a

/-- A quantisation's contribution (R64): the largest finite magnitude placed, in units of 2^-149, and the saturated count. A MAX_STEP that
software left NaN or negative goes through the same maximum, and stays as it is under a contribution of 0 (log entry 120). -/
def contribute (a maxMag sats : Nat) (s : State) : State :=
  let m := fmax32 (ledMax s a) (magBits .fp32 false maxMag)
  let s := if maxMag = 0 then s else writeNat s (a + 36) 4 m
  writeNat s (a + 24) 4 (satAdd 32 (ledSat s a) sats)

/-- The entries of the history window: the last min(D, VALID), newest first (R66). -/
def window (s : State) (a : Nat) : List Nat :=
  (List.range (min (ledDepth s a) (ledValid s a))).map fun i => (ledHead s a + 63 - i) % 64

/-- A history value that takes part in H: nonnegative and finite; −0 counts as 0 (R66). -/
def histUsable (bits : Nat) : Option Nat :=
  match fvRead .fp32 bits with
  | .fin n m => if n && decide (m ≠ 0) then none else some m
  | _ => none

/-- H as a magnitude in units of 2^-149, over the unmarked usable entries (R66); none when there is no such entry. -/
def historyMax (s : State) (a : Nat) : Option Nat :=
  let vals := (window s a).filterMap fun j => if bitAt (ledMask s a) j then none else histUsable (ledHist s a j)
  if vals.isEmpty then none else some (vals.foldl max 0)

/-- The coarse scale of the next step (R66, R67). -/
def nextCoarse (s : State) (a : Nat) : Nat :=
  let top := match fmtOfCode (ledFormat s a) with | some f => fmtTopLog f | none => 0
  match historyMax s a with
  | some h =>
    -- the smallest normal is 2^23 units of 2^-149
    if h < (2 : Nat) ^ (23 + top) then ledInit s a
    else (roundNum .fp32 none (numScale (fvNum (.fin false h)) (-(Int.ofNat top)))).bits
  | none => ledInit s a

/-- Why the boundary may not commit a record in full: R462's checks, then DEPTH (R69). A wide FORMAT counts as one that an operation
refuses; a bad COARSE does not, since item 7 of R65 writes it anew (log entry 119). -/
def ledgerFlaw (s : State) (a : Nat) : Nat :=
  let narrow := match fmtOfCode (ledFormat s a) with | some f => !fmtWide f | none => false
  firstFail [failIf (ledReserved s a || !narrow) stReserved, failIf (decide (a % 16 ≠ 0)) stAlign,
    failIf (ledDepthBad s a) stLength]

/-- Items 1, 2 and 5 of R65: the history entry. -/
def pushHistory (a maxBits : Nat) (skipped : Bool) (s : State) : State :=
  let h := ledHead s a
  let v := ledValid s a
  let s := writeNat s (a + 48 + 4 * h) 4 maxBits
  let s := writeNat s (a + 16) 8 (setFld (ledMask s a) h h (b2n skipped))
  writeNat (writeNat s (a + 7) 1 ((h + 1) % 64)) (a + 6) 1 (if v < 64 then v + 1 else v)

/-- Items 1 to 6 of R65, with R462's exception for a record whose VALID or HEAD is out of range. -/
def commitFigures (a step maxBits satSum : Nat) (skipped : Bool) (s : State) : State :=
  let indexOk := decide (ledValid s a ≤ 64) && decide (ledHead s a ≤ 63)
  let s := if indexOk then pushHistory a maxBits skipped s else s
  let s := writeNat (writeNat s (a + 32) 4 (min satSum (2 ^ 32 - 1))) (a + 12) 4 step
  writeNat (writeNat s (a + 36) 4 0) (a + 24) 4 0

/-- Item 7 of R65; a record that an operation would refuse keeps its COARSE and gets a fault record (R69, R462). -/
def commitCoarse (a : Nat) (s : State) : State :=
  let flaw := ledgerFlaw s a
  if flaw = 0 then writeNat s (a + 8) 4 (nextCoarse s a)
  else logFault { status := flaw, cls := 1, dom := porchDom, addr := some a } s

end Sys2Proof.Machine
end

