-- ==== Sys2Proof/Machine/Layer.lean ====
section
/-! DEFINITION. Layer records (R134 to R139): checks, the ladder, the rung in force and the decision at a step boundary. -/
namespace Sys2Proof.Machine

abbrev layerBytes : Nat := 64
def layBase (s : State) (a : Nat) : Nat := readNat s (a + 4) 1
def layCap (s : State) (a : Nat) : Nat := readNat s (a + 5) 1 % 16
def layRung (s : State) (a : Nat) : Nat := readNat s (a + 6) 1
def layCalm (s : State) (a : Nat) : Nat := readNat s (a + 16) 2
def layCalmCount (s : State) (a : Nat) : Nat := readNat s (a + 18) 2
def layState (s : State) (a : Nat) : Nat := readNat s (a + 20) 1
def layOutl (s : State) (a : Nat) : Nat := readNat s (a + 56) 4
/-- The linked ledger addresses (R134); an address of unmapped memory links nothing. -/
def layLedgers (s : State) (a : Nat) : List Nat :=
  ((List.range 4).map fun i => readNat s (a + 24 + 8 * i) 8 % 2 ^ 44).filter fun d => d ≠ 0 && memMapped s d ledgerBytes

/-- The rung after (format, pass) under a CAP (R135). -/
def nextRung (cap f p : Nat) : Option (Nat × Nat) :=
  if f ≤ 3 ∧ f + 1 ≤ cap then some (f + 1, p)
  else if f = 4 ∧ 5 ≤ cap then some (5, max p 2)
  else if 5 ≤ f ∧ f ≤ 7 ∧ f + 1 ≤ cap then some (f + 1, max p 2)
  else if p < 3 then some (f, p + 1)
  else none

/-- The ladder from a rung upward; n bounds its length. -/
def ladderFrom (cap : Nat) : Nat → Nat × Nat → List (Nat × Nat)
  | 0, r => [r]
  | n + 1, r => match nextRung cap r.1 r.2 with
    | some r' => r :: ladderFrom cap n r'
    | none => [r]

/-- The ladder of BASE and CAP: at most nine rungs (R135). -/
def ladderOf (base cap : Nat) : List (Nat × Nat) := ladderFrom cap 9 (base % 16, fld base 5 4)
def layLadder (s : State) (a : Nat) : List (Nat × Nat) := ladderOf (layBase s a) (layCap s a)

/-- The checks of an operation that names the record (R134). -/
def layerCheck (s : State) (a : Nat) : List Nat :=
  if memMapped s a layerBytes then
    let b := layBase s a
    let f := b % 16
    let bad := decide (f = 0 ∨ 8 < f) || decide (layCap s a = 0 ∨ 8 < layCap s a) || decide (layCap s a < f)
      || decide (fld b 5 4 = 0) || decide ((layLadder s a).length ≤ layRung s a)
      || decide (fld b 7 6 ≠ 0) || decide (readNat s (a + 5) 1 / 16 ≠ 0) || decide (readNat s (a + 7) 1 / 64 ≠ 0)
      || decide (layState s a / 8 ≠ 0) || decide (readNat s (a + 21) 3 ≠ 0)
      || (List.range 4).any fun i => decide (readNat s (a + 24 + 8 * i) 8 / 2 ^ 44 ≠ 0)
    let mis := decide (a % 16 ≠ 0) || (List.range 4).any fun i => decide (readNat s (a + 24 + 8 * i) 8 % 16 ≠ 0)
    [failIf bad stReserved, failIf mis stAlign, failIf (decide (layCalm s a = 0) || decide (1024 < layCalm s a)) stLength]
  else [failIf (decide (a % 16 ≠ 0)) stAlign, stLength]

/-- The format and PASS of the rung in force (R136). -/
def rungInForce (s : State) (a : Nat) : Nat × Nat := (layLadder s a).getD (layRung s a) (1, 1)

/-- OUTL_STEP rises by a count and stops at all ones (R122). -/
def addOutliers (a n : Nat) (s : State) : State := writeNat s (a + 56) 4 (satAdd 32 (layOutl s a) n)

/-- The window gave the step its scale: R67 did not apply (R137). -/
def windowUsable (s : State) (a : Nat) : Bool :=
  match historyMax s a, fmtOfCode (ledFormat s a) with
  | some h, some f => decide (2 ^ (23 + fmtTopLog f) ≤ h)
  | _, _ => false

/-- The growth test: the committed maximum exceeds 16 × M × COARSE, both as the numbers that the fields hold; NaN exceeds nothing
(R137). -/
def grew (s : State) (d : Nat) : Bool :=
  let top := match fmtOfCode (ledFormat s d) with | some f => fmtTopLog f | none => 0
  match fvRead .fp32 (ledHist s d ((ledHead s d + 63) % 64)), fvRead .fp32 (ledCoarse s d) with
  | .nan, _ => false
  | _, .nan => false
  | .inf n, .inf k => !n && k
  | .inf n, _ => !n
  | _, .inf k => k
  | .fin n m, .fin k c =>
    let int := fun (neg : Bool) (v : Nat) => if neg then -(v : Int) else v
    decide (int k (16 * 2 ^ top * c) < int n m)

/-- What a decision found, beside its writes: the rung rose. -/
structure LayerDecision where
  s    : State
  rose : Bool
deriving DecidableEq, Repr

/-- decide_layer (R137): usable lists the ledgers whose window was usable before item 1. -/
def decideLayer (a outl : Nat) (usable : List Nat) (skipped : Bool) (s : State) : LayerDecision :=
  let st := layState s a
  let ladder := layLadder s a
  let trig := (layLedgers s a).any (fun d =>
      decide (readNat s (a + 8) 4 < readNat s (d + 32) 4) || (!bitAt st 2 && usable.contains d && grew s d))
    || decide (readNat s (a + 12) 4 < outl)
  let rung := layRung s a
  let put := fun (rung calm state : Nat) (rose : Bool) =>
    let r := ladder.getD rung (0, 0)
    let s := writeNat (writeNat (writeNat s (a + 6) 1 rung) (a + 18) 2 calm) (a + 20) 1 state
    LayerDecision.mk (writeNat s (a + 7) 1 (r.1 + 16 * r.2)) rose
  let quiet := setFld st 1 1 0
  if trig then
    if rung + 1 < ladder.length then put (rung + 1) 0 (setFld (setFld st 1 1 1) 0 0 0) true
    else put rung 0 (setFld quiet 0 0 1) false
  else if skipped then put rung 0 quiet false
  else
    let n := layCalmCount s a + 1
    if layCalm s a ≤ n then put (rung - 1) 0 quiet false else put rung n quiet false

/-- One listed record at the boundary: decided unless an operation would refuse it; OUTL_LAST and OUTL_STEP in any case. -/
def commitLayer (a outlSum : Nat) (usable : List Nat) (skipped : Bool) (s : State) : LayerDecision :=
  let outl := min outlSum (2 ^ 32 - 1)
  let s := writeNat (writeNat s (a + 60) 4 outl) (a + 56) 4 0
  let flaw := firstFail (layerCheck s a)
  if flaw = 0 then decideLayer a outl usable skipped s
  else ⟨logFault { status := flaw, cls := 1, dom := porchDom, addr := some a } s, false⟩

/-- FORMAT of a ledger: the widest new rung of the decided layers linked to it (R137). -/
def linkFormat (layers : List Nat) (d : Nat) (s : State) : State :=
  let fs := (layers.filter fun a => firstFail (layerCheck s a) = 0 && (layLedgers s a).contains d).map fun a => (rungInForce s a).1
  if fs.isEmpty then s else writeNat s (d + 5) 1 (setFld (readNat s (d + 5) 1) 3 0 (fs.foldl max 0))

end Sys2Proof.Machine
end

