-- ==== Sys2Proof/Machine/Boundary.lean ====
section
/-! DEFINITION. The step boundary (R65, R137, R197, R281, R282, R323): the write of STAIR_CLOSE, this module's contribution, the
combination of all contributions, and the commit. Every operation makes its contributions to records when it issues (log entry
4), so none is outstanding when the step is closed. -/
namespace Sys2Proof.Machine

/-- The skip decision of the step has arrived (R322), and what it is. -/
def skipKnown (s : State) : Bool := (fittedOf s .cd).any fun d => rb s d Reg.TRAIN_STEP_STATUS 33
def skipDecided (s : State) : Bool := (fittedOf s .cd).any fun d => rb s d Reg.TRAIN_STEP_STATUS 34
def setSkipKnown (skip : Bool) (s : State) : State :=
  (fittedOf s .cd).foldl (fun s d => setRb (setRb s d Reg.TRAIN_STEP_STATUS 33 true) d Reg.TRAIN_STEP_STATUS 34 skip) s

/-! The boundary table (R323). -/

def bxBase (s : State) : Nat := pf s Reg.FAB_BX_TABLE 43 0
def bxLedgers (s : State) : List Nat :=
  (List.range (pf s Reg.FAB_BX_COUNTS 14 0)).map fun k => readNat s (bxBase s + 8 * k) 8
def bxLayers (s : State) : List Nat :=
  let n := pf s Reg.FAB_BX_COUNTS 14 0
  (List.range (pf s Reg.FAB_BX_COUNTS 28 16)).map fun k => readNat s (bxBase s + 8 * (n + k)) 8

/-- Why the table or a record cannot be read, with the address: none when all can be. -/
def bxFlaw (s : State) : Option (Nat × Nat) :=
  let n := pf s Reg.FAB_BX_COUNTS 14 0
  let m := pf s Reg.FAB_BX_COUNTS 28 16
  let one := fun (len a : Nat) =>
    if !memMapped s a len then some (stLength, a) else if needsDown s a len then some (stLost, a) else none
  if 16384 < n ∨ 4096 < m ∨ bxBase s % 8 ≠ 0 then some (stLength, bxBase s)
  else match one (8 * (n + m)) (bxBase s) with
    | some f => some f
    | none => ((bxLedgers s).filterMap (one ledgerBytes) ++ (bxLayers s).filterMap (one layerBytes)).head?

/-- TABLE_SIG (R323). -/
def tableSig (s : State) (ledgers layers : List Nat) : Nat :=
  leNat ((sha3_256 ((ledgers ++ layers).flatMap fun a => readMem s a 4)).take 8)

/-! Contributions. -/

/-- Items of one part that a member has sent, or that a FINAL packet carries. -/
def itemAt (parts : List BoundaryPart) (p : BoundaryPart → Bool) (part i : Nat) : Option (Nat × Nat) :=
  (parts.filter fun x => p x && x.part = part && decide (x.first ≤ i) && decide (i < x.first + x.items.length)).head?.bind
    fun x => x.items[i - x.first]?

/-- The combination of one item over all members: the FINAL value, or every member's; none while one is missing. -/
def combined (b : Boundary) (n part i : Nat) : Option (Nat × Nat) :=
  match itemAt b.parts (·.final) part i with
  | some v => some v
  | none =>
    let vs := (List.range n).map fun pos => itemAt b.parts (fun x => !x.final && x.pos = pos) part i
    if vs.any (·.isNone) then none else
      let xs := vs.filterMap id
      let most := match xs with
        | [] => 0
        | x :: rest => rest.foldl (fun m y => fmax32 m y.1) (fmax32 x.1 x.1)
      if part = 0 then some (most, (xs.map (·.2)).foldl (· + ·) 0) else some ((xs.map (·.1)).foldl (· + ·) 0, 0)

/-- Every member's header has come, or a FINAL one. -/
def headersIn (b : Boundary) (n : Nat) : Bool :=
  b.parts.any (·.final) || (List.range n).all fun pos => b.parts.any fun x => x.pos = pos

/-! Packets (R332). -/

def boundaryPayload (b : Boundary) (x : BoundaryPart) (n first : Nat) : List Byte :=
  let items := (x.items.drop first).take n
  let enc := fun (v : Nat × Nat) => if x.part = 0 then leBytes 4 v.1 ++ leBytes 4 0 ++ leBytes 8 v.2 else leBytes 8 v.1
  [1, BitVec.ofNat 8 (b2n x.skip + 2 * b2n x.final + 4 * x.part)] ++ leBytes 2 x.pos ++ leBytes 4 b.step
    ++ leBytes 2 b.ledgers.length ++ leBytes 2 b.layers.length ++ leBytes 4 0 ++ leBytes 8 b.sig ++ leBytes 4 first
    ++ leBytes 4 items.length ++ items.flatMap enc

/-- One part in as many packets as LENGTH allows. -/
def sendPart (b : Boundary) (x : BoundaryPart) (s : State) : State :=
  let n := if x.part = 0 then 534 else 1068
  (List.range (ceilDiv x.items.length n)).foldl (fun s k => sendToMembers 1 2 (boundaryPayload b x n (k * n)) s) s

/-! The commit (R65, R137, R138, R170, R197). -/

/-- The operation that closes the step gets its flags and may complete (R282). -/
def closeOps (flags : Nat) (s : State) : State :=
  let mark := fun (o : Op) => if o.need = .close then { o with need := OpNeed.work, flags := o.flags ||| flags } else o
  { s with units := s.units.map fun x => { x with inFlight := x.inFlight.map mark } }

/-- What a commit wrote to the records, and how many rungs rose. -/
structure Commit where
  s    : State
  rose : Nat
deriving DecidableEq, Repr

/-- One layer record's decision, counted where its rung rises. -/
def commitOne (usable : List Nat) (skipped : Bool) (c : Commit) (x : Nat × Nat × Nat) : Commit :=
  let d := commitLayer x.1 x.2.1 usable skipped c.s
  ⟨d.s, c.rose + b2n d.rose⟩

/-- The records of a step: items 1 to 6 of R65 for every listed ledger, the layer decisions, the formats, item 7. -/
def commitRecords (b : Boundary) (led lay : List (Nat × Nat)) (skipped : Bool) (s : State) : Commit :=
  let linked := (b.layers.flatMap (layLedgers s)).eraseDups
  let usable := linked.filter (windowUsable s)
  let s := (b.ledgers.zip led).foldl (fun s x => commitFigures x.1 b.step x.2.1 x.2.2 skipped s) s
  let r := (b.layers.zip lay).foldl (commitOne usable skipped) ⟨s, 0⟩
  let s := linked.foldl (fun s d => linkFormat b.layers d s) r.s
  ⟨b.ledgers.foldl (fun s a => commitCoarse a s) s, r.rose⟩

/-- STEP_COMMIT: records, counters, the CG key, the Annex, the flags of the closing operation, and STEP + 1. -/
def commitStep (b : Boundary) (led lay : List (Nat × Nat)) (skipped : Bool) (s : State) : State :=
  let c := commitRecords b led lay skipped s
  let storm := decide (b.layers.length < 2 * c.rose)
  let s := bump (bump c.s 0x10 Reg.ERRC_LAYER_RISE_COUNT c.rose) 0x10 Reg.ERRC_STORM_COUNT (b2n storm)
  let s := setReg s porchDom Reg.CG_KEY_IN_FORCE (getReg s porchDom Reg.CG_JOB_KEY)
  let s := annexCommit b.step s
  let s := closeOps ((if storm then flStorm else 0) ||| (if skipped then flSkipped else 0)) s
  let s := { s with boundary := none, early := s.early.filter fun e => decide (posEpoch s.pos < e.epoch) || decide (b.step < e.step),
                    train := { s.train with committed := b.step } }
  moveTo (mkPos (posEpoch s.pos) (b.step + 1) 0 0 (posTick s.pos)) (setPf s Reg.STAIR_SYNC 20 20 0)

/-- Commit once this module has contributed and every item is combined. -/
def tryCommit (s : State) : State :=
  match s.boundary with
  | none => s
  | some b =>
    let n := memberCount s
    let led := (List.range b.ledgers.length).map (combined b n 0)
    let lay := (List.range b.layers.length).map (combined b n 1)
    if b.sent && headersIn b n && led.all (·.isSome) && lay.all (·.isSome) then
      commitStep b (led.filterMap id) (lay.filterMap id) (b.parts.any (·.skip)) s
    else s

/-- This module's contribution leaves once every Annex piece it owes is acknowledged (R349). -/
def contribution (s : State) : State :=
  match s.boundary with
  | none => s
  | some b =>
    if b.sent || s.annex.owed.any (fun o => !bitAt (recNat o.header 1 1) 2) then s
    else
      let skip := if skipKnown s then skipDecided s else moduleSkip s
      let led : BoundaryPart :=
        ⟨false, 0, myPos s, 0, skip, b.ledgers.map fun a => (ledMax s a, ledSat s a)⟩
      let lay : BoundaryPart := ⟨false, 1, myPos s, 0, skip, b.layers.map fun a => (layOutl s a, 0)⟩
      let s := if b.ledgers.isEmpty && b.layers.isEmpty then sendToMembers 1 2 (boundaryPayload b led 534 0) s
        else sendPart b lay (sendPart b led s)
      tryCommit { s with boundary := some { b with sent := true, parts := b.parts ++ [led, lay] } }

/-- A header that disagrees (R323): no commit, a CLASS 4 record, a job restart. -/
def headerFault (s : State) : State :=
  restartFault { status := stReserved, cls := 4, dom := porchDom } none s

/-- STAIR_CLOSE opens the boundary: the table, early packets, the Annex pieces, then the contribution. -/
def beginBoundary (s : State) : State :=
  let s := setPf s Reg.STAIR_SYNC 20 20 1
  match bxFlaw s with
  | some (status, a) =>
    let s := restartFault { status := status, cls := 4, dom := porchDom, addr := some a } none s
    setPf s Reg.STAIR_SYNC 20 20 0
  | none =>
    let ledgers := bxLedgers s
    let layers := bxLayers s
    let step := posStep s.pos
    let sig := tableSig s ledgers layers
    let here := fun (e : EarlyPart) => decide (e.epoch = posEpoch s.pos) && decide (e.step = step)
    let mine := s.early.filter here
    if mine.any fun e => decide (e.ledgers ≠ ledgers.length) || decide (e.layers ≠ layers.length) || decide (e.sig ≠ sig) then
      headerFault s
    else
      let b : Boundary := ⟨step, false, sig, ledgers, layers, mine.map (·.body)⟩
      contribution (annexCapture step { s with boundary := some b, early := s.early.filter fun e => !here e })

/-- A write of STAIR_CLOSE (R281); in STOPPED_MINORITY the exchange is refused (R327, log entry 127). -/
def closeStep (v : Nat) (s : State) : State :=
  if fabState s ≠ fabStopped ∧ v % 2 ^ 32 = posStep s.pos ∧ s.boundary.isNone ∧ posStep s.pos ≠ 2 ^ 32 - 1 then beginBoundary s
  else setPf s Reg.STAIR_SYNC 19 19 1

end Sys2Proof.Machine
end

