-- ==== Sys2Proof/Machine/RestoreOps.lean ====
section
/-! DEFINITION. Restore, export and import of a context (R355 to R359): the plan, the sources of each block, the checks of digests,
and what the end of a restore sets. Data fetched is kept until every member knows whether the anchor is needed (R356). -/
namespace Sys2Proof.Machine

/-- One plan record (R355). -/
structure PlanRec where
  itemId : Nat
  resv   : Nat
  offset : Nat
  len    : Nat
  dest   : Nat
deriving DecidableEq, Repr

def planBase (s : State) : Nat := let b := pf s Reg.RST_PLAN 43 0; if b % 32 = 0 then b else 0
def planCount (s : State) : Nat := pf s Reg.RST_PLAN_COUNT 19 0
def planRec (s : State) (i : Nat) : PlanRec :=
  let b := readMem s (planBase s + 32 * i) 32
  ⟨recNat b 0 4, recNat b 4 4, recNat b 8 8, recNat b 16 8, recNat b 24 8⟩

/-- The generation, or anchor, that a restore reads. -/
def restoreGen (s : State) (r : Restore) : AnnexGen := genOf s r.anchor r.step

/-- The records of an item by owner, JOBWIDE or not; the module's own item is a JOBWIDE one of 64 bytes. -/
def planItems (s : State) (r : Restore) (itemId : Nat) : List AnnexItem := (restoreGen s r).items.filter fun i => i.itemId = itemId
def planEnd (s : State) (r : Restore) (itemId : Nat) : Nat :=
  if itemId = ownItemId then 64 else ((planItems s r itemId).map fun i => i.offset + itemLen i).foldl max 0

/-- Bytes at DEST that a plan record takes: an export or an import has the 96 bytes of a header there, too (R359). -/
def destLen (r : Restore) (p : PlanRec) : Nat := if r.mode = 0 then p.len else 96 + p.len

/-- The plan checks (R355), record by record. -/
def planFlaw (s : State) (r : Restore) : Nat :=
  let count := planCount s
  if !memMapped s (planBase s) (32 * count) then stLength
  else ((List.range count).map fun k =>
    let p := planRec s k
    let known := decide (p.itemId = ownItemId) || !(planItems s r p.itemId).isEmpty
    firstFail [failIf (decide (p.resv ≠ 0) || decide (2 ^ 44 ≤ p.dest) || !known) stReserved,
      failIf (decide (2 ^ 40 < p.len) || decide (planEnd s r p.itemId < p.offset + p.len)
        || !memMapped s p.dest (destLen r p)) stLength]).foldl (fun acc f => if acc = 0 then f else acc) 0

/-- A domain that is lost serves the plan or a destination: its answer is DOMAIN_LOST (R44). -/
def planLost (s : State) (r : Restore) : Bool :=
  needsDown s (planBase s) (32 * planCount s)
    || (List.range (planCount s)).any fun k => needsDown s (planRec s k).dest (destLen r (planRec s k))

/-- The item record that holds a byte of an item. -/
def shardAt (s : State) (r : Restore) (itemId off : Nat) : Option AnnexItem :=
  if itemId = ownItemId then some ⟨myRank s, ownItemId, 8, 0, 0, 0, 1⟩
  else (planItems s r itemId).find? fun i => decide (i.offset ≤ off) && decide (off < i.offset + itemLen i)

/-- The bytes of the block being fetched: the shard's record, block index, block length, first byte wanted and how many. -/
structure BlockGoal where
  item  : AnnexItem
  block : Nat
  len   : Nat
  skip  : Nat
  want  : Nat
deriving DecidableEq, Repr

/-- What a restore has to fetch next: the plan's records, then the module's own item, which needs none (R357). -/
def goalRec (s : State) (r : Restore) : Option PlanRec :=
  if r.index < planCount s then some (planRec s r.index)
  else if r.index = planCount s ∧ r.mode = 0 ∧ s.annex.active = true then some ⟨ownItemId, 0, 0, 64, 0⟩
  else none

/-- The next block: done bytes of record index lie at offset. -/
def blockGoal (s : State) (r : Restore) : Option BlockGoal :=
  (goalRec s r).bind fun p =>
    (shardAt s r p.itemId (p.offset + r.offset)).map fun i =>
      let o := p.offset + r.offset - i.offset
      let size := if i.itemId = ownItemId then 64 else itemLen i
      let b := o / miB
      let len := min miB (size - b * miB)
      ⟨i, b, len, o - b * miB, min (len - (o - b * miB)) (p.len - r.offset)⟩

/-- One range to have from one member, by rank. -/
structure FetchNeed where
  rank   : Nat
  flags  : Nat
  owner  : Nat
  off    : Nat
  len    : Nat
deriving DecidableEq, Repr

/-- The sources of a block in order (R356): each a list of ranges, digests first, then data; under parity the parity and the other
members' stripes. An anchor uses the other method (R354), which its record names. -/
def sourcesOf (s : State) (r : Restore) (g : BlockGoal) : List (List FetchNeed) :=
  let gen := restoreGen s r
  let me := myRank s
  let fl := if r.anchor then 4 else 0
  let i := g.item
  let shardLen := if i.itemId = ownItemId then 64 else itemLen i
  let digLen := 16 * ceilDiv shardLen miB + 64
  let from' := fun (h owner : Nat) =>
    [⟨h, fl + 1, owner, 0, digLen⟩, (⟨h, fl, owner, i.offset + g.block * miB, g.len⟩ : FetchNeed)]
  if itemJobwide i then from' me me :: ((ascRanks s).filter (· ≠ me)).map fun p => from' p p
  else if gen.inParity i then
    let pg := gen.group i.owner
    let sb := gen.stripe i.itemId i.owner
    let t := g.block * miB / sb
    let m := gen.rank (pg.1 + (t + (gen.pos i.owner - pg.1) + 1) % pg.2)
    let o := g.block * miB - t * sb
    let others := (gen.mates m).filter fun k => decide (k ≠ i.owner)
    let reads := others.filterMap fun k =>
      ((gen.shards i.itemId).find? fun x => decide (x.owner = k)).map fun x =>
        let u := gen.covers m k
        (⟨k, fl, k, x.offset + u * sb + o, min g.len (itemLen x - (u * sb + o))⟩ : FetchNeed)
    [[⟨m, fl + 1, i.owner, 0, digLen⟩, (⟨m, fl + 2, i.owner, o, g.len⟩ : FetchNeed)] ++ reads]
  else (gen.mirrors i.owner).map fun h => from' h i.owner

/-- What a need gives: from this module's own pieces, or from the data fetched; none: not there. -/
def needBytes (s : State) (r : Restore) (itemId : Nat) (f : FetchNeed) : Option (List Byte) :=
  if f.len = 0 then some []
  else if f.rank = myRank s then
    if bitAt f.flags 1 then parityCopy s (bitAt f.flags 2) itemId r.step f.off f.len
    else heldCopy s.annex.pieces f.flags f.owner itemId r.step f.off f.len
  else heldCopy r.fetched f.flags f.owner itemId r.step f.off f.len

/-- The block from a source whose needs are all there, and whether its digests hold (R353, R356). -/
def blockFrom (s : State) (r : Restore) (g : BlockGoal) (src : List FetchNeed) : Option (List Byte × Bool) :=
  let got := src.map (needBytes s r g.item.itemId)
  if got.any (·.isNone) then none else
    let parts := got.map (·.getD [])
    let dig := parts.getD 0 []
    let data := (parts.drop 1).foldl (fun acc b => if acc.isEmpty then b else xorBytes acc (b ++ List.replicate (acc.length - b.length) 0)) []
    let list := dig.take (dig.length - 64)
    let ok := decide (sha3_512 list = dig.drop (dig.length - 64))
      && decide ((list.drop (16 * g.block)).take 16
        = blockDigest (keyBytes s) g.item.itemId (if g.item.itemId = ownItemId then 0 else g.item.offset) g.block r.step data)
    some (data, ok)

/-- Data that an import has put into the generation (R359). -/
def importedBytes (s : State) (r : Restore) (g : BlockGoal) : Option (List Byte) :=
  if r.anchor then none
  else heldCopy s.annex.pieces 8 0 g.item.itemId r.step (g.item.offset + g.block * miB + g.skip) g.want

/-- Ask for the ranges of a source that others hold (R333). -/
def askFor (itemId : Nat) (r : Restore) (src : List FetchNeed) (s : State) : State :=
  (src.filter fun f => decide (f.rank ≠ myRank s) && decide (0 < f.len)).foldl (fun s f =>
    match addrOf s f.rank with
    | some a => sendPacket 0 6 a (pieceHeader 4 f.flags ((restoreGen s r).pos f.owner) itemId r.step f.len f.off 0) s
    | none => s) s

/-- Ask for what the present source of the present block has. -/
def askSource (s : State) : State :=
  match blockGoal s s.restore with
  | none => s
  | some g => if (importedBytes s s.restore g).isSome then s else match (sourcesOf s s.restore g)[s.restore.source]? with
    | some src => askFor g.item.itemId s.restore src s
    | none => s

/-- A need that this module or an absent member cannot serve. -/
def needLost (s : State) (r : Restore) (itemId : Nat) (f : FetchNeed) : Bool :=
  if f.rank = myRank s then (needBytes s r itemId f).isNone else (addrOf s f.rank).isNone

/-- The digest-mismatch record of a refused source (R356), and its DETAIL for the restore's end (R338). -/
def mismatchRecord (g : BlockGoal) (src : List FetchNeed) (s : State) : State :=
  let kind := if s.restore.anchor then 3 else if src.any (fun f => bitAt f.flags 1) then 2 else 1
  let holder := ((src.head?.bind fun f => addrOf s f.rank)).getD (fabAddr s)
  let detail := (g.item.itemId, g.block, kind + holder * 2 ^ 16)
  let s := { s with restore := { s.restore with refused := some detail } }
  logFault { status := stDigest, cls := 6, dom := porchDom, detail := some detail } s

/-- R211 for one sampling-stream record in restored bytes at an address. -/
def rederive (a : Nat) (s : State) : State :=
  let b := readMem s a 32
  let cur := recNat b 16 8 * 2 ^ (recNat b 4 1 % 64) % 2 ^ 64
  if recNat b 8 8 = cur then s
  else logFault { status := stCursor, cls := 6, dom := porchDom, addr := some a, detail := some (recNat b 0 4, recNat b 8 8, cur) }
    (writeNat s (a + 8) 8 cur)

/-- The plan writes byte x of an item to address a. -/
def planWrites (s : State) (itemId x a : Nat) : Bool :=
  (List.range (planCount s)).any fun k =>
    let p := planRec s k
    decide (p.itemId = itemId) && decide (p.offset ≤ x) && decide (x < p.offset + p.len) && decide (p.dest + (x - p.offset) = a)

/-- The addresses of the sampling-stream records that the plan has written whole, by one of its records or by several that join. -/
def streamRecords (s : State) : List Nat :=
  (List.range (planCount s)).flatMap fun k =>
    let p := planRec s k
    if Config.streamItem p.itemId then
      ((List.range (ceilDiv (p.offset + p.len) 32)).filter fun j => decide (p.offset ≤ 32 * j)
        && (List.range 32).all fun n => planWrites s p.itemId (32 * j + n) (p.dest + (32 * j - p.offset) + n)).map
          fun j => p.dest + (32 * j - p.offset)
    else []

/-- Item 3 of R357: in-step fields of the ledgers and layers that the boundary table lists and that can be read. -/
def clearInStep (s : State) : State :=
  let base := pf s Reg.FAB_BX_TABLE 43 0
  let nl := pf s Reg.FAB_BX_COUNTS 14 0
  let ny := pf s Reg.FAB_BX_COUNTS 28 16
  if memMapped s base (8 * (nl + ny)) && !needsDown s base (8 * (nl + ny)) then
    let addr := fun k => readNat s (base + 8 * k) 8
    let s := (List.range nl).foldl (fun s k =>
      let a := addr k
      if memMapped s a ledgerBytes && !needsDown s a ledgerBytes then writeNat (writeNat s (a + 36) 4 0) (a + 24) 4 0 else s) s
    (List.range ny).foldl (fun s k =>
      let a := addr (nl + k)
      if memMapped s a 64 && !needsDown s a 64 then writeNat s (a + 56) 4 0 else s) s
  else s

/-- The restored step s: a new position with STEP s + 1 and the rest of R278. -/
def restoreStep (step : Nat) (s : State) : State :=
  moveTo (mkPos (posEpoch s.pos) (step + 1) 0 0 (posTick s.pos)) s

/-- Every member has its data: the plan records are written in table order (R357). -/
def writePlan (s : State) : State :=
  let r := s.restore
  let s := r.done.foldl (fun s d => writeServed d.1 d.2 s) s
  { s with restore := { r with waiting := false, written := true } }

/-- The end of a restore (R357), once the plan is written. -/
def finishRestore (s : State) : State :=
  let r := s.restore
  let s := (streamRecords s).foldl (fun s a => rederive a s) s
  let s := if r.own.length = 64 then
      setReg (setReg s porchDom Reg.CG_JOB_KEY (BitVec.ofNat 64 (recNat r.own 0 8))) porchDom Reg.CG_KEY_IN_FORCE
        (BitVec.ofNat 64 (recNat r.own 8 8))
    else s
  let s := restoreStep r.step (clearInStep s)
  let s := { s with train := { s.train with committed := r.step } }
  let s := setPf (setPf s Reg.RST_STATUS 63 32 r.step) Reg.RST_STATUS 2 2 (b2n r.anchor)
  endRestore stDone s

/-- An export ends (R359): one container for each plan record. -/
def finishExport (s : State) : State :=
  let r := s.restore
  let s := (List.range (planCount s)).foldl (fun s k =>
    let p := planRec s k
    let data := (((r.done.filter fun d => decide (p.dest ≤ d.1) && decide (d.1 < p.dest + max 1 p.len)).map (·.2)).flatten).take p.len
    writeServed p.dest (leBytes 4 0x4358544B ++ [0x14, 0, 0, 0] ++ leBytes 4 p.itemId ++ leBytes 4 r.step ++ leBytes 8 p.offset
      ++ leBytes 8 p.len ++ sha3_512 data ++ data) s) s
  endRestore stDone (setPf s Reg.RST_STATUS 63 32 r.step)

/-- The anchor lacks a block too (R356): the restore fails on this member. -/
def failRestore (s : State) : State :=
  let status := if s.restore.refused.isSome then stDigest else stLost
  let s := logFault { status := status, cls := 4, dom := porchDom, detail := s.restore.refused } s
  leaveJob (endRestore status s)

/-- One contribution to an AGREE exchange (R346, R356). -/
def sendAgree (need : Bool) (s : State) : State :=
  let a := pf s Reg.ANNEX_STATE 63 32
  let body := leBytes 4 s.train.committed ++ leBytes 4 a ++ [BitVec.ofNat 8 (b2n need)] ++ List.replicate 7 0
  let s := sendToMembers 1 3 (restartPayload s 5 body) s
  { s with fabric := { s.fabric with agrees := s.fabric.agrees ++ [⟨myRank s, s.train.committed, a, need⟩] } }

/-- The block at hand has come: its part of the plan record is done, and the next block is asked for. -/
def takeBlock (p : PlanRec) (g : BlockGoal) (part : List Byte) (s : State) : State :=
  let r := s.restore
  let last := decide (p.len ≤ r.offset + g.want)
  let mine := decide (planCount s ≤ r.index)
  askSource { s with restore := { r with
    index := if last then r.index + 1 else r.index, offset := if last then 0 else r.offset + g.want, source := 0, fetched := []
    done := if mine then r.done else r.done ++ [(p.dest % 2 ^ 44 + r.offset, part)]
    own := if mine then part else r.own } }

/-- Skip what the present goal has left: a record of no bytes, or the module's own item where nobody has it. -/
def skipGoal (s : State) : State :=
  let r := s.restore
  askSource { s with restore := { r with index := r.index + 1, offset := 0, source := 0, fetched := [] } }

/-- Go through the plan as far as the data at hand allows; fuel bounds the blocks and sources tried at once. -/
def fetchLoop : Nat → State → State
  | 0, s => s
  | fuel + 1, s =>
    let r := s.restore
    match goalRec s r with
    | none => if r.mode = 1 then finishExport s else sendAgree false { s with restore := { r with waiting := true } }
    | some p => match blockGoal s r with
      | none => fetchLoop fuel (skipGoal s)
      | some g =>
        if g.want = 0 then fetchLoop fuel (skipGoal s)
        else match importedBytes s r g with
        | some part => fetchLoop fuel (takeBlock p g part s)
        | none => match (sourcesOf s r g)[r.source]? with
          | none =>
            if planCount s ≤ r.index then fetchLoop fuel (skipGoal s)
            else if r.mode = 1 then endRestore (if r.refused.isSome then stDigest else stLost) s
            else sendAgree true { s with restore := { r with need := true, waiting := true } }
          | some src =>
            let next := fun (s : State) =>
              askSource { s with restore := { s.restore with source := s.restore.source + 1, fetched := [] } }
            match blockFrom s r g src with
            | some (data, true) => fetchLoop fuel (takeBlock p g ((data.drop g.skip).take g.want) s)
            | some (_, false) => fetchLoop fuel (next (mismatchRecord g src s))
            | none => if src.any (needLost s r g.item.itemId) then fetchLoop fuel (next s) else s

/-- Enough turns for every block and source of the plan, and of the module's own item. -/
def fetchFuel (s : State) : Nat :=
  (((List.range (planCount s)).map fun k => (planRec s k).len / miB + 3).foldl (· + ·) 6) * (memberCount s + 3)

/-- Start fetching: the first block's first source is asked. -/
def startFetch (s : State) : State := fetchLoop (fetchFuel s) (askSource s)

/-- MODE 2 for one container (R359): MAGIC and digest, then the data joins the generation. -/
def importRec (k : Nat) (s : State) : Nat × State :=
  let p := planRec s k
  let h := readMem s p.dest 96
  let len := recNat h 24 8
  if recNat h 0 4 ≠ 0x4358544B then (stReserved, s)
  else if !memMapped s p.dest (96 + len) then (stLength, s)
  else
    let data := readMem s (p.dest + 96) len
    if sha3_512 data ≠ h.drop 32 then
      (stDigest, logFault { status := stDigest, cls := 6, dom := porchDom, addr := some p.dest } s)
    else (0, storePiece ⟨8, 0, recNat h 8 4, s.restore.step, recNat h 16 8, data⟩ s)

def importLoop : List Nat → State → State
  | [], s => endRestore stDone s
  | k :: rest, s =>
    let r := importRec k s
    if r.1 = 0 then importLoop rest r.2 else endRestore r.1 r.2

/-- A GO may run (R355, R359): plan checks, then the mode's work under generation step. It waits for a domain that is in reset (R345). -/
def runRestore (mode step : Nat) (s : State) : State :=
  let r := { Restore.initial with mode := mode, step := step }
  if getReg s porchDom Reg.DOM_IN_RESET ≠ 0 then setPf { s with restore := r } Reg.RST_STATUS 1 0 1
  else
    let flaw := planFlaw s r
    if flaw ≠ 0 then endRestore flaw s
    else if planLost s r then endRestore stLost s
    else
      let s := setPf { s with restore := r } Reg.RST_STATUS 1 0 2
      if mode = 2 then importLoop (List.range (planCount s)) s else startFetch s

/-- A waiting GO runs once its restore step is agreed, or, for an export or an import, at once. -/
def tryRestore (s : State) : State :=
  let mode := s.restore.mode
  if pf s Reg.RST_STATUS 1 0 ≠ 1 then s
  else if mode = 0 then
    match s.fabric.restoreTo with
    | some step => runRestore 0 step s
    | none => s
  else runRestore mode (s.fabric.restoreTo.getD (pf s Reg.ANNEX_STATE 31 0)) s

/-- A write of RST_CTRL with GO (R355, R359); a GO while one runs is ignored (log entry 43), one that needs the fabric is refused in
STOPPED_MINORITY (R327, log entry 127). -/
def goRestore (v : Nat) (s : State) : State :=
  let mode := fld v 2 1
  let busy := pf s Reg.RST_STATUS 1 0 = 1 || pf s Reg.RST_STATUS 1 0 = 2
  if !bitAt v 0 ∨ busy then s
  else if mode = 3 then endRestore stReserved s
  else if fabState s = fabStopped ∧ mode ≠ 2 then endRestore stMinority s
  else
    let s := setPf (setPf (setPf s Reg.RST_STATUS 31 16 0) Reg.RST_STATUS 2 2 0) Reg.RST_STATUS 1 0 1
    tryRestore { s with restore := { Restore.initial with mode := mode } }

/-- Every member has contributed once to the exchange: the agreed figures, and the contributions left for a next one. -/
def agreed (s : State) : Option (Nat × Nat × Bool × List Agreement) :=
  let rs := memberRanks s
  let first := rs.map fun r => s.fabric.agrees.find? fun a => a.rank = r
  if first.any (·.isNone) then none
  else
    let xs := first.filterMap id
    let left := rs.foldl (fun l r => l.eraseP fun a => a.rank = r) s.fabric.agrees
    some ((xs.map (·.step)).foldl max 0, (xs.map (·.anchor)).foldl min (2 ^ 32 - 1), xs.any (·.need), left)

/-- What a step after the restored one has put into a generation goes: that step is run again (R357). The restored generation is complete, as some
member has committed its step (R349). -/
def dropAfter (step : Nat) (s : State) : State :=
  let pieces := s.annex.pieces.filter fun p => bitAt p.flags 2 || decide (p.step ≤ step)
  let gens := s.annex.gens.filter fun g => g.anchor || decide (g.step ≤ step)
  let s := { s with annex := { s.annex with pieces := pieces, gens := gens, ridden := [], updates := [] } }
  if s.annex.active then setPf s Reg.ANNEX_STATE 31 0 step else s

/-- The exchange has its result (R346, R356): the first sets STEP and lets a waiting GO run; the second ends the fetch. -/
def applyAgree (step anchor : Nat) (need : Bool) (s : State) : State :=
  if s.fabric.restoreTo.isNone then
    tryRestore (restoreStep step (dropAfter step { s with fabric := { s.fabric with restoreTo := some step, agreeing := false } }))
  else if s.restore.waiting then
    let r := s.restore
    if !need then writePlan s
    else if r.anchor then failRestore s
    else
      let s := setPf s Reg.RST_STATUS 2 2 1
      startFetch { s with restore := { Restore.initial with step := anchor, anchor := true, refused := r.refused } }
  else s

/-- An exchange whose contributions are all here completes. -/
def agreeOnce (s : State) : State :=
  if s.fabric.agreeing || s.restore.waiting then
    match agreed s with
    | some (step, anchor, need, left) => applyAgree step anchor need { s with fabric := { s.fabric with agrees := left } }
    | none => s
  else s

/-- The exchanges complete that this module's own contribution was the last to reach: the restore step's, that of the generation and that of
the anchor at most (R346, R356). -/
def tryAgree (s : State) : State := agreeOnce (agreeOnce (agreeOnce s))

end Sys2Proof.Machine
end

