-- ==== Sys2Proof/Machine/AnnexCfg.lean ====
section
/-! DEFINITION. The enable exchange of the Annex (R347, R348, R353): what an enable checks on this module, what it sends, and how the
members' offers are compared once all have come. -/
namespace Sys2Proof.Machine

/-- A packet's kind and epoch are looked at: one of a later epoch makes the receiver join the restart (R312). -/
def onPacket (pk : List Byte) (kind : Nat) (f : List Byte → State → State) (s : State) : State :=
  match arrive pk s with
  | .gone s => s
  | .later s => joinRestart s
  | .here s => if pkKind pk = kind then f (pkPayload pk) s else s

/-- The configuration registers, as the enable reads them. -/
def cfgRegion (s : State) : Nat := pf s Reg.ANNEX_REGION 43 0
def cfgSize (s : State) : Nat := pf s Reg.ANNEX_SIZE 43 0
def cfgItems (s : State) : Nat := pf s Reg.ANNEX_ITEMS 43 0
def cfgCount (s : State) : Nat := pf s Reg.ANNEX_COUNT 11 0
def cfgKey (s : State) : List Word :=
  [Reg.ANNEX_KEY0, Reg.ANNEX_KEY1, Reg.ANNEX_KEY2, Reg.ANNEX_KEY3].map (getReg s porchDom)
/-- The 32-byte records of the item table, joined. -/
def cfgTable (s : State) : List Byte := readMem s (cfgItems s) (32 * cfgCount s)

/-- What this module's own configuration breaks (R347, R348), in the order of R228. -/
def cfgFlaw (s : State) : Nat :=
  let mis := decide (cfgRegion s % miB ≠ 0) || decide (cfgItems s % 32 ≠ 0) || decide (cfgSize s % miB ≠ 0)
  let listed := memMapped s (cfgItems s) (32 * cfgCount s)
  let recs := if listed then (List.range (cfgCount s)).map fun k => readMem s (cfgItems s + 32 * k) 32 else []
  let long := decide (2048 < cfgCount s) || !listed || !inHbm s (cfgRegion s) (cfgSize s) || recs.any (itemFar s)
  firstFail [failIf (recs.any itemBad) stReserved, failIf mis stAlign, failIf long stLength,
    failIf (needsDown s (cfgItems s) (32 * cfgCount s)) stLost]

/-- The enable fails (R347). -/
def refuseConfig (status : Nat) (s : State) : State :=
  let s := setPf (setPf (setPf s Reg.ANNEX_CTRL 0 0 0) Reg.ANNEX_CTRL 1 1 1) Reg.ANNEX_CTRL 31 16 status
  { s with annex := { s.annex with asking := false, active := false } }

/-- Two records of one ITEM_ID that members may not list together (R347). -/
def itemsClash (a b : AnnexItem) : Bool :=
  decide (a.itemId = b.itemId) && decide (a.owner ≠ b.owner) &&
    (decide (itemJobwide a ≠ itemJobwide b) || (itemJobwide a && decide (a.mib ≠ b.mib))
      || (!itemJobwide a && overlaps a.offset (itemLen a) b.offset (itemLen b)))

/-- Every member's offer is here: compare, size and decide. -/
def decideConfig (s : State) : State :=
  let all := (ascRanks s).map fun r => s.annex.offers.find? fun o => o.rank = r && o.done
  if !s.annex.asking || all.any (·.isNone) then s
  else
    let os := all.filterMap id
    let items := os.flatMap (·.items)
    let kcv := (os.map (·.kcv)).headD 0
    let clash := os.any (fun o => decide (o.kcv ≠ kcv)) || items.any fun a => items.any (itemsClash a)
    let s := { s with annex := { s.annex with offers := s.annex.offers.filter fun o => !o.done } }
    if clash then refuseConfig stReserved s
    else
      let s := { s with annex := { s.annex with items := items, region := cfgRegion s } }
      let need := annexNeed s
      let s := setPf s Reg.ANNEX_NEED 43 0 need
      if cfgSize s < need then refuseConfig stLength s
      else setPf { s with annex := { s.annex with active := true, asking := false } } Reg.ANNEX_CTRL 0 0 1

/-- The records of an offer in packets, the last one short (log entry 51). -/
def offerPackets (kcv pos : Nat) (table : List Byte) : List (List Byte) :=
  (List.range (table.length / pieceMax + 1)).map fun k =>
    let d := (table.drop (k * pieceMax)).take pieceMax
    pieceHeader 3 0 pos 0 0 d.length (k * pieceMax) kcv ++ d

/-- ENABLE goes from 0 to 1 (R347; in STOPPED_MINORITY it is refused, R327): this module's checks, its offer to every member, and the comparison. -/
def enableAnnex (s : State) : State :=
  let flaw := if fabState s = fabStopped then stMinority else cfgFlaw s
  let s := setPf s Reg.ANNEX_CTRL 0 0 0
  if flaw ≠ 0 then refuseConfig flaw s
  else
    let s := { s with annex := { s.annex with key := cfgKey s, asking := true } }
    let kcv := kcvOf (keyBytes s)
    let me := myRank s
    let mine : AnnexOffer := ⟨me, kcv, itemsOf me (cfgTable s), true⟩
    let s := { s with annex := { s.annex with offers := upsert (fun (o : AnnexOffer) => decide (o.rank = me)) mine s.annex.offers } }
    decideConfig ((offerPackets kcv (myPos s) (cfgTable s)).foldl (fun s p => sendToMembers 1 6 p s) s)

/-- A write of ANNEX_CTRL (R347, R363): v is the whole value. ENABLE 0 ends the Annex; 1 while it is on changes nothing. -/
def writeAnnexCtrl (v : Nat) (s : State) : State :=
  let s := if bitAt v 1 then setPf s Reg.ANNEX_CTRL 1 1 0 else s
  if !bitAt v 0 then
    setPf { s with annex := { s.annex with active := false, asking := false } } Reg.ANNEX_CTRL 0 0 0
  else if s.annex.active || s.annex.asking then s
  else enableAnnex s

/-- A CONFIG packet: it extends its sender's offer, or begins a new one (R333). -/
def takeOffer (b : List Byte) (s : State) : State :=
  let rank := rankAt s (phOwner b)
  let old := (s.annex.offers.find? fun o => o.rank = rank && !o.done).getD ⟨rank, phKcv b, [], false⟩
  let o : AnnexOffer := { old with items := old.items ++ itemsOf rank (phData b), done := decide (phLen b < pieceMax) }
  let os := s.annex.offers.filter fun x => x.rank ≠ rank
  decideConfig { s with annex := { s.annex with offers := os ++ [o] } }

end Sys2Proof.Machine
end

