-- ==== Sys2Proof/Machine/Annex.lean ====
section
/-! DEFINITION. The commands of the Annex and of restore: ANNEX_SUMS_PACKET to ANNEX_ENABLE, RESTORE_GO, EXPORT_GO, IMPORT_GO and
RESTORE_DONE (R346 to R359). -/
namespace Sys2Proof.Machine

/-- ANNEX_SUMS_PACKET (R352). -/
def execAnnexSumsPacket (pk : List Byte) (s : State) : Host.Outcome State Fault Refusal :=
  .next (onPacket pk 3 (fun b s =>
    if recNat b 0 1 = 6 ∧ recNat b 4 4 = jobId s ∧ s.annex.active = true then
      addSums ⟨recNat b 8 2, recNat b 16 4, recNat b 20 4, recNat b 24 8, recNat b 32 8⟩ (bitAt (recNat b 40 1) 0) s
    else s) s)

/-- ANCHOR_PACKET (R354). -/
def execAnchorPacket (pk : List Byte) (s : State) : Host.Outcome State Fault Refusal :=
  .next (onPacket pk 3 (fun b s =>
    let fl := recNat b 20 1
    if recNat b 0 1 = 7 ∧ recNat b 4 4 = jobId s ∧ s.annex.active = true ∧ (bitAt fl 0 = true ∨ bitAt fl 1 = true) then
      addAnchor (posOfRank s (recNat b 8 2)) (recNat b 16 4) (bitAt fl 1) s
    else s) s)

/-- ANNEX_PIECE (R349). -/
def execAnnexPiece (pk : List Byte) (s : State) : Host.Outcome State Fault Refusal :=
  .next (onPacket pk 6 (takePiece (pkSrc pk)) s)

/-- The piece header that an acknowledgement answers: AKIND and LENGTH aside. -/
def sameHeader (a b : List Byte) : Bool :=
  decide (phFlags a = phFlags b) && decide (phOwner a = phOwner b) && decide (phItem a = phItem b) && decide (phStep a = phStep b)
    && decide (phOffset a = phOffset b)

/-- An acknowledgement settles one debt; the boundary's contribution and the anchor's may then leave (R349, R354). -/
def takeAck (src : Nat) (b : List Byte) (s : State) : State :=
  if phKind b = 2 then
    let left := s.annex.owed.eraseP fun (o : AnnexOwed) => decide (o.holder = src) && sameHeader o.header b
    anchorReady (contribution { s with annex := { s.annex with owed := left } })
  else s

/-- ANNEX_ACK (R349). -/
def execAnnexAck (pk : List Byte) (s : State) : Host.Outcome State Fault Refusal :=
  .next (onPacket pk 6 (takeAck (pkSrc pk)) s)

/-- ANNEX_CONFIG (R347). -/
def execAnnexConfig (pk : List Byte) (s : State) : Host.Outcome State Fault Refusal :=
  .next (onPacket pk 6 (fun b s => if phKind b = 3 then takeOffer b s else s) s)

/-- A holder answers a FETCH_REQ (R333): the bytes in packets, or a refusal. Parity comes from the stripes it keeps. -/
def answerFetch (src : Nat) (b : List Byte) (s : State) : State :=
  if phKind b ≠ 4 then s
  else
    let fl := phFlags b
    let got := if bitAt fl 1 then parityCopy s (bitAt fl 2) (phItem b) (phStep b) (phOffset b) (phLen b)
      else heldCopy s.annex.pieces fl ((phGen s b).rank (phOwner b)) (phItem b) (phStep b) (phOffset b) (phLen b)
    let head := fun (k n off : Nat) => pieceHeader k fl (phOwner b) (phItem b) (phStep b) n off 0
    match got with
    | none => sendPacket 0 6 src (head 6 0 (phOffset b)) s
    | some d =>
      let unit := if bitAt fl 0 then 16 else 1
      (chunksOf pieceMax d).foldl (fun s c => sendPacket 0 6 src (head 5 c.2.length (phOffset b + c.1 / unit) ++ c.2) s) s

/-- FETCH_REQ (R356). -/
def execFetchReq (pk : List Byte) (s : State) : Host.Outcome State Fault Refusal :=
  .next (onPacket pk 6 (answerFetch (pkSrc pk)) s)

/-- A restore or an export is fetching. -/
def fetching (s : State) : Bool := decide (pf s Reg.RST_STATUS 1 0 = 2) && !s.restore.waiting && !s.restore.written

/-- FETCH_DATA (R356): kept, and the fetch goes on as far as it can. -/
def execFetchData (pk : List Byte) (s : State) : Host.Outcome State Fault Refusal :=
  .next (onPacket pk 6 (fun b s =>
    if phKind b = 5 ∧ fetching s = true then
      let s := { s with restore := { s.restore with fetched := s.restore.fetched ++ [pieceOf s b] } }
      tryAgree (fetchLoop (fetchFuel s) s)
    else s) s)

/-- The source in use refuses: the next one is asked (R356). -/
def nextSource (s : State) : State :=
  let s := askSource { s with restore := { s.restore with source := s.restore.source + 1, fetched := [] } }
  tryAgree (fetchLoop (fetchFuel s) s)

/-- The refusal concerns the block and source that the fetch waits for. -/
def refusesGoal (s : State) (b : List Byte) : Bool :=
  let r := s.restore
  match blockGoal s r with
  | none => false
  | some g => decide (phItem b = g.item.itemId) && decide (phStep b = r.step) && (match (sourcesOf s r g)[r.source]? with
    | some src => src.any fun f => decide (f.flags = phFlags b) && decide (f.owner = (phGen s b).rank (phOwner b)) && decide (f.off = phOffset b)
    | none => false)

/-- FETCH_REFUSED (R356). -/
def execFetchRefused (pk : List Byte) (s : State) : Host.Outcome State Fault Refusal :=
  .next (onPacket pk 6 (fun b s => if phKind b = 6 ∧ fetching s = true ∧ refusesGoal s b = true then nextSource s else s) s)

/-- ANNEX_ACK_TIMEOUT (R344): a job restart when a piece is still owed. -/
def execAnnexAckTimeout (s : State) : Host.Outcome State Fault Refusal :=
  .next (if s.annex.owed.isEmpty then s
    else restartFault { status := stLost, cls := 4, dom := porchDom } none s)

/-- RST_CTRL as written: the WRB fields keep the value. -/
def writeRstCtrl (v : Nat) (s : State) : State := tryAgree (goRestore v (setPf s Reg.RST_CTRL 2 0 (fld v 2 0)))

/-- RESTORE_DONE (R357): the plan is written; the rest of R357 follows. -/
def execRestoreDone (s : State) : Host.Outcome State Fault Refusal :=
  .next (if pf s Reg.RST_STATUS 1 0 = 2 ∧ s.restore.written = true then finishRestore s else s)

end Sys2Proof.Machine
end

