-- ==== Sys2Proof/Machine/MlDsa.lean ====
section
/-! DEFINITION. ML-DSA-87 of FIPS 204, which R416 to R418, R429 and R431 name by its standard: the key pair of a seed, signatures and their
check. The standard's parameters and encodings are PRESUMED (log entry 12). A polynomial is the list of its 256 coefficients, lowest first,
as numbers below q. -/
namespace Sys2Proof

abbrev dsaQ : Nat := 8380417
/-- A 512th root of unity, γ1, γ2, β, ω and the dimensions of the matrix. -/
abbrev dsaZeta : Nat := 1753
abbrev dsaGamma1 : Nat := 2 ^ 19
abbrev dsaGamma2 : Nat := 261888
abbrev dsaBeta : Nat := 120
abbrev dsaOmega : Nat := 75
abbrev dsaRows : Nat := 8
abbrev dsaCols : Nat := 7

abbrev Poly := List Nat

def zeroPoly : Poly := List.replicate 256 0
def addMod (x y : Nat) : Nat := (x + y) % dsaQ
def subMod (x y : Nat) : Nat := (x + (dsaQ - y)) % dsaQ
def polyAdd (a b : Poly) : Poly := List.zipWith addMod a b
def polySub (a b : Poly) : Poly := List.zipWith subMod a b
/-- The product of transforms, value by value. -/
def polyMul (a b : Poly) : Poly := List.zipWith (fun x y => x * y % dsaQ) a b

/-- The signed representative of smallest size. -/
def centred (x : Nat) : Int := if 2 * x < dsaQ then x else (x : Int) - dsaQ
def modQ (x : Int) : Nat := (x % (dsaQ : Int)).toNat

/-- x to the power n. -/
def powMod (x : Nat) : Nat → Nat
  | 0 => 1
  | n + 1 => powMod x n * x % dsaQ

/-- The eight bits of an index in reverse order. -/
def reverseBits (i : Nat) : Nat := (List.range 8).foldl (fun acc j => acc + (i >>> j) % 2 * 2 ^ (7 - j)) 0

/-- The value of a polynomial at a point. -/
def polyAt (a : Poly) (x : Nat) : Nat := (a.foldl (fun (r : Nat × Nat) c => ((r.1 + c * r.2) % dsaQ, r.2 * x % dsaQ)) (0, 1)).1

/-- The transform: the values at the odd powers of the root, in bit-reversed order. -/
def transform (a : Poly) : Poly := (List.range 256).map fun i => polyAt a (powMod dsaZeta (2 * reverseBits i + 1))

/-- Its inverse: coefficient j is 1/256 of the sum of each value over its point to the power j. -/
def untransform (a : Poly) : Poly :=
  let inOrder := (List.range 256).map fun i => a.getD (reverseBits i) 0
  (List.range 256).map fun j =>
    8347681 * powMod dsaZeta (512 - j) % dsaQ * polyAt inOrder (powMod dsaZeta ((512 - 2 * j % 512) % 512)) % dsaQ

/-! Bits. -/

/-- Each number in a field of w bits, lowest first, as bytes. -/
def packBits (w : Nat) (xs : List Nat) : List Byte :=
  leBytes (xs.length * w / 8) (xs.zipIdx.foldl (fun acc x => acc + x.1 * 2 ^ (w * x.2)) 0)
def unpackBits (w n : Nat) (b : List Byte) : List Nat :=
  let v := leNat b
  (List.range n).map fun i => (v >>> (w * i)) % 2 ^ w

/-! Sampling. -/

/-- Bytes by threes. -/
def triples : List Byte → List Nat
  | a :: b :: c :: rest => (a.toNat + 256 * b.toNat + 65536 * (c.toNat % 128)) :: triples rest
  | _ => []

/-- A polynomial of uniform values below q. -/
def uniformPoly (seed : List Byte) : Poly := (((triples (shake128 1008 seed)).filter (· < dsaQ)) ++ zeroPoly).take 256

/-- A polynomial with coefficients from −2 to 2. -/
def smallPoly (seed : List Byte) : Poly :=
  let half := (shake256 544 seed).flatMap fun z => [z.toNat % 16, z.toNat / 16]
  (((half.filter (· < 15)).map fun b => modQ (2 - (b % 5 : Nat))) ++ zeroPoly).take 256

/-- The matrix, transformed, by rows. -/
def dsaMatrix (rho : List Byte) : List (List Poly) :=
  (List.range dsaRows).map fun r => (List.range dsaCols).map fun s => uniformPoly (rho ++ leBytes 1 s ++ leBytes 1 r)

/-- The matrix times a vector of transforms, transformed back. -/
def matrixTimes (m : List (List Poly)) (v : List Poly) : List Poly :=
  m.map fun row => untransform ((List.zipWith polyMul row v).foldl polyAdd zeroPoly)

/-- Fill the positions left of 196 to 255: each takes what stands at the place of the next byte not above it, which gets a sign. -/
def placeSigns : List Byte → List Nat → Nat → Poly → Poly
  | [], _, _, c => c
  | _ :: _, [], _, c => c
  | b :: bs, i :: rest, bits, c =>
    if i < b.toNat then placeSigns bs (i :: rest) bits c
    else placeSigns bs rest (bits / 2) ((c.set i (c.getD b.toNat 0)).set b.toNat (if bits % 2 = 1 then dsaQ - 1 else 1))

/-- The challenge: 60 coefficients of ±1. -/
def challengePoly (seed : List Byte) : Poly :=
  let b := shake256 272 seed
  placeSigns (b.drop 8) ((List.range 60).map (196 + ·)) (leNat (b.take 8)) zeroPoly

/-! Rounding. -/

/-- The high and low parts of a coefficient about multiples of 2^13. -/
def power2Round (r : Nat) : Nat × Int :=
  let low : Int := if r % 8192 ≤ 4096 then (r % 8192 : Nat) else (r % 8192 : Nat) - 8192
  ((((r : Int) - low) / 8192).toNat, low)

/-- The high and low parts about multiples of 2·γ2. -/
def decompose (r : Nat) : Nat × Int :=
  let m := r % (2 * dsaGamma2)
  let low : Int := if m ≤ dsaGamma2 then m else (m : Int) - 2 * dsaGamma2
  if (r : Int) - low = dsaQ - 1 then (0, low - 1) else (((r : Int) - low).toNat / (2 * dsaGamma2), low)

def highBits (r : Nat) : Nat := (decompose r).1
def highBytes (w : List Poly) : List Byte := w.flatMap fun p => packBits 4 (p.map highBits)

/-- A coefficient with its hint: the high part of the other side of the rounding. -/
def useHint (h r : Nat) : Nat :=
  let d := decompose r
  if h = 0 then d.1 else if 0 < d.2 then (d.1 + 1) % 16 else (d.1 + 15) % 16

def withinNorm (bound : Nat) (ps : List Poly) : Bool := ps.all fun p => p.all fun x => decide ((centred x).natAbs < bound)

/-! Keys, signatures, their check. -/

structure DsaKey where
  rho  : List Byte
  seed : List Byte
  tr   : List Byte
  s1   : List Poly
  s2   : List Poly
  t0   : List Poly
  pub  : List Byte
deriving DecidableEq, Repr

/-- ML-DSA.KeyGen_internal. -/
def dsaKey (xi : List Byte) : DsaKey :=
  let b := shake256 128 (xi ++ leBytes 1 dsaRows ++ leBytes 1 dsaCols)
  let rho := b.take 32
  let small := fun (r : Nat) => smallPoly ((b.drop 32).take 64 ++ leBytes 2 r)
  let s1 := (List.range dsaCols).map small
  let s2 := (List.range dsaRows).map fun r => small (dsaCols + r)
  let t := List.zipWith polyAdd (matrixTimes (dsaMatrix rho) (s1.map transform)) s2
  let pub := rho ++ t.flatMap fun p => packBits 10 (p.map fun x => (power2Round x).1)
  ⟨rho, b.drop 96, shake256 64 pub, s1, s2, t.map (·.map fun x => modQ (power2Round x).2), pub⟩

/-- The public key of a seed. -/
def dsaPublic (xi : List Byte) : List Byte := (dsaKey xi).pub

/-- A message under its context string, as it is signed. -/
def dsaMessage (m ctx : List Byte) : List Byte := 0 :: BitVec.ofNat 8 ctx.length :: ctx ++ m

/-- The hints of a signature: the places of each polynomial's ones, then how many there are so far. -/
def hintBytes (h : List Poly) : List Byte :=
  let places := h.map fun p => (p.zipIdx.filter fun x => x.1 = 1).map (·.2)
  let all := places.flatten
  (all ++ List.replicate (dsaOmega - all.length) 0).map (BitVec.ofNat 8)
    ++ (List.range dsaRows).map fun i => BitVec.ofNat 8 ((places.take (i + 1)).flatten.length)

/-- The hints back from their bytes; none where the bytes are not as hintBytes gives them. -/
def hintPolys (b : List Byte) : Option (List Poly) :=
  let ends := (b.drop dsaOmega).map (·.toNat)
  let starts := 0 :: ends
  let place := fun (i : Nat) => (((b.take dsaOmega).drop (starts.getD i 0)).take (ends.getD i 0 - starts.getD i 0)).map (·.toNat)
  let ok := (List.range dsaRows).all fun i => decide (starts.getD i 0 ≤ ends.getD i 0) && decide (ends.getD i 0 ≤ dsaOmega)
    && (List.zipWith (fun x y => decide (x < y)) (place i) ((place i).drop 1)).all id
  if ok && ((b.take dsaOmega).drop (ends.getLastD 0)).all (· = 0) then
    some ((List.range dsaRows).map fun i => (place i).foldl (fun p j => p.set j 1) zeroPoly)
  else none

/-- One attempt after another, with the counter κ; a signature is the first that passes every bound. -/
def signLoop (k : DsaKey) (a : List (List Poly)) (mu rho : List Byte) : Nat → Nat → List Byte
  | 0, _ => []
  | n + 1, kappa =>
    let y := (List.range dsaCols).map fun r =>
      (unpackBits 20 256 (shake256 640 (rho ++ leBytes 2 (kappa + r)))).map fun x => subMod dsaGamma1 x
    let w := matrixTimes a (y.map transform)
    let seed := shake256 64 (mu ++ highBytes w)
    let c := transform (challengePoly seed)
    let times := fun (s : List Poly) => s.map fun p => untransform (polyMul c (transform p))
    let z := List.zipWith polyAdd y (times k.s1)
    let r := List.zipWith polySub w (times k.s2)
    let ct := times k.t0
    let low := r.all fun p => p.all fun x => decide ((decompose x).2.natAbs < dsaGamma2 - dsaBeta)
    let h := List.zipWith (fun p q => List.zipWith (fun x t => if highBits (addMod x t) = highBits x then 0 else 1) p q) r ct
    if withinNorm (dsaGamma1 - dsaBeta) z && low && withinNorm dsaGamma2 ct && decide ((h.map List.sum).sum ≤ dsaOmega) then
      seed ++ z.flatMap (fun p => packBits 20 (p.map fun x => ((dsaGamma1 : Int) - centred x).toNat)) ++ hintBytes h
    else signLoop k a mu rho n (kappa + dsaCols)

/-- ML-DSA.Sign: seed of the key, the 32 random bytes, message, context. -/
def dsaSign (xi rnd m ctx : List Byte) : List Byte :=
  let k := dsaKey xi
  let mu := shake256 64 (k.tr ++ dsaMessage m ctx)
  signLoop k (dsaMatrix k.rho) mu (shake256 64 (k.seed ++ rnd ++ mu)) 814 0

/-- ML-DSA.Verify: public key, message, context, signature. -/
def dsaVerify (pub m ctx sig : List Byte) : Bool :=
  let seed := sig.take 64
  let z := (List.range dsaCols).map fun i =>
    (unpackBits 20 256 ((sig.drop (64 + 640 * i)).take 640)).map fun x => subMod dsaGamma1 x
  let t := (List.range dsaRows).map fun i => (unpackBits 10 256 ((pub.drop (32 + 320 * i)).take 320)).map (· * 8192 % dsaQ)
  match hintPolys ((sig.drop 4544).take 83) with
  | none => false
  | some h =>
    let c := transform (challengePoly seed)
    let az := matrixTimes (dsaMatrix (pub.take 32)) (z.map transform)
    let ct := t.map fun p => untransform (polyMul c (transform p))
    let w := List.zipWith (fun p q => List.zipWith useHint p q) h (List.zipWith polySub az ct)
    let mu := shake256 64 (shake256 64 pub ++ dsaMessage m ctx)
    decide (pub.length = 2592) && decide (sig.length = 4627) && withinNorm (dsaGamma1 - dsaBeta) z
      && decide (shake256 64 (mu ++ w.flatMap (packBits 4)) = seed)

end Sys2Proof
end

