-- ==== Sys2Proof/Machine/Cert.lean ====
section
/-! DEFINITION. X.509 v3 certificates in DER, as far as R430 uses them: the key that one carries, its subject's serialNumber, its signature.
The encoding is the standard's (PRESUMED, log entry 12). -/
namespace Sys2Proof

/-- One element: its tag, its whole encoding, its content. -/
structure Der where
  tag  : Nat
  raw  : List Byte
  body : List Byte
deriving DecidableEq, Repr

/-- The element at the front of some bytes: a short length, or a long one of up to four bytes. -/
def derFront (b : List Byte) : Option Der :=
  match b with
  | tag :: len :: rest =>
    let n := len.toNat
    let k := if n < 128 then 0 else n - 128
    let size := if n < 128 then n else leNat (rest.take k).reverse
    if k ≤ 4 ∧ k + size ≤ rest.length ∧ n ≠ 128 then some ⟨tag.toNat, b.take (2 + k + size), (rest.drop k).take size⟩ else none
  | _ => none

/-- The elements that some bytes hold one after another; n bounds how many. -/
def derSeq : Nat → List Byte → List Der
  | 0, _ => []
  | n + 1, b => match derFront b with
    | some d => d :: derSeq n (b.drop d.raw.length)
    | none => []

/-- The elements in an element's content. -/
def Der.parts (d : Der) : List Der := derSeq 16 d.body

/-- What R430 says of a certificate. -/
structure Cert where
  tbs     : List Byte
  subject : List Byte
  alg     : List Byte
  key     : List Byte
  sig     : List Byte
deriving DecidableEq, Repr

/-- The bytes of a BIT STRING of whole bytes. -/
def bitString (d : Der) : List Byte := d.body.drop 1

/-- Certificate, TBSCertificate, SubjectPublicKeyInfo: the version may be left out. -/
def certOf (b : List Byte) : Option Cert :=
  match ((derFront b).map Der.parts).getD [] with
  | [tbs, alg, sig] =>
    let fields := tbs.parts.filter fun d => d.tag ≠ 0xA0
    match fields[4]?, fields[5]? with
    | some subject, some info => match info.parts with
      | [_, key] => some ⟨tbs.raw, subject.body, alg.body, bitString key, bitString sig⟩
      | _ => none
    | _, _ => none
  | _ => none

/-- The object identifiers id-ml-dsa-87 (2.16.840.1.101.3.4.3.19) and serialNumber (2.5.4.5), as elements. -/
def oidMlDsa87 : List Byte := [0x06, 0x09, 0x60, 0x86, 0x48, 0x01, 0x65, 0x03, 0x04, 0x03, 0x13]
def oidSerial : List Byte := [0x06, 0x03, 0x55, 0x04, 0x05]

/-- The serialNumber attribute of a subject, among its sets of one attribute each. -/
def subjectSerial (subject : List Byte) : Option (List Byte) :=
  (derSeq 16 subject).findSome? fun set => match set.parts with
    | [attr] => match attr.parts with
      | [name, value] => if name.raw = oidSerial then some value.body else none
      | _ => none
    | _ => none

/-- A number as 16 uppercase hexadecimal digits. -/
def hexDigits (n : Nat) : List Byte :=
  (List.range 16).map fun i => let d := n / 16 ^ (15 - i) % 16; BitVec.ofNat 8 (if d < 10 then 0x30 + d else 0x37 + d)

/-- One certificate is signed by another's key. -/
def signedBy (c issuer : Cert) : Bool := decide (c.alg = oidMlDsa87) && dsaVerify issuer.key c.tbs [] c.sig

end Sys2Proof
end

