-- ==== Sys2Proof/Machine/Issue.lean ====
section
/-! DEFINITION. How a unit issues an instruction (R234 to R236, R241, R244 to R249): the predicate, the reserved bits, the waits, the
checks in the order of R228, the refusal that ends a program, an operation in flight and its completion. A Rhoac command means that
the unit issues the instruction its program counter names; the effects of an operation take place when it issues (log entry 4). -/
namespace Sys2Proof.Machine

/-! Operand fields. -/

def predField (f : Fields) : Nat := fld f.toNat 55 52
/-- The predicate holds (R235). -/
def predicated (x : ProgUnit) (f : Fields) : Bool := pReg x (predField f % 8) != bitAt (predField f) 3

/-- Bits that an instruction uses: PRED, and the slots and low bits of its row. -/
def slotMask (f1 f2 f3 f4 f5 f6 low : Nat) : Nat :=
  0xF * 2 ^ 52 + f1 * 2 ^ 47 + f2 * 2 ^ 42 + f3 * 2 ^ 37 + f4 * 2 ^ 32 + f5 * 2 ^ 27 + f6 * 2 ^ 22 + low
/-- Slot widths by file (R236). -/
abbrev gSlot : Nat := 31
abbrev tSlot : Nat := 31
abbrev kSlot : Nat := 15
abbrev cSlot : Nat := 15
abbrev pSlot : Nat := 7
abbrev stSlot : Nat := 3

/-- The opcodes that R250, R252, R260 and R270 list. -/
def listedOpcode (opc : Nat) : Bool :=
  [0x00, 0x01, 0x02, 0x03, 0x04, 0x05, 0x06, 0x08, 0x09, 0x0A, 0x0B, 0x0C, 0x0D, 0x0E, 0x0F, 0x10, 0x11, 0x12, 0x40, 0x41, 0x42,
    0x48, 0x49, 0x4A, 0x4B, 0x4C, 0x80, 0x81, 0x84, 0x85, 0x88, 0x89, 0x8C, 0x8D, 0xC0, 0xC4, 0xC8, 0xC9, 0xCA, 0xCB, 0xCC, 0xD0,
    0xD1, 0xD2, 0xD3, 0xD4].contains opc

/-! What an instruction asks for. -/

/-- How an operation ended its work: status and informational flags. -/
structure Effect where
  s      : State
  status : Nat
  flags  : Nat
deriving DecidableEq, Repr

/-- An operation, once its registers are read (R241): what it checks, touches and waits for, and what it does. -/
structure Plan where
  checks  : List Nat
  reads   : List (Nat × Nat) := []
  writes  : List (Nat × Nat) := []
  /-- Other bytes it needs: records, lists and pools. They count as read: contributions of two operations to one record do not wait for
  each other (R64), a write of those bytes does (R246). -/
  touch   : List (Nat × Nat) := []
  banks   : List Nat := []
  /-- Stash entries it names, and those it reads (R181, R246). -/
  entries : List (Nat × Nat) := []
  rdEntries : List (Nat × Nat) := []
  /-- Stash headers it names, and those it opens, releases or closes (R246). -/
  headers : List Nat := []
  locks   : List Nat := []
  /-- Its views, whose spans are among reads and writes; only the bytes that their rows cover must be served. -/
  views   : List View := []
  /-- It names a scale-ledger or layer record (R65). -/
  records : Bool := false
  /-- A rule of its own makes it wait once its checks pass (R165, R268). -/
  hold    : Bool := false
  /-- Its estimate in µW (R368). -/
  draw    : Nat := 0
  /-- It moves data: a PGRANT of its unit covers it, although the model has no estimate (R275). -/
  moves   : Bool := false
  need    : OpNeed := .work
  /-- Count of zero or an empty written view: DONE and no effect (R228, R240). -/
  empty   : Bool := false
  run     : Nat → State → Effect

/-- A byte that the operation needs is served by a domain in reset or lost (R44, R343). -/
def Plan.unserved (p : Plan) (s : State) : Bool :=
  let spans := p.views.flatMap viewRanges
  p.views.any (viewDown s)
    || (p.reads ++ p.writes ++ p.touch).any fun r => !spans.contains r && needsDown s r.1 r.2

/-- The outcome of an instruction that completes within its issue, or holds issue. -/
inductive Ctl where
  | done (s : State)
  | refuse (status : Nat)
  | wait (s : State)
deriving DecidableEq, Repr

inductive Body where
  | control (g : State → ProgUnit → Fields → Ctl)
  | op (g : State → ProgUnit → Fields → Plan)

/-- One instruction of the tables of R250, R252, R260 and R270. -/
structure OpDef where
  opc   : Nat
  mask  : Nat
  units : UnitKind → Bool
  body  : Body
  /-- The low fields that this row names, where several rows share an opcode. -/
  names : Nat → Bool := fun _ => true

/-- Columns of R249. -/
def allUnits (_ : UnitKind) : Bool := true
def seqOnly (k : UnitKind) : Bool := decide (k = .sequencer)
def notCarrier (k : UnitKind) : Bool := decide (k ≠ .carrier)
def notLink (k : UnitKind) : Bool := decide (k ≠ .link)
def carrierOnly (k : UnitKind) : Bool := decide (k = .carrier)

/-! Ends of operations and programs. -/

/-- The class of a record for an operation's status (R336). -/
def statusClass (st : Nat) : Nat :=
  if st = stReserved ∨ st = stAlign ∨ st = stLength then 1
  else if st = stMinority then 5
  else if st = stHeadroom ∨ st = stGrant ∨ st = stSignature ∨ st = stLost ∨ st = stStale then 2
  else 6

def unitFault (x : ProgUnit) (st : Nat) : FaultInfo :=
  { status := st, cls := statusClass st, dom := x.ref.dom, cmd := ownerCmd x.owner, unit := unitCode x.ref.kind }

/-- The status of the earliest-issued operation counts (R247); no further instruction issues. -/
def failUnit (id st : Nat) (x : ProgUnit) : ProgUnit :=
  if x.status = 0 ∨ id < x.statusOp then { x with stopped := true, status := st, statusOp := id } else { x with stopped := true }

/-- A refusal at issue ends the program (R20, R247), after its record. -/
def refuse (u : UnitRef) (st : Nat) (s : State) : State :=
  let x := getUnit s u
  let y := failUnit x.nextOp st { x with waiting := none, nextOp := x.nextOp + 1 }
  setUnit (logFault (unitFault x st) s) y

/-- What started the program ends with a status: the command (R223), or the landing (R291). -/
def endOwner (o : Owner) (st flags : Nat) (s : State) : State :=
  match o with
  | .command q seq => finishCmd q seq st flags s
  | .landing n => endLanding n st s
  | .none => s

/-- An operation that causes a job restart (R179, R344): its RUN keeps its status (R227, R248). -/
def restartBy (u : UnitRef) (f : FaultInfo) (flags : Nat) (s : State) : State :=
  let x := getUnit s u
  let s := endOwner x.owner f.status (x.allFlags ||| flags) s
  restartFault { f with cls := 4, dom := u.dom, cmd := ownerCmd x.owner, unit := unitCode u.kind } (ownerCmd x.owner) s

/-! Issue. -/

def rangeMeet (a b : List (Nat × Nat)) : Bool := a.any fun x => b.any fun y => overlaps x.1 x.2 y.1 y.2

/-- R246: an earlier operation of the unit stands in the way. -/
def hazard (p : Plan) (o : Op) : Bool :=
  rangeMeet o.writes (p.reads ++ p.touch ++ p.writes) || rangeMeet o.reads p.writes
    || o.banks.any (fun b => p.banks.contains b)
    || o.entries.any (fun e => p.entries.contains e) || o.stashes.any (fun h => p.headers.contains h)

/-- The operation must wait at issue before power is asked for (R65, R245, R246). -/
def mustWait (s : State) (x : ProgUnit) (p : Plan) : Bool :=
  decide (32 ≤ x.inFlight.length) || x.inFlight.any (hazard p) || (p.records && s.boundary.isSome)

/-- Record an operation in flight. -/
def mapOp (u : UnitRef) (id : Nat) (g : Op → Op) (s : State) : State :=
  let x := getUnit s u
  setUnit s { x with inFlight := x.inFlight.map fun o => if o.id = id then g o else o }

/-- Start an operation that has passed its checks: it is in flight, the next word follows, and its effects take place. A range that a
domain in reset or lost would serve gives DOMAIN_LOST and no effect (R44, R343, log entry 26). -/
def launch (u : UnitRef) (p : Plan) (s : State) : State :=
  let x := getUnit s u
  let id := x.nextOp
  let o : Op := ⟨id, p.reads ++ p.touch, p.writes, p.banks, p.entries, p.rdEntries, p.locks, p.need, p.draw, 0, 0, false⟩
  let s := setUnit s (advance { x with waiting := none, inFlight := x.inFlight ++ [o], nextOp := id + 1 } 1)
  if p.empty then mapOp u id (fun o => { o with need := .work }) s
  else if p.unserved s then
    mapOp u id (fun o => { o with need := .work, status := stLost }) s
  else
    let e := p.run id s
    mapOp u id (fun o => { o with status := if o.status = 0 then e.status else o.status, flags := o.flags ||| e.flags }) e.s

/-- Try to issue an operation: wait, ask for power (R369), refuse, or start. -/
def tryOp (u : UnitRef) (i : Instr) (p : Plan) (s : State) : State :=
  let x := getUnit s u
  let waits := fun (s : State) => setUnit s { getUnit s u with waiting := some i }
  if mustWait s x p then waits s
  else
    let st := firstFail p.checks
    if st ≠ 0 then refuse u st s
    else if p.hold then waits s
    else match gate s x p.draw p.moves with
      | .wait 0 => waits s
      | .wait ask => waits (request u ask .auto none s).1
      | .go => launch u p s

/-- One attempt to issue the instruction at the program counter, its predicate holding. -/
def attempt (u : UnitRef) (i : Instr) (f : Fields) (d : OpDef) (s : State) : State :=
  let x := getUnit s u
  if f.toNat &&& (2 ^ 56 - 1 - d.mask) ≠ 0 ∨ d.units u.kind = false then refuse u stReserved s
  else match d.body with
    | .op g => tryOp u i (g s x f) s
    | .control g =>
      match g s x f with
      | .done s => s
      | .refuse st => refuse u st s
      | .wait s => setUnit s { getUnit s u with waiting := some i }

/-- The unit may issue: it runs, has not ended or stopped, waits for nothing, and its domain is up, awake and not suspended. -/
def mayIssue (s : State) (u : UnitRef) : Bool :=
  let x := getUnit s u
  x.running && !x.ended && !x.stopped && !x.paused && x.waiting.isNone && !isDown s u.dom && awake s u.dom

/-- The word at the program counter. -/
def wordAt (x : ProgUnit) : Option Word := x.store[x.pc]?

/-- The unit issues the instruction at its program counter. The command must name it; a word whose opcode is reserved is refused, or
skipped where its predicate fails, whatever the command names (R235, R236). -/
def issue (u : UnitRef) (i : Instr) (f : Fields) (d : OpDef) (s : State) : State :=
  if !mayIssue s u then s
  else
    let x := getUnit s u
    match wordAt x with
    | none => s
    | some w =>
      let runs := predicated x (BitVec.ofNat 56 w.toNat)
      if w.toNat = d.opc * 2 ^ 56 + f.toNat ∧ d.names f.toNat = true then
        if runs then attempt u i f d s else setUnit s (advance x 1)
      else if listedOpcode (w.toNat / 2 ^ 56) then s
      else if runs then refuse u stReserved s
      else setUnit s (advance x 1)

/-! Completion. -/

/-- An operation may complete: nothing but its own work is outstanding. -/
def mayComplete (o : Op) : Bool := match o.need with
  | .work => true
  | _ => false

/-- OPERATION_COMPLETE (R247). -/
def completeOp (u : UnitRef) (id : Nat) (s : State) : State :=
  let x := getUnit s u
  match x.inFlight.find? fun o => o.id = id && mayComplete o with
  | none => s
  | some o =>
    let y := { x with inFlight := x.inFlight.filter (fun z => z.id ≠ id), flags := x.flags ||| o.flags }
    if o.status = 0 then setUnit s y
    else setUnit (if o.logged then s else logFault (unitFault x o.status) s) (failUnit id o.status y)

/-- RUN_COMPLETE (R244, R247): the program is over and nothing is in flight. -/
def completeRun (u : UnitRef) (s : State) : State :=
  let x := getUnit s u
  if x.running && (x.ended || x.stopped) && x.inFlight.isEmpty && x.waiting.isNone then
    setUnit (endUnitGrants' u (endOwner x.owner x.status x.flags s)) (stopUnit x)
  else s
where endUnitGrants' (u : UnitRef) (s : State) : State := dropGrants (fun g => g.holder = u) s

end Sys2Proof.Machine
end

