-- ==== Sys2Proof/Machine/MoveOps.lean ====
section
/-! DEFINITION. Moves of stash entries between the Larder and the Attic (R183, R184): the wait for a full entry, the copy, the
switch. -/
namespace Sys2Proof.Machine

/-- The state an entry moves from, and to (R183). -/
def moveFrom (toAttic : Bool) : Nat := if toAttic then 1 else 2
def moveTarget (toAttic : Bool) : Nat := if toAttic then 2 else 1

/-- Free pages in the region a move goes to: a PREFETCH stays within LARDER_BUDGET (R183). -/
def roomFor (s : State) (x : Stash) (toAttic : Bool) : Nat := if toAttic then atticFree s x else larderFree s x

/-- Steps 1 and 2 of R183 for a full entry: pages, STATE 3 and the copy; without pages the move is skipped and its operation has
nothing left to do. -/
def startMove (h : Nat) (m : StashMove) (s : State) : State :=
  match findStash s h with
  | none => s
  | some x =>
    let others := x.moves.filter (· ≠ m)
    let z := entPages s h m.entry
    if roomFor s x m.toAttic < z then
      freeMover m (bump (putStash s { x with moves := others }) 0x20 Reg.STASH_MOVE_SKIP_COUNT 1)
    else
      let a := allocate s x m.toAttic z
      let bytes := readEntry a.1 h m.entry 0 (entSize a.1 h m.entry)
      let s := putStash a.1 { x with moves := others ++ [{ m with pages := a.2, copying := true }] }
      let s := setEntState s h m.entry 3
      (a.2.zipIdx).foldl (fun s p => writeMem s p.1 ((bytes.drop (p.2 * pageSize)).take pageSize)) s

/-- The entry is in the state that the move starts from, and marked for moves (R183). -/
def movable (s : State) (h : Nat) (m : StashMove) : Bool :=
  decide (entState s h m.entry = moveFrom m.toAttic) && bitAt (entCtrl s h m.entry) 1

/-- A move that waited for a full entry: it starts, or finds the entry moved by another and has nothing to do (R183). -/
def wakeMove (h : Nat) (s : State) (m : StashMove) : State :=
  if movable s h m then startMove h m s
  else match findStash s h with
    | none => s
    | some x => freeMover m (setStash s { x with moves := x.moves.filter (· ≠ m) })

/-- Moves of an entry that waited for it to be full start now, in the order in which they came (R183). -/
def wakeMoves (h e : Nat) (s : State) : State :=
  if entWritten s h e < entSize s h e then s
  else match findStash s h with
    | none => s
    | some x => (x.moves.filter fun m => m.entry = e && !m.copying).foldl (wakeMove h) s

/-- An OFFLOAD or PREFETCH takes effect (R183): nothing for an entry in another state or without its OFFLOAD bit. -/
def beginMove (h e : Nat) (toAttic : Bool) (u : UnitRef) (op : Nat) (s : State) : State :=
  match findStash s h with
  | none => s
  | some x =>
    let m : StashMove := ⟨e, toAttic, [], false, u, op⟩
    if movable s h m then
      wakeMoves h e (setStash s { x with moves := x.moves ++ [m] })
    else freeMover m s

/-- Step 3 of R183, in one atomic step: the entry on its new pages, the old ones free. -/
def switchMove (h : Nat) (m : StashMove) (s : State) : State :=
  match findStash s h with
  | none => s
  | some x =>
    let x := { x with moves := x.moves.filter (fun y => y.entry ≠ m.entry),
                      placed := x.placed.map fun p => if p.entry = m.entry then { p with attic := m.toAttic, pages := m.pages } else p }
    freeMover m (setEntState (putStash s x) h m.entry (moveTarget m.toAttic))

/-- The copy that operation op of unit u makes. -/
def moveOf (s : State) (u : UnitRef) (op : Nat) : Option (Nat × StashMove) :=
  s.stash.stashes.findSome? fun x => (x.moves.find? fun m => m.mover = u && m.op = op && m.copying).map fun m => (x.header, m)

end Sys2Proof.Machine
end

