-- ==== Sys2Proof/Machine/Random.lean ====
section
/-! DEFINITION. The counter generator F(K, P) (R192 to R195), its positions (R198) and what consumers take of it (R201). -/
namespace Sys2Proof

def cgRa : List Nat := [9, 14, 6, 11, 17, 3, 21, 10, 15, 5]
def cgRb : List Nat := [13, 7, 18, 2, 23, 10, 5, 26, 9, 19]

/-- The four words of the network, named by R192. -/
structure CgState where
  w0 : BitVec 32
  w1 : BitVec 32
  w2 : BitVec 32
  w3 : BitVec 32
deriving DecidableEq, Repr

/-- Round r under the key words k0, k1 (R193, R194). -/
def cgRound (k0 k1 : BitVec 32) (s : CgState) (r : Nat) : CgState :=
  let k := if r % 2 = 0 then k0 else k1
  let rk := k + BitVec.ofNat 32 (r + 1) * 0x5B3D2C91#32
  let x := s.w0 + rk
  let u := x + x.rotateLeft (cgRa.getD r 0)
  let y := s.w2 ^^^ rk
  let v := y + y.rotateLeft (cgRb.getD r 0)
  ⟨s.w1 ^^^ u, s.w2, s.w3 + v, s.w0⟩

/-- The output of F as a 128-bit number (R192, R195). -/
def cg (key : Word) (pos : Nat) : Nat :=
  let k0 := BitVec.ofNat 32 key.toNat
  let k1 := BitVec.ofNat 32 (key.toNat >>> 32)
  let s0 : CgState := ⟨BitVec.ofNat 32 pos, BitVec.ofNat 32 (pos >>> 32), BitVec.ofNat 32 (pos >>> 64), BitVec.ofNat 32 (pos >>> 96)⟩
  let s := (List.range 10).foldl (cgRound k0 k1) s0
  let w0 := s.w0 + k1
  let w2 := s.w2 + k0
  w0.toNat + s.w1.toNat <<< 32 + w2.toNat <<< 64 + s.w3.toNat <<< 96

/-- Tags 0x1 and 0x4: tensor or site ID, step, row, column (R198). -/
def cgPosRc (tag id step row col : Nat) : Nat :=
  tag <<< 124 + id <<< 92 + step <<< 60 + row <<< 30 + col
/-- Tags 0x2 and 0x6: ID, step or word W, index (R198). -/
def cgPosIx (tag id step ix : Nat) : Nat := tag <<< 124 + id <<< 92 + step <<< 60 + ix
/-- Tag 0x3: layer ID, h, block index, q (R198). -/
def cgPosNewel (layer h b q : Nat) : Nat := 3 <<< 124 + layer <<< 92 + h <<< 88 + b <<< 8 + q
/-- Tag 0x5: stream ID, cursor, column (R198). -/
def cgPosSample (stream cursor col : Nat) : Nat := 5 <<< 124 + stream <<< 92 + cursor <<< 28 + col

/-- The 24-bit draw of an output (R201). -/
def cgDraw24 (o : Nat) : Nat := o % 2 ^ 24

/-- The i-th of the five 24-bit draws of a lane output (R212). -/
def laneDraw (o i : Nat) : Nat := (o >>> (24 * i)) % 2 ^ 24

end Sys2Proof
end

