-- ==== Sys2Proof/Machine/DrawOps.lean ====
section
/-! DEFINITION. What a rounding operation takes from the generators (R54, R197, R201, R212, R213), and the marks that an operation
leaves in the training registers of its CD (R167, R168, R230). -/
namespace Sys2Proof.Machine

/-! Determinism marks. -/

abbrev detLg : Nat := 0
abbrev detPool : Nat := 1
abbrev detLate : Nat := 2
abbrev detHeadroom : Nat := 3
/-- Set a bit of DET_BREAK (R230). -/
def markDet (dom bit : Nat) (s : State) : State := setRb s dom Reg.DET_BREAK bit true

/-- A gradient-tagged write on a CD was non-finite: NONFINITE, and LATE once the header has left (R167, R168). -/
def markNonfinite (dom : Nat) (s : State) : State :=
  let s' := setRb s dom Reg.TRAIN_STEP_STATUS 32 true
  if s.train.left then markDet dom detLate (setRb s' dom Reg.TRAIN_STEP_STATUS 35 true) else s'

/-! Draws. -/

/-- Where an operation's draws come from: the CD, RND (R54), and the lanes of the unit that does the work (R212). -/
structure DrawSrc where
  dom   : Nat
  rnd   : Nat
  lane  : Nat
  lanes : Nat
deriving DecidableEq, Repr

/-- The lanes of a drain, of the vector units and of a Hearth (R212). Which vector unit does an operation's work is nowhere seen: the
lane that serves is one of the unit that does (R213, log entry 8). -/
def drainLanes (dom rnd eng : Nat) : DrawSrc := ⟨dom, rnd, 256 * eng, 256⟩
def vectorLanes (dom rnd : Nat) : DrawSrc := ⟨dom, rnd, 4096, 256⟩
def hearthLanes (dom rnd : Nat) (second : Bool) : DrawSrc := ⟨dom, rnd, 4352 + 32 * b2n second, 32⟩

/-- State.lanes is keyed by domain × 8,192 + lane; an unlisted lane l stands at l × 2^96 (R212). -/
def laneKey (dom l : Nat) : Nat := dom * 8192 + l
def laneDefault (key : Nat) : Lane := ⟨BitVec.ofNat 128 ((key % 8192) <<< 96), 0⟩
def getLane (s : State) (dom l : Nat) : Lane := tblGet laneDefault s.lanes (laneKey dom l)
def setLane (s : State) (dom l : Nat) (x : Lane) : State :=
  { s with lanes := tblSet laneDefault s.lanes (laneKey dom l) x }

/-- The lane that serves the next draw: any of the unit's (R213, log entry 8). -/
def laneOf (s : State) (d : DrawSrc) : Nat := d.lane + Config.laneChoice s.freeCtr % d.lanes

/-- The key of every CG consumer (R197). -/
def cgKey (s : State) : Word := getReg s porchDom Reg.CG_KEY_IN_FORCE

/-- The draw that an element at a position would take: none in nearest mode (R54, R77, R201). -/
def peekDraw (s : State) (d : DrawSrc) (pos : Nat) : Option Nat :=
  match d.rnd with
  | 1 => some (cgDraw24 (cg (cgKey s) pos))
  | 2 =>
    let l := getLane s d.dom (laneOf s d)
    some (laneDraw (cg (getReg s d.dom Reg.LG_KEY) l.ctr.toNat) l.draw)
  | _ => none

/-- The draw was taken: the counters of R216, the lane's step (R212), LG_USED (R230). -/
def takeDraw (d : DrawSrc) (drew : Bool) (s : State) : State :=
  if !drew then s
  else match d.rnd with
    | 1 => bump s d.dom Reg.CG_DRAW_COUNT 1
    | 2 =>
      let n := laneOf s d
      let l := getLane s d.dom n
      let l' : Lane := if l.draw = 4 then ⟨l.ctr + 1, 0⟩ else ⟨l.ctr, l.draw + 1⟩
      tick (markDet d.dom detLg (bump (setLane s d.dom n l') d.dom Reg.LG_DRAW_COUNT 1))
    | _ => s

/-- A fresh LG key, and every lane at its start (R212). -/
def rekey (dom : Nat) (s : State) : State :=
  let k := Config.lgKey (64 + s.freeCtr)
  tick (setReg { s with lanes := tblClear s.lanes (laneKey dom 0) 8192 } dom Reg.LG_KEY k)

/-- The Stair step in force (R198). -/
def stepNow (s : State) : Nat := posStep s.pos

/-- The position of a rounding draw: tag 0x1, the destination's tensor ID and the element's logical coordinates as written (R199). -/
def roundPos (s : State) (v : View) (i j : Nat) : Nat :=
  let c := storedAt v i j
  cgPosRc 1 v.cgId (stepNow s) (v.oRow + c.1) (v.oCol + c.2)

/-- A coordinate of a written view would need more than 30 bits (R200); asked only of operations that take CG draws. -/
def cgTooFar (v : View) : Bool :=
  !isEmpty v && (decide (2 ^ 30 < v.oRow + v.rows) || decide (2 ^ 30 < v.oCol + v.cols))

/-- A reserved RND (R54), and the CG limits of R200. -/
def rndChecks (rnd : Nat) (v : View) : List Nat :=
  [failIf (rnd = 3) stReserved, failIf (rnd = 1 && cgTooFar v) stLength]

/-- An operation's stash write: the entry is placed within the issue checks (R177, R179). -/
inductive StashWrite where
  | ready (s : State) (discard : Bool)
  | exhausted
deriving DecidableEq, Repr

/-- Place the entry that a written view names; a placed entry takes more bytes as it stands (R177, R180). -/
def openForWrite (v : View) (s : State) : StashWrite :=
  if !v.stash then .ready s false
  else
    let st := entState s v.base v.entry
    if 1 ≤ st ∧ st ≤ 3 then .ready s false
    else match placeEntry v.base v.entry s with
      | .placed s => .ready s false
      | .discarded s => .ready s true
      | .exhausted => .exhausted

/-- WRITTEN rises by what the operation writes through the view, the writes done by g on a view that is not discarded; a discarded
write leaves the entry and every other effect of g stands (R177 step 3). -/
def closeWrite (v : View) (discard : Bool) (s : State) : State :=
  if v.stash && !discard then wakeMoves v.base v.entry (addWritten v.base v.entry (viewRows v) s) else s

/-- STASH_EXHAUSTED restarts the job; its record names the header, the entry and its pages (R179, R338). -/
def exhausted (u : UnitRef) (h e : Nat) (flags : Nat) (s : State) : Effect :=
  ⟨restartBy u { status := stStash, cls := 4, dom := u.dom, addr := some h, detail := some (e, entPages s h e, 0) } flags
    (bump s 0x20 Reg.STASH_EXHAUSTED_COUNT 1), stStash, flags⟩

end Sys2Proof.Machine
end

