-- ==== Sys2Proof/Machine/CellarOps.lean ====
section
/-! DEFINITION. Cellar banks (R91 to R93, R144, R256): entries, output tiles, reference-mode gangs, the saturating rail adders, and
the rail blocks of R99. -/
namespace Sys2Proof.Machine

/-! Banks. -/

/-- A bank selector that an operation refuses (R237): reserved bits set, or an engine above g3 − 1. Then its number in State's tables. -/
def bankBad (x : ProgUnit) (sel : Nat) : Bool := decide (sel / 32 ≠ 0) || decide (gReg x 3 ≤ sel % 16)
def bankEngine (sel : Nat) : Nat := sel % 16
def bankIx (dom sel : Nat) : Nat := (dom - 0x10) * 32 + (sel % 16) * 2 + fld sel 4 4

def entryDefault (_ : Nat) : CellarEntry := ⟨0, 0, false, false, false⟩
def tileDefault (_ : Nat) : CellarTile := ⟨0, 0⟩
def kindDefault (_ : Nat) : BankKind := .empty
def entryKey (bank i j : Nat) : Nat := bank * 65536 + 256 * i + j
def getEntry (s : State) (bank i j : Nat) : CellarEntry := tblGet entryDefault s.entries (entryKey bank i j)
def putEntry (bank i j : Nat) (e : CellarEntry) (s : State) : State :=
  { s with entries := tblSet entryDefault s.entries (entryKey bank i j) e }
def getTile (s : State) (bank n : Nat) : CellarTile := tblGet tileDefault s.tiles (bank * 256 + n)
def putTileRec (bank n : Nat) (t : CellarTile) (s : State) : State :=
  { s with tiles := tblSet tileDefault s.tiles (bank * 256 + n) t }
def bankKind (s : State) (bank : Nat) : BankKind := tblGet kindDefault s.bankKinds bank
def putKind (bank : Nat) (k : BankKind) (s : State) : State := { s with bankKinds := tblSet kindDefault s.bankKinds bank k }

/-- The whole bank becomes empty (R92, R259). -/
def zeroBank (bank : Nat) (s : State) : State :=
  putKind bank .empty { s with entries := tblClear s.entries (bank * 65536) 65536, tiles := tblClear s.tiles (bank * 256) 256 }

def isRm : BankKind → Bool
  | .rmBf16 | .rmFp16 => true
  | _ => false

/-- N_R, the output columns of a reference-mode bank (R144). -/
def rmCols : BankKind → Nat
  | .rmFp16 => 42 | _ => 51

/-- The tile grid (R144, R259): tile columns, and tiles. -/
def gridCols : BankKind → Nat
  | .rmBf16 => 4 | .rmFp16 => 3 | _ => 16
def gridTiles (k : BankKind) : Nat := 16 * gridCols k

/-- The output tile of entry or output (i, j). -/
def tileOf (k : BankKind) (i j : Nat) : Nat := gridCols k * (i / 16) + j / 16

/-! Rails. -/

/-- An output's rails as numbers, and its flags. -/
structure Rails where
  a        : Int
  b        : Int
  poison   : Bool
  sat      : Bool
  headroom : Bool
deriving DecidableEq, Repr

/-- Width of an output's rails (R91, R142). -/
def railWidth (k : BankKind) : Nat := if isRm k then 640 else 128

/-- The rails of an output; in reference mode five ganged entries (R142, R144). -/
def getRails (s : State) (bank : Nat) (k : BankKind) (i j : Nat) : Rails :=
  if isRm k then
    let es := (List.range 5).map fun g => getEntry s bank i (rmCols k * g + j)
    let join := fun (f : CellarEntry → BitVec 128) => sext 640 ((es.zipIdx.map fun e => (f e.1).toNat <<< (128 * e.2)).foldl (· + ·) 0)
    let e := es.headD (entryDefault 0)
    ⟨join (·.a), join (·.b), e.poison, e.sat, e.headroom⟩
  else
    let e := getEntry s bank i j
    ⟨e.a.toInt, e.b.toInt, e.poison, e.sat, e.headroom⟩

def putRails (bank : Nat) (k : BankKind) (i j : Nat) (r : Rails) (s : State) : State :=
  let piece := fun (x : Int) (g : Nat) => BitVec.ofNat 128 (wrapInt (railWidth k) x >>> (128 * g))
  (List.range (if isRm k then 5 else 1)).foldl (fun s g =>
    putEntry bank i (if isRm k then rmCols k * g + j else j) ⟨piece r.a g, piece r.b g, r.poison, r.sat, r.headroom⟩ s) s

/-- A rail that left its range stands at the end of its sign; a rail that did not becomes 0 when the other did (R93). -/
def railEnd (w : Nat) (x : Int) : Int :=
  let top : Int := (2 ^ (w - 1) - 1 : Nat)
  if top < x then top else if x < -top - 1 then -top else 0

def railOver (w : Nat) (x : Int) : Bool :=
  decide (((2 ^ (w - 1) : Nat) : Int) ≤ x) || decide (x < -((2 ^ (w - 1) : Nat) : Int))

/-- R93: add to both rails; the answer says whether the entry saturated now. -/
def addRails (w : Nat) (r : Rails) (da db : Int) : Rails × Bool :=
  if r.headroom then (r, false)
  else
    let a := r.a + da
    let b := r.b + db
    if railOver w a || railOver w b then ({ r with a := railEnd w a, b := railEnd w b, headroom := true }, true)
    else ({ r with a := a, b := b }, false)

/-- Entries saturated by an operation count, mark the CD and give its status (R93, R230). -/
def headroomEffects (dom eng n : Nat) (s : State) : State :=
  if n = 0 then s else markDet dom detHeadroom (bump s dom (0x200000 + 0x40 * eng + Reg.ENG_HEADROOM_COUNT) n)

/-- A counter of an engine's set rises (R110). -/
def engCount (dom eng off n : Nat) (s : State) : State :=
  if n = 0 then s else bump s dom (0x200000 + 0x40 * eng + off) n

/-- TB_COUNT stops at all ones (R92). -/
def addTb (a b : Nat) : Nat := satAdd 64 a b

/-! Rail blocks (R99). -/

abbrev blockBytes : Nat := 8512
abbrev oneP : Nat := 0x3FF0000000000000

/-- Rail blocks per output tile. -/
def blocksOf (k : BankKind) : Nat := if isRm k then 5 else 1

/-- SUMMARY's RM, GANG and RMFMT for block g of a tile (R99, R144). -/
def blockTag (k : BankKind) (g : Nat) : Nat :=
  if isRm k then 8 + 16 * g + (if k = .rmFp16 then 128 else 0) else 0

/-- The entry that slot (i, j) of block g of tile n stands for; none for padding (R144). -/
def slotEntry (k : BankKind) (n g i j : Nat) : Option (Nat × Nat) :=
  let r := 16 * (n / gridCols k) + i
  let c := 16 * (n % gridCols k) + j
  if isRm k then (if c < rmCols k then some (r, rmCols k * g + c) else none) else some (r, c)

/-- The 256 entries of a block, padding as zero. -/
def blockEntries (s : State) (bank : Nat) (k : BankKind) (n g : Nat) : List CellarEntry :=
  (List.range 256).map fun x => match slotEntry k n g (x / 16) (x % 16) with
    | some (r, c) => getEntry s bank r c
    | none => entryDefault 0

def entryFlags (e : CellarEntry) : Nat := b2n e.poison + 2 * b2n e.sat + 4 * b2n e.headroom

/-- Block g of tile n as bytes (R99, R100): an empty tile as zeros, whatever flag a lintel left in an entry of it (R96). -/
def blockOf (s : State) (bank : Nat) (k : BankKind) (n g row col : Nat) : List Byte :=
  let t := getTile s bank n
  let es := if t.p = 0 then List.replicate 256 (entryDefault 0) else blockEntries s bank k n g
  let any := (es.map entryFlags).foldl (· ||| ·) 0
  leBytes 8 t.p ++ leBytes 4 row ++ leBytes 4 col ++ leBytes 8 t.tb ++ leBytes 1 (any + blockTag k g) ++ List.replicate 39 0
    ++ es.map (fun e => BitVec.ofNat 8 (entryFlags e)) ++ es.flatMap (fun e => leBytes 16 e.a.toNat ++ leBytes 16 e.b.toNat)

/-- The kind of bank that a block belongs to, from its SUMMARY. -/
def blockKind (s : State) (a : Nat) : BankKind :=
  let y := readNat s (a + 24) 1
  if bitAt y 3 then (if bitAt y 7 then .rmFp16 else .rmBf16) else .plain

/-- A block holds nothing but its tag (R101). -/
def blockEmpty (s : State) (a : Nat) : Bool :=
  decide (readNat s (a + 16) 8 = 0) && decide (readNat s (a + 24) 1 % 8 = 0)
    && (List.range 264).all fun i => decide (readNat s (a + 64 + 32 * i) 32 = 0)

/-- R99, R101 for one block: its reserved fields and PSCALE. -/
def blockBad (s : State) (a : Nat) : Bool :=
  let y := readNat s (a + 24) 1
  let rm := bitAt y 3
  let p := readNat s a 8
  decide (readNat s (a + 25) 39 ≠ 0) || (List.range 256).any (fun n => decide (8 ≤ readNat s (a + 64 + n) 1))
    || (if rm then decide (5 ≤ fld y 6 4) else decide (y / 16 ≠ 0))
    || (if p = 0 then !blockEmpty s a else !fp64Ok p || (rm && decide (p ≠ oneP)))

/-- The five blocks of a reference-mode tile belong together (R144). -/
def gangBad (s : State) (a : Nat) : Bool :=
  (List.range 5).any fun g =>
    let b := a + g * blockBytes
    decide (fld (readNat s (b + 24) 1) 6 4 ≠ g) || decide (blockKind s b ≠ blockKind s a)
      || decide (readNat s b 8 ≠ readNat s a 8) || decide (readNat s (b + 16) 8 ≠ readNat s (a + 16) 8)
      || decide (readNat s (b + 64) 256 ≠ readNat s (a + 64) 256)

/-- The rails and flags that slot (i, j) of the tile at a brings. -/
def blockRails (s : State) (a : Nat) (k : BankKind) (i j : Nat) : Rails :=
  let n := 16 * i + j
  let part := fun (o : Nat) => ((List.range (blocksOf k)).map fun g =>
    readNat s (a + g * blockBytes + 320 + 32 * n + o) 16 <<< (128 * g)).foldl (· + ·) 0
  let f := readNat s (a + 64 + n) 1
  ⟨sext (railWidth k) (part 0), sext (railWidth k) (part 16), bitAt f 0, bitAt f 1, bitAt f 2⟩

/-- R101 for one entry: the sum, the flags, and whether the target saturated now. -/
def joinRails (w : Nat) (r x : Rails) : Rails × Bool :=
  let (y, now) :=
    if x.headroom then (if r.headroom then (r, false) else ({ r with a := x.a, b := x.b, headroom := true }, true))
    else addRails w r x.a x.b
  ({ y with poison := y.poison || x.poison, sat := y.sat || x.sat }, now)

/-- Add one tile's blocks at a (R101); the answer counts the entries that saturated. An empty tile adds nothing, so a bank that receives
none but empty RM blocks stays empty, and padding slots of an RM block are not looked at (R144, log entry 118). -/
def addTile (bank n a : Nat) (k : BankKind) (s : State) : State × Nat :=
  if readNat s a 8 = 0 then (s, 0)
  else
    let t := getTile s bank n
    let s1 := putKind bank k (putTileRec bank n ⟨readNat s a 8, addTb t.tb (readNat s (a + 16) 8)⟩ s)
    (List.range 256).foldl (fun acc x =>
      match slotEntry k n 0 (x / 16) (x % 16) with
      | none => acc
      | some (r, c) =>
        let (y, now) := joinRails (railWidth k) (getRails acc.1 bank k r c) (blockRails s a k (x / 16) (x % 16))
        (putRails bank k r c y acc.1, acc.2 + b2n now)) (s1, 0)

/-! CXFER (R100, R101, R259). -/

def xferFirst (gT : Nat) : Nat := fld gT 7 0
def xferCount (gT : Nat) : Nat := fld gT 24 16
def xferResv (gT : Nat) : Bool := decide (fld gT 15 8 ≠ 0) || decide (fld gT 63 25 ≠ 0)

/-- A CXFER read, block by block. -/
def readTiles (bank a first count gO : Nat) (k : BankKind) (s : State) : State :=
  (List.range count).foldl (fun s x =>
    let n := first + x
    let row := gO % 2 ^ 32 + n / gridCols k
    let col := gO / 2 ^ 32 + n % gridCols k
    (List.range (blocksOf k)).foldl (fun s g =>
      writeMem s (a + (x * blocksOf k + g) * blockBytes) (blockOf s bank k n g row col)) s) s

/-- Some tile that a read moves holds a poisoned entry. -/
def tilesPoisoned (s : State) (bank first count : Nat) (k : BankKind) : Bool :=
  (List.range count).any fun x => (blockEntries s bank k (first + x) 0).any (·.poison)

def cxferReadPlan (s : State) (x : ProgUnit) (sel a gT gO low : Nat) : Plan :=
  let bank := bankIx x.ref.dom sel
  let k := bankKind s bank
  let len := xferCount gT * blocksOf k * blockBytes
  { checks := [failIf (bankBad x sel || xferResv gT ) stReserved, failIf (decide (a % 64 ≠ 0)) stAlign,
      failIf (decide (gridTiles k < xferFirst gT + xferCount gT) || !memMapped s a len) stLength]
    writes := [(a, len)], banks := [bank], empty := xferCount gT = 0
    run := fun _ s =>
      let s' := readTiles bank a (xferFirst gT) (xferCount gT) gO k s
      let bad := bitAt low 1 && tilesPoisoned s bank (xferFirst gT) (xferCount gT) k
      ⟨if bad then markNonfinite x.ref.dom s' else s', stDone, 0⟩ }

/-- A CXFER add, tile by tile. -/
def addTiles (bank a first count : Nat) (k : BankKind) (s : State) : State × Nat :=
  (List.range count).foldl (fun acc x =>
    let r := addTile bank (first + x) (a + x * blocksOf k * blockBytes) k acc.1
    (r.1, acc.2 + r.2)) (s, 0)

/-- What R92, R101, R144 and R256 refuse in the blocks of a CXFER add. -/
def addBad (s : State) (bank a first count : Nat) (k : BankKind) : Bool :=
  (List.range count).any fun x =>
    let b := a + x * blocksOf k * blockBytes
    let t := getTile s bank (first + x)
    let p := readNat s b 8
    decide (blockKind s b ≠ k) || (isRm k && gangBad s b)
      || (List.range (blocksOf k)).any (fun g => blockBad s (b + g * blockBytes))
      || (decide (p ≠ 0) && decide (t.p ≠ 0) && decide (p ≠ t.p))

def cxferAddPlan (s : State) (x : ProgUnit) (sel a gT gO : Nat) : Plan :=
  let bank := bankIx x.ref.dom sel
  let count := xferCount gT
  let k := if bankKind s bank = .empty then (if count ≠ 0 ∧ memMapped s a blockBytes = true then blockKind s a else .plain)
    else bankKind s bank
  let len := count * blocksOf k * blockBytes
  let mapped := memMapped s a len
  { checks := [failIf (bankBad x sel || xferResv gT || decide (gO ≠ 0)
        || (mapped && addBad s bank a (xferFirst gT) count k)) stReserved,
      failIf (decide (a % 64 ≠ 0)) stAlign, failIf (decide (gridTiles k < xferFirst gT + count) || !mapped) stLength]
    reads := [(a, len)], banks := [bank], empty := count = 0
    run := fun _ s =>
      let r := addTiles bank a (xferFirst gT) count k s
      ⟨headroomEffects x.ref.dom (bankEngine sel) r.2 r.1, if r.2 = 0 then stDone else stHeadroom, 0⟩ }

end Sys2Proof.Machine
end

