-- ==== Sys2Proof/Machine/QuantOps.lean ====
section
/-! DEFINITION. Quantisation (R70 to R77), the side door (R121 to R127), and the operation QNT (R254). The tile quantiser serves QNT
and the narrow DRAIN. -/
namespace Sys2Proof.Machine

/-! Elements and tiles. -/

/-- An element to be quantised: outside the extent, NaN, infinite, or an exact number. -/
inductive QIn where
  | out
  | nan
  | inf (neg : Bool)
  | fin (x : Num)
deriving DecidableEq, Repr

def qOf : FV → QIn
  | .nan => .nan
  | .inf n => .inf n
  | .fin n m => .fin (fvNum (.fin n m))

def qIsNan : QIn → Bool
  | .nan => true
  | _ => false
def qIsInf : QIn → Bool
  | .inf _ => true
  | _ => false

/-- The largest finite magnitude of the elements (R64, R71). -/
def qTop (xs : List QIn) : Num :=
  xs.foldl (fun acc x => match x with | .fin v => numMax acc (numAbs v) | _ => acc) ⟨0, 0, 1⟩

/-- x / S for a positive S. -/
def numOver (x scale : Num) : Num := ⟨x.a * (scale.d : Int), x.b * (scale.d : Int), x.d * scale.a.toNat⟩

/-- A tile as quantised: element words, tile-scale word, largest finite magnitude, saturated elements. -/
structure QTile where
  s     : State
  words : List Nat
  word  : Nat
  top   : Num
  sats  : Nat
deriving DecidableEq, Repr

def tilePoison (q : QTile) : Bool := bitAt q.word 5

/-- Words of a tile of all-zero patterns. -/
def zeroWords : List Nat := List.replicate 256 0

/-- Encode the elements in order, each with the draw of its position if it needs one (R74 to R77). -/
def encodeAll (f : Fmt) (unit : Num) (src : DrawSrc) (pos : Nat → Nat) :
    List QIn → Nat → State → List Nat × Nat × State
  | [], _, s => ([], 0, s)
  | x :: rest, n, s =>
    let go := fun (neg : Bool) (y : Option Num) =>
      let e := encodeElem f neg y (peekDraw s src (pos n))
      let r := encodeAll f unit src pos rest (n + 1) (takeDraw src e.drew s)
      (e.word :: r.1, r.2.1 + b2n e.sat, r.2.2)
    match x with
    | .fin v => go (decide (numSign v < 0)) (some (numOver v unit))
    | .inf neg => go neg none
    | _ =>
      let r := encodeAll f unit src pos rest (n + 1) s
      (0 :: r.1, r.2)

/-- quantise_tile (R71 to R75): S is the coarse scale, pos the position of each element's draw. -/
def quantTile (f : Fmt) (scale : Num) (src : DrawSrc) (pos : Nat → Nat) (xs : List QIn) (s : State) : QTile :=
  let top := qTop xs
  if xs.any qIsNan then ⟨s, zeroWords, 0x30, ⟨0, 0, 1⟩, 0⟩
  else if numSign top = 0 ∧ xs.any qIsInf = false then ⟨s, zeroWords, 0x50, ⟨0, 0, 1⟩, 0⟩
  else
    let fine := fineOf f scale (if xs.any qIsInf then none else some top)
    let r := encodeAll f (numScale scale fine) src pos xs 0 s
    ⟨r.2.2, r.1, fineWord fine, top, r.2.1⟩

/-- A magnitude for MAX_STEP: rounded to FP32 to nearest, in units of 2^-149 (R64, R97). -/
def stepMag (x : Num) : Nat :=
  match fvRead .fp32 (roundNum .fp32 none x).bits with
  | .fin _ m => m
  | _ => 0

/-! The side-door descriptor and its lists. -/

def sdList (s : State) (a : Nat) : Nat := readNat s a 8 % 2 ^ 44
def sdPromo (s : State) (a : Nat) : Nat := readNat s (a + 8) 8 % 2 ^ 44
def sdPromoCap (s : State) (a : Nat) : Nat := readNat s (a + 16) 4
def sdPromoUsed (s : State) (a : Nat) : Nat := readNat s (a + 20) 4
def sdRm (s : State) (a : Nat) : Nat := readNat s (a + 24) 8 % 2 ^ 44
def sdRmCap (s : State) (a : Nat) : Nat := readNat s (a + 32) 4
def sdRmUsed (s : State) (a : Nat) : Nat := readNat s (a + 36) 4
def sdShift (s : State) (a : Nat) : Nat := readNat s (a + 40) 1 % 16

/-- R121, and R36 for the list records of a view's tiles. -/
def sideChecks (s : State) (v : View) : List Nat :=
  let a := v.side
  if a = 0 then []
  else if memMapped s a 48 then
    [failIf ([0, 8, 24].any (fun o => decide (readNat s (a + o) 8 / 2 ^ 44 ≠ 0)) || decide (readNat s (a + 40) 1 / 16 ≠ 0)
        || decide (readNat s (a + 41) 7 ≠ 0)) stReserved,
     failIf (decide (a % 16 ≠ 0) || decide (sdList s a % 16 ≠ 0) || decide (sdPromo s a % 64 ≠ 0) || decide (sdRm s a % 64 ≠ 0)) stAlign,
     failIf (!memMapped s (sdPromo s a) (256 * sdPromoCap s a) || !memMapped s (sdRm s a) (512 * sdRmCap s a)
        || (!isEmpty v && !memMapped s (sdList s a) (16 * (tileIndex v (tileRows v - 1) (tileCols v - 1) + 1)))) stLength]
  else [failIf (decide (a % 16 ≠ 0)) stAlign, stLength]

/-- The bytes of the side door that an operation on a view needs. -/
def sideRanges (s : State) (v : View) : List (Nat × Nat) :=
  if v.side = 0 ∨ isEmpty v = true then []
  else [(v.side, 48), (sdList s v.side, 16 * (tileIndex v (tileRows v - 1) (tileCols v - 1) + 1)),
    (sdPromo s v.side, 256 * sdPromoCap s v.side), (sdRm s v.side, 512 * sdRmCap s v.side)]

/-- Address of the list record of a stored tile. -/
def listAddr (s : State) (v : View) (ti tj : Nat) : Nat := sdList s v.side + 16 * tileIndex v ti tj
def listKind (s : State) (a : Nat) : Nat := fld (readNat s a 1) 5 4
def listCount (s : State) (a : Nat) : Nat := readNat s a 1 % 8
def listPool (s : State) (a : Nat) : Nat := readNat s (a + 1) 3
/-- Positions and BF16 values of a record's outliers. -/
def listItems (s : State) (a : Nat) : List (Nat × Nat) :=
  (List.range (min 4 (listCount s a))).map fun i => (readNat s (a + 4 + i) 1, readNat s (a + 8 + 2 * i) 2)

/-- What a reader of a list record refuses (R125). -/
def listBad (s : State) (side a : Nat) : Bool :=
  let c := readNat s a 1
  let k := listKind s a
  let pos := (listItems s a).map (·.1)
  bitAt c 3 || decide (fld c 7 6 ≠ 0) || decide (4 < listCount s a) || decide (k = 3)
    || (decide (k = 1) && decide (sdPromoCap s side ≤ listPool s a)) || (decide (k = 2) && decide (sdRmCap s side ≤ listPool s a))
    || decide (pos.eraseDups.length ≠ pos.length)

/-- The pool entry of a promoted or reference-mode tile. -/
def poolAddr (s : State) (side a : Nat) : Nat :=
  if listKind s a = 1 then sdPromo s side + 256 * listPool s a else sdRm s side + 512 * listPool s a

/-! Outliers. -/

/-- Magnitude of an element in units of 2^-149; an infinity lies above every finite one. -/
def elemMag : Option FV → Nat
  | some (.fin _ m) => m
  | some (.inf _) => 2 ^ 400
  | _ => 0

/-- The positions of a tile's outliers (R122). -/
def outlierPos (shift : Nat) (xs : List (Option FV)) : List Nat :=
  let mags := (xs.filter (·.isSome)).map elemMag
  let q := (sortBy (fun a b => decide (b ≤ a)) mags).getD 31 0
  if shift = 0 ∨ q = 0 ∨ 2 ^ 400 ≤ q then []
  else (xs.zipIdx.filter fun e => decide (2 ^ shift * q < elemMag e.1)).map (·.2)

/-- w = round_ne(x / S) in BF16, and whether it counts as saturated (R124). -/
def sideValue (scale : Num) : Option FV → Nat × Bool
  | some (.inf n) => (infBits .bf16 n, true)
  | some (.fin n m) =>
    let r := roundNum .bf16 none (numOver (fvNum (.fin n m)) scale)
    (r.bits, r.sat)
  | _ => (0, false)

/-- Take a pool entry (R127): its index, or none when the pool is full. -/
def takePool (side kind : Nat) (s : State) : Option (Nat × State) :=
  let used := if kind = 1 then sdPromoUsed s side else sdRmUsed s side
  let cap := if kind = 1 then sdPromoCap s side else sdRmCap s side
  if min cap (2 ^ 24) ≤ used then none
  else some (used, writeNat s (side + (if kind = 1 then 20 else 36)) 4 (used + 1))

/-- A list record (R125). -/
def listBytes (kind pool : Nat) (items : List (Nat × Nat)) : List Byte :=
  let pad := List.replicate (4 - items.length) 0
  leBytes 1 (items.length + 16 * kind) ++ leBytes 3 pool ++ (items.map (·.1) ++ pad).flatMap (leBytes 1)
    ++ (items.map (·.2) ++ pad).flatMap (leBytes 2)

/-- The two planes of a P8 tile (R55, R123). -/
def promoBytes (words : List Nat) : List Byte :=
  let plane := fun (pick : Nat → Nat) => ((words.zipIdx).map fun e => pick e.1 <<< (4 * e.2)).foldl (· + ·) 0
  leBytes 128 (plane (· % 16)) ++ leBytes 128 (plane (· / 16))

/-! QNT. -/

/-- What QNT is asked for once its operands are read. -/
structure QntArgs where
  u      : UnitRef
  ts     : View
  td     : View
  fmt    : Fmt
  scale  : Nat
  rnd    : Nat
  ledger : Option Nat
  layer  : Option Nat
deriving DecidableEq, Repr

/-- Totals over the tiles of a quantisation. -/
structure QSum where
  s        : State
  top      : Num
  sats     : Nat
  outliers : Nat
  flags    : Nat
  bad      : Bool
deriving DecidableEq, Repr

/-- The input elements of stored tile (ti, tj) of td (R57, R58). -/
def qntElems (s : State) (a : QntArgs) (ti tj : Nat) : List (Option FV) :=
  (List.range 256).map fun n =>
    let i := 16 * ti + n / 16
    let j := 16 * tj + n % 16
    if a.td.rows ≤ i ∨ a.td.cols ≤ j then none
    else
      let c := storedAt a.td i j
      some (wideGet s a.ts c.1 c.2)

/-- The position of element n of stored tile (ti, tj) (R199). -/
def tilePos (s : State) (v : View) (ti tj n : Nat) : Nat :=
  cgPosRc 1 v.cgId (stepNow s) (v.oRow + 16 * ti + n / 16) (v.oCol + 16 * tj + n % 16)

/-- One quantised tile enters the totals. -/
def addQTile (t : QSum) (q : QTile) (flags : Nat) : QSum :=
  { t with s := q.s, top := numMax t.top q.top, sats := t.sats + q.sats,
           flags := t.flags ||| flags ||| (if q.sats = 0 then 0 else flSat) ||| (if tilePoison q then flNan else 0),
           bad := t.bad || tilePoison q }

def qIn : Option FV → QIn
  | none => .out
  | some v => qOf v

/-- Store a tile of codes unless the stash write is discarded (R177). -/
def putTile (v : View) (f : Fmt) (discard : Bool) (ti tj : Nat) (words : List Nat) (word : Nat) (s : State) : State :=
  if discard then s else writeTile v f ti tj words word s

/-- Write the list record of a tile when the side door is on. -/
def putList (v : View) (ti tj kind pool : Nat) (items : List (Nat × Nat)) (s : State) : State :=
  if v.side = 0 then s else writeMem s (listAddr s v ti tj) (listBytes kind pool items)

/-- KIND 0: the outliers leave the codes (R123). -/
def qntNormal (a : QntArgs) (discard : Bool) (ti tj : Nat) (xs : List (Option FV)) (outs : List Nat) (t : QSum) : QSum :=
  let scale := fp32Num a.scale
  let rest := xs.zipIdx.map fun e => if outs.contains e.2 then QIn.out else qIn e.1
  let items := outs.map fun n => (n, sideValue scale (xs.getD n none))
  let q := quantTile a.fmt scale (vectorLanes a.u.dom a.rnd) (tilePos t.s a.td ti tj) rest t.s
  let q := if q.word = 0x50 ∧ outs ≠ [] then { q with word := 0x10 } else q
  let sat := (items.filter fun e => e.2.2).length
  let s := putTile a.td a.fmt discard ti tj q.words q.word q.s
  let s := putList a.td ti tj 0 0 (items.map fun e => (e.1, e.2.1)) s
  let t := addQTile t { q with s := s, sats := q.sats + sat } 0
  { t with bad := t.bad || outs.any fun n => match xs.getD n none with | some v => fvIsInf v | none => false }

/-- KIND 1: the whole tile goes to the promotion pool as P8 (R123). -/
def qntPromote (a : QntArgs) (discard : Bool) (ti tj pool : Nat) (xs : List (Option FV)) (t : QSum) : QSum :=
  let q := quantTile .p8 (fp32Num a.scale) (vectorLanes a.u.dom a.rnd) (tilePos t.s a.td ti tj) (xs.map qIn) t.s
  let s := writeMem q.s (sdPromo q.s a.td.side + 256 * pool) (promoBytes q.words)
  let s := putList a.td ti tj 1 pool [] (putTile a.td a.fmt discard ti tj zeroWords q.word s)
  addQTile t { q with s := bump s a.u.dom Reg.ERRC_PROMOTE_COUNT 1 } flTile

/-- KIND 2: the whole tile goes to the RM pool as BF16 values (R123, R124). -/
def qntRm (a : QntArgs) (discard : Bool) (ti tj pool : Nat) (xs : List (Option FV)) (t : QSum) : QSum :=
  let ws := xs.map (sideValue (fp32Num a.scale))
  let sats := (ws.filter (·.2)).length
  let s := writeMem t.s (sdRm t.s a.td.side + 512 * pool) (ws.flatMap fun w => leBytes 2 w.1)
  let s := putList a.td ti tj 2 pool [] (putTile a.td a.fmt discard ti tj zeroWords 0 s)
  let t := addQTile t ⟨bump s a.u.dom Reg.ERRC_RMTILE_COUNT 1, [], 0, ⟨0, 0, 1⟩, sats⟩ flTile
  { t with bad := t.bad || xs.any fun x => match x with | some v => fvIsInf v | none => false }

/-- One stored tile of QNT (R122, R123, R127). -/
def qntTile (a : QntArgs) (discard : Bool) (t : QSum) (ti tj : Nat) : QSum :=
  let xs := qntElems t.s a ti tj
  let skip := a.td.side = 0 || xs.any (fun x => x = some .nan)
  let outs := if skip then [] else outlierPos (sdShift t.s a.td.side) xs
  let c := outs.length
  let t := { t with outliers := t.outliers + c }
  if c ≤ 4 then qntNormal a discard ti tj xs outs t
  else
    let kind := if c ≤ 16 then 1 else 2
    match takePool a.td.side kind t.s with
    | none =>
      let s := markDet a.u.dom detPool (bump t.s a.u.dom Reg.ERRC_POOL_FULL_COUNT 1)
      qntNormal a discard ti tj xs [] { t with s := s, flags := t.flags ||| flTile }
    | some (n, s) =>
      if kind = 1 then qntPromote a discard ti tj n xs { t with s := s } else qntRm a discard ti tj n xs { t with s := s }

/-- Every stored tile of a view, row by row (R56). -/
def tilesOf (v : View) : List (Nat × Nat) :=
  (List.range (tileRows v)).flatMap fun i => (List.range (tileCols v)).map fun j => (i, j)

/-- A rotation tag as QNT and ROT write it into register td at issue (R254, R263): the ROT byte, AXIS in td's own storage, LAYER_ID. -/
def tagDesc (d h side axis layer : Nat) (turned : Bool) : Nat :=
  let axis := if turned then 1 - axis else axis
  setFld (setFld d 375 368 (h + 16 * side + 32 * axis)) 415 384 layer

/-- What issue writes: COARSE into the slot, the tag of ts into td (R254). -/
def qntIssue (a : QntArgs) (td : Nat) (s : State) : State :=
  let x := getUnit s a.u
  let x := if a.ledger.isSome then setK x a.td.slot a.scale else x
  setUnit s (setT x td (tagDesc (tReg x td) a.ts.h a.ts.rotSide a.ts.axis a.ts.layer (a.ts.t != a.td.t)))

/-- The ledger's contribution, the outlier counts and the gradient mark of a quantisation (R64, R122, R167). -/
def qntTotals (dom : Nat) (grad : Bool) (ledger layer : Option Nat) (t : QSum) : State :=
  let s := match ledger with
    | some l => contribute l (stepMag t.top) t.sats t.s
    | none => t.s
  let s := if t.outliers = 0 then s else bump s dom Reg.ERRC_OUTLIER_COUNT t.outliers
  let s := match layer with
    | some l => addOutliers l t.outliers s
    | none => s
  if grad && t.bad then markNonfinite dom s else s

/-- FALLBACK_LAYER for an operation at a rung above 0 (R136). -/
def rungFlag (s : State) (layer : Option Nat) : Nat :=
  match layer with
  | some l => if layRung s l = 0 then 0 else flLayer
  | none => 0

/-- QNT's effects. -/
def qntRun (a : QntArgs) (td : Nat) (s : State) : Effect :=
  let flags := rungFlag s a.layer
  match openForWrite a.td s with
  | .exhausted => exhausted a.u a.td.base a.td.entry flags (qntIssue a td s)
  | .ready s discard =>
    let t : QSum := ⟨qntIssue a td s, ⟨0, 0, 1⟩, 0, 0, flags, false⟩
    let t := (tilesOf a.td).foldl (fun t p => qntTile a discard t p.1 p.2) t
    ⟨closeWrite a.td discard (qntTotals a.u.dom a.td.g a.ledger a.layer t), stDone, t.flags⟩

/-- The vector units' estimate in milliwatts: four of 4.0 W (R368). -/
abbrev vectorMilli : Nat := 16000

/-- The slot's register number names a record, or g0 none (R252). -/
def recordOf (x : ProgUnit) (n : Nat) : Option Nat := if n = 0 then none else some (gReg x n)

/-- The format of the rung in force, where the record may be used (R136). -/
def rungFmt (s : State) (layer : Option Nat) (own : Fmt) : Fmt :=
  match layer with
  | some l => if firstFail (layerCheck s l) = 0 then (fmtOfCode (rungInForce s l).1).getD own else own
  | none => own

/-- The checks of a named layer record, and that the operand names its CAP (R134, R136). -/
def layerUse (s : State) (layer : Option Nat) (code : Nat) : List Nat :=
  match layer with
  | some l => layerCheck s l ++ [failIf (memMapped s l layerBytes && decide (layCap s l ≠ code)) stReserved]
  | none => []

/-- The coarse scale, and its checks (R61, R254): the ledger's COARSE, or the slot. -/
def coarseUse (s : State) (x : ProgUnit) (ledger : Option Nat) (slot fmt : Nat) : Nat × List Nat :=
  match ledger with
  | some l => (ledCoarse s l, ledgerCheck s l fmt)
  | none => (kReg x slot, [failIf (!scaleOk (kReg x slot)) stReserved])

def recordRanges (ledger layer : Option Nat) : List (Nat × Nat) :=
  (match ledger with | some l => [(l, ledgerBytes)] | none => []) ++ (match layer with | some l => [(l, layerBytes)] | none => [])

/-- The stash entries a reading view holds (R181), and headers named. -/
def headersOf (vs : List View) : List Nat := (vs.filter (·.stash)).map (·.base)

def qntPlan (s : State) (x : ProgUnit) (f1 f2 f3 f4 rnd : Nat) : Plan :=
  let td := viewOf (tReg x f1)
  let ts := viewOf (tReg x f2)
  let ledger := recordOf x f3
  let layer := recordOf x f4
  let fmt := rungFmt s layer (vFmt td)
  let sc := coarseUse s x ledger td.slot (fmtCode fmt)
  let a : QntArgs := ⟨x.ref, ts, td, fmt, sc.1, rnd, ledger, layer⟩
  { checks := rndChecks rnd td ++ viewCheck s ts fmtWide false ++ viewCheck s td (fun f => !fmtWide f) true
      ++ [failIf (decide (seenRows ts ≠ seenRows td) || decide (seenCols ts ≠ seenCols td)) stLength]
      ++ layerUse s layer td.code ++ sc.2 ++ sideChecks s td
    reads := viewRanges ts, writes := viewRanges td, touch := sideRanges s td ++ recordRanges ledger layer
    entries := viewEntries ts ++ viewEntries td, rdEntries := viewEntries ts, headers := headersOf [ts, td], views := [ts, td]
    records := ledger.isSome || layer.isSome, draw := scaleDraw s x.ref.dom vectorMilli, empty := isEmpty td
    run := fun _ s => qntRun a f1 s }

end Sys2Proof.Machine
end

