-- ==== Sys2Proof/Machine/CopyOps.lean ====
section
/-! DEFINITION. TLD and TST (R253) and XFER (R271). -/
namespace Sys2Proof.Machine

/-! Views. -/

/-- The view lies in the SRAM window of a CD. -/
def inWindow (v : View) (dom : Nat) : Bool :=
  !v.stash && (regions v).all fun r => decide (slotBase dom ≤ r.start) && decide (r.start + spanLen r ≤ slotBase dom + sramSize dom)

/-- A tile-scale word of a narrow view has bit 7 set. -/
def bit7Set (s : State) (v : View) : Bool :=
  !fmtWide (vFmt v) && (List.range (tileRows v)).any fun i => (List.range (tileCols v)).any fun j => bitAt (tileWord s v i j) 7

/-- The view holds a NaN, an infinity or a poisoned tile (R167). -/
def viewNonfinite (s : State) (v : View) : Bool :=
  if fmtWide (vFmt v) then
    (List.range v.rows).any fun i => (List.range v.cols).any fun j => !fvIsFin (wideGet s v i j)
  else (List.range (tileRows v)).any fun i => (List.range (tileCols v)).any fun j => wordPoison (tileWord s v i j)

/-- Copy the rows that two views of one shape cover. -/
def copyView (ts td : View) (s0 s : State) : State :=
  ((viewRows ts).zip (viewRows td)).foldl (fun s r =>
    placeWrite (viewPlace td) s r.2.1 (placeRead s0 (viewPlace ts) r.1.1 r.1.2)) s

def copyRun (u : UnitRef) (ts td : View) (s0 : State) : Effect :=
  match openForWrite td s0 with
  | .exhausted => exhausted u td.base td.entry 0 s0
  | .ready s discard =>
    let bad := td.g && viewNonfinite s0 ts
    let s := closeWrite td discard (if discard then s else copyView ts td s0 s)
    ⟨if bad then markNonfinite u.dom s else s, stDone, 0⟩

/-- TLD, TST and XFER: 2.0 W each (R368). -/
abbrev copyMilli : Nat := 2000

def tileCopyPlan (load : Bool) (s : State) (x : ProgUnit) (f1 f2 : Nat) : Plan :=
  let td := viewOf (tReg x f1)
  let ts := viewOf (tReg x f2)
  let ok := firstFail (viewCheck s ts (fun _ => true) false) = 0
  { checks := viewCheck s td (fun _ => true) true ++ viewCheck s ts (fun _ => true) false
      ++ [failIf (decide (ts.code ≠ td.code) || decide (ts.rows ≠ td.rows) || decide (ts.cols ≠ td.cols) || ts.t || td.t
        || !inWindow (if load then td else ts) x.ref.dom || (ok && bit7Set s ts)) stReserved]
    reads := viewRanges ts, writes := viewRanges td, entries := viewEntries td ++ viewEntries ts, rdEntries := viewEntries ts
    headers := headersOf [td, ts], views := [td, ts], draw := scaleDraw s x.ref.dom copyMilli, empty := isEmpty td
    run := fun _ s => copyRun x.ref ts td s }

/-! XFER. -/

/-- One side of an XFER: an address, or an entry at an offset. -/
structure Side where
  place : Place
  off   : Nat
deriving DecidableEq, Repr

def sideOf (x : ProgUnit) (kind : Bool) (slot off : Nat) : Side :=
  if kind then
    let v := viewOf (tReg x slot)
    ⟨.entry v.base v.entry, gReg x off⟩
  else ⟨.mem, gReg x slot⟩

/-- The checks of a side (R240, R271, R276): a descriptor must have STASH set on an open stash; an address takes no offset. -/
def sideCheck (s : State) (x : ProgUnit) (kind : Bool) (slot off n : Nat) (write : Bool) : List Nat :=
  if kind then
    let v := viewOf (tReg x slot)
    let o := gReg x off
    let st := entState s v.base v.entry
    let outside := decide (hdrCount s v.base ≤ v.entry) || decide (entSize s v.base v.entry < o + n)
      || (!write && !(decide (1 ≤ st) && decide (st ≤ 3)))
    if v.stash && (findStash s v.base).isSome then failIf outside stLength :: viewCheck s v (fun _ => true) write else [stReserved]
  else [failIf (decide (off ≠ 0)) stReserved, failIf (!memMapped s (gReg x slot) n) stLength]

def sideEntries (k : Side) : List (Nat × Nat) := match k.place with
  | .entry h e => [(h, e)]
  | .mem => []
def sideRange (k : Side) (n : Nat) : List (Nat × Nat) := match k.place with
  | .mem => [(k.off, n)]
  | _ => []

/-- The source bytes as they stood before; a write through a stash descriptor places the entry by R177. -/
def xferRun (u : UnitRef) (dst src : Side) (n : Nat) (s : State) : Effect :=
  let bytes := placeRead s src.place src.off n
  match dst.place with
  | .mem => ⟨writeMem s dst.off bytes, stDone, 0⟩
  | .entry h e =>
    let st := entState s h e
    let put := fun (s : State) => wakeMoves h e (addWritten h e [(dst.off, n)] (writeEntryAt h e s dst.off bytes))
    if 1 ≤ st ∧ st ≤ 3 then ⟨put s, stDone, 0⟩
    else match placeEntry h e s with
      | .placed s => ⟨put s, stDone, 0⟩
      | .discarded s => ⟨s, stDone, 0⟩
      | .exhausted => exhausted u h e 0 s

def xferPlan (s : State) (x : ProgUnit) (f1 f2 f3 f4 f5 low : Nat) : Plan :=
  let dk := bitAt low 0
  let sk := bitAt low 1
  let n := gReg x f3
  let dst := sideOf x dk f1 f4
  let src := sideOf x sk f2 f5
  { checks := sideCheck s x dk f1 f4 n true ++ sideCheck s x sk f2 f5 n false ++ [failIf (decide (2 ^ 32 < n)) stLength]
    reads := sideRange src n, writes := sideRange dst n, entries := sideEntries dst ++ sideEntries src, rdEntries := sideEntries src
    headers := (sideEntries dst ++ sideEntries src).map (·.1), draw := scaleDraw s x.ref.dom copyMilli, empty := n = 0
    run := fun _ s => xferRun x.ref dst src n s }

end Sys2Proof.Machine
end

