-- ==== Sys2Proof/Machine/MatrixOps.lean ====
section
/-! DEFINITION. Matrix products (R82 to R90, R109, R128, R140 to R144, R255). A tile-block's rails are formed exactly, as integers in
units of 2^-266 of the Cellar unit 2^-32 × p: a code product is a multiple of 2^(fa + fb - 8 + 32), a side term of 2^(f + 28 - 149),
a pair of side values of 2^(32 - 298). -/
namespace Sys2Proof.Machine

/-! Dimensions (R252). -/

def dimM (d : Nat) : Nat := fld d 8 0
def dimN (d : Nat) : Nat := fld d 24 16
def dimK (d : Nat) : Nat := fld d 52 32
def dimChecks (d maxK : Nat) : List Nat :=
  [failIf (decide (fld d 15 9 ≠ 0) || decide (fld d 31 25 ≠ 0) || decide (fld d 63 53 ≠ 0)) stReserved,
   failIf (decide (256 < dimM d) || decide (256 < dimN d) || decide (maxK < dimK d)) stLength]

/-! Operand tiles. -/

/-- a + b·√2 with integers. -/
abbrev Pair := Int × Int

/-- One element of an operand tile as seen: 16 × its head, 16 × its tail's contribution, and its side values (R52, R88). -/
structure Elem where
  h    : Pair
  t    : Pair
  side : List FV
deriving DecidableEq, Repr

def zeroElem : Elem := ⟨(0, 0), (0, 0), []⟩

/-- One operand tile of a tile-block (R60, R85, R128). -/
structure OpTile where
  fine   : Int
  poison : Bool
  bit7   : Bool
  zero   : Bool
  kind   : Nat
  elems  : List Elem
deriving DecidableEq, Repr

/-- An element word of format f as head and tail (R49, R52, R82). -/
def codeElem (f : Fmt) (word : Nat) (side : List FV) : Elem :=
  let hd := if fmtPair f then lValue 4 (word % 16) else lValue (fmtWidth f) word
  let tl := if fmtPair f then lValue (tailWidth f) (word / 16) else ⟨0, 0, 1⟩
  ⟨(16 * hd.a, 16 * hd.b), (tl.a, tl.b), side⟩

/-- The stored tile under seen tile (ti, tj), and the stored index under seen element n (R58, R126). -/
def underTile (v : View) (ti tj : Nat) : Nat × Nat := if v.t then (tj, ti) else (ti, tj)
def underElem (v : View) (n : Nat) : Nat := if v.t then 16 * (n % 16) + n / 16 else n

/-- Load seen tile (ti, tj) of an operand in format f (R128, R136). -/
def opTile (s : State) (v : View) (f : Fmt) (ti tj : Nat) : OpTile :=
  let c := underTile v ti tj
  let w := tileWord s v c.1 c.2
  let rec' := listAddr s v c.1 c.2
  let kind := if v.side = 0 then 0 else listKind s rec'
  let items := if v.side = 0 then [] else listItems s rec'
  let pool := poolAddr s v.side rec'
  let elem := fun (n : Nat) =>
    let m := underElem v n
    let side := (items.filter fun e => e.1 = m).map fun e => fvRead .bf16 e.2
    if kind = 1 then
      let nib := fun (a : Nat) => (readNat s (a + m / 2) 1 / 16 ^ (m % 2)) % 16
      codeElem .p8 (nib pool + 16 * nib (pool + 128)) side
    else if kind = 2 then { zeroElem with side := side ++ [fvRead .bf16 (readNat s (pool + 2 * m) 2)] }
    else codeElem f (elemWord s v f (16 * c.1 + m / 16) (16 * c.2 + m % 16)) side
  ⟨wordFine w, wordPoison w, bitAt w 7, wordZero w, kind, (List.range 256).map elem⟩

/-! Terms. -/

def pairMul (x y : Pair) : Pair := (x.1 * y.1 + 2 * x.2 * y.2, x.1 * y.2 + x.2 * y.1)
def pairAdd (x y : Pair) : Pair := (x.1 + y.1, x.2 + y.2)
def pairScale (x : Pair) (k : Int) (e : Nat) : Pair := (x.1 * k * (2 ^ e : Nat), x.2 * k * (2 ^ e : Nat))

/-- The rails of a tile-block for one output in units of 2^-266, infinite terms per rail (bit 0: +∞, bit 1: −∞), a NaN met. -/
structure Acc where
  r    : Pair
  infA : Nat
  infB : Nat
  nan  : Bool
deriving DecidableEq, Repr

def accZero : Acc := ⟨(0, 0), 0, 0, false⟩

def fvSign (w : FV) : Int := if fvNeg w then -1 else 1
def fvMag : FV → Nat
  | .fin _ m => m
  | _ => 0

/-- A side value times one part of its partner, whose tile has FINE f (R88, R90). -/
def sideTerm (acc : Acc) (w : FV) (part : Pair) (fine : Int) : Acc :=
  if part = (0, 0) then acc
  else match w with
    | .nan => { acc with nan := true }
    | .inf n =>
      let sg := fun (x : Int) => if x = 0 then 0 else if (decide (x < 0)) != n then 2 else 1
      { acc with infA := acc.infA ||| sg part.1, infB := acc.infB ||| sg part.2 }
    | .fin n m => { acc with r := pairAdd acc.r (pairScale part (if n then -(m : Int) else m) (fine + 145).toNat) }

/-- The product of two side values, formed once (R88, R90). -/
def sidePair (acc : Acc) (x y : FV) : Acc :=
  if fvIsZero x || fvIsZero y then acc
  else if fvIsNan x || fvIsNan y then { acc with nan := true }
  else if fvIsInf x || fvIsInf y then { acc with infA := acc.infA ||| (if fvNeg x = fvNeg y then 1 else 2) }
  else { acc with r := (acc.r.1 + fvSign x * fvSign y * ((fvMag x * fvMag y : Nat) : Int), acc.r.2) }

/-- One element pair: the code products that PASS forms, in units of 2^(fa + fb - 8), and the side terms (R87, R88, R128). -/
def pairTerm (pass : Nat) (fa fb : Int) (acc : Acc) (a b : Elem) : Acc :=
  let code := pairMul (if 2 ≤ pass then pairAdd a.h a.t else a.h) b.h
  let code := if pass = 3 then pairAdd code (pairMul a.h b.t) else code
  let acc := { acc with r := pairAdd acc.r (pairScale code 1 (fa + fb + 290).toNat) }
  let acc := a.side.foldl (fun acc w => sideTerm (sideTerm acc w b.h fb) w b.t fb) acc
  let acc := b.side.foldl (fun acc w => sideTerm (sideTerm acc w a.h fa) w a.t fa) acc
  a.side.foldl (fun acc x => b.side.foldl (fun acc y => sidePair acc x y) acc) acc

/-- Round to nearest, ties to even, at bit k; whether anything was rounded (R88). -/
def roundEven (x : Int) (k : Nat) : Int × Bool :=
  let u : Int := (2 ^ k : Nat)
  let q := x / u
  let r := x % u
  (if 2 * r < u then q else if u < 2 * r then q + 1 else if q % 2 = 0 then q else q + 1, decide (r ≠ 0))

/-- The clamp of R89. -/
abbrev clampTop : Int := 2 ^ 73 - 1

/-- A rail of a tile-block: rounded, clamped; whether each happened. -/
structure RailOut where
  v       : Int
  rounded : Bool
  clamped : Bool
deriving DecidableEq, Repr

/-- A rail of a tile-block as it leaves the side multiplier and the clamp. A finite part with a fraction counts as rounded although an
infinite side term then clamps the rail: R88 is silent on that case (log entry 115). -/
def railOut (x : Int) (inf : Nat) : RailOut :=
  let r := roundEven x 266
  if inf = 1 then ⟨clampTop, r.2, true⟩
  else if inf = 2 then ⟨-clampTop, r.2, true⟩
  else if clampTop < r.1 then ⟨clampTop, r.2, true⟩
  else if r.1 < -clampTop then ⟨-clampTop, r.2, true⟩
  else ⟨r.1, r.2, false⟩

/-! The product. -/

/-- What an operation on the Cellar has counted so far. -/
structure MmaSum where
  s       : State
  rounds  : Nat
  clamps  : Nat
  heads   : Nat
  flags   : Nat
deriving DecidableEq, Repr

/-- A tile-block enters one output's rails (R84, R88 to R93). -/
def enterBlock (bank i j : Nat) (acc : Acc) (t : MmaSum) : MmaSum :=
  let r := getRails t.s bank .plain i j
  if acc.nan || decide (acc.infA = 3) || decide (acc.infB = 3) then
    { t with s := putRails bank .plain i j { r with poison := true } t.s }
  else
    let a := railOut acc.r.1 acc.infA
    let b := railOut acc.r.2 acc.infB
    let (y, now) := addRails 128 r a.v b.v
    let clamps := b2n a.clamped + b2n b.clamped
    let y := { y with sat := y.sat || decide (0 < clamps) }
    { s := putRails bank .plain i j y t.s, rounds := t.rounds + b2n a.rounded + b2n b.rounded, clamps := t.clamps + clamps,
      heads := t.heads + b2n now, flags := t.flags ||| (if clamps = 0 then 0 else flSat) }

/-- One tile-block of output tile (ti, tj) over reduction slice kb (R82 to R90). -/
def tileBlock (bank pass m n k ti tj kb : Nat) (a b : OpTile) (t : MmaSum) : MmaSum :=
  let flags := (if 0 < a.kind ∨ 0 < b.kind then flTile else 0) ||| (if a.bit7 || b.bit7 then flNan else 0)
  let t := { t with flags := t.flags ||| flags }
  let cells := (List.range 256).filter fun x => decide (16 * ti + x / 16 < m) && decide (16 * tj + x % 16 < n)
  let put := fun (t : MmaSum) (x : Nat) (acc : Acc) => enterBlock bank (16 * ti + x / 16) (16 * tj + x % 16) acc t
  if a.poison || b.poison then cells.foldl (fun t x => put t x { accZero with nan := true }) t
  else if a.zero || b.zero then t
  else
    let pass := if a.kind = 1 ∨ b.kind = 1 then 3 else pass
    cells.foldl (fun t x =>
      let acc := (List.range (min 16 (k - 16 * kb))).foldl (fun acc q =>
        pairTerm pass a.fine b.fine acc (a.elems.getD (16 * (x / 16) + q) zeroElem) (b.elems.getD (16 * q + x % 16) zeroElem)) accZero
      put t x acc) t

/-- What an MMA is asked for once its operands are read. -/
structure MmaArgs where
  dom  : Nat
  sel  : Nat
  ta   : View
  tb   : View
  fa   : Fmt
  pass : Nat
  m    : Nat
  n    : Nat
  k    : Nat
  p    : Nat
  layer : Option Nat
deriving DecidableEq, Repr

/-- The output tiles an operation on M × N outputs touches. -/
def touched (kind : BankKind) (m n : Nat) : List Nat :=
  (List.range (ceilDiv m 16)).flatMap fun ti => (List.range (ceilDiv n 16)).map fun tj => gridCols kind * ti + tj

/-- The touched tiles record p and count their tile-blocks (R92). -/
def recordTiles (bank : Nat) (kind : BankKind) (tiles : List Nat) (p k : Nat) (s : State) : State :=
  tiles.foldl (fun s x => putTileRec bank x ⟨p, addTb (getTile s bank x).tb (ceilDiv k 16)⟩ s) (putKind bank kind s)

/-- Every tile-block of a product, slice by slice. -/
def mmaBlocks (a : MmaArgs) (bank : Nat) (t : MmaSum) : MmaSum :=
  (List.range (ceilDiv a.k 16)).foldl (fun t kb =>
    (List.range (ceilDiv a.m 16)).foldl (fun t ti =>
      let oa := opTile t.s a.ta a.fa ti kb
      (List.range (ceilDiv a.n 16)).foldl (fun t tj =>
        tileBlock bank a.pass a.m a.n a.k ti tj kb oa (opTile t.s a.tb (vFmt a.tb) kb tj) t) t) t) t

/-- What a Cellar operation has counted goes to its engine's counters; its status (R88, R89, R93). -/
def mmaEnd (dom sel : Nat) (t : MmaSum) : Effect :=
  let e := bankEngine sel
  let s := engCount dom e Reg.ENG_UNIT_ROUND_COUNT t.rounds t.s
  let s := engCount dom e Reg.ENG_SAT_COUNT t.clamps s
  ⟨headroomEffects dom e t.heads s, if t.heads = 0 then stDone else stHeadroom, t.flags⟩

/-- An MMA of narrow operands, none of its dimensions zero. -/
def mmaRun (a : MmaArgs) (s : State) : Effect :=
  let bank := bankIx a.dom a.sel
  mmaEnd a.dom a.sel
    (mmaBlocks a bank ⟨recordTiles bank .plain (touched .plain a.m a.n) a.p a.k s, 0, 0, 0, rungFlag s a.layer⟩)

/-! Reference mode. -/

/-- The nonzero digits of a number's non-adjacent form, from the least significant, each as a signed power of two (R141): a digit
+1 or -1 stands where the rest is odd, so chosen that an even rest follows it. -/
def nafDigits : Nat → Nat → List Int
  | 0, _ => []
  | fuel + 1, m =>
    if m = 0 then []
    else if m % 2 = 0 then (nafDigits fuel (m / 2)).map (2 * ·)
    else if m % 4 = 1 then 1 :: (nafDigits fuel (m / 2)).map (2 * ·)
    else -1 :: (nafDigits fuel (m / 2 + 1)).map (2 * ·)

/-- Digit plane j of an element is digit j of this list, counted from the most significant; beyond its digits the element is zero in
every plane (R141). Units of 2^-149. -/
def digitPlanes (x : FV) : List Int := ((nafDigits (Nat.log2 (fvMag x) + 2) (fvMag x)).map (fvSign x * ·)).reverse

/-- The product of two elements: every pass of one plane with another, exactly, in units of 2^-266 (R142). -/
def planeProduct (x y : FV) : Int :=
  ((digitPlanes x).flatMap fun d => (digitPlanes y).map fun e => (d * e) / ((2 ^ 32 : Nat) : Int)).foldl (· + ·) (0 : Int)

/-- One tile-block of one output: exact products of wide operands in units of 2^-266, NaN or infinity poisons (R142, R143). -/
def rmBlock (a : MmaArgs) (bank i j kb : Nat) (kind : BankKind) (t : MmaSum) : MmaSum :=
  let r := getRails t.s bank kind i j
  let qs := (List.range (min 16 (a.k - 16 * kb))).map fun q => (wideGet t.s a.ta i (16 * kb + q), wideGet t.s a.tb (16 * kb + q) j)
  if qs.any fun q => !(fvIsFin q.1 && fvIsFin q.2) then { t with s := putRails bank kind i j { r with poison := true } t.s }
  else
    let (y, now) := addRails 640 r ((qs.map fun q => planeProduct q.1 q.2).foldl (· + ·) 0) 0
    { t with s := putRails bank kind i j y t.s, heads := t.heads + b2n now }

def rmKind (v : View) : BankKind := if vFmt v = .fp16 then .rmFp16 else .rmBf16

def rmRun (a : MmaArgs) (s : State) : Effect :=
  let bank := bankIx a.dom a.sel
  let kind := rmKind a.ta
  let t : MmaSum := ⟨recordTiles bank kind (touched kind a.m a.n) oneP a.k s, 0, 0, 0, 0⟩
  mmaEnd a.dom a.sel ((List.range (ceilDiv a.k 16)).foldl (fun t kb => (List.range a.m).foldl (fun t i =>
    (List.range a.n).foldl (fun t j => rmBlock a bank i j kb kind t) t) t) t)

/-! Checks. -/

/-- The rotation tag when it lies on the given stored axis (R118): h, SIDE, LAYER_ID, ORIGIN. -/
def tagOn (v : View) (axis : Nat) : Option (Nat × Nat × Nat × Nat) :=
  if v.h = 0 ∨ v.axis ≠ axis then none else some (v.h, v.rotSide, v.layer, if v.axis = 0 then v.oRow else v.oCol)

def tagA (v : View) : Option (Nat × Nat × Nat × Nat) := tagOn v (if v.t then 0 else 1)
def tagB (v : View) : Option (Nat × Nat × Nat × Nat) := tagOn v (if v.t then 1 else 0)

def tagsAgree (a b : View) : Bool :=
  match tagA a, tagB b with
  | none, none => true
  | some x, some y => decide (x.1 = y.1) && decide (x.2.2 = y.2.2) && decide (x.2.1 ≠ y.2.1)
  | _, _ => false

/-- Some list record of the seen tiles i < rows, j < cols is one that R125 refuses. -/
def listsBad (s : State) (v : View) (rows cols : Nat) : Bool :=
  decide (v.side ≠ 0) && (List.range rows).any fun i => (List.range cols).any fun j =>
    let c := underTile v i j
    listBad s v.side (listAddr s v c.1 c.2)

/-- A view does not cover rows × cols from its first element. -/
def short (v : View) (rows cols : Nat) : Bool := decide (seenRows v < rows) || decide (seenCols v < cols)

/-- A bank that holds outputs of another kind (R256), or another p in a touched tile (R92). -/
def bankClash (s : State) (bank : Nat) (kind : BankKind) (m n p : Nat) : Bool :=
  (decide (bankKind s bank ≠ .empty) && decide (bankKind s bank ≠ kind))
    || (touched kind (min m 256) (min n 256)).any fun x => decide ((getTile s bank x).p ≠ 0) && decide ((getTile s bank x).p ≠ p)

def isNarrow (f : Fmt) : Bool := !fmtWide f

/-- The operand views' lists may be read: the side door passes its checks and the views cover the product. -/
def listsReady (s : State) (v : View) (rows cols : Nat) : Bool := firstFail (sideChecks s v) = 0 && !short v rows cols

def mmaChecks (s : State) (x : ProgUnit) (a : MmaArgs) (pass : Nat) : List Nat :=
  let bank := bankIx a.dom a.sel
  let none0 := a.m = 0 || a.n = 0 || a.k = 0
  let ka := kReg x a.ta.slot
  let kb := kReg x a.tb.slot
  let tm := ceilDiv a.m 16
  let tn := ceilDiv a.n 16
  let tk := ceilDiv a.k 16
  [failIf (decide (pass = 0) || bankBad x a.sel || !scaleOk ka || !scaleOk kb || !tagsAgree a.ta a.tb
      || bankClash s bank .plain a.m a.n a.p
      || (!none0 && listsReady s a.ta a.m a.k && listsBad s a.ta tm tk)
      || (!none0 && listsReady s a.tb a.k a.n && listsBad s a.tb tk tn)) stReserved,
   failIf (short a.ta a.m a.k || short a.tb a.k a.n) stLength]
    ++ viewCheck s a.ta isNarrow false ++ viewCheck s a.tb isNarrow false ++ sideChecks s a.ta ++ sideChecks s a.tb
    ++ layerUse s a.layer a.ta.code

def rmChecks (s : State) (x : ProgUnit) (a : MmaArgs) (pass : Nat) : List Nat :=
  let kind := rmKind a.ta
  [failIf (decide (pass ≠ 1) || bankBad x a.sel || decide (a.ta.code ≠ a.tb.code) || (tagA a.ta).isSome || (tagB a.tb).isSome
      || bankClash s (bankIx a.dom a.sel) kind a.m a.n oneP) stReserved,
   failIf (decide (rmCols kind < a.n) || short a.ta a.m a.k || short a.tb a.k a.n) stLength]
    ++ viewCheck s a.ta (fun f => f = .bf16 || f = .fp16) false ++ viewCheck s a.tb (fun f => f = .bf16 || f = .fp16) false
    ++ layerUse s a.layer a.ta.code

/-- Estimates of an engine in milliwatts (R368). -/
abbrev mmaMilli : Nat := 4700
abbrev rmMilli : Nat := 3200
abbrev drainMilli : Nat := 800

def mmaPlan (s : State) (x : ProgUnit) (f1 f2 f3 f4 f5 low : Nat) : Plan :=
  let rm := bitAt low 2
  let pass := low % 4
  let ta := viewOf (tReg x f2)
  let tb := viewOf (tReg x f3)
  let d := gReg x f4
  let layer := recordOf x f5
  let rung := match layer with
    | some l => if firstFail (layerCheck s l) = 0 then (rungInForce s l).2 else 0
    | none => 0
  let a : MmaArgs := ⟨x.ref.dom, cReg x f1, ta, tb, rungFmt s layer (vFmt ta), max pass rung, dimM d, dimN d, dimK d,
    scaleProduct (kReg x ta.slot) (kReg x tb.slot), layer⟩
  { checks := dimChecks d 1048576 ++ (if rm then rmChecks s x a pass else mmaChecks s x a pass)
    reads := viewRanges ta ++ viewRanges tb
    touch := (if rm then [] else sideRanges s ta ++ sideRanges s tb) ++ recordRanges none layer
    banks := [bankIx a.dom a.sel], entries := viewEntries ta ++ viewEntries tb, rdEntries := viewEntries ta ++ viewEntries tb
    headers := headersOf [ta, tb], views := [ta, tb], records := layer.isSome
    draw := scaleDraw s x.ref.dom (if rm then rmMilli else mmaMilli), empty := a.m = 0 || a.n = 0 || a.k = 0
    run := fun _ s => if rm then rmRun a s else mmaRun a s }

end Sys2Proof.Machine
end

