-- ==== Sys2Proof/Machine/DrainOps.lean ====
section
/-! DEFINITION. The lintel (R96, R129, R130, R257) and the drain (R94 to R98, R143, R258). -/
namespace Sys2Proof.Machine

/-! The lintel unit. -/

/-- An infinite value stands as the largest finite FP32 value of its sign; whether it was replaced (R130). -/
def lintelIn : FV → FV × Nat
  | .inf n => (.fin n (fmtMax .fp32), 1)
  | v => (v, 0)

/-- One factor as an exact number; none for NaN. -/
def lintelNum : QIn → Option Num × Nat
  | .fin x => (some x, 0)
  | .inf n => (some (fvNum (.fin n (fmtMax .fp32))), 1)
  | .nan => (none, 0)
  | .out => (some ⟨0, 0, 1⟩, 0)

/-- The lintel counts an infinite factor in every product that it enters (R130, log entry 82); a sum of exactly zero is +0, whose sign the
spec leaves open (log entry 55).
sum + x × y, one rounding to FP32 (R129); the second answer counts replaced values (R130). -/
def lintelStep (acc : FV × Nat) (x : QIn) (y : FV) : FV × Nat :=
  let x' := lintelNum x
  let y' := lintelIn y
  let n := acc.2 + x'.2 + y'.2
  match x'.1 with
  | none => (.nan, n)
  | some v =>
    if fvIsNan acc.1 || fvIsNan y'.1 then (.nan, n)
    else
      let sum := numAdd (fvNum acc.1) (numMul v (fvNum y'.1))
      if numSign sum = 0 then (.fin false 0, n)
      else
        let r := lintelIn (roundInf (decide (numSign sum < 0)) (numFl (numAbs sum)))
        (r.1, n + r.2)

/-- The fixed ascending order of R129. -/
def lintelSum (terms : List (QIn × FV)) : FV × Nat := terms.foldl (fun acc t => lintelStep acc t.1 t.2) (.fin false 0, 0)

/-- The represented value of a narrow operand element (R129): scale S, the tile's fine offset, or its side value. -/
def elemRep (scale : Num) (t : OpTile) (n : Nat) : QIn :=
  let e := t.elems.getD n zeroElem
  if t.poison then .nan
  else if t.zero then .fin ⟨0, 0, 1⟩
  else match e.side with
    | .nan :: _ => .nan
    | .inf g :: _ => .inf g
    | .fin g m :: _ => .fin (numMul (fvNum (.fin g m)) scale)
    | [] =>
      let v := pairAdd e.h e.t
      .fin (numMul (numScale ⟨v.1, v.2, 1⟩ (t.fine - 4)) scale)

/-- An LDOWN's operands. -/
structure LdownArgs where
  dom : Nat
  td  : View
  ta  : View
  tb  : View
  scale : Nat
  m   : Nat
  r   : Nat
  k   : Nat
deriving DecidableEq, Repr

/-- What LDOWN reports of an operand tile: a word with bit 7 (R60). -/
def tileFlags (t : OpTile) : Nat := if t.bit7 then flNan else 0

/-- The ranges of an entry that wide writes of rows × cols elements from the view's first cover. -/
def wideRows (v : View) (rows cols : Nat) : List (Nat × Nat) :=
  let c := if v.t then (cols, rows) else (rows, cols)
  (List.range c.1).map fun i => (wideAddr v i 0, c.2 * fmtBytes (vFmt v))

/-- WRITTEN rises by those ranges. -/
def closeWide (v : View) (discard : Bool) (rows cols : Nat) (s : State) : State :=
  if v.stash && !discard then wakeMoves v.base v.entry (addWritten v.base v.entry (wideRows v rows cols) s) else s

/-- z = X × U (R129). -/
def ldownRun (u : UnitRef) (a : LdownArgs) (s : State) : Effect :=
  match openForWrite a.td s with
  | .exhausted => exhausted u a.td.base a.td.entry 0 s
  | .ready s discard =>
    let rows := (List.range a.m).map fun i =>
      let tiles := (List.range (ceilDiv a.k 16)).map fun kb => opTile s a.ta (vFmt a.ta) (i / 16) kb
      let xs := (List.range a.k).map fun k => elemRep (fp32Num a.scale) (tiles.getD (k / 16) ⟨0, false, false, true, 0, []⟩) (16 * (i % 16) + k % 16)
      ((List.range a.r).map fun l => lintelSum ((xs.zipIdx).map fun e => (e.1, wideGet s a.tb e.2 l)),
        (tiles.map tileFlags).foldl (· ||| ·) 0)
    let n : Nat := ((rows.flatMap (·.1)).map (·.2)).foldl (· + ·) 0
    let flags := (rows.map (·.2)).foldl (· ||| ·) (if n = 0 then 0 else flSat)
    let bad := rows.any fun r => r.1.any fun v => fvIsNan v.1
    let s := bump s a.dom Reg.ERRC_LINTEL_SAT_COUNT n
    let s := if discard then s else
      (rows.zipIdx).foldl (fun s r => (r.1.1.zipIdx).foldl (fun s v => widePut a.td r.2 v.2 (fvBits .fp32 v.1.1) s) s) s
    let s := closeWide a.td discard a.m a.r s
    ⟨if a.td.g && bad then markNonfinite a.dom s else s, stDone, flags⟩

def ldownPlan (s : State) (x : ProgUnit) (f1 f2 f3 f4 : Nat) : Plan :=
  let td := viewOf (tReg x f1)
  let ta := viewOf (tReg x f2)
  let tb := viewOf (tReg x f3)
  let d := gReg x f4
  let sc := kReg x ta.slot
  let a : LdownArgs := ⟨x.ref.dom, td, ta, tb, sc, dimM d, dimN d, dimK d⟩
  let none0 := a.m = 0 || a.r = 0 || a.k = 0
  { checks := dimChecks d 1048576
      ++ [failIf (!scaleOk sc || (!none0 && listsReady s ta a.m a.k && listsBad s ta (ceilDiv a.m 16) (ceilDiv a.k 16))) stReserved,
        failIf (decide (64 < a.r) || short ta a.m a.k || short tb a.k a.r || short td a.m a.r) stLength]
      ++ viewCheck s td (fun f => f = .fp32) true ++ viewCheck s ta isNarrow false ++ viewCheck s tb (fun f => f = .bf16) false
      ++ sideChecks s ta
    reads := viewRanges ta ++ viewRanges tb, writes := viewRanges td, touch := sideRanges s ta
    entries := viewEntries td ++ viewEntries ta ++ viewEntries tb, rdEntries := viewEntries ta ++ viewEntries tb
    headers := headersOf [td, ta, tb], views := [td, ta, tb], draw := scaleDraw s x.ref.dom mmaMilli, empty := none0
    run := fun _ s => ldownRun x.ref a s }

/-! The drain. -/

/-- A DRAIN's operands. -/
structure DrainArgs where
  u     : UnitRef
  sel   : Nat
  td    : View
  rnd   : Nat
  m     : Nat
  n     : Nat
  lin   : Option (View × View × Nat)
  scale : Nat
  ledger : Option Nat
deriving DecidableEq, Repr

/-- λ of output (i, j) and how many values were replaced (R96, R129); outputs at or beyond M or N have λ = 0 (R97). -/
def lambdaOf (s : State) (a : DrainArgs) (i j : Nat) : FV × Nat :=
  match a.lin with
  | none => (.fin false 0, 0)
  | some (tz, tv, r) =>
    if a.m ≤ i ∨ a.n ≤ j then (.fin false 0, 0)
    else lintelSum ((List.range r).map fun l => (qOf (wideGet s tz i l), wideGet s tv l j))

/-- The unit of an output's rails: 2^-32 × p, or 2^-266 in reference mode (R91, R143). -/
def railUnit (s : State) (bank : Nat) (k : BankKind) (i j : Nat) : Num :=
  if isRm k then ⟨1, 0, 2 ^ 266⟩
  else
    let p := (getTile s bank (tileOf k i j)).p
    if p = 0 then ⟨0, 0, 1⟩ else numScale (fp64Num p) (-32)

/-- One entry as the drain meets it (R94). -/
structure DrainIn where
  rails : Rails
  unit  : Num
  lam   : FV
  lsat  : Bool
  x     : Num
  bad   : Bool
deriving DecidableEq, Repr

def drainIn (s : State) (a : DrainArgs) (bank : Nat) (k : BankKind) (i j : Nat) : DrainIn :=
  let r := getRails s bank k i j
  let u := railUnit s bank k i j
  let l := lambdaOf s a i j
  ⟨r, u, l.1, decide (0 < l.2), numAdd (numMul u ⟨r.a, r.b, 1⟩) (fvNum l.1), r.poison || fvIsNan l.1⟩

/-! The exact test of R95. -/

/-- The drain's first value of x: √2 replaced by the constant r = ⌊√2 × 2^131⌋ or the number above it. -/
def approxX (d : DrainIn) : Num :=
  let r : Int := ((isqrt (2 * 4 ^ 131) + b2n Config.sqrtUp : Nat) : Int)
  numAdd (numMul d.unit ⟨d.rails.a * (2 ^ 131 : Nat) + d.rails.b * r, 0, 2 ^ 131⟩) (fvNum d.lam)

/-- The magnitude lies within a quarter of the rails' unit of a decision point. -/
def nearPoint (d : DrainIn) (pts : List Num) : Bool :=
  let x := numAbs (approxX d)
  pts.any fun p => numLe (numAbs (numSub x p)) (numScale d.unit (-2))

/-- Decision points around a magnitude in a wide format: the midpoints on either side in nearest mode, in a stochastic one the threshold
that the draw sets in the interval of the magnitude (log entry 116). None lies above the boundary that saturation starts from. -/
def widePoints (f : Fmt) (m : Num) (draw : Option Nat) (drew : Bool) : List Num :=
  let fl := numFl m
  let q0 := (fl (-fmtEmin f)).1
  let sh := if q0 < 2 ^ fmtPrec f then 0 else Nat.log2 q0 + 1 - fmtPrec f
  let e : Int := fmtEmin f + sh
  let lo := (fl (-e)).1
  let at' := fun (n : Int) (sub : Int) => numScale ⟨n, 0, 1⟩ (e - sub)
  let top : Num := ⟨((2 ^ (Nat.log2 (fmtMax f) + 1) : Nat) : Int), 0, 2 ^ 149⟩
  let points := match draw with
  | none =>
    let below := if lo = 0 then [] else if lo = 2 ^ (fmtPrec f - 1) ∧ 0 < sh then [at' (4 * lo - 1) 2] else [at' (2 * lo - 1) 1]
    at' (2 * lo + 1) 1 :: below
  | some d => if drew then [at' (2 ^ 24 * lo + d) 24] else []
  points.filter fun p => !numLe top p

/-- Midpoints of the lattice up to a code. -/
def midPoints (cmax : Nat) : List Num := (List.range cmax).map fun c => numScale (numAdd (mu c) (mu (c + 1))) (-1)

/-- The threshold that a draw sets between the neighbours of m. -/
def latticePoint (m : Num) (cmax d : Nat) : List Num :=
  let lo := latticeFloor m cmax
  if cmax ≤ lo then [] else [numAdd (mu lo) (numScale (numMul ⟨(d : Int), 0, 1⟩ (numSub (mu (lo + 1)) (mu lo))) (-24))]

/-- Decision points of one element of a narrow tile, as magnitudes in units of 2^f × S: the head's midpoints, or for an L format the
midpoints or the threshold; the tail's; one list for each test that the element may take; draw: the one the element took. -/
def narrowPoints (f : Fmt) (m : Num) (word rnd : Nat) (draw : Option Nat) : List (List Num) :=
  let own := fun (m : Num) (c : Nat) => if rnd = 0 then midPoints c else match draw with
    | some d => latticePoint m c d
    | none => []
  if f = .l1 then []
  else if fmtPair f then
    let ch := word % 8
    let w := tailWidth f
    let r := numSub m (mu ch)
    let back := fun (t : Num) => numAdd (mu ch) (if numSign r < 0 then numNeg (numScale t (-4)) else numScale t (-4))
    [midPoints 7, if w = 1 then [] else (own (numScale (numAbs r) 4) (cmaxOf w)).map back]
  else [own m (cmaxOf (fmtWidth f))]

/-- One wide output. -/
structure DrainSum where
  s      : State
  sats   : Nat
  poison : Nat
  tests  : Nat
  top    : Num
  qsats  : Nat
  flags  : Nat
  head   : Bool
  bad    : Bool
deriving DecidableEq, Repr

/-- What every drained entry reports (R94, R96), and the SAT flag that a lintel saturation sets; that counts once for the output, however
many of its partial sums saturated (log entry 82). An entry whose λ is NaN gives the canonical NaN: its HEADROOM then makes no status
(log entry 117). -/
def entryReport (bank : Nat) (k : BankKind) (i j : Nat) (d : DrainIn) (t : DrainSum) : DrainSum :=
  let sat := d.rails.sat || d.rails.headroom || d.lsat
  { t with s := if d.lsat then putRails bank k i j { d.rails with sat := true } t.s else t.s
           sats := t.sats + b2n d.lsat, poison := t.poison + b2n d.bad, head := t.head || (d.rails.headroom && !d.bad)
           flags := t.flags ||| (if sat then flSat else 0) ||| (if d.bad then flNan else 0), bad := t.bad || d.bad }

def drainWideOne (a : DrainArgs) (discard : Bool) (bank : Nat) (k : BankKind) (t : DrainSum) (i j : Nat) : DrainSum :=
  let f := vFmt a.td
  let src := drainLanes a.u.dom a.rnd (bankEngine a.sel)
  let d := drainIn t.s a bank k i j
  let t := entryReport bank k i j d t
  let put := fun (b : Nat) (s : State) => if discard then s else widePut a.td i j b s
  if d.bad then { t with s := put (fmtNan f) t.s }
  else
    let draw := peekDraw t.s src (roundPos t.s a.td i j)
    let r := roundNum f draw d.x
    let test := decide (numSign d.x ≠ 0) && nearPoint d (widePoints f (numAbs d.x) draw r.drew)
    { t with s := put r.bits (takeDraw src r.drew t.s), tests := t.tests + b2n test,
             flags := t.flags ||| (if r.sat then flSat else 0) }

/-- The seen elements of seen tile (ti, tj) by stored index: entry coordinates within the destination's extent. -/
def drainCells (v : View) (ti tj : Nat) : List (Option (Nat × Nat)) :=
  (List.range 256).map fun n =>
    let e := underElem v n
    let i := 16 * ti + e / 16
    let j := 16 * tj + e % 16
    if seenRows v ≤ i ∨ seenCols v ≤ j then none else some (i, j)

/-- The exact tests of a tile's elements (R95, R110): head, tail and bounds of t each on its own. The elements take their draws in order:
the positions of a CG mode or the lanes' next. -/
def narrowTests (a : DrainArgs) (s0 : State) (ti tj : Nat) (ins : List (Option DrainIn)) (q : QTile) : Nat :=
  let f := vFmt a.td
  let c := underTile a.td ti tj
  let src := drainLanes a.u.dom a.rnd (bankEngine a.sel)
  let scale := fp32Num a.scale
  let fine := wordFine q.word
  let unit := numScale scale fine
  let bounds := (List.range (min (fine + 17) 31).toNat).map fun (b : Nat) => numScale scale ((b : Int) - 16 + fmtTopLog f)
  let step := fun (acc : State × Nat) (e : Option DrainIn × Nat) =>
    match e.1 with
    | none => acc
    | some d =>
      let draw := peekDraw acc.1 src (tilePos s0 a.td c.1 c.2 e.2)
      let r := encodeElem f (decide (numSign d.x < 0)) (some (numOver d.x unit)) draw
      let pts := (narrowPoints f (numAbs (numOver d.x unit)) r.word a.rnd (if r.drew then draw else none)).map fun l => l.map (numMul · unit)
      let pts := if numSign (numSub (numAbs d.x) q.top) = 0 then bounds :: pts else pts
      let live := decide (numSign d.unit ≠ 0) && decide (numSign d.x ≠ 0)
      (takeDraw src r.drew acc.1, acc.2 + (if live then (pts.filter (nearPoint d)).length else 0))
  if wordPoison q.word || wordZero q.word then 0 else ((ins.zipIdx).foldl step (s0, 0)).2

def drainNarrowTile (a : DrainArgs) (discard : Bool) (bank : Nat) (k : BankKind) (t : DrainSum) (ti tj : Nat) : DrainSum :=
  let f := vFmt a.td
  let cells := drainCells a.td ti tj
  let ins := cells.map fun c => c.map fun p => drainIn t.s a bank k p.1 p.2
  let t := ((cells.zip ins).foldl (fun t e => match e with
    | (some p, some d) => entryReport bank k p.1 p.2 d t
    | _ => t) t)
  let xs := ins.map fun d => match d with
    | none => QIn.out
    | some d => if d.bad then .nan else .fin d.x
  let c := underTile a.td ti tj
  let q := quantTile f (fp32Num a.scale) (drainLanes a.u.dom a.rnd (bankEngine a.sel)) (tilePos t.s a.td c.1 c.2) xs t.s
  let tests := narrowTests a t.s ti tj ins q
  { t with s := putTile a.td f discard c.1 c.2 q.words q.word q.s, tests := t.tests + tests, top := numMax t.top q.top,
           qsats := t.qsats + q.sats, flags := t.flags ||| (if q.sats = 0 then 0 else flSat) }

/-- The destination's rows and columns that a narrow drain reaches: whole tiles, within the extent (R97). -/
def drainRows (a : DrainArgs) : Nat := min (seenRows a.td) (16 * ceilDiv a.m 16)
def drainCols (a : DrainArgs) : Nat := min (seenCols a.td) (16 * ceilDiv a.n 16)

/-- The end of a drain: counters, ledger, gradient mark, status (R94, R95, R97, R167). -/
def drainEnd (a : DrainArgs) (t : DrainSum) : Effect :=
  let e := bankEngine a.sel
  let s := engCount a.u.dom e Reg.ENG_POISON_COUNT t.poison t.s
  let s := engCount a.u.dom e Reg.ENG_EXACT_TEST_COUNT t.tests s
  let s := engCount a.u.dom e Reg.ENG_SAT_COUNT t.sats s
  let s := match a.ledger with
    | some l => contribute l (stepMag t.top) t.qsats s
    | none => s
  let s := if a.td.g && t.bad then markNonfinite a.u.dom s else s
  ⟨s, if t.head then stHeadroom else stDone, t.flags⟩

def drainRun (a : DrainArgs) (s : State) : Effect :=
  let bank := bankIx a.u.dom a.sel
  let k := bankKind s bank
  let s := if a.ledger.isSome then setUnit s (setK (getUnit s a.u) a.td.slot a.scale) else s
  match openForWrite a.td s with
  | .exhausted => exhausted a.u a.td.base a.td.entry 0 s
  | .ready s discard =>
    let t : DrainSum := ⟨s, 0, 0, 0, ⟨0, 0, 1⟩, 0, 0, false, false⟩
    if fmtWide (vFmt a.td) then
      let t := (List.range a.m).foldl (fun t i => (List.range a.n).foldl (fun t j => drainWideOne a discard bank k t i j) t) t
      drainEnd a { t with s := closeWide a.td discard a.m a.n t.s }
    else
      let t := (List.range (ceilDiv a.m 16)).foldl (fun t ti => (List.range (ceilDiv a.n 16)).foldl (fun t tj =>
        drainNarrowTile a discard bank k t ti tj) t) t
      drainEnd a { t with s := closeWrite a.td discard t.s }

/-- The written coordinates need more than 30 bits (R200). -/
def drainTooFar (a : DrainArgs) : Bool :=
  let r := if fmtWide (vFmt a.td) then (a.m, a.n) else (drainRows a, drainCols a)
  let c := if a.td.t then (r.2, r.1) else r
  decide (2 ^ 30 < a.td.oRow + c.1) || decide (2 ^ 30 < a.td.oCol + c.2)

def drainPlan (s : State) (x : ProgUnit) (f1 f2 f3 f4 f5 f6 low : Nat) : Plan :=
  let td := viewOf (tReg x f1)
  let sel := cReg x f2
  let d := gReg x f6
  let lin := bitAt low 2
  let tz := viewOf (tReg x f3)
  let tv := viewOf (tReg x f4)
  let r := dimK d
  let wide := fmtWide (vFmt td)
  let ledger := if wide then none else recordOf x f5
  let sc := coarseUse s x ledger td.slot td.code
  let a : DrainArgs := ⟨x.ref, sel, td, low % 4, dimM d, dimN d, if lin then some (tz, tv, r) else none, sc.1, ledger⟩
  let none0 := a.m = 0 || a.n = 0
  { checks := dimChecks d 1048576 ++ viewCheck s td (fun _ => true) true
      ++ [failIf (decide (a.rnd = 3) || bankBad x sel || (!lin && (decide (f3 ≠ 0) || decide (f4 ≠ 0) || decide (r ≠ 0)))
            || (wide && decide (f5 ≠ 0)) || (!wide && isRm (bankKind s (bankIx x.ref.dom sel)))) stReserved,
          failIf (short td a.m a.n || (lin && (decide (64 < r) || short tz a.m r || short tv r a.n))
            || (decide (a.rnd = 1) && !none0 && drainTooFar a)) stLength]
      ++ (if lin then viewCheck s tz (fun f => f = .fp32) false ++ viewCheck s tv (fun f => f = .bf16) false else [])
      ++ (if wide then [] else sc.2)
    reads := if lin then viewRanges tz ++ viewRanges tv else [], writes := viewRanges td, touch := recordRanges ledger none
    banks := [bankIx x.ref.dom sel], entries := viewEntries td ++ (if lin then viewEntries tz ++ viewEntries tv else [])
    rdEntries := if lin then viewEntries tz ++ viewEntries tv else []
    headers := headersOf (if lin then [td, tz, tv] else [td]), views := (if lin then [td, tz, tv] else [td]), records := ledger.isSome
    draw := scaleDraw s x.ref.dom drainMilli, empty := none0, run := fun _ s => drainRun a s }

end Sys2Proof.Machine
end

