-- ==== Sys2Proof/Machine/Transcend.lean ====
section
/-! DEFINITION. The functions that R208 and R261 ask to be correctly rounded although no finite computation gives them exactly:
e^x, ln x, −ln(−ln u), and the values between which TANH, SIGMOID, SILU and GELU lie. Each is enclosed between integer bounds
at a working precision of P bits (bounds in units of 2^-P); the floors an oracle asks for are read off the first precision at
which both bounds agree. No such value is a rational point (log entry 9), so a wide enough precision decides; what the widest
leaves open is Config.undecided. -/
namespace Sys2Proof

/-- Bounds lo < x < hi, in units of 2^-P. -/
abbrev Bounds := Nat → Int × Int

/-- Taylor terms of e^y for y in [ylo, yhi]·2^-w, 0 ≤ y < 1/2: lower and upper partial sums, last upper term. -/
def expSeries (w ylo yhi : Nat) : Nat → Nat → Nat → Nat → Nat × Nat
  | 0, _, tlo, thi => (tlo, thi + 2 * thi + 2)
  | n + 1, i, tlo, thi =>
    let nlo := tlo * ylo / 2 ^ w / (i + 1)
    let nhi := thi * yhi / 2 ^ w / (i + 1) + 1
    let r := expSeries w ylo yhi n (i + 1) nlo nhi
    (tlo + r.1, thi + r.2)

/-- Square the bounds j times. -/
def sqTimes (w : Nat) : Nat → Nat × Nat → Nat × Nat
  | 0, b => b
  | j + 1, b => sqTimes w j (b.1 * b.1 / 2 ^ w, b.2 * b.2 / 2 ^ w + 1)

/-- Bounds of e^(n/d), n/d from 0 to about 2^8, in units of 2^-P. -/
def expPos (n d P : Nat) : Nat × Nat :=
  let j := 10 + Nat.log2 (n / d + 1)
  let w := P + 3 * j + 64
  let y := n * 2 ^ w / (d * 2 ^ j)
  let s := expSeries w y (y + 1) (w / 9 + 4) 0 (2 ^ w) (2 ^ w)
  let r := sqTimes w j s
  (r.1 / 2 ^ (w - P), r.2 / 2 ^ (w - P) + 1)

/-- Bounds of e^(−n/d). -/
def expNeg (n d P : Nat) : Nat × Nat :=
  let w := P + 64
  let b := expPos n d w
  (2 ^ (2 * w) / b.2 / 2 ^ 64, 2 ^ (2 * w) / b.1 / 2 ^ 64 + 1)

/-- Terms z^(2i+1)/(2i+1) of the inverse hyperbolic tangent, z = n/d ≤ 1/3: lower and upper sums. -/
def atanhSeries (w z2lo z2hi : Nat) : Nat → Nat → Nat → Nat → Nat × Nat
  | 0, _, _, phi => (0, 2 * phi + 2)
  | n + 1, i, plo, phi =>
    let r := atanhSeries w z2lo z2hi n (i + 1) (plo * z2lo / 2 ^ w) (phi * z2hi / 2 ^ w + 1)
    (plo / (2 * i + 1) + r.1, phi / (2 * i + 1) + 1 + r.2)

/-- Bounds of 2·artanh(n/d), 0 ≤ n/d ≤ 1/3, in units of 2^-w. -/
def atanh2 (n d w : Nat) : Nat × Nat :=
  let z := n * 2 ^ w / d
  let r := atanhSeries w (z * z / 2 ^ w) ((z + 1) * (z + 1) / 2 ^ w + 1) (w / 3 + 4) 0 z (z + 1)
  (2 * r.1, 2 * r.2)

/-- Bounds of ln(n/d), n and d positive, in units of 2^-P. -/
def lnBounds (n d P : Nat) : Int × Int :=
  let w := P + 64
  -- scale to m = n'/d' in [1, 2): ln = E·ln 2 + 2·artanh((m − 1)/(m + 1))
  let e0 : Int := (Nat.log2 n : Int) - (Nat.log2 d : Int)
  let n0 := if 0 ≤ e0 then n else n * 2 ^ (-e0).toNat
  let d0 := if 0 ≤ e0 then d * 2 ^ e0.toNat else d
  let e := if n0 < d0 then e0 - 1 else e0
  let n1 := if n0 < d0 then 2 * n0 else n0
  let l2 := atanh2 1 3 w
  let m := atanh2 (n1 - d0) (n1 + d0) w
  let lo := (if 0 ≤ e then e * (l2.1 : Int) else e * (l2.2 : Int)) + m.1
  let hi := (if 0 ≤ e then e * (l2.2 : Int) else e * (l2.1 : Int)) + m.2
  (lo / (2 ^ 64 : Nat) - 1, hi / (2 ^ 64 : Nat) + 1)

/-- The working precisions tried in turn. -/
def precisions : List Nat := [128, 320, 768, 1536]

/-- The floor of x·2^k read off bounds at one precision, when both bounds agree; x is never an integer multiple of 2^-k. -/
def boundsFloor (b : Int × Int) (P : Nat) (k : Int) : Option Nat :=
  let sh : Int := k - P
  let q := fun (v : Int) => if 0 ≤ sh then v * (2 ^ sh.toNat : Nat) else v / (2 ^ (-sh).toNat : Nat)
  let lo := q (max b.1 0)
  let hi := -(q (-(max b.2 0))) - 1
  if hi ≤ lo then some lo.toNat else none

/-- Floors of a positive irrational enclosed by bounds (log entry 9). -/
def boundsFl (b : Bounds) (k : Int) : Nat × Bool :=
  let rec go : List Nat → Nat
    | [] => (boundsFloor ((b 1536).1, (b 1536).1 + 1) 1536 k).getD 0 + b2n (Config.undecided k.toNat)
    | p :: ps => match boundsFloor (b p) p k with
      | some v => v
      | none => go ps
  (go precisions, true)

/-- A positive value far below every rounding point: it is never zero, and every floor of it is 0. -/
def tinyFl (_ : Int) : Nat × Bool := (0, true)

/-- A value far above every largest finite magnitude. -/
def hugeFl (k : Int) : Nat × Bool := (2 ^ (400 + k).toNat, true)

/-- Floors of e^x for a finite nonzero x = ±n/d. -/
def expFl (neg : Bool) (n d : Nat) : Int → Nat × Bool :=
  if 300 * d < n then (if neg then tinyFl else hugeFl)
  else boundsFl fun P => let b := if neg then expNeg n d P else expPos n d P; ((b.1 : Int), (b.2 : Int))

/-- Floors of |ln(n/d)|, n ≠ d, and its sign. -/
def lnFl (n d : Nat) : Int → Nat × Bool :=
  boundsFl fun P => let b := lnBounds n d P; if d < n then b else (-b.2, -b.1)

/-- Floors of |−ln(−ln u)| for u = n/d in (0, 1), and whether the value is negative (−ln u above 1). -/
def gumbelBounds (n d : Nat) : Bounds := fun P =>
  let l := lnBounds d n (P + 64)
  let lo := lnBounds l.1.toNat (2 ^ (P + 64)) P
  let hi := lnBounds l.2.toNat (2 ^ (P + 64)) P
  (-hi.2, -lo.1)

/-- The Gumbel variate of R208 as an FP32 value: −ln(−ln u) rounded to nearest even. -/
def gumbel (n d : Nat) : FV :=
  let b := gumbelBounds n d
  let neg := decide ((b 128).2 ≤ 0)
  let fl := boundsFl fun P => if neg then (-(b P).2, -(b P).1) else b P
  .fin neg (roundMag .fp32 none fl).1

/-- Bounds of π by Machin's formula, and of √(2π), in units of 2^-w. -/
def atanInvSeries (w q : Nat) : Nat → Nat → Nat → Int
  | 0, _, _ => 0
  | n + 1, i, p => (if i % 2 = 0 then ((p / (2 * i + 1) : Nat) : Int) else -((p / (2 * i + 1) : Nat) : Int))
      + atanInvSeries w q n (i + 1) (p / (q * q))
def piBounds (w : Nat) : Int × Int :=
  let v := 16 * atanInvSeries w 5 (w / 4 + 4) 0 (2 ^ w / 5) - 4 * atanInvSeries w 239 (w / 15 + 4) 0 (2 ^ w / 239)
  (v - 40 * (w + 8), v + 40 * (w + 8))

/-- The sum a + a³/3 + a⁵/(3·5) + … of Φ's series, a = n/d: lower and upper, in units of 2^-w. -/
def phiSeries (w z2lo z2hi : Nat) : Nat → Nat → Nat → Nat → Nat × Nat
  | 0, _, tlo, thi => (tlo, 2 * thi + 2)
  | n + 1, i, tlo, thi =>
    let r := phiSeries w z2lo z2hi n (i + 1) (tlo * z2lo / 2 ^ w / (2 * i + 3)) (thi * z2hi / 2 ^ w / (2 * i + 3) + 1)
    (tlo + r.1, thi + r.2)

/-- Bounds of Φ(|a|) − 1/2 for |a| = n/d ≤ 25, in units of 2^-P. -/
def phiHalf (n d P : Nat) : Int × Int :=
  let w := P + 640
  let z := n * 2 ^ w / d
  let s := phiSeries w (z * z / 2 ^ w) ((z + 1) * (z + 1) / 2 ^ w + 1) (w + 1024) 0 z (z + 1)
  let e := expNeg (n * n) (2 * d * d) w
  let pi := piBounds w
  let rlo := isqrt (2 * pi.1.toNat * 2 ^ w)
  let rhi := isqrt (2 * pi.2.toNat * 2 ^ w) + 1
  (((s.1 * e.1 / rhi) / 2 ^ (w - P) : Nat), ((s.2 * e.2 / rlo) / 2 ^ (w - P) + 1 : Nat))

/-- Bounds of the magnitude of TANH (0x0D), SIGMOID (0x0E), GELU (0x0F) and SILU (0x10) at ±n/d (R261). -/
def fixedBounds (fn : Nat) (neg : Bool) (n d : Nat) : Bounds := fun P =>
  let w := P + 64
  let one : Nat := 2 ^ w
  -- 1/(1 + e^∓x): bounds of the sigmoid at ±n/d
  let sig := fun (ng : Bool) (n d : Nat) =>
    let e := if ng then expPos n d w else expNeg n d w
    (one * one / (one + e.2), one * one / (one + e.1) + 1)
  let cut := fun (lo hi : Nat) => (((lo / 2 ^ 64 : Nat) : Int), ((hi / 2 ^ 64 + 1 : Nat) : Int))
  if fn = 0x0D then
    let s := sig true (2 * n) d   -- 1 − 2·sigmoid(−2|a|)
    cut (one - 2 * s.2) (one - 2 * s.1)
  else if fn = 0x0E then let s := sig neg n d; cut s.1 s.2
  else if fn = 0x10 then let s := sig neg n d; cut (n * s.1 / d) (n * s.2 / d + 1)
  else
    let h := phiHalf n d w
    let half : Int := (one / 2 : Nat)
    let lo := if neg then half - h.2 else half + h.1
    let hi := if neg then half - h.1 else half + h.2
    cut (n * lo.toNat / d) (n * hi.toNat / d + 1)

/-- Floors of the magnitude of the fixed-method functions. -/
def fixedFl (fn : Nat) (neg : Bool) (n d : Nat) : Int → Nat × Bool :=
  if 300 * d < n ∨ (fn = 0x0F ∧ 25 * d < n) then
    -- saturated tails: 1 − ε, ε, |a|·(1 − ε), |a|·ε
    let near := fun (m e : Nat) (k : Int) =>
      let y := numFl ⟨(m : Int), 0, e⟩ k
      (if y.2 then y.1 else y.1 - 1, true)
    if fn = 0x0D then near 1 1
    else if fn = 0x0E then (if neg then tinyFl else near 1 1)
    else (if neg then tinyFl else near n d)
  else boundsFl (fixedBounds fn neg n d)

end Sys2Proof
end

