-- ==== Sys2Proof/Machine/VectorOps.lean ====
section
/-! DEFINITION. Vector arithmetic (R261): one element's exact result and its one rounding, and the operation VOP. -/
namespace Sys2Proof.Machine

/-! Results before rounding. -/

/-- What a function gives before its rounding: no value, an infinity, a zero, a real by sign and floors, or a value of the fixed method
(between whose two neighbours Config chooses). -/
inductive VRes where
  | nan
  | inf (neg : Bool)
  | zero (neg : Bool)
  | real (neg : Bool) (fl : Int → Nat × Bool)
  | fixed (neg : Bool) (fl : Int → Nat × Bool)

/-- An exact number; zneg: the sign that an exact zero takes. -/
def numRes (x : Num) (zneg : Bool) : VRes :=
  if numSign x = 0 then .zero zneg else .real (decide (numSign x < 0)) (numFl (numAbs x))

def fvRes : FV → VRes
  | .nan => .nan
  | .inf n => .inf n
  | .fin n 0 => .zero n
  | .fin n m => numRes (fvNum (.fin n m)) false

def fvNegate : FV → FV
  | .nan => .nan
  | .inf n => .inf (!n)
  | .fin n m => .fin (!n) m

/-- a + b (R261). -/
def vAdd (a b : FV) : VRes :=
  match a, b with
  | .nan, _ => .nan
  | _, .nan => .nan
  | .inf x, .inf y => if x = y then .inf x else .nan
  | .inf x, _ => .inf x
  | _, .inf y => .inf y
  | .fin x m, .fin y k => numRes (numAdd (fvNum (.fin x m)) (fvNum (.fin y k))) (decide (m = 0) && decide (k = 0) && x && y)

/-- a × b. -/
def vMul (a b : FV) : VRes :=
  if fvIsNan a || fvIsNan b then .nan
  else
    let neg := fvNeg a != fvNeg b
    if fvIsInf a || fvIsInf b then (if fvIsZero a || fvIsZero b then .nan else .inf neg)
    else numRes (numMul (fvNum a) (fvNum b)) neg

/-- The finite quotient of two magnitudes. -/
def quotNum (a b : FV) : Num := ⟨fvSign a * fvSign b * (fvMag a : Int), 0, fvMag b⟩

/-- a / b. -/
def vDiv (a b : FV) : VRes :=
  if fvIsNan a || fvIsNan b then .nan
  else
    let neg := fvNeg a != fvNeg b
    if fvIsInf a then (if fvIsInf b then .nan else .inf neg)
    else if fvIsInf b then .zero neg
    else if fvIsZero b then (if fvIsZero a then .nan else .inf neg)
    else numRes (quotNum a b) neg

/-- a × b + s, formed exactly. -/
def vFma (a b c : FV) : VRes :=
  if fvIsNan a || fvIsNan b || fvIsNan c then .nan
  else
    let neg := fvNeg a != fvNeg b
    if fvIsInf a || fvIsInf b then
      (if fvIsZero a || fvIsZero b then .nan else if fvIsInf c && (fvNeg c != neg) then .nan else .inf neg)
    else if fvIsInf c then .inf (fvNeg c)
    else
      let p := numMul (fvNum a) (fvNum b)
      numRes (numAdd p (fvNum c)) (decide (numSign p = 0) && fvIsZero c && neg && fvNeg c)

/-- The order of MAX and MIN, in which +0 lies above −0. -/
def fvKey : FV → Int
  | .nan => 0
  | .inf n => if n then -(2 ^ 400 : Int) else 2 ^ 400
  | .fin n m => if n then -(m : Int) - 1 else (m : Int)

def fvMax (a b : FV) : FV := if fvIsNan a || fvIsNan b then .nan else if fvKey a < fvKey b then b else a
def fvMin (a b : FV) : FV := if fvIsNan a || fvIsNan b then .nan else if fvKey b < fvKey a then b else a

/-- √a, or 1/√a. -/
def vRoot (recip : Bool) (a : FV) : VRes :=
  match a with
  | .nan => .nan
  | .fin n 0 => if recip then .inf n else .zero n
  | .inf n => if n then .nan else if recip then .zero false else .inf false
  | .fin n m => if n then .nan else .real false (if recip then sqrtFl (2 ^ 149) m else sqrtFl m (2 ^ 149))

/-- e^x for an exact number. -/
def vExpNum (x : Num) : VRes :=
  if numSign x = 0 then .real false (numFl ⟨1, 0, 1⟩)
  else .real false (expFl (decide (numSign x < 0)) x.a.natAbs x.d)

def vExp : FV → VRes
  | .nan => .nan
  | .inf n => if n then .zero false else .inf false
  | v => vExpNum (fvNum v)

/-- e^(a − b), a − b exact (R188). -/
def vExpSub (a b : FV) : VRes :=
  match vAdd a (fvNegate b) with
  | .nan => .nan
  | .inf n => if n then .zero false else .inf false
  | _ => vExpNum (numSub (fvNum a) (fvNum b))

def vLn : FV → VRes
  | .nan => .nan
  | .inf n => if n then .nan else .inf false
  | .fin _ 0 => .inf true
  | .fin n m =>
    if n then .nan
    else if m = 2 ^ 149 then .zero false
    else .real (decide (m < 2 ^ 149)) (lnFl m (2 ^ 149))

/-- TANH, SIGMOID, GELU and SILU; at 0 and ±∞ their exact values and limits. -/
def vFixed (fn : Nat) (a : FV) : VRes :=
  match a with
  | .nan => .nan
  | .inf n =>
    let one := fun (neg : Bool) => VRes.real neg (numFl ⟨1, 0, 1⟩)
    if fn = 0x0D then one n
    else if fn = 0x0E then (if n then .zero false else one false)
    else if n then .zero true else .inf false
  | .fin n 0 => if fn = 0x0E then .real false (numFl ⟨1, 0, 2⟩) else .zero n
  | .fin n m => .fixed (n && decide (fn ≠ 0x0E)) (fixedFl fn n m (2 ^ 149))

/-! Functions. -/

def vopFns : List Nat := [0x00, 0x01, 0x02, 0x03, 0x04, 0x05, 0x06, 0x07, 0x08, 0x09, 0x0A, 0x0B, 0x0C, 0x0D, 0x0E, 0x0F, 0x10, 0x11,
  0x18, 0x19, 0x1A, 0x1B, 0x1C]
def vopUsesB (fn : Nat) : Bool := [0x01, 0x02, 0x03, 0x04, 0x05, 0x1A, 0x1B, 0x1C].contains fn
def vopUsesS (fn : Nat) : Bool := [0x06, 0x07, 0x1C].contains fn
def vopIsRow (fn : Nat) : Bool := fn = 0x18 || fn = 0x19

/-- One element's result (R261). -/
def vopElem (fn : Nat) (a b c : FV) : VRes :=
  match fn with
  | 0x00 => fvRes a
  | 0x01 => vAdd a b
  | 0x02 => vAdd a (fvNegate b)
  | 0x03 => vMul a b
  | 0x04 => fvRes (fvMax a b)
  | 0x05 => fvRes (fvMin a b)
  | 0x06 => vMul a c
  | 0x07 => vAdd a c
  | 0x08 => vExp a
  | 0x09 => vLn a
  | 0x0A => vRoot false a
  | 0x0B => vRoot true a
  | 0x0C => vDiv (.fin false (2 ^ 149)) a
  | 0x11 => fvRes (fvMax a (.fin false 0))
  | 0x1A => vExpSub a b
  | 0x1B => vDiv a b
  | 0x1C => vFma a b c
  | fn => vFixed fn a

/-- The exact sum of a row (R261): −0 only when every term is −0. -/
def vRowSum (xs : List FV) : VRes :=
  if xs.any fvIsNan then .nan
  else
    let pos := xs.any fun x => fvIsInf x && !fvNeg x
    let neg := xs.any fun x => fvIsInf x && fvNeg x
    if pos && neg then .nan
    else if pos || neg then .inf neg
    else
      let sum := (xs.map fun x => fvSign x * (fvMag x : Int)).foldl (· + ·) 0
      numRes ⟨sum, 0, 2 ^ 149⟩ (!xs.isEmpty && xs.all fun x => fvIsZero x && fvNeg x)

/-- The exact maximum of a row; a row without elements has none (free value, log entry 53). -/
def vRowMax (free : Nat) (xs : List FV) : VRes :=
  match xs with
  | [] => fvRes (fvRead .fp32 (Config.emptyRowMax free))
  | x :: rest => fvRes (rest.foldl fvMax x)

/-! One rounding. -/

/-- The element's pattern, and whether it has no value (R79, R80). -/
def vopRound (f : Fmt) (fn inBits rnd : Nat) (draw : Option Nat) : VRes → Rounded × Bool
  | .nan => (⟨fmtNan f, false, false⟩, true)
  | .inf n => (⟨infBits f n, false, false⟩, false)
  | .zero n => (⟨magBits f n 0, false, false⟩, false)
  | .real n fl => (roundSat f draw n fl, false)
  | .fixed n fl =>
    let up := Config.fixedMethodUp fn inBits (fmtCode f) rnd (draw.getD 0)
    let r := roundSat f (some (if up then 0 else 2 ^ 24)) n fl
    ({ r with drew := r.drew && draw.isSome }, false)

/-- A written pattern is a NaN or an infinity (R167). -/
def nonFinite (f : Fmt) (bits : Nat) : Bool := !fvIsFin (fvRead f bits)

/-- What an element-wise operation has done so far. -/
structure VecSum where
  s     : State
  flags : Nat
  sats  : Nat
  bad   : Bool
deriving DecidableEq, Repr

/-- One element: rounded, written unless discarded, reported. -/
def vecPut (td : View) (src : DrawSrc) (fn inBits : Nat) (discard : Bool) (t : VecSum) (i j : Nat) (v : VRes) : VecSum :=
  let f := vFmt td
  let (r, nan) := vopRound f fn inBits src.rnd (peekDraw t.s src (roundPos t.s td i j)) v
  let s := takeDraw src r.drew t.s
  { s := if discard then s else widePut td i j r.bits s
    flags := t.flags ||| (if r.sat then flSat else 0) ||| (if nan then flNan else 0)
    sats := t.sats + b2n r.sat, bad := t.bad || nonFinite f r.bits }

/-- Every seen element of a view. -/
def seenCells (v : View) : List (Nat × Nat) :=
  (List.range (seenRows v)).flatMap fun i => (List.range (seenCols v)).map fun j => (i, j)

/-- A wide view is written element by element: place its stash entry, run, close (R167, R177). -/
def wideOp (u : UnitRef) (td : View) (s : State) (put : Bool → VecSum → Nat → Nat → VecSum) (fin : VecSum → State) : Effect :=
  match openForWrite td s with
  | .exhausted => exhausted u td.base td.entry 0 s
  | .ready s discard =>
    let t := (seenCells td).foldl (fun t c => put discard t c.1 c.2) ⟨s, 0, 0, false⟩
    let s := closeWrite td discard (fin t)
    ⟨if td.g && t.bad then markNonfinite u.dom s else s, stDone, t.flags⟩

/-- A row of a view's values. -/
def rowOf (s : State) (v : View) (i : Nat) : List FV := (List.range (seenCols v)).map fun j => wideGet s v i j

/-- VOP's effects: the inputs as they stand at issue. -/
def vopRun (u : UnitRef) (fn rnd : Nat) (td ta tb : View) (sc : FV) (s0 : State) : Effect :=
  let src := vectorLanes u.dom rnd
  let put := fun (discard : Bool) (t : VecSum) (i j : Nat) =>
    let b := if vopUsesB fn then wideGet s0 tb i (if seenCols tb = 1 then 0 else j) else .fin false 0
    let v := if fn = 0x18 then vRowMax s0.freeCtr (rowOf s0 ta i)
      else if fn = 0x19 then vRowSum (rowOf s0 ta i)
      else vopElem fn (wideGet s0 ta i j) b sc
    vecPut td src fn (if vopIsRow fn then 0 else wideBits s0 ta i j) discard t i j v
  wideOp u td s0 put (fun t => if fn = 0x18 then tick t.s else t.s)

/-- The checks of an operation from wide views into a wide view: extents as the operation sees them. -/
def sameExtent (a b : View) : Bool := decide (seenRows a = seenRows b) && decide (seenCols a = seenCols b)

def vopPlan (s : State) (x : ProgUnit) (f1 f2 f3 f4 low : Nat) : Plan :=
  let rnd := low % 4
  let fn := fld low 7 2
  let td := viewOf (tReg x f1)
  let ta := viewOf (tReg x f2)
  let tb := viewOf (tReg x f3)
  let sc := fvRead .fp32 (gReg x f4 % 2 ^ 32)
  let b := vopUsesB fn
  let fits := if vopIsRow fn then decide (seenCols td = 1) && decide (seenRows td = seenRows ta) else sameExtent ta td
  let bfits := decide (seenRows tb = seenRows td) && (decide (seenCols tb = seenCols td) || decide (seenCols tb = 1))
  { checks := rndChecks rnd td ++ viewCheck s td fmtWide true ++ viewCheck s ta fmtWide false
      ++ [failIf (!vopFns.contains fn || (vopUsesS fn && !fvIsFin sc)) stReserved, failIf (!fits || (b && !bfits)) stLength]
      ++ (if b then viewCheck s tb fmtWide false else [])
    reads := viewRanges ta ++ (if b then viewRanges tb else []), writes := viewRanges td
    entries := viewEntries td ++ viewEntries ta ++ (if b then viewEntries tb else [])
    rdEntries := viewEntries ta ++ (if b then viewEntries tb else []), headers := headersOf (if b then [td, ta, tb] else [td, ta]), views := (if b then [td, ta, tb] else [td, ta])
    draw := scaleDraw s x.ref.dom vectorMilli, empty := isEmpty td
    run := fun _ s => vopRun x.ref fn rnd td ta tb sc s }

end Sys2Proof.Machine
end

