-- ==== Sys2Proof/Machine/HearthOps.lean ====
section
/-! DEFINITION. The Hearths: update descriptors (R157, R158), programs stock and loaded (R159, R160, R268, R269), Eaves pairs (R161,
R162), moments and the update record (R163, R164). A HUPD's effects take place when it completes (log entry 4). -/
namespace Sys2Proof.Machine

/-! The descriptor, as the bytes read at issue. -/

/-- A HUPD's fields (R157). -/
structure Update where
  tensor : Nat
  prog   : Nat
  phase  : Nat
  rnd    : Nat
  used1  : Bool
  used2  : Bool
  fmt1   : Nat
  fmt2   : Nat
  count  : Nat
  grad   : Nat
  master : Nat
  eaves  : Nat
  m1     : Nat
  m2     : Nat
  record : Nat
  hyper  : List Nat
  scalar : List Nat
  origin : Nat
  /-- The step that the HUPD belongs to (R149), which no byte of the descriptor gives. -/
  step   : Nat
deriving DecidableEq, Repr

def updateOf (d : List Byte) (step : Nat) : Update :=
  let addr := fun (o : Nat) => recNat d o 8 % 2 ^ 44
  let ctrl := recNat d 5 1
  { tensor := recNat d 0 4, prog := recNat d 4 1, phase := ctrl % 4, rnd := fld ctrl 3 2, used1 := bitAt ctrl 4, used2 := bitAt ctrl 5
    fmt1 := recNat d 6 1 % 16, fmt2 := recNat d 6 1 / 16, count := recNat d 8 8, grad := addr 16, master := addr 24, eaves := addr 32
    m1 := addr 40, m2 := addr 48, record := addr 56, hyper := (List.range 8).map fun i => recNat d (64 + 4 * i) 4
    scalar := (List.range 4).map fun i => recNat d (96 + 4 * i) 4, origin := recNat d 112 8, step := step }

/-- Bytes of one element of a moment. -/
def momentBytes (code : Nat) : Nat := if code = 9 then 4 else 2
def momentFmt (code : Nat) : Fmt := if code = 9 then .fp32 else .bf16

/-- The arrays of an update: base, bytes per element, and whether the HUPD writes it. -/
def updateArrays (d : Update) : List (Nat × Nat × Bool) :=
  [(d.grad, 4, false), (d.master, 2, true), (d.eaves, 1, true)] ++ (if d.used1 then [(d.m1, momentBytes d.fmt1, true)] else [])
    ++ (if d.used2 then [(d.m2, momentBytes d.fmt2, true)] else [])

/-- The ranges that R165 compares: master, Eaves, moments and record. -/
def updateWrites (d : Update) : List (Nat × Nat) :=
  (d.record, 256) :: ((updateArrays d).filter (·.2.2)).map fun r => (r.1, r.2.1 * d.count)
def updateReads (d : Update) : List (Nat × Nat) := (d.record, 256) :: (updateArrays d).map fun r => (r.1, r.2.1 * d.count)

/-! Loaded programs. -/

/-- State.hearth: words of the program in a slot of a CD's Hearths, by domain × 64 + slot. -/
def hearthProg (s : State) (dom slot : Nat) : Option (List Word) :=
  (s.hearth.find? fun e => e.1 = dom * 64 + slot).map (·.2)
def setHearth (dom slot : Nat) (ws : List Word) (s : State) : State :=
  { s with hearth := upsert (fun e => e.1 = dom * 64 + slot) (dom * 64 + slot, ws) s.hearth }

def uOpc (w : Nat) : Nat := fld w 63 56
def uSrcA (w : Nat) : Nat := fld w 51 46
def uSrcB (w : Nat) : Nat := fld w 45 40
def uSrcC (w : Nat) : Nat := fld w 39 34

/-- How many of the sources a, b, c an opcode of R269 reads; none for an opcode that it does not list. -/
def uArity (opc : Nat) : Option Nat :=
  if [0xA0, 0xA1, 0xA2, 0xA4, 0xA6, 0xA7, 0xAA].contains opc then some 2
  else if opc = 0xA3 then some 3
  else if [0xA5, 0xA8, 0xAB, 0xAC, 0xAD].contains opc then some 1
  else if opc = 0xAF then some 0
  else none

/-- What HLOAD refuses in one word (R268). -/
def uWordBad (w : Nat) : Bool :=
  (uArity (uOpc w)).isNone || decide (34 < uSrcA w) || decide (34 < uSrcB w) || decide (34 < uSrcC w)
    || decide (fld w 33 (if uOpc w = 0xAD then 1 else 0) ≠ 0)

/-- HLOAD refuses a program with such a word, or that does not end with UEND. -/
def uProgBad (ws : List Nat) : Bool := ws.any uWordBad || (match ws.getLast? with | some w => decide (uOpc w ≠ 0xAF) | none => false)

/-- The source codes that a word reads. -/
def uReads (w : Nat) : List Nat := [uSrcA w, uSrcB w, uSrcC w].take ((uArity (uOpc w)).getD 0)

/-! Checks (R158). -/

/-- HYPER and SCALAR values that the program reads, as source codes 20 to 31. -/
def progReads (s : State) (dom : Nat) (d : Update) : List Nat :=
  match d.prog with
  | 1 => [20, 21, 22, 23, 24, 25]
  | 2 => [20, 21, 24, 25]
  | 3 => [21, 22, 23, 24, 25] ++ (if d.phase = 1 then [] else [20, 28])
  | p => (((hearthProg s dom (p - 0x80)).getD []).flatMap fun (w : Word) => uReads w.toNat).filter fun c => decide (20 ≤ c ∧ c ≤ 31)

def constBits (d : Update) (code : Nat) : Nat := if code < 28 then d.hyper.getD (code - 20) 0 else d.scalar.getD (code - 28) 0

def updateReserved (s : State) (dom : Nat) (raw : List Byte) : Bool :=
  let d := updateOf raw 0
  let high := fun (o : Nat) => decide (recNat raw o 8 / 2 ^ 44 ≠ 0)
  let listed := decide (1 ≤ d.prog ∧ d.prog ≤ 3)
    || (decide (0x80 ≤ d.prog ∧ d.prog ≤ 0xBF) && (hearthProg s dom (d.prog - 0x80)).isSome)
  let badFmt := fun (u : Bool) (c : Nat) => u && decide (c ≠ 9) && decide (c ≠ 10)
  !listed || decide (d.phase = 3) || decide (d.rnd = 3) || badFmt d.used1 d.fmt1 || badFmt d.used2 d.fmt2
    || (decide (d.phase ≠ 0) && (decide (d.prog = 1) || decide (d.prog = 2)))
    || (progReads s dom d).any (fun c => !fvIsFin (fvRead .fp32 (constBits d c)))
    || decide (recNat raw 5 1 / 64 ≠ 0) || decide (recNat raw 7 1 ≠ 0) || decide (recNat raw 120 8 ≠ 0)
    || [16, 24, 32, 56].any high || (d.used1 && high 40) || (d.used2 && high 48)

def updateChecks (s : State) (dom a : Nat) : List Nat :=
  if memMapped s a 128 then
    let raw := readMem s a 128
    let d := updateOf raw 0
    let bases := d.record :: (updateArrays d).map (·.1)
    let far := decide (d.rnd = 1) && decide (d.phase ≠ 1) && decide (0 < d.count) && decide (2 ^ 60 < d.origin + d.count)
    [failIf (updateReserved s dom raw) stReserved, failIf (decide (a % 64 ≠ 0) || bases.any fun b => decide (b % 64 ≠ 0)) stAlign,
     failIf (decide (2 ^ 32 < d.count) || far || (updateReads d).any fun r => !memMapped s r.1 r.2) stLength]
  else [failIf (decide (a % 64 ≠ 0)) stAlign, stLength]

/-! Program values: FP32, each rounded once, NaN and infinities ending the element (R159, R163). -/

/-- One rounding to nearest; beyond the largest finite value an infinity. -/
def uRound : VRes → Option FV
  | .zero n => some (.fin n 0)
  | .real n fl => match roundInf n fl with
    | .fin n m => some (.fin n m)
    | _ => none
  | _ => none

/-- A result whose exact value is zero is +0 (log entry 55). -/
def uNum (x : Num) : Option FV := uRound (numRes x false)

/-- a^t, exact, with common powers of two taken out first. From t = 2^31 on, the power of an FP32 value other than 0 and ±1 is below
2^-180 or above 2^180 in magnitude, and a value there stands for it: both round alike. -/
def powNum (a : Num) (t : Nat) : Num :=
  let g := Nat.gcd a.a.natAbs a.d
  let n : Int := a.a / (g : Int)
  let d := a.d / g
  let sgn : Int := if n < 0 ∧ t % 2 = 1 then -1 else 1
  if t < 2 ^ 31 then ⟨n ^ t, 0, d ^ t⟩
  else if n = 0 then ⟨0, 0, 1⟩
  else if n.natAbs = d then ⟨sgn, 0, 1⟩
  else if n.natAbs < d then ⟨sgn, 0, 2 ^ 180⟩
  else ⟨sgn * 2 ^ 180, 0, 1⟩

/-- An operation of R269 on finite values. -/
def uApply (opc t : Nat) (a b c : FV) : Option FV :=
  match opc with
  | 0xA0 => uNum (numAdd (fvNum a) (fvNum b))
  | 0xA1 => uNum (numSub (fvNum a) (fvNum b))
  | 0xA2 => uNum (numMul (fvNum a) (fvNum b))
  | 0xA3 => uNum (numAdd (numMul (fvNum a) (fvNum b)) (fvNum c))
  | 0xA4 => if fvIsZero b then none else uNum (quotNum a b)
  | 0xA5 => if fvIsZero a then some (.fin false 0) else uRound (vRoot false a)
  | 0xA6 => some (fvMax a b)
  | 0xA7 => some (fvMin a b)
  | _ => uNum (powNum (fvNum a) t)

/-- What one element gives: δ, the new moments where the program forms them, the norm terms in units of 2^-298, and which moments
saturated as the program formed them. -/
structure ElemOut where
  delta : Num
  m1    : Option FV
  m2    : Option FV
  normW : Nat
  normU : Nat
  sat1  : Bool
  sat2  : Bool
deriving DecidableEq, Repr

/-- The inputs of an element's program. -/
structure ElemIn where
  g  : FV
  w  : FV
  m1 : FV
  m2 : FV
deriving DecidableEq, Repr

def magSq (v : FV) : Nat := fvMag v * fvMag v

/-- A moment of a stock program: its outermost rounding saturates (R163). -/
def satMoment (x : Num) : FV × Bool :=
  let r := roundNum .fp32 none x
  (fvRead .fp32 r.bits, r.sat)

/-- c = round_ne(1 − h^t) (R160). -/
def biasOf (h : FV) (t : Nat) : Option FV := uNum (numSub ⟨1, 0, 1⟩ (powNum (fvNum h) t))

/-- HYPER and SCALAR as values. -/
def hyp (d : Update) (i : Nat) : FV := fvRead .fp32 (d.hyper.getD i 0)
def scal (d : Update) (i : Nat) : FV := fvRead .fp32 (d.scalar.getD i 0)
def uMul (a b : FV) : Option FV := uApply 0xA2 0 a b a
def uAdd (a b : FV) : Option FV := uApply 0xA0 0 a b a
def uDiv (a b : FV) : Option FV := uApply 0xA4 0 a b a

/-- upd of AdamW and LAMB, with the new moments (R160). -/
def adamUpd (d : Update) (c1 c2 : Option FV) (x : ElemIn) : Option (FV × FV × FV × Bool × Bool) := do
  let c1 ← c1
  let c2 ← c2
  let g ← uMul x.g (hyp d 5)
  let keep := fun (h : FV) => numSub ⟨1, 0, 1⟩ (fvNum h)
  let a1 ← uMul (hyp d 1) x.m1
  let b1 ← uNum (numMul (keep (hyp d 1)) (fvNum g))
  let m1n := satMoment (numAdd (fvNum a1) (fvNum b1))
  let a2 ← uMul (hyp d 2) x.m2
  let b2 ← uNum (numMul (numMul (keep (hyp d 2)) (fvNum g)) (fvNum g))
  let m2n := satMoment (numAdd (fvNum a2) (fvNum b2))
  let v ← uDiv m2n.1 c2
  let r ← uApply 0xA5 0 v v v
  let den ← uAdd r (hyp d 3)
  let m ← uDiv m1n.1 c1
  let q ← uDiv m den
  let decay ← uMul (hyp d 4) x.w
  let upd ← uAdd q decay
  return (upd, m1n.1, m2n.1, m1n.2, m2n.2)

def adamw (d : Update) (c1 c2 : Option FV) (x : ElemIn) : Option ElemOut := do
  let (upd, m1, m2, sat1, sat2) ← adamUpd d c1 c2 x
  return ⟨numNeg (numMul (fvNum (hyp d 0)) (fvNum upd)), some m1, some m2, 0, 0, sat1, sat2⟩

def sgdMomentum (d : Update) (x : ElemIn) : Option ElemOut := do
  let a ← uMul x.g (hyp d 5)
  let b ← uMul (hyp d 4) x.w
  let g ← uAdd a b
  let a1 ← uMul (hyp d 1) x.m1
  let m1n := satMoment (numAdd (fvNum a1) (fvNum g))
  return ⟨numNeg (numMul (fvNum (hyp d 0)) (fvNum m1n.1)), some m1n.1, none, 0, 0, m1n.2, false⟩

def lamb (d : Update) (c1 c2 : Option FV) (x : ElemIn) : Option ElemOut := do
  let (upd, m1, m2, sat1, sat2) ← adamUpd d c1 c2 x
  let delta := numNeg (numMul (numMul (fvNum (hyp d 0)) (fvNum (scal d 0))) (fvNum upd))
  return ⟨delta, some m1, some m2, magSq x.w, magSq upd, sat1, sat2⟩

/-- The registers u0 to u15 and the outputs of a loaded program as it runs. -/
structure URun where
  u   : List FV
  out : ElemOut
deriving DecidableEq, Repr

/-- A source of R269. -/
def uSource (d : Update) (t : Nat) (x : ElemIn) (r : URun) (code : Nat) : Option FV :=
  let v :=
    if code < 16 then r.u.getD code .nan
    else if code = 16 then x.g
    else if code = 17 then x.w
    else if code = 18 then x.m1
    else if code = 19 then x.m2
    else if code < 32 then fvRead .fp32 (constBits d code)
    else if code = 32 then .fin false 0
    else if code = 33 then .fin false (2 ^ 149)
    else fvRead .fp32 (roundNum .fp32 none ⟨(t : Int), 0, 1⟩).bits
  if fvIsFin v then some v else none

/-- One word of a loaded program (R269); UEND is met by uGo. -/
def uWord (d : Update) (t : Nat) (x : ElemIn) (r : URun) (w : Nat) : Option URun := do
  let n := (uArity (uOpc w)).getD 0
  let read := fun (k code : Nat) => if k < n then uSource d t x r code else some (.fin false 0)
  let a ← read 0 (uSrcA w)
  let b ← read 1 (uSrcB w)
  let c ← read 2 (uSrcC w)
  match uOpc w with
  | 0xAA => return { r with out := { r.out with delta := numMul (fvNum a) (fvNum b) } }
  | 0xAB => return { r with out := { r.out with m1 := some a } }
  | 0xAC => return { r with out := { r.out with m2 := some a } }
  | 0xAD =>
    if d.phase ≠ 1 then return r
    else if bitAt w 0 then return { r with out := { r.out with normU := r.out.normU + magSq a } }
    else return { r with out := { r.out with normW := r.out.normW + magSq a } }
  | opc =>
    let v ← uApply opc t a b c
    return { r with u := r.u.set (fld w 55 52) v }

/-- Run words up to UEND. -/
def uGo (d : Update) (t : Nat) (x : ElemIn) : List Word → URun → Option ElemOut
  | [], r => some r.out
  | w :: ws, r => if uOpc w.toNat = 0xAF then some r.out else (uWord d t x r w.toNat).bind (uGo d t x ws)

/-- The registers that an element's program starts from: the spec states none (free values, log entry 56). -/
def uStart (free : Nat) : URun :=
  ⟨(List.range 16).map fun i => fvRead .fp32 (Config.hearthReg free i % 2 ^ 32), ⟨⟨0, 0, 1⟩, none, none, 0, 0, false, false⟩⟩

/-! Pairs (R161, R162), in units of 2^-149. -/

/-- The gap from a BF16 magnitude to the next above, and to the next below. -/
def gapUp (m : Nat) : Nat := if m < 2 ^ 24 then 2 ^ 16 else 2 ^ (Nat.log2 m - 7)
def gapDown (m : Nat) : Nat := if 2 ^ 24 ≤ m ∧ m = 2 ^ Nat.log2 m then gapUp m / 2 else gapUp m

/-- The pair value; none for a master that is no number. -/
def pairValue (w0 e : Nat) : Option Int :=
  match fvRead .bf16 w0 with
  | .fin neg m =>
    let k := sext 8 e
    let d := if m = 0 ∨ decide (0 < k) ≠ neg then gapUp m else gapDown m
    some ((if neg then -(m : Int) else m) + k * (d / 256 : Nat))
  | _ => none

/-- The largest pair magnitude: the largest BF16 magnitude and 127 of its 256ths (log entry 57). -/
abbrev pairTop : Nat := 65407 * 2 ^ 261

/-- The stored master and Eaves of a value of the pair grid. A negative value whose master part is zero keeps the sign on that zero
(log entry 121). -/
def pairSplit (neg : Bool) (a : Nat) : Nat × Nat :=
  let d := gapUp a
  let lo := a / d * d
  let n := (a - lo) * 256 / d
  if a = 0 then (0, 0)
  else if n < 128 ∨ (neg ∧ n = 128) then (magBits .bf16 neg lo, wrapInt 8 (if neg then -(n : Int) else n))
  else (magBits .bf16 neg (lo + d), wrapInt 8 (if neg then 256 - (n : Int) else (n : Int) - 256))

/-- pair_update: master, Eaves, whether it saturated, whether it drew. -/
structure PairOut where
  master : Nat
  eaves  : Nat
  sat    : Bool
  drew   : Bool
deriving DecidableEq, Repr

def pairUpdate (w : Int) (delta : Num) (draw : Option Nat) : PairOut :=
  let t := numAdd ⟨w, 0, 2 ^ 149⟩ delta
  if numSign t = 0 then ⟨0, 0, false, false⟩
  else
    let neg := decide (numSign t < 0)
    let (m, past, drew) := roundAt 16 (-141) pairTop draw (numFl (numAbs t))
    let p := pairSplit neg (if past then pairTop else m)
    ⟨p.1, p.2, past, drew⟩

/-! An update. -/

/-- Totals over the elements of a HUPD. -/
structure UpdSum where
  s       : State
  changed : Nat
  pairs   : Nat
  sats    : Nat
  bad     : Nat
  second  : Nat
  normW   : Nat
  normU   : Nat
deriving DecidableEq, Repr

/-- A moment in use is read exactly; one out of use reads as +0. -/
def momentIn (s : State) (used : Bool) (base code i : Nat) : FV :=
  if used then fvRead (momentFmt code) (readNat s (base + momentBytes code * i) (momentBytes code)) else .fin false 0

/-- A moment in use that the program formed is written, converted once to nearest; answers whether it saturated. -/
def momentOut (used : Bool) (base code i : Nat) (v : Option FV) (s : State) : State × Bool :=
  match used, v with
  | true, some v =>
    let r := fvConvert (momentFmt code) none v
    (writeNat s (base + momentBytes code * i) (momentBytes code) r.bits, r.sat)
  | _, _ => (s, false)

/-- The element's program (R159). -/
def runElem (s : State) (dom : Nat) (d : Update) (t : Nat) (c1 c2 : Option FV) (x : ElemIn) : Option ElemOut :=
  if !(fvIsFin x.g && fvIsFin x.w && fvIsFin x.m1 && fvIsFin x.m2) then none
  else match d.prog with
    | 1 => adamw d c1 c2 x
    | 2 => sgdMomentum d x
    | 3 => lamb d c1 c2 x
    | p => uGo d t x ((hearthProg s dom (p - 0x80)).getD []) (uStart s.freeCtr)

/-- One element. -/
def updElem (dom free : Nat) (d : Update) (t : Nat) (c1 c2 : Option FV) (z : UpdSum) (i : Nat) : UpdSum :=
  let s := z.s
  let second := Config.hearthOf free i
  let w0 := readNat s (d.master + 2 * i) 2
  let e := readNat s (d.eaves + i) 1
  let pv := pairValue w0 e
  let w : FV := match pv with | some v => .fin (decide (v < 0)) v.natAbs | none => .nan
  let x : ElemIn := ⟨fvRead .fp32 (readNat s (d.grad + 4 * i) 4), w, momentIn s d.used1 d.m1 d.fmt1 i, momentIn s d.used2 d.m2 d.fmt2 i⟩
  match runElem s dom d t c1 c2 x with
  | none => { z with bad := z.bad + 1 }
  | some o =>
    if d.phase = 1 then { z with sats := z.sats + b2n o.sat1 + b2n o.sat2, normW := z.normW + o.normW, normU := z.normU + o.normU }
    else
      let src := hearthLanes dom d.rnd second
      let p := pairUpdate (pv.getD 0) o.delta (peekDraw s src (cgPosIx 2 d.tensor d.step (d.origin + i)))
      let s := takeDraw src p.drew s
      let s := writeNat (writeNat s (d.master + 2 * i) 2 p.master) (d.eaves + i) 1 p.eaves
      let a := momentOut d.used1 d.m1 d.fmt1 i o.m1 s
      let b := momentOut d.used2 d.m2 d.fmt2 i o.m2 a.1
      { z with s := b.1, changed := z.changed + b2n (p.master ≠ w0), pairs := z.pairs + b2n (p.master ≠ w0 || p.eaves ≠ e),
               second := z.second + b2n second,
               sats := z.sats + b2n (o.sat1 || a.2) + b2n (o.sat2 || b.2) + b2n p.sat }

/-- The fields of the record that every HUPD writes (R164, R169). -/
def putRecord (d : Update) (flags changed pairs sats bad : Nat) (s : State) : State :=
  let r := d.record
  let put := fun (o n v : Nat) (s : State) => writeNat s (r + o) n v
  let s := put 4 4 d.step (put 0 4 d.tensor s)
  let s := put 32 8 pairs (put 24 8 changed (put 16 8 d.count s))
  let s := put 40 4 (changed * 2 ^ 24 / d.count) s
  let s := put 44 1 (setFld (readNat s (r + 44) 1) 2 0 flags) s
  let s := put 56 8 bad (put 48 8 sats s)
  { s with annex := { s.annex with updates := if s.annex.updates.contains (d.tensor, r) then s.annex.updates
      else s.annex.updates ++ [(d.tensor, r)] } }

/-- The Hearths share the n elements updated; only the sum of their counters is defined (R171, log entry 15). -/
def countElems (dom n second : Nat) (s : State) : State :=
  bump (bump s dom Reg.HEARTH_ELEM_COUNT0 (n - second)) dom Reg.HEARTH_ELEM_COUNT1 second

/-- HUPD once the skip decision is known (R160 to R164, R169). -/
def updateRun (u : UnitRef) (d : Update) (skip : Bool) (s : State) : Effect :=
  if skip then ⟨putRecord d 1 0 0 0 0 s, stDone, flSkipped⟩
  else
    let applied := readNat s (d.record + 8) 8
    let t := applied + 1
    let bias := d.prog = 1 || d.prog = 3
    let c1 := if bias then biasOf (hyp d 1) t else none
    let c2 := if bias then biasOf (hyp d 2) t else none
    let z := (List.range d.count).foldl (updElem u.dom s.freeCtr d t c1 c2) ⟨s, 0, 0, 0, 0, 0, 0, 0⟩
    let flags := (if z.sats = 0 then 0 else flSat) ||| (if z.bad = 0 then 0 else flNan)
    let s := putRecord d ((if z.sats = 0 then 0 else 2) + (if z.bad = 0 then 0 else 4)) z.changed z.pairs z.sats z.bad z.s
    let s := if d.phase = 1 then writeNat (writeNat s (d.record + 64) 80 z.normW) (d.record + 144) 80 z.normU
      else countElems u.dom (d.count - z.bad) z.second (writeNat s (d.record + 8) 8 t)
    ⟨tick (bump s u.dom Reg.HEARTH_NONFINITE_COUNT z.bad), stDone, flags⟩

/-- The two Hearths: 9.0 W (log entry 22). -/
abbrev hearthMilli : Nat := 9000

/-- An operation in flight is a HUPD with this property. -/
def updateOp (p : Update → Bool) (o : Op) : Bool := match o.need with
  | .update b step _ => p (updateOf b step)
  | _ => false

/-- A HUPD in flight on a CD. -/
def updating (s : State) (dom : Nat) (p : Op → Bool) : Bool := s.units.any fun x => x.ref.dom = dom && x.inFlight.any p

def hupdPlan (s : State) (x : ProgUnit) (f1 : Nat) : Plan :=
  let a := gReg x f1
  let raw := readMem s a 128
  let d := updateOf raw (stepNow s)
  { checks := updateChecks s x.ref.dom a, reads := (a, 128) :: updateReads d, writes := updateWrites d
    hold := updating s x.ref.dom fun o => updateOp (fun _ => true) o && rangeMeet o.writes (updateWrites d)
    draw := scaleDraw s x.ref.dom hearthMilli, need := .update raw (stepNow s) none, empty := d.count = 0, run := fun _ s => ⟨s, stDone, 0⟩ }

/-- The skip decision of a HUPD's step, once it has arrived: none while SKIP_KNOWN of that step is not set (R169). -/
def decisionOf (s : State) (dom step : Nat) (skip : Option Bool) : Option Bool :=
  if skip.isSome then skip
  else if step = stepNow s && rb s dom Reg.TRAIN_STEP_STATUS 33 then some (rb s dom Reg.TRAIN_STEP_STATUS 34)
  else none

/-- The skip decision has arrived: the HUPD runs (R169); its need is then met. One that has failed meanwhile has no effect (R43). -/
def serveUpdate (u : UnitRef) (id : Nat) (s : State) : State :=
  match (getUnit s u).inFlight.find? fun o => o.id = id with
  | none => s
  | some o => match o.need with
    | .update b step skip =>
      if o.status ≠ 0 then mapOp u id (fun o => { o with need := .work }) s
      else match decisionOf s u.dom step skip with
        | none => s
        | some skip =>
          let d := updateOf b step
          let e : Effect := if (updateReads d).any (fun r => needsDown s r.1 r.2) then ⟨s, stLost, 0⟩ else updateRun u d skip s
          mapOp u id (fun o => { o with need := .work, status := e.status, flags := e.flags }) e.s
    | _ => s

def hloadPlan (s : State) (x : ProgUnit) (f1 f2 low : Nat) : Plan :=
  let a := gReg x f1
  let n := gReg x f2
  let slot := low % 64
  let words := (List.range n).map fun i => readNat s (a + 8 * i) 8
  { checks := [failIf (decide (n ≤ 256) && memMapped s a (8 * n) && uProgBad words) stReserved, failIf (decide (a % 64 ≠ 0)) stAlign,
      failIf (decide (256 < n) || !memMapped s a (8 * n)) stLength]
    reads := [(a, 8 * n)], empty := n = 0
    hold := updating s x.ref.dom fun o => updateOp (fun d => decide (d.prog = 0x80 + slot)) o
    run := fun _ s => ⟨setHearth x.ref.dom slot (words.map (BitVec.ofNat 64)) s, stDone, 0⟩ }

end Sys2Proof.Machine
end

