-- ==== Sys2Proof/Machine/CollOps.lean ====
section
/-! DEFINITION. Collectives (R315 to R322). The algorithm that R319 leaves to the module is the direct one: a member sends each unit to
every member, which combines what it receives in position order, so that each sees every disagreement (R321); and a control packet to
every member says what the units cannot show, ELEMENTS and the group (log entries 59, 126). -/
namespace Sys2Proof.Machine

/-! The descriptor (R315). -/

structure CollDesc where
  kind     : Nat
  etype    : Nat
  flags    : Nat
  collId   : Nat
  group    : Nat
  src      : Nat
  dst      : Nat
  elements : Nat
  dstLen   : Nat
deriving DecidableEq, Repr

def collDesc (s : State) (a : Nat) : CollDesc :=
  let addr := fun (o : Nat) => readNat s (a + o) 8 % 2 ^ 44
  ⟨readNat s a 1, readNat s (a + 1) 1, readNat s (a + 2) 1, readNat s (a + 4) 4, addr 8, addr 16, addr 24, readNat s (a + 32) 8,
    readNat s (a + 40) 8⟩

def collSkips (flags : Nat) : Bool := bitAt flags 0
def collReverse (flags : Nat) : Bool := bitAt flags 1

/-- Bytes and alignment of a unit (R316). -/
def unitBytes (etype : Nat) : Nat := [1, blockBytes, 24, 80, 4, 8, 5 * blockBytes].getD etype 1
def unitAlign (etype : Nat) : Nat := [1, 64, 8, 8, 4, 8, 64].getD etype 1

/-- A group record: COUNT and its ranks. -/
def groupCount (s : State) (a : Nat) : Nat := readNat s a 4
def groupRanks (s : State) (a : Nat) : List Nat := (List.range (groupCount s a)).map fun i => readNat s (a + 8 + 2 * i) 2

/-- Bytes of a member's result (R317). -/
def resultBytes (kind n g : Nat) : Nat := if kind = 3 then n * g else if kind = 2 then n / g else n

/-- The checks of R318, and of a ring's size (R186, log entry 122); status PARTITIONED_MINORITY last. -/
def collChecks (s : State) (a : Nat) : List Nat :=
  if memMapped s a 128 then
    let d := collDesc s a
    let g := groupCount s d.group
    let listed := memMapped s d.group 8 && decide (1 ≤ g) && decide (g ≤ 65536) && memMapped s d.group (8 + 2 * g)
    let ranks := if listed then groupRanks s d.group else []
    let n := d.elements * unitBytes d.etype
    let m := resultBytes d.kind n (max g 1)
    let moved := decide (3 ≤ d.kind)
    let bad := decide (d.kind = 0 ∨ 4 < d.kind) || decide (6 < d.etype) || (moved != decide (d.etype = 0))
      || decide (d.flags / 4 ≠ 0) || decide (readNat s (a + 3) 1 ≠ 0) || [8, 16, 24].any (fun o => decide (readNat s (a + o) 8 / 2 ^ 44 ≠ 0))
      || decide (readNat s (a + 48) 80 ≠ 0) || (collSkips d.flags && moved)
      || (collSkips d.flags && decide (d.elements ≠ 0) && s.train.carried)
      || (memMapped s d.group 8 && decide (readNat s (d.group + 4) 4 ≠ 0))
      || (listed && (decide (ranks.eraseDups.length ≠ ranks.length) || !ranks.contains (myRank s)
          || ranks.any fun r => !(memberRanks s).contains r))
      || (overlaps d.src n d.dst m && !(decide (d.kind = 1) && decide (d.src = d.dst)))
    let mis := decide (a % 64 ≠ 0) || decide (d.group % 8 ≠ 0) || decide (d.src % unitAlign d.etype ≠ 0)
      || decide (d.dst % unitAlign d.etype ≠ 0) || (decide (d.kind = 2) && decide (d.elements % max g 1 ≠ 0))
    let far := !listed || (decide (d.kind = 4) && decide (256 < g)) || decide (2 ^ 40 < n) || decide (2 ^ 40 < m) || decide (d.dstLen < m) || !memMapped s d.src n || !memMapped s d.dst m
    [failIf bad stReserved, failIf mis stAlign, failIf far stLength, failIf (fabState s = fabStopped) stMinority]
  else [failIf (decide (a % 64 ≠ 0)) stAlign, stLength]

/-! Units. -/

def collPos (s : State) (c : Coll) : Nat := c.group.findIdx (· = myRank s)
/-- The units that position i's result holds (R317), and the positions whose contributions it takes. -/
def neededUnits (c : Coll) (i : Nat) : List Nat :=
  if c.kind = 2 then
    let n := c.elements / c.group.length
    (List.range n).map fun k => i * n + k
  else List.range c.elements
def neededFrom (c : Coll) (i : Nat) : List Nat :=
  let g := c.group.length
  if c.kind = 4 then [if collReverse c.cflags then (i + 1) % g else (i + g - 1) % g] else List.range g

/-- A unit is moved in pieces: the five blocks of an RMRAILS unit, else whole (R320). -/
def pieces (c : Coll) : Nat := if c.etype = 6 then 5 else 1
def pieceBytes (c : Coll) : Nat := unitBytes c.etype / pieces c

/-- What identifies the group of a collective to its members (R321): the first 8 bytes, little-endian, of a SHA3-256 digest over its ranks
(log entry 126). -/
def groupSig (c : Coll) : Nat := leNat ((sha3_256 (c.group.flatMap (leBytes 2))).take 8)

/-- Unit k of the contribution of position j, once all of it is here. -/
def contribOf (c : Coll) (me j k : Nat) : Option (List Byte) :=
  let z := unitBytes c.etype
  if j = me then some ((c.own.drop (k * z)).take z)
  else
    let ps := (List.range (pieces c)).map fun g => (c.units.find? fun u => !u.final && u.pos = j && u.index = k * pieces c + g).map (·.bytes)
    if ps.any (·.isNone) then none else some (ps.filterMap id).flatten

/-- A complete combination of unit k that another member sent. -/
def finalOf (c : Coll) (k : Nat) : Option (List Byte) :=
  let ps := (List.range (pieces c)).map fun g => (c.units.find? fun u => u.final && u.index = k * pieces c + g).map (·.bytes)
  if ps.any (·.isNone) then none else some (ps.filterMap id).flatten

/-! Combination (R316). -/

/-- A memory that holds nothing but these bytes, from address 0: the block readers serve bytes in flight too. -/
def scratch (s : State) (bs : List Byte) : State := { s with mem := tblSetRun memDefault [] 0 bs }

/-- One contribution of a rails unit that R321 refuses. -/
def railsBad (s : State) (etype : Nat) (bs : List Byte) : Bool :=
  let m := scratch s bs
  (List.range (if etype = 6 then 5 else 1)).any (fun g => blockBad m (g * blockBytes))
    || (isRm (blockKind m 0) != decide (etype = 6)) || (etype = 6 && gangBad m 0)

/-- Two contributions whose PSCALE or RMFMT disagree; an empty block agrees with every scale (R92, R101). -/
def railsDiffer (s : State) (x y : List Byte) : Bool :=
  let p := scratch s x
  let q := scratch s y
  decide (blockKind p 0 ≠ blockKind q 0)
    || (decide (readNat p 0 8 ≠ 0) && decide (readNat q 0 8 ≠ 0) && decide (readNat p 0 8 ≠ readNat q 0 8))

/-- The sum of rails units, position by position, as rail block adds into an empty tile (R101). -/
def addRailUnits (s : State) (free : Nat) (us : List (List Byte)) : List Byte :=
  let ms := us.map (scratch s)
  let full := ms.filter fun m => decide (readNat m 0 8 ≠ 0)
  let k := match ms with | m :: _ => blockKind m 0 | [] => .plain
  let p := match full with | m :: _ => readNat m 0 8 | [] => 0
  let tb := full.foldl (fun t m => addTb t (readNat m 16 8)) 0
  let at' := fun (g : Nat) => ((us.getD (Config.collTile free % max 1 us.length) []).drop (g * blockBytes + 8)).take 8
  let outs := (List.range 256).map fun x =>
    full.foldl (fun (r : Rails) m => (joinRails (railWidth k) r (blockRails m 0 k (x / 16) (x % 16))).1) ⟨0, 0, false, false, false⟩
  let flag := fun (r : Rails) => b2n r.poison + 2 * b2n r.sat + 4 * b2n r.headroom
  let any := (outs.map flag).foldl (· ||| ·) 0
  (List.range (blocksOf k)).flatMap fun g =>
    let piece := fun (x : Int) => leBytes 16 (wrapInt (railWidth k) x >>> (128 * g))
    leBytes 8 p ++ at' g ++ leBytes 8 tb ++ leBytes 1 (any + blockTag k g) ++ List.replicate 39 0
      ++ outs.map (fun r => BitVec.ofNat 8 (flag r)) ++ outs.flatMap fun r => piece r.a ++ piece r.b

/-- The combination of one unit, and whether a sum left its range; a single contribution keeps its bits (R317). -/
def combineUnits (s : State) (etype free : Nat) (us : List (List Byte)) : List Byte × Bool :=
  let sumTo := fun (bytes top : Nat) =>
    let t := (us.map leNat).foldl (· + ·) 0
    if top < t then (leBytes bytes top, true) else (leBytes bytes t, false)
  match etype with
  | 2 => sumTo 24 (2 ^ 192 - 1)
  | 5 => sumTo 8 (2 ^ 64 - 1)
  | 3 =>
    let t := (us.map fun b => sext 640 (leNat b)).foldl (· + ·) 0
    let top : Int := (2 ^ 639 - 1 : Nat)
    let v := if top < t then top else if t < -top - 1 then -top - 1 else t
    (leBytes 80 (wrapInt 640 v), decide (v ≠ t))
  | 4 => match us.map leNat with
    | [] => ([], false)
    | x :: rest => (leBytes 4 (rest.foldl fmax32 (fmax32 x x)), false)
  | _ => match us with
    | [u] => (u, false)
    | _ => (addRailUnits s free us, false)

/-! A collective in progress. -/

def getColl (s : State) (key : Nat) : Option Coll := s.colls.find? fun c => c.key = key
def setColl (c : Coll) (s : State) : State := { s with colls := upsert (fun d => d.key = c.key) c s.colls }

/-- The disagreement that the unit's contributions show (R321), as two positions: a contribution that no other can agree with is paired with
the lowest other position. -/
def unitFlaw (s : State) (c : Coll) (us : List (Nat × List Byte)) : Option (Nat × Nat) :=
  if c.etype ≠ 1 ∧ c.etype ≠ 6 then none
  else match us.find? fun u => railsBad s c.etype u.2 with
    | some u => some (u.1, if u.1 = 0 ∧ 1 < c.group.length then 1 else 0)
    | none => us.findSome? fun u => (us.find? fun v => railsDiffer s u.2 v.2).map fun v => (u.1, v.1)

/-- The unit's bytes in the result, or two positions whose contributions disagree; none while a contribution is missing. -/
inductive UnitState where
  | missing
  | bad (pos : Nat × Nat)
  | ready (bytes : List Byte) (sat : Bool)
deriving DecidableEq, Repr

def unitState (s : State) (c : Coll) (k : Nat) : UnitState :=
  let me := collPos s c
  match finalOf c k with
  | some b => .ready b false
  | none =>
    let us := (List.range c.group.length).map fun j => (contribOf c me j k).map fun b => (j, b)
    if us.any (·.isNone) then .missing
    else match unitFlaw s c (us.filterMap id) with
      | some j => .bad j
      | none =>
        let r := combineUnits s c.etype s.freeCtr ((us.filterMap id).map (·.2))
        .ready r.1 r.2

/-- The skip bits seen so far, this member's among them once its first packet has left (R322). -/
def collSkip (c : Coll) : Bool := c.skip || c.mySkip.getD false

/-- Take notice of what has arrived: a disagreement, and for a SKIPCARRY collective of several members the decision of its first
complete unit (R321, R322). -/
def reviewColl (c : Coll) (s : State) : State :=
  if 3 ≤ c.kind then setColl c s
  else
    let ks := List.range c.elements
    let bad := ks.findSome? fun k => match unitState s c k with | .bad j => some j | _ => none
    let done := ks.any fun k => match unitState s c k with | .ready _ _ => (finalOf c k).isSome || c.mySkip.isSome | _ => false
    let s := setColl { c with bad := if c.bad.isSome then c.bad else bad } s
    if collSkips c.cflags && done && decide (1 < c.group.length) && bad.isNone && !skipKnown s then setSkipKnown (collSkip c) s else s

/-! Packets (R320). -/

/-- The 32-byte collective header; its SKIP is set as the packet leaves (R322). -/
def collHeader (c : Coll) (me dst offset units : Nat) : List Byte :=
  leBytes 4 c.collId ++ leBytes 4 c.step ++ leBytes 1 c.kind ++ leBytes 1 c.etype
    ++ leBytes 1 (2 * b2n (collSkips c.cflags)) ++ [0] ++ leBytes 2 me ++ leBytes 2 dst ++ leBytes 8 offset ++ leBytes 4 units
    ++ leBytes 4 0

/-- Units that one packet takes. -/
def unitsPerPacket (etype : Nat) : Nat := if etype = 1 then 1 else 8544 / unitBytes etype

/-- A packet of this member's contribution: noted, so that its COLL ends only after it has left (R319). -/
def sendColl (key tc rank : Nat) (payload : List Byte) (s : State) : State :=
  match getColl s key, partnerOf s rank with
  | some c, some p => sendPacket tc 1 p.addr payload (setColl { c with sent := c.sent ++ [(p.addr, nextPseq s p.addr)] } s)
  | some c, none => setColl { c with stuck := true } s
  | none, _ => s

/-- Send this member's units to position j: for RMRAILS a packet for each block, else as many units as a packet takes, and in the unused tail
of an all-gather packet what the Annex owes that member (R349). -/
def sendUnits (c : Coll) (me j : Nat) (s : State) : State :=
  let z := unitBytes c.etype
  let rank := c.group.getD j 0
  if c.etype = 6 then
    (List.range c.elements).foldl (fun s k => (List.range 5).foldl (fun s g =>
      sendColl c.key 0 rank (collHeader c me j k 1 ++ (c.own.drop (k * z + g * blockBytes)).take blockBytes) s) s) s
  else
    let n := unitsPerPacket c.etype
    (List.range (ceilDiv c.elements n)).foldl (fun s q =>
      let m := min n (c.elements - q * n)
      let o := q * n
      let tail := if c.kind = 3 then ridePiece rank (8544 - m * z) s else ([], s)
      sendColl c.key 0 rank (collHeader c me j o m ++ (c.own.drop (o * z)).take (m * z) ++ tail.1) tail.2) s

/-- The control packet of a member's contribution (R304, log entry 126): no units, ELEMENTS as OFFSET, the group's signature. -/
def collControl (c : Coll) (me j : Nat) : List Byte := collHeader c me j c.elements 0 ++ leBytes 8 (groupSig c)

/-- Send this member's contribution: units to every position that takes them, the control packet to every position. -/
def sendOwn (c : Coll) (s : State) : State :=
  let me := collPos s c
  ((List.range c.group.length).filter (· ≠ me)).foldl (fun s j =>
    sendColl c.key 1 (c.group.getD j 0) (collControl c me j) (if (neededFrom c j).contains me then sendUnits c me j s else s)) s

/-! Receiving. -/

def hdColl (b : List Byte) : Nat := recNat b 0 4
def hdStep (b : List Byte) : Nat := recNat b 4 4
def hdPos (b : List Byte) : Nat := recNat b 12 2
def hdOffset (b : List Byte) : Nat := recNat b 16 8
def hdUnits (b : List Byte) : Nat := recNat b 24 4

/-- The header disagrees with this member's descriptor, as far as it shows (R321): kind, unit type, group, ELEMENTS, or a rail block that
has no place in an RMRAILS unit. -/
def headerDiffers (s : State) (c : Coll) (rank : Nat) (b : List Byte) : Bool :=
  decide (recNat b 8 1 ≠ c.kind) || decide (recNat b 9 1 ≠ c.etype) || (bitAt (recNat b 10 1) 1 != collSkips c.cflags)
    || decide (c.group.length ≤ hdPos b) || decide (c.group.getD (hdPos b) 0 ≠ rank) || decide (recNat b 14 2 ≠ collPos s c)
    || (if hdUnits b = 0 then decide (hdOffset b ≠ c.elements) || decide (recNat b 32 8 ≠ groupSig c)
        else decide (c.elements < hdOffset b + hdUnits b) || (c.etype = 6 && decide (5 ≤ fld (recNat b 56 1) 6 4)))

/-- The whole units that a packet carries. -/
def unitsOf (c : Coll) (b : List Byte) : List CollUnit :=
  let body := b.drop 32
  let fin := bitAt (recNat b 10 1) 2
  let z := pieceBytes c
  ((List.range (hdUnits b)).map fun i =>
    let piece := (body.drop (i * z)).take z
    let g := if c.etype = 6 then fld (recNat piece 24 1) 6 4 else 0
    (⟨hdPos b, fin, (hdOffset b + i) * pieces c + g, piece⟩ : CollUnit)).filter fun u => u.bytes.length = z

/-- A packet meets the collective that it belongs to; one that no COLL here has begun is kept. -/
def takeColl (rank : Nat) (b : List Byte) (s : State) : Bool × State :=
  match s.colls.find? fun c => c.collId = hdColl b && c.step = hdStep b with
  | none => (false, s)
  | some c =>
    if headerDiffers s c rank b then
      (true, setColl { c with bad := if c.bad.isSome then c.bad else some (collPos s c, hdPos b) } s)
    else
      let heads := if hdUnits b = 0 then c.headers ++ [hdPos b] else c.headers
      (true, reviewColl { c with units := c.units ++ unitsOf c b, headers := heads, skip := c.skip || bitAt (recNat b 10 1) 0 } s)

/-- Keep a packet until its COLL begins here, or this module has its epoch. -/
def keepColl (e : EarlyColl) (s : State) : State := { s with fabric := { s.fabric with earlyColl := s.fabric.earlyColl ++ [e] } }

/-- A piece in the tail of an all-gather packet is taken like one that comes alone (R333); the rest of the packet goes on. -/
def takeTail (e : EarlyColl) (s : State) : EarlyColl × State :=
  let n := 32 + hdUnits e.payload
  if recNat e.payload 8 1 = 3 ∧ hdUnits e.payload ≠ 0 ∧ n < e.payload.length then
    ({ e with payload := e.payload.take n }, takePiece e.src (e.payload.drop n) s)
  else (e, s)

/-- A collective packet of this module's epoch: its tail, then its units meet their COLL, or it waits for it (R319). -/
def collIn (e : EarlyColl) (s : State) : State :=
  let r := takeTail e s
  match r.2.fabric.roster.find? fun p => p.addr = e.src with
  | none => r.2
  | some p =>
    let t := takeColl p.rank r.1.payload r.2
    if t.1 then t.2 else keepColl r.1 t.2

/-- What came early meets the collective just begun; what belongs to an earlier epoch or step goes. -/
def serveEarly (s : State) : State :=
  s.fabric.earlyColl.foldl (fun s e =>
    if posEpoch s.pos < e.epoch then keepColl e s
    else if e.epoch < posEpoch s.pos ∨ hdStep e.payload < stepNow s then s
    else collIn e s) { s with fabric := { s.fabric with earlyColl := [] } }

/-! Start and end. -/

/-- Begin a collective: the contribution is read and its packets go out; the skip bit is taken as the first of them leaves (R322). -/
def startColl (a : Nat) (issuer : UnitRef) (op : Nat) (landing : Option Nat) (s : State) : State :=
  let d := collDesc s a
  let key := s.nextColl
  let c : Coll :=
    { key := key, collId := d.collId, step := stepNow s, kind := d.kind, etype := d.etype, cflags := d.flags
      group := groupRanks s d.group, src := d.src, dst := d.dst, elements := d.elements
      own := readMem s d.src (d.elements * unitBytes d.etype), units := [], issuer := issuer, op := op
      landing := landing, sent := [], stuck := false, headers := [], bad := none, mySkip := none, skip := false }
  let s := setColl c { s with nextColl := key + 1, train := { s.train with carried := s.train.carried || collSkips d.flags } }
  let s := sendOwn c s
  serveEarly (match getColl s key with
    | some c => reviewColl c s
    | none => s)

/-- The result of a collective whose every unit is here, with SATURATED. -/
def collResult (s : State) (c : Coll) : Option (List Byte × Bool) :=
  let me := collPos s c
  let us : List (Option (List Byte × Bool)) :=
    if 3 ≤ c.kind then
      (neededFrom c me).flatMap fun j => (List.range c.elements).map fun k => (contribOf c me j k).map fun b => (b, false)
    else (neededUnits c me).map fun k => match unitState s c k with
      | .ready b sat => some (b, sat)
      | _ => none
  if us.any (·.isNone) then none else some ((us.filterMap id).flatMap (·.1), (us.filterMap id).any (·.2))

/-- This member's contribution has left: no flit of its packets waits (R319). -/
def ownLeft (s : State) (c : Coll) : Bool :=
  !c.stuck && !(s.ports.any fun x => x.waiting.any fun w => w.type = flitData && c.sent.contains w.id)
    && !(s.fabric.unrouted.any fun u => c.sent.contains (pkId u.2))

/-- Every member's contribution is here and agrees, or another member has combined all that the result holds. -/
def allAgreed (s : State) (c : Coll) : Bool :=
  let me := collPos s c
  let js := (List.range c.group.length).filter (· ≠ me)
  (js.all c.headers.contains && (decide (3 ≤ c.kind) || (List.range c.elements).all fun k => js.all fun j => (contribOf c me j k).isSome))
    || (decide (c.kind < 3) && (neededUnits c me).all fun k => (finalOf c k).isSome)

/-- The decision of a SKIPCARRY COLL, at the latest as it completes; in a group of one the member's own bit, taken then (R322). -/
def decideSkip (c : Coll) (s : State) : State :=
  if !collSkips c.cflags then s
  else
    let alone := decide (c.group.length = 1)
    let s := if alone then { s with train := { s.train with left := true } } else s
    if skipKnown s then s else setSkipKnown (if alone then moduleSkip s else collSkip c) s

/-- How a collective ended: the state, its status, its flags, and whether its record is written. -/
structure CollEnd where
  s      : State
  status : Nat
  flags  : Nat
  logged : Bool
deriving DecidableEq, Repr

/-- End a collective that may end: a disagreement after its record, or the whole result written (R319, R321). -/
def endColl (c : Coll) (f : FaultInfo) (s : State) : Option CollEnd :=
  let gone := fun (s : State) => { s with colls := s.colls.filter fun d => d.key ≠ c.key }
  match c.bad with
  | some j =>
    let s := logFault { f with status := stReserved, cls := 1, detail := some (c.collId, j.1 + j.2 * 2 ^ 16, 0) } (gone s)
    some ⟨s, stReserved, 0, true⟩
  | none =>
    if !(ownLeft s c && allAgreed s c) then none
    else match collResult s c with
      | none => none
      | some (bytes, sat) =>
        if needsDown s c.dst bytes.length then some ⟨gone s, stLost, 0, false⟩
        else
          let s := decideSkip c (tick (writeMem (gone s) c.dst bytes))
          let parts := (List.range c.group.length).map fun j => (bytes.drop (j * c.elements)).take c.elements
          let s := if c.kind = 3 && inJob s then gatherPieces c.src c.step c.group parts s else s
          some ⟨s, stDone, if sat then flSat else 0, false⟩

/-- COLL. -/
def collPlan (s : State) (x : ProgUnit) (f1 : Nat) : Plan :=
  let a := gReg x f1
  let d := collDesc s a
  let n := d.elements * unitBytes d.etype
  { checks := collChecks s a, reads := [(a, 128), (d.group, 8 + 2 * groupCount s d.group), (d.src, n)]
    writes := [(d.dst, resultBytes d.kind n (max 1 (groupCount s d.group)))], need := .coll s.nextColl, moves := true, empty := d.elements = 0
    run := fun id s => ⟨startColl a x.ref id none s, stDone, 0⟩ }

end Sys2Proof.Machine
end

