-- ==== Sys2Proof/Machine/LpOps.lean ====
section
/-! DEFINITION. Low-power states (R295 to R298): when a domain is idle, how far its next known event is, which state it takes. Times
are in ticks of 10 ns. -/
namespace Sys2Proof.Machine

/-- Entry plus wake of a state, and its wake alone (R295). -/
def lpBoth (st : Nat) : Nat := [0, 5, 200, 4000, 100000].getD st 0
def lpWake (st : Nat) : Nat := [0, 4, 150, 3000, 75000].getD st 0

/-- The deepest state a domain may take: LP_CTRL.MAX_STATE within its type (R300). -/
def maxState (s : State) (dom : Nat) : Nat :=
  min (rf s dom Reg.LP_CTRL 2 0) (if domType dom = some .iod then 2 else 4)

/-- A unit counts as idle (R296). -/
def unitIdle (x : ProgUnit) : Bool :=
  x.inFlight.isEmpty && (!x.running || x.ended || x.stopped || (match x.waiting with
    | some (.waitst _ _) => true
    | _ => false))

/-- A collective counts for the domain that issued it, a landing's too. -/
def domIdle (s : State) (dom : Nat) : Bool :=
  (s.units.filter fun x => x.ref.dom = dom).all unitIdle && !s.colls.any fun c => c.issuer.dom = dom

/-- The positions a domain waits for: pending landings of its table, targets and deadlines of its WAITSTs. -/
def knownTargets (s : State) (dom : Nat) : List Pos :=
  ((s.landings.filter fun l => l.table = dom && !l.fired).map (·.target))
    ++ (s.units.filter fun x => x.ref.dom = dom && x.running).flatMap fun x =>
      match x.waiting with
      | some (.waitst _ f) => stReg x (slotF1 f % 4) :: (if bitAt f.toNat 0 then [stReg x (slotF2 f % 4)] else [])
      | _ => []

/-- What one target says of the next event (R296): a distance in ticks, or no bound and S1 at most. -/
def targetBound (s : State) (dom : Nat) (p : Pos) : Option Nat :=
  if p.toNat / 2 ^ 48 = s.pos.toNat / 2 ^ 48 then some (posTick p - posTick s.pos)
  else
    let hint := rf s dom Reg.LP_HINT 47 0
    if hint = 0 then none else some (hint - posTick s.pos)

/-- Δ: the smallest distance, none where nothing bounds it. -/
def nextEvent (s : State) (dom : Nat) : Option Nat :=
  let ds := (knownTargets s dom).filterMap (targetBound s dom)
  if ds.isEmpty then none else some (ds.foldl min (2 ^ 48))

/-- The deepest state whose entry plus wake is at most 0.9 Δ (R296). -/
def lpChoice (s : State) (dom : Nat) : Nat :=
  let cap := if (knownTargets s dom).any (fun p => (targetBound s dom p).isNone) then min 1 (maxState s dom) else maxState s dom
  let fits := fun (st : Nat) => match nextEvent s dom with
    | none => true
    | some d => decide (10 * lpBoth st ≤ 9 * d)
  ((List.range (cap + 1)).filter fits).foldl max 0

/-- The planned wake (R296). -/
def plannedWake (s : State) (dom st : Nat) : Option Nat :=
  (nextEvent s dom).map fun d => posTick s.pos + d - lpWake st

/-- A new landing moves the wake earlier, or wakes the domain at once (R297). -/
def wakeFor (dom : Nat) (target : Pos) (s : State) : State :=
  let l := getLp s dom
  if l.state = 0 then s
  else match targetBound s dom target with
    | none => s
    | some d =>
      if d ≤ lpWake l.state then startWake dom s
      else
        let w := posTick s.pos + d - lpWake l.state
        let sooner := match l.wake with
          | some old => decide (w < old)
          | none => true
        if sooner then setLp s { l with wake := some w } else s

def isDieDom (s : State) (dom : Nat) : Bool :=
  isFitted s dom && !isDown s dom && (match domType dom with | some t => isDie t | none => false)

end Sys2Proof.Machine
end

