-- ==== Sys2Proof/Machine/QueueOps.lean ====
section
/-! DEFINITION. Command queues (R220 to R228, R242, R243): register writes, acceptance, the checks of a command record and of a
binary, the start of a program, and the completion record. -/
namespace Sys2Proof.Machine

/-! Registers of a queue. -/

def qLog2 (s : State) (q : Nat) : Nat := qf s q Reg.Q_RING 52 48
def qRing (s : State) (q : Nat) : Nat := qf s q Reg.Q_RING 43 0
def qCplBase (s : State) (q : Nat) : Nat := qf s q Reg.Q_CPL_BASE 43 0
def qEnabled (s : State) (q : Nat) : Bool := qf s q Reg.Q_CTRL 0 0 = 1
def qHead (s : State) (q : Nat) : Nat := qf s q Reg.Q_PROGRESS 31 0
def qDone (s : State) (q : Nat) : Nat := qf s q Reg.Q_PROGRESS 63 32
def qRead (s : State) (q : Nat) : Nat := qf s q Reg.Q_CPL_READ 31 0
def qDraining (s : State) (q : Nat) : Bool := qf s q Reg.Q_STATUS 0 0 = 1
def qStopped (s : State) (q : Nat) : Bool := qf s q Reg.Q_STATUS 1 1 = 1

/-- The checks of an enable (R222). -/
def enableOk (s : State) (q : Nat) : Bool :=
  let n := qLog2 s q
  decide (qRing s q % 64 = 0) && decide (qCplBase s q % 64 = 0) && decide (4 ≤ n) && decide (n ≤ 16)
    && memMapped s (qRing s q) (64 * 2 ^ n) && memMapped s (qCplBase s q) (32 * 2 ^ n)
    && decide (qRead s q = qf s q Reg.Q_TAIL 31 0) && !qDraining s q && decide (qHead s q = qDone s q)

/-- A write of Q_CTRL (R221, R222). -/
def writeQCtrl (q v : Nat) (s : State) : State :=
  let was := qEnabled s q
  let s' := setQf (setQf s q Reg.Q_CTRL 2 1 (fld v 2 1)) q Reg.Q_CTRL 0 0 (fld v 0 0)
  let s' := if bitAt v 0 && !was then
      if enableOk s q then
        let t := qf s q Reg.Q_TAIL 31 0
        setQueue (setQf (setQf s' q Reg.Q_PROGRESS 31 0 t) q Reg.Q_PROGRESS 63 32 t) { getQueue s q with tail := t }
      else setQf (setQf s' q Reg.Q_CTRL 0 0 0) q Reg.Q_STATUS 3 3 1
    else if !bitAt v 0 && was && decide (qHead s q ≠ qDone s q) then setQf s' q Reg.Q_STATUS 0 0 1
    else s'
  if bitAt v 2 then setQueue (setQf s' q Reg.Q_STATUS 1 1 0) { getQueue s' q with failed := false } else s'

/-- A write of Q_TAIL, the doorbell (R224): the register reads back the value, a refused one is not used. -/
def writeQTail (q v : Nat) (s : State) : State :=
  let t := v % 2 ^ 32
  let s := setQf s q Reg.Q_TAIL 31 0 t
  if 2 ^ qLog2 s q < sub32 t (qHead s q) then setQf s q Reg.Q_STATUS 2 2 1
  else setQueue s { getQueue s q with tail := t }

/-- Writes to Q_RING and Q_CPL_BASE have no effect while ENABLE or DRAINING is 1 (R222). -/
def qBaseLocked (s : State) (q : Nat) : Bool := qEnabled s q || qDraining s q

/-! Command records (R223). -/

abbrev kindRun : Nat := 1
abbrev kindWait : Nat := 2
abbrev kindMarker : Nat := 3
def cmdKind (c : Cmd) : Nat := recNat c.bytes 0 1
def cmdIrq (c : Cmd) : Bool := bitAt (recNat c.bytes 1 1) 0
def cmdBarrier (c : Cmd) : Bool := bitAt (recNat c.bytes 1 1) 1
def cmdUnit (c : Cmd) : Nat := recNat c.bytes 2 1
def cmdProgram (c : Cmd) : Nat := recNat c.bytes 8 8 % 2 ^ 44
def cmdArg (c : Cmd) : Nat := recNat c.bytes 16 8
def cmdArgLen (c : Cmd) : Nat := recNat c.bytes 24 4
def cmdWaitQueue (c : Cmd) : Nat := recNat c.bytes 28 2
def cmdWaitCount (c : Cmd) : Nat := recNat c.bytes 32 4

/-- The kind of unit that a UNIT code names in a domain (R217). -/
def unitKindOf (dom code : Nat) : Option UnitKind :=
  match domType dom, code with
  | some .cd, 0 => some .sequencer
  | some .cd, 1 => some .carrier
  | some .msd, 1 => some .carrier
  | some .iod, 2 => some .link
  | _, _ => none

/-- The checks of a record at acceptance, in the order of R228. -/
def cmdFlaw (s : State) (q : Nat) (c : Cmd) : Nat :=
  let k := cmdKind c
  let b := c.bytes
  let resv := decide (k = 0 ∨ 3 < k) || decide (recNat b 1 1 / 4 ≠ 0) || decide (cmdUnit c / 4 ≠ 0) || decide (recNat b 3 5 ≠ 0)
    || decide (recNat b 8 8 / 2 ^ 44 ≠ 0) || decide (recNat b 16 8 / 2 ^ 44 ≠ 0) || decide (recNat b 30 2 ≠ 0)
    || decide (recNat b 36 28 ≠ 0)
    || (decide (k ≠ 1) && decide (cmdUnit c + recNat b 8 8 + cmdArg c + cmdArgLen c ≠ 0))
    || (decide (k ≠ 2) && decide (cmdWaitQueue c + cmdWaitCount c ≠ 0))
    || (decide (k = 1) && (unitKindOf (q / 256) (cmdUnit c)).isNone)
    || (decide (k = 2) && !queueExists s (cmdWaitQueue c))
  if resv then stReserved
  else if k = 1 ∧ cmdProgram c % 64 ≠ 0 then stAlign
  else if k = 1 ∧ 65536 < cmdArgLen c then stLength
  else 0

/-- The queue may accept its next command (R222, R224, R233, O5). -/
def mayAccept (s : State) (q : Nat) : Bool :=
  queueExists s q && !isDown s (q / 256) && qEnabled s q && !qStopped s q
    && decide (qHead s q ≠ (getQueue s q).tail) && decide (sub32 (qHead s q) (qRead s q) < 2 ^ qLog2 s q)
    && decide ((getQueue s q).cmds.length < 64) && awake s (q / 256) && !(s.walks.any fun w => w.dom = q / 256 && w.quiesce)

/-- Accept the command at HEAD (R224). A refused one is finished, after its CLASS 1 record (O4). -/
def acceptCmd (q : Nat) (s : State) : State :=
  let n := qHead s q
  let a := qRing s q + 64 * (n % 2 ^ qLog2 s q)
  let c : Cmd := ⟨n, readMem s a 64, .accepted, 0, 0, 0, false⟩
  let x := getQueue s q
  let flaw := if needsDown s a 64 then stLost else cmdFlaw s q c
  let s := setQf s q Reg.Q_PROGRESS 31 0 ((n + 1) % 2 ^ 32)
  let s := setQueue s { x with cmds := x.cmds ++ [c] }
  if flaw = 0 then s
  else finishCmd q n flaw 0
    (logFault { status := flaw, cls := if flaw = stLost then 2 else 1, dom := q / 256, cmd := some (q, n), unit := cmdUnit c } s)

/-- An accepted command that may start: with BARRIER, every earlier one has completed (R223). -/
def startable (s : State) (q seq : Nat) : Option Cmd :=
  let cmds := (getQueue s q).cmds
  (cmds.find? fun c => c.seq = seq && c.stage = .accepted).filter fun c =>
    (!cmdBarrier c || decide ((cmds.head?.map (·.seq)) = some seq)) && !isDown s (q / 256)

def setStage (q seq : Nat) (g : CmdStage) (s : State) : State :=
  let x := getQueue s q
  setQueue s { x with cmds := x.cmds.map fun c => if c.seq = seq then { c with stage := g } else c }

/-! Programs (R217, R218, R242, R243). -/

/-- The scalar registers at the start of a program (R218). -/
def startRegs (s : State) (dom arg len id : Nat) : List Word :=
  let cds := presentOf s .cd
  let vals := [0, arg, len, if domType dom = some .cd then 16 else 0, 16 * cds.length,
    (cds.map fun d => 2 ^ (d - 0x10)).foldl (· + ·) 0, (getReg s porchDom Reg.HBM_WINDOW).toNat, id,
    (getReg s porchDom Reg.MODULE_IDENT).toNat]
  (vals ++ List.replicate 23 0).map (BitVec.ofNat 64)

/-- What is wrong with the binary at an address (R243): some 0 for one of no words. -/
def binaryFlaw (s : State) (base code : Nat) : Nat :=
  if !memMapped s base 64 then stLength
  else if needsDown s base 64 then stLost
  else
    let b := readMem s base 64
    let words := recNat b 8 4
    if recNat b 0 4 ≠ 0x52484F41 ∨ recNat b 4 1 ≠ 1 ∨ recNat b 5 1 ≠ code ∨ recNat b 6 2 ≠ 0 ∨ recNat b 24 40 ≠ 0 then stReserved
    else if 16384 < words ∨ (words ≠ 0 ∧ words ≤ recNat b 12 4) ∨ memMapped s base (64 + 8 * words) = false then stLength
    else if needsDown s base (64 + 8 * words) then stLost
    else 0

/-- Load a binary's words and start at ENTRY (R243); during a quiesced walk the unit is suspended at once (R233). -/
def startProgram (u : UnitRef) (owner : Owner) (base arg len id : Nat) (s : State) : State :=
  let words := readNat s (base + 8) 4
  let old := getUnit s u
  setUnit s { idleUnit u with
    owner := owner, running := true, paused := s.walks.any fun w => w.dom = u.dom && w.quiesce, pc := readNat s (base + 12) 4,
    store := (List.range words).map fun i => BitVec.ofNat 64 (readNat s (base + 64 + 8 * i) 8),
    g := startRegs s u.dom arg len id, nextOp := old.nextOp }

/-- The end of a program's grants (R275): all that the unit holds or asks for. -/
def endUnitGrants (u : UnitRef) (s : State) : State := dropGrants (fun g => g.holder = u) s

/-! Completion (R225). -/

/-- The 32-byte record. -/
def cplBytes (s : State) (q : Nat) (c : Cmd) : List Byte :=
  let gen := 1 - (c.seq / 2 ^ qLog2 s q) % 2
  leBytes 2 q ++ leBytes 2 c.status ++ leBytes 4 c.seq ++ leBytes 2 (c.flags % 64 + 2 ^ 15 * gen) ++ posBytes s.pos
    ++ leBytes 7 (c.nj / 1000)

/-- Write the completion of the oldest command when it has finished (O1), then the interrupt (R226, R398). The part of its
energy below one microjoule is overhead (R386). -/
def writeCompletion (q : Nat) (s : State) : State :=
  let x := getQueue s q
  match x.cmds with
  | [] => s
  | c :: rest =>
    if c.stage ≠ .finished then s
    else
      let a := qCplBase s q + 32 * (c.seq % 2 ^ qLog2 s q)
      let s := if memMapped s a 32 && !needsDown s a 32 then writeMem s a (cplBytes s q c) else s
      let s := addOverhead (c.nj % 1000) (setQf s q Reg.Q_PROGRESS 63 32 ((c.seq + 1) % 2 ^ 32))
      let bad := decide (c.status ≠ 0)
      let s := if bad then
          let s := setQf s q Reg.Q_STATUS 31 16 c.status
          let s := if x.failed then s else setQf s q Reg.Q_STATUS 63 32 c.seq
          if qf s q Reg.Q_CTRL 1 1 = 1 then setQf s q Reg.Q_STATUS 1 1 1 else s
        else s
      let s := setQueue s { x with cmds := rest, failed := x.failed || bad }
      let s := if rest.isEmpty then setQf s q Reg.Q_STATUS 0 0 0 else s
      if cmdIrq c then sendMsi (getReg s (q / 256) (0x103000 + 8 * (q % 256))) s else s

end Sys2Proof.Machine
end

