-- ==== Sys2Proof/Machine/LandOps.lean ====
section
/-! DEFINITION. LANDING and PGRANT (R272, R275, R289, R290, R293), and what a landing does when it fires (R291, R354, R376). -/
namespace Sys2Proof.Machine

/-! Records (R288). -/

def landParams (s : State) (a : Nat) : List Word := (List.range 4).map fun i => BitVec.ofNat 64 (readNat s (a + 32 + 8 * i) 8)
def landParam (ps : List Word) (i : Nat) : Nat := (ps.getD i 0).toNat

/-- The domain whose table holds a landing of a kind (R289). -/
def landTable (u : UnitRef) (kind : Nat) (ps : List Word) : Nat :=
  match kind with
  | 1 => fld (landParam ps 2) 39 32
  | 4 => porchDom
  | 5 => porchDom
  | 6 => landParam ps 1 % 256
  | _ => u.dom

/-- Parameter bits that a kind leaves zero, and values that it reserves (R289, R354). -/
def landParamsBad (kind : Nat) (ps : List Word) : Bool :=
  let p := landParam ps
  match kind with
  | 1 => decide (p 2 / 2 ^ 40 ≠ 0) || decide (p 3 ≠ 0)
  | 2 => decide (p 1 ≠ 0) || decide (p 2 ≠ 0) || decide (p 3 ≠ 0)
  | 3 => decide (p 0 = 0 ∨ 100 < p 0) || decide (p 1 ≠ 0) || decide (p 2 ≠ 0) || decide (p 3 ≠ 0)
  | 4 => decide (2 ^ 32 ≤ p 0) || decide (p 1 ≠ 0) || decide (p 2 ≠ 0) || decide (p 3 ≠ 0)
  | 5 => decide (5 < p 0 % 8) || decide (fld (p 0) 7 3 ≠ 0) || decide (2 ^ 16 ≤ p 0) || decide (p 1 ≠ 0) || decide (p 2 ≠ 0)
      || decide (p 3 ≠ 0)
  | 6 => decide (2 ^ 32 ≤ p 0) || decide (2 ^ 8 ≤ p 1) || decide (p 2 ≠ 0) || decide (p 3 ≠ 0)
  | 7 => ps.any fun w => decide (w ≠ 0)
  | _ => true

/-- The domain that acts is not one that the kind may name: unfitted, lost, or of another type (R289, R290). -/
def landTargetBad (s : State) (u : UnitRef) (kind : Nat) (ps : List Word) : Bool :=
  let d := if kind = 5 then landParam ps 0 / 256 % 256 else landTable u kind ps
  !present s d || (kind = 1 && !(domType d = some .cd || domType d = some .msd)) || (kind = 6 && !(domType d = some .msd))

def tableSize (dom : Nat) : Nat := if dom = porchDom then 1024 else 256

/-- Landings of a table that occupy an entry: those whose action has not ended. -/
def tableFull (s : State) (dom : Nat) : Bool := decide (tableSize dom ≤ pendingIn s dom)

/-- R290. -/
def landChecks (s : State) (u : UnitRef) (kind a : Nat) (target : Pos) : List Nat :=
  if memMapped s a 64 then
    let ps := landParams s a
    let resv := decide (readNat s (a + 1) 1 ≠ 0) || decide (readNat s (a + 4) 4 ≠ 0) || decide (readNat s (a + 23) 9 ≠ 0)
    let st := readNat s a 1
    [failIf (resv || !(st = 0 || st = 3 || st = 4) || landParamsBad kind ps || landTargetBad s u kind ps) stReserved,
     failIf (decide (a % 64 ≠ 0)) stAlign, failIf (tableFull s (landTable u kind ps) || (kind = 4 && decide (3400 < landParam ps 0))) stLength,
     failIf (decide (posEpoch target ≠ posEpoch s.pos)) stStale]
  else [failIf (decide (7 < kind)) stReserved, failIf (decide (a % 64 ≠ 0)) stAlign, stLength]

/-- Enter a landing in its table; a domain that sleeps plans its wake anew (R297). -/
def schedule (u : UnitRef) (kind table : Nat) (target : Pos) (record : Option Nat) (ps : List Word) (op : Option Nat) (s : State) : State :=
  let l : Landing := ⟨s.nextLanding, table, target, kind, record, ps, u, op, false⟩
  wakeFor table target (recordWrite l 0 [1] { s with landings := s.landings ++ [l], nextLanding := s.nextLanding + 1 })

/-- LANDING of a kind other than 0. -/
def landingPlan (s : State) (x : ProgUnit) (f1 f2 low : Nat) : Plan :=
  let kind := low % 256
  let a := gReg x f2
  let target := stReg x f1
  { checks := landChecks s x.ref kind a target, reads := [(a, 64)], writes := [(a, 64)]
    run := fun _ s => let ps := landParams s a
      ⟨schedule x.ref kind (landTable x.ref kind ps) target (some a) ps none s, stDone, 0⟩ }

/-- LANDING of kind 0: a cancel (R293); with no pending landing it has no effect (R290). -/
def cancelPlan (s : State) (x : ProgUnit) (f2 : Nat) : Plan :=
  let a := gReg x f2
  { checks := [failIf (decide (a % 64 ≠ 0)) stAlign, failIf (!memMapped s a 64) stLength], writes := [(a, 64)]
    run := fun _ s => match s.landings.find? fun l => l.record = some a && !l.fired with
      | some l => ⟨closeLanding l 4 stDone s, stDone, 0⟩
      | none => ⟨s, stDone, 0⟩ }

/-! PGRANT (R275, R370). -/

/-- A PGRANT grant of the unit, in force or about to be: what PGRANT of zero watts releases (log entry 23). -/
def releasable (u : UnitRef) (g : Grant) : Bool := g.holder = u && g.source = .pgrant && g.stage ≠ .queued

/-- PGRANT of zero watts: the grants go; a PGRANT that waits for one of them has nothing left to wait for. -/
def releaseGrants (u : UnitRef) (s : State) : State :=
  let gone := (s.power.grants.filter (releasable u)).map (·.n)
  let free := fun (o : Op) => match o.need with
    | .grant n => if gone.contains n then { o with need := OpNeed.work } else o
    | _ => o
  let x := getUnit s u
  dropGrants (releasable u) (setUnit s { x with inFlight := x.inFlight.map free })

/-- PGRANT of w watts; AT schedules the request, WAIT holds the completion until the grant is in force. -/
def pgrantPlan (s : State) (x : ProgUnit) (f1 f2 low : Nat) : Plan :=
  let w := gReg x f1 % 2 ^ 32
  let target := stReg x f2
  let at' := bitAt low 0
  let wait := bitAt low 1
  { checks := [failIf (decide (3400 < w)) stLength, failIf (at' && decide (0 < w) && tableFull s porchDom) stLength,
      failIf (at' && decide (0 < w) && decide (posEpoch target ≠ posEpoch s.pos)) stStale]
    need := if w = 0 ∨ !wait then .work else if at' then .landing s.nextLanding else .grant s.power.nextGrant
    run := fun id s =>
      if w = 0 then ⟨releaseGrants x.ref s, stDone, 0⟩
      else if at' then ⟨schedule x.ref 4 porchDom target none [BitVec.ofNat 64 w] (if wait then some id else none) s, stDone, 0⟩
      else ⟨(request x.ref w .pgrant none s).1, stDone, 0⟩ }

/-! Firing (R291). -/

/-- No landing of the same table comes first. -/
def isFirst (s : State) (l : Landing) : Bool :=
  !s.landings.any fun m => m.table = l.table && !m.fired
    && (decide (m.target.toNat < l.target.toNat) || (decide (m.target = l.target) && decide (m.n < l.n)))

def mayFire (s : State) (l : Landing) : Bool :=
  !l.fired && decide (l.target.toNat ≤ s.pos.toNat) && isFirst s l && awake s l.table && !isDown s l.table

/-- A landing's action ends at once with a fault (R291). -/
def failLanding (l : Landing) (f : FaultInfo) (s : State) : State := endLanding l.n f.status (logFault f s)

/-- The carrier of least index that runs nothing (R217 leaves the choice open, log entry 17). No more than the recorded units run. -/
def idleCarrier (s : State) (dom : Nat) : Option UnitRef :=
  ((List.range (min (unitsFitted dom .carrier) (s.units.length + 1))).find? fun i => !(getUnit s ⟨dom, .carrier, i⟩).running).map
    fun i => ⟨dom, .carrier, i⟩

/-- KIND 0x01: start a carrier program, with g7 zero; with every carrier at work the program starts when one ends (log entry 17). -/
def fireProgram (l : Landing) (s : State) : State :=
  let base := landParam l.params 0
  let flaw := binaryFlaw s base 1
  if flaw ≠ 0 then failLanding l { status := flaw, cls := if flaw = stLost then 2 else 1, dom := l.table, unit := 1 } s
  else if readNat s (base + 8) 4 = 0 then endLanding l.n stDone s
  else match idleCarrier s l.table with
    | some u => startProgram u (.landing l.n) base (landParam l.params 1) (landParam l.params 2 % 2 ^ 32) 0 s
    | none => s

/-- A program whose landing has fired in a domain and which no carrier runs yet. -/
def waitingProgram (s : State) (dom : Nat) : Option Landing :=
  s.landings.find? fun l => l.table = dom && l.fired && l.kind = 1 && !s.units.any fun x => x.owner = .landing l.n

/-- KIND 0x02: start a collective, as COLL does. -/
def fireColl (l : Landing) (s : State) : State :=
  let a := landParam l.params 0
  let st := firstFail (collChecks s a)
  let d := collDesc s a
  let n := d.elements * unitBytes d.etype
  if st ≠ 0 then failLanding l { status := st, cls := statusClass st, dom := l.table, unit := unitCode l.holder.kind } s
  else if d.elements = 0 then endLanding l.n stDone s
  else if [(a, 128), (d.group, 8), (d.src, n), (d.dst, d.dstLen)].any (fun r => needsDown s r.1 r.2) then
    failLanding l { status := stLost, cls := 2, dom := l.table, unit := unitCode l.holder.kind } s
  else startColl a l.holder 0 (some l.n) s

/-- KIND 0x05: set the target; the landing ends with the ramp that it starts, or at once where no clock moves (R375, R376). -/
def firePoint (l : Landing) (s : State) : State :=
  let dom := landParam l.params 0 / 256 % 256
  if dom = porchDom then endLanding l.n stDone s
  else if isDown s dom then failLanding l { status := stLost, cls := 2, dom := l.table, unit := unitCode l.holder.kind } s
  else
    let s := setTarget dom (landParam l.params 0 % 8) s
    if s.power.ramps.any fun r => r.1 = dom then
      { s with power := { s.power with rampLandings := s.power.rampLandings ++ [(dom, l.n)] } }
    else endLanding l.n stDone s

/-- The refresh window opens in its MSD for P0 ticks (R289, R292). -/
def fireRefresh (l : Landing) (s : State) : State :=
  let d := getDomain s l.table
  setDomain s { d with refresh := d.refresh ++ [(l.n, posTick s.pos + landParam l.params 0)] }

def fireAction (l : Landing) (s : State) : State :=
  match l.kind with
  | 1 => fireProgram l s
  | 2 => fireColl l s
  | 3 => if fabState s = fabStopped then endLanding l.n stMinority s else openAnchor l.n s
  | 4 =>
    let r := request l.holder (landParam l.params 0 % 2 ^ 32) (if l.record.isNone then .pgrant else .landing) (some l.n) s
    let s := r.1
    match l.wantOp with
    | some op => mapOp l.holder op (fun o => if o.need = .landing l.n then { o with need := .grant r.2 } else o) s
    | none => s
  | 5 => firePoint l s
  | 6 => fireRefresh l s
  | _ => endLanding l.n stDone s

/-- A landing fires: FIRED, STATE 2, the count of its domain, its action. -/
def fireLanding (l : Landing) (s : State) : State :=
  let s := recordWrite l 0 [2] (recordWrite l 8 (posBytes s.pos) s)
  let s := { s with landings := s.landings.map fun m => if m.n = l.n then { m with fired := true } else m }
  fireAction l (if l.table = porchDom then s else bump s l.table Reg.LAND_FIRED_COUNT 1)

/-- LANDING_ACTION_DONE: a collective whose result is written, or the close of a refresh window at its last tick. -/
def landingDone (l : Landing) (s : State) : State :=
  match l.kind with
  | 2 => match s.colls.find? fun c => c.landing = some l.n with
    | none => s
    | some c => match endColl c { status := 0, cls := 1, dom := l.table, unit := unitCode l.holder.kind } s with
      | some e => if e.status = stLost then failLanding l { status := stLost, cls := 2, dom := l.table, unit := unitCode l.holder.kind } e.s
          else endLanding l.n e.status e.s
      | none => s
  | 6 =>
    let d := getDomain s l.table
    if d.refresh.any fun w => decide (w.1 = l.n) && decide (posTick s.pos < w.2) then s
    else endLanding l.n stDone (setDomain s { d with refresh := d.refresh.filter fun w => w.1 ≠ l.n })
  | _ => s

end Sys2Proof.Machine
end

