-- ==== Sys2Proof/Machine/RowOps.lean ====
section
/-! DEFINITION. Row-sum accumulators (R189, R262), Newel rotations (R114 to R117, R263) and drop-out (R204, R264). -/
namespace Sys2Proof.Machine

/-! RSUM. -/

/-- Block i of an array of accumulators. -/
def rsumBlock (s : State) (a i : Nat) : Nat := readNat s (a + 24 * i) 24
def putRsum (a i v : Nat) (s : State) : State :=
  writeNat s (a + 24 * i) 24 (if v < 2 ^ 192 then v else Config.rowSumOver v)

/-- What one element adds, and the flag it raises (R262). -/
def rsumTerm : FV → Nat × Nat
  | .nan => (0, flNan)
  | .inf _ => (0, flSat)
  | .fin n m => if m = 0 then (0, 0) else if n || decide (2 ^ 149 < m) then (0, flSat) else (m, 0)

def rsumAccRun (ga n : Nat) (ta : View) (s0 : State) : Effect :=
  let r := (List.range n).foldl (fun (acc : State × Nat) i =>
    let ts := (rowOf s0 ta i).map rsumTerm
    let sum : Nat := (ts.map (·.1)).foldl (· + ·) 0
    (putRsum ga i (rsumBlock acc.1 ga i + sum) acc.1, (ts.map (·.2)).foldl (· ||| ·) acc.2)) (s0, 0)
  ⟨r.1, stDone, r.2⟩

def rsumCombRun (ga gb n : Nat) (s : State) : Effect :=
  ⟨(List.range n).foldl (fun s i => putRsum ga i (rsumBlock s ga i + rsumBlock s gb i) s) s, stDone, 0⟩

def rsumOutRun (ga gb n : Nat) (s : State) : Effect :=
  ⟨(List.range n).foldl (fun s i =>
    writeNat s (gb + 4 * i) 4 (roundNum .fp32 none ⟨(rsumBlock s ga i : Int), 0, 2 ^ 149⟩).bits) s, stDone, 0⟩

def rsumPlan (s : State) (x : ProgUnit) (op f1 f2 f3 f4 : Nat) : Plan :=
  let ga := gReg x f1
  let gb := gReg x f2
  let ta := viewOf (tReg x f3)
  let n := gReg x f4
  let bad := decide (2 ^ 24 < n)
  let blocks := (ga, 24 * n)
  let len := fun (r : Nat × Nat) => bad || !memMapped s r.1 r.2
  let base : Plan := { checks := [], draw := scaleDraw s x.ref.dom vectorMilli, empty := n = 0, run := fun _ s => ⟨s, stDone, 0⟩ }
  match op with
  | 0 => { base with
      checks := viewCheck s ta (fun f => f = .fp32) false ++ [failIf (decide (ga % 8 ≠ 0)) stAlign,
        failIf (len blocks || decide (seenRows ta < n)) stLength]
      reads := blocks :: viewRanges ta, writes := [blocks], entries := viewEntries ta, rdEntries := viewEntries ta
      headers := headersOf [ta], views := [ta], run := fun _ s => rsumAccRun ga n ta s }
  | 1 => { base with
      checks := [failIf (decide (ga % 8 ≠ 0) || decide (gb % 8 ≠ 0)) stAlign, failIf (len blocks || len (gb, 24 * n)) stLength]
      reads := [blocks, (gb, 24 * n)], writes := [blocks], run := fun _ s => rsumCombRun ga gb n s }
  | 2 => { base with
      checks := [failIf (decide (ga % 8 ≠ 0) || decide (gb % 4 ≠ 0)) stAlign, failIf (len blocks || len (gb, 4 * n)) stLength]
      reads := [blocks], writes := [(gb, 4 * n)], run := fun _ s => rsumOutRun ga gb n s }
  | _ => { base with checks := [stReserved], empty := false }

/-! ROT. -/

/-- The parity of the ones of a number below 256: the sign of an entry of H_n (R114). -/
def onesOdd (n : Nat) : Bool := (List.range 8).foldl (fun acc i => acc != bitAt n i) false

/-- What ROT is asked for. -/
structure RotArgs where
  h     : Nat
  side  : Nat
  inv   : Bool
  axis  : Nat
  layer : Nat
deriving DecidableEq, Repr

/-- The scale exponent (R114): e, or h − e for the inverse. -/
def rotExp (a : RotArgs) : Nat :=
  let e := if a.side = 0 then a.h / 2 else (a.h + 1) / 2
  if a.inv then a.h - e else e

/-- d_q of a block is −1 (R115). -/
def newelNeg (key : Word) (a : RotArgs) (b q : Nat) : Bool := bitAt (cg key (cgPosNewel a.layer a.h b q)) 0

/-- Output q of a block of inputs: exact sum, sign of an all-negative zero (R114, R117). -/
def rotOut (key : Word) (a : RotArgs) (b q : Nat) (xs : List FV) : VRes :=
  if xs.any fun x => !fvIsFin x then .nan
  else
    let terms := xs.zipIdx.map fun e =>
      let neg := onesOdd (Nat.land q e.2) != newelNeg key a b (if a.inv then q else e.2)
      (e.1, neg)
    let sum := (terms.map fun t => (if t.2 then -fvSign t.1 else fvSign t.1) * (fvMag t.1 : Int)).foldl (· + ·) 0
    numRes (numScale ⟨sum, 0, 2 ^ 149⟩ (-(rotExp a : Int))) (terms.all fun t => fvIsZero t.1 && (fvNeg t.1 != t.2))

/-- The block of ts that holds a stored element along the axis, and the element's place in it. -/
def rotBlock (s : State) (ts : View) (a : RotArgs) (r c : Nat) : List FV × Nat × Nat :=
  let n := 2 ^ a.h
  let p := if a.axis = 0 then r else c
  let get := fun (q : Nat) =>
    let rr := if a.axis = 0 then p / n * n + q else r
    let cc := if a.axis = 0 then c else p / n * n + q
    fvRead (vFmt ts) (leNat (placeRead s (viewPlace ts) (wideAddr ts rr cc) (fmtBytes (vFmt ts))))
  ((List.range n).map get, ((if a.axis = 0 then ts.oRow else ts.oCol) + p) / n, p % n)

/-- The tag that ROT leaves in register td (R263). -/
def rotTag (d : Nat) (a : RotArgs) (turned : Bool) : Nat :=
  if a.inv then setFld d 375 368 0 else tagDesc d a.h a.side a.axis a.layer turned

def rotRun (u : UnitRef) (reg : Nat) (a : RotArgs) (td ts : View) (s : State) : Effect :=
  let x := getUnit s u
  let s0 := setUnit s (setT x reg (rotTag (tReg x reg) a (ts.t != td.t)))
  let key := cgKey s0
  wideOp u td s0 (fun discard t i j =>
    let c := storedAt ts i j
    let b := rotBlock s0 ts a c.1 c.2
    vecPut td (vectorLanes u.dom 0) 0 0 discard t i j (rotOut key a b.2.1 b.2.2 b.1))
    (fun t => if t.sats = 0 then t.s else bump t.s u.dom Reg.ERRC_ROT_SAT_COUNT t.sats)

def rotPlan (s : State) (x : ProgUnit) (f1 f2 f3 low : Nat) : Plan :=
  let td := viewOf (tReg x f1)
  let ts := viewOf (tReg x f2)
  let a : RotArgs := ⟨fld low 3 0, fld low 4 4, bitAt low 5, fld low 6 6, gReg x f3 % 2 ^ 32⟩
  let sizeBad := decide (a.h < 4) || decide (8 < a.h)
  let n := if sizeBad then 16 else 2 ^ a.h
  let ext := if a.axis = 0 then ts.rows else ts.cols
  let org := if a.axis = 0 then ts.oRow else ts.oCol
  { checks := viewCheck s td (fun f => f = .fp32) true ++ viewCheck s ts fmtWide false
      ++ [failIf sizeBad stReserved, failIf (decide (org % n ≠ 0) || decide (ext % n ≠ 0)) stAlign,
        failIf (!sameExtent ts td) stLength]
    reads := viewRanges ts, writes := viewRanges td, entries := viewEntries td ++ viewEntries ts, rdEntries := viewEntries ts
    headers := headersOf [td, ts], views := [td, ts], draw := scaleDraw s x.ref.dom vectorMilli, empty := isEmpty td
    run := fun _ s => rotRun x.ref f1 a td ts s }

/-! DROP. -/

/-- The position of an element's drop-out draw: tag 0x4 (R198, R199). -/
def dropPos (s : State) (td : View) (site i j : Nat) : Nat :=
  let c := storedAt td i j
  cgPosRc 4 site (stepNow s) (td.oRow + c.1) (td.oCol + c.2)

def dropRun (u : UnitRef) (site thr c : Nat) (td ts : View) (s0 : State) : Effect :=
  let key := cgKey s0
  wideOp u td s0 (fun discard t i j =>
    let v := wideGet s0 ts i j
    let gone := decide (cgDraw24 (cg key (dropPos s0 td site i j)) < thr)
    let t := vecPut td (vectorLanes u.dom 0) 0 0 discard t i j (if gone then .zero false else vMul v (fvRead .fp32 c))
    { t with flags := t.flags ||| (if fvIsNan v then flNan else 0) }) (fun t => t.s)

def dropPlan (s : State) (x : ProgUnit) (f1 f2 f3 f4 : Nat) : Plan :=
  let td := viewOf (tReg x f1)
  let ts := viewOf (tReg x f2)
  let gT := gReg x f4
  let c := fld gT 63 32
  { checks := viewCheck s td fmtWide true ++ viewCheck s ts fmtWide false
      ++ [failIf (decide (fld gT 31 24 ≠ 0) || !scaleOk c) stReserved, failIf (!sameExtent ts td || cgTooFar td) stLength]
    reads := viewRanges ts, writes := viewRanges td, entries := viewEntries td ++ viewEntries ts, rdEntries := viewEntries ts
    headers := headersOf [td, ts], views := [td, ts], draw := scaleDraw s x.ref.dom vectorMilli, empty := isEmpty td
    run := fun _ s => dropRun x.ref (gReg x f3 % 2 ^ 32) (gT % 2 ^ 24) c td ts s }

end Sys2Proof.Machine
end

