-- ==== Sys2Proof/Machine/SampleOps.lean ====
section
/-! DEFINITION. The score sampler (R206 to R210, R265) and the RNG instruction (R205, R266). -/
namespace Sys2Proof.Machine

/-! The sampling-stream record (R206). -/

abbrev streamBytes : Nat := 32
def streamId (s : State) (a : Nat) : Nat := readNat s a 4
def streamStride (s : State) (a : Nat) : Nat := readNat s (a + 4) 1 % 64
def streamCursor (s : State) (a : Nat) : Nat := readNat s (a + 8) 8
def streamPos (s : State) (a : Nat) : Nat := readNat s (a + 16) 8

/-- The cursor before the claim: the data position governs (R207 step 1). -/
def claimBase (s : State) (a : Nat) : Nat :=
  let base := streamPos s a * 2 ^ streamStride s a
  let c := streamCursor s a
  if c < base ∨ base + 2 ^ streamStride s a < c then base else c

/-- R206 and R207 before any side effect. -/
def streamChecks (s : State) (a rows : Nat) : List Nat :=
  if memMapped s a streamBytes then
    let st := streamStride s a
    let far := decide (40 < st) || decide (2 ^ (64 - st) ≤ streamPos s a)
    let past := decide (streamPos s a * 2 ^ st + 2 ^ st < claimBase s a + rows)
    [failIf (decide (readNat s (a + 4) 1 / 64 ≠ 0) || decide (readNat s (a + 5) 3 ≠ 0) || decide (readNat s (a + 24) 8 ≠ 0)) stReserved,
     failIf (decide (a % 32 ≠ 0)) stAlign, failIf (far || (decide (0 < rows) && past)) stLength]
  else [failIf (decide (a % 32 ≠ 0)) stAlign, stLength]

/-- The temperature is +0 or positive, finite and normal (R208). -/
def tauOk (t : Nat) : Bool := t = 0 || scaleOk t

/-- A perturbed score: s + τ × g; infinite scores stay as they are (R208, R209). -/
inductive Score where
  | low
  | fin (x : Num)
  | high
deriving DecidableEq, Repr

/-- The row's best candidate: −∞ and NaN are never chosen, ties go to the lower index (R208, R209). -/
def better (a b : Score) : Bool :=
  match a, b with
  | .low, _ => false
  | _, .low => true
  | .fin _, .high => false
  | .high, .fin _ => true
  | .high, .high => false
  | .fin x, .fin y => numLt y x

/-- The score of column j for cursor value c. -/
def scoreOf (key : Word) (stream c tau j : Nat) (v : FV) : Score :=
  match v with
  | .nan => .low
  | .inf n => if n then .low else .high
  | v =>
    if tau = 0 then .fin (fvNum v)
    else
      let g := gumbel (2 * (cg key (cgPosSample stream c j) % 2 ^ 32) + 1) (2 ^ 33)
      .fin (numAdd (fvNum v) (numMul (fp32Num tau) (fvNum g)))

/-- Index and validity of a row's choice. -/
def chooseRow (key : Word) (stream c tau : Nat) (row : List FV) : Nat × Bool :=
  let r := (row.zipIdx).foldl (fun (acc : Score × Nat) e =>
    let x := scoreOf key stream c tau e.2 e.1
    if better x acc.1 then (x, e.2) else acc) (.low, 0)
  (r.2, decide (r.1 ≠ .low))

def sampleRun (ts : View) (a out tau : Nat) (s0 : State) : Effect :=
  let key := cgKey s0
  let c0 := claimBase s0 a
  let id := streamId s0 a
  let s := writeNat s0 (a + 8) 8 (c0 + seenRows ts)
  let r := (List.range (seenRows ts)).foldl (fun (acc : State × Nat) q =>
    let row := rowOf s0 ts q
    let nan := row.any fvIsNan
    let ch := chooseRow key id (c0 + q) tau row
    (writeMem acc.1 (out + 8 * q) (leBytes 4 ch.1 ++ leBytes 4 (b2n ch.2 + 2 * b2n nan)), acc.2 ||| (if nan then flNan else 0))) (s, 0)
  ⟨r.1, stDone, r.2⟩

def samplePlan (s : State) (x : ProgUnit) (f1 f2 f3 f4 : Nat) : Plan :=
  let ts := viewOf (tReg x f1)
  let a := gReg x f2
  let out := gReg x f3
  let gT := gReg x f4
  let rows := seenRows ts
  { checks := viewCheck s ts (fun f => f = .fp32 || f = .bf16) false ++ streamChecks s a rows
      ++ [failIf (!tauOk (gT % 2 ^ 32) || decide (fld gT 63 32 ≠ 0)) stReserved, failIf (decide (out % 8 ≠ 0)) stAlign,
        failIf (decide (65536 < rows) || decide (2 ^ 24 < seenCols ts) || (decide (0 < rows) && decide (seenCols ts = 0))
          || !memMapped s out (8 * rows)) stLength]
    reads := (a, streamBytes) :: viewRanges ts, writes := [(a, streamBytes), (out, 8 * rows)]
    entries := viewEntries ts, rdEntries := viewEntries ts, headers := headersOf [ts], views := [ts]
    draw := scaleDraw s x.ref.dom vectorMilli, empty := rows = 0
    run := fun _ s => sampleRun ts a out (gT % 2 ^ 32) s }

/-! RNG. -/

/-- Bytes of one result (R205). -/
def rngSize (mode : Nat) : Nat := if mode = 0 then 16 else 4

/-- One result (R201). -/
def rngBytes (mode o : Nat) : List Byte :=
  if mode = 0 then leBytes 16 o
  else if mode = 1 then leBytes 4 (o % 2 ^ 32)
  else leBytes 4 (roundNum .fp32 none ⟨(cgDraw24 o : Int), 0, 2 ^ 24⟩).bits

def rngRun (mode dst id w start count : Nat) (s : State) : Effect :=
  let key := cgKey s
  ⟨(List.range count).foldl (fun s i =>
    writeMem s (dst + rngSize mode * i) (rngBytes mode (cg key (cgPosIx 6 id w (start + i))))) s, stDone, 0⟩

def rngPlan (s : State) (x : ProgUnit) (f1 f2 f3 f4 f5 low : Nat) : Plan :=
  let mode := low % 4
  let dst := gReg x f1
  let start := gReg x f4
  let count := gReg x f5
  let far := decide (2 ^ 32 < count) || decide (2 ^ 60 < start + count)
  { checks := [failIf (decide (mode = 3)) stReserved, failIf (decide (dst % rngSize mode ≠ 0)) stAlign,
      failIf (far || !memMapped s dst (rngSize mode * count)) stLength]
    writes := [(dst, rngSize mode * count)], draw := scaleDraw s x.ref.dom vectorMilli, empty := count = 0
    run := fun _ s => rngRun mode dst (gReg x f2 % 2 ^ 32) (gReg x f3 % 2 ^ 32) start count s }

end Sys2Proof.Machine
end

