-- ==== Sys2Proof/Machine/StashPlans.lean ====
section
/-! DEFINITION. OPEN, RELEASE, CLOSE, OFFLOAD and PREFETCH (R174 to R176, R183 to R185, R276). -/
namespace Sys2Proof.Machine

/-! OPEN (R176). -/

/-- Reserved and module-written fields of an entry record that are not zero (R175). -/
def entryFresh (s : State) (a : Nat) : Bool :=
  decide (readNat s (a + 4) 1 / 4 = 0) && decide (readNat s (a + 5) 3 = 0) && decide (readNat s (a + 16) 16 = 0)

def openChecks (s : State) (h : Nat) : List Nat :=
  if memMapped s h 64 then
    let n := hdrCount s h
    let table := hdrTable s h
    let counted := decide (1 ≤ n) && decide (n ≤ 4096)
    let listed := counted && memMapped s table (32 * n)
    let es := if listed then (List.range n).map fun e => table + 32 * e else []
    let size := fun (a : Nat) => readNat s (a + 8) 8
    let resv := [8, 24, 40].any (fun o => decide (readNat s (h + o) 8 / 2 ^ 44 ≠ 0)) || decide (readNat s (h + 56) 8 ≠ 0)
      || decide (readNat s (h + 20) 4 ≠ 0) || decide (readNat s (h + 36) 4 ≠ 0) || decide (readNat s (h + 48) 8 ≠ 0)
      || es.any (fun a => !entryFresh s a) || (findStash s h).isSome
    let mis := decide (h % 64 ≠ 0) || decide (table % 32 ≠ 0) || decide (hdrAttic s h % pageSize ≠ 0)
      || decide (hdrDropLog s h % 8 ≠ 0) || es.any fun a => decide (size a % 32 ≠ 0)
    let far := !listed || es.any (fun a => decide (size a < 32) || decide (2 ^ 32 < size a))
      || !memMapped s (hdrDropLog s h) (8 * n) || !inHbm s (hdrAttic s h) (hdrAtticPages s h * pageSize)
      || decide (freeShare s < hdrBudget s h)
    [failIf resv stReserved, failIf mis stAlign, failIf far stLength]
  else [failIf (decide (h % 64 ≠ 0)) stAlign, stLength]

def openPlan (s : State) (x : ProgUnit) (f1 : Nat) : Plan :=
  let h := gReg x f1
  { checks := openChecks s h, reads := [(h, 64), (hdrTable s h, 32 * hdrCount s h)], headers := [h], locks := [h], need := .opening h
    run := fun _ s => ⟨s, stDone, 0⟩ }

/-- The stash becomes open (R176); an OPEN that another unit's overtook is refused: the header is open by now, or the share gone. -/
def openNow (h : Nat) (s : State) : Effect :=
  if (findStash s h).isSome then ⟨s, stReserved, 0⟩
  else if freeShare s < hdrBudget s h then ⟨s, stLength, 0⟩
  else ⟨{ s with stash := { s.stash with stashes := s.stash.stashes ++ [⟨h, hdrBudget s h, [], []⟩] } }, stDone, 0⟩

/-! The others (R276). -/

/-- A stash operation on an open stash, and the index it names. -/
def stashChecks (s : State) (h : Nat) (e : Option Nat) : List Nat :=
  match findStash s h, e with
  | none, _ => [stReserved]
  | some _, some e => [failIf (decide (hdrCount s h ≤ e)) stLength]
  | some _, none => []

/-- RELEASE waits for the reads of the entry (R185), and for its unit's own operations on it (R246). -/
def releasePlan (s : State) (x : ProgUnit) (f1 f2 : Nat) : Plan :=
  let h := gReg x f1
  let e := gReg x f2
  { checks := stashChecks s h (some e), headers := [h], entries := [(h, e)], locks := [h], hold := (entriesRead s h).contains e
    run := fun _ s => ⟨releaseEntry h e s, stDone, 0⟩ }

/-- CLOSE waits for the reads of every entry that it releases (R185). -/
def closePlan (s : State) (x : ProgUnit) (f1 : Nat) : Plan :=
  let h := gReg x f1
  { checks := stashChecks s h none, headers := [h], locks := [h], hold := !(entriesRead s h).isEmpty
    run := fun _ s => ⟨closeStashAt h s, stDone, 0⟩ }

/-- OFFLOAD (to the Attic) and PREFETCH: the operation ends with its move (R183). -/
def movePlan (toAttic : Bool) (s : State) (x : ProgUnit) (f1 f2 : Nat) : Plan :=
  let h := gReg x f1
  let e := gReg x f2
  { checks := stashChecks s h (some e), headers := [h], entries := [(h, e)], need := .move h e, moves := true
    run := fun id s => ⟨beginMove h e toAttic x.ref id s, stDone, 0⟩ }

end Sys2Proof.Machine
end

