-- ==== Sys2Proof/Machine/OpTable.lean ====
section
/-! DEFINITION. The encoding rows of the operations (R252, R260, R270): opcode, fields that the row uses, units that may run it
(R249), and its plan. RSUM, CXFER and LANDING stand in several rows, told apart by their low fields. -/
namespace Sys2Proof.Machine

/-- The low field [21:0]. -/
def lowOf (f : Fields) : Nat := fld f.toNat 21 0

/-- The body of an operation from its slots F1 to F6 and its low field. -/
def opBody (g : State → ProgUnit → Nat → Nat → Nat → Nat → Nat → Nat → Nat → Plan) : Body :=
  .op fun s x f => g s x (slotF1 f) (slotF2 f) (slotF3 f) (slotF4 f) (slotF5 f) (slotF6 f) (lowOf f)

/-! Tile and matrix family (R252). -/

def tldDef : OpDef :=
  { opc := 0x40, mask := slotMask tSlot tSlot 0 0 0 0 0, units := seqOnly, body := opBody fun s x a b _ _ _ _ _ => tileCopyPlan true s x a b }
def tstDef : OpDef :=
  { opc := 0x41, mask := slotMask tSlot tSlot 0 0 0 0 0, units := seqOnly, body := opBody fun s x a b _ _ _ _ _ => tileCopyPlan false s x a b }
def qntDef : OpDef :=
  { opc := 0x42, mask := slotMask tSlot tSlot gSlot gSlot 0 0 3, units := seqOnly
    body := opBody fun s x a b c d _ _ low => qntPlan s x a b c d (low % 4) }
def mmaDef : OpDef :=
  { opc := 0x48, mask := slotMask cSlot tSlot tSlot gSlot gSlot 0 7, units := seqOnly
    body := opBody fun s x a b c d e _ low => mmaPlan s x (a % 16) b c d e low }
def ldownDef : OpDef :=
  { opc := 0x49, mask := slotMask tSlot tSlot tSlot gSlot 0 0 0, units := seqOnly
    body := opBody fun s x a b c d _ _ _ => ldownPlan s x a b c d }
def drainDef : OpDef :=
  { opc := 0x4A, mask := slotMask tSlot cSlot tSlot tSlot gSlot gSlot 7, units := seqOnly
    body := opBody fun s x a b c d e g low => drainPlan s x a (b % 16) c d e g low }

/-- CZERO (R92, R259). -/
def czeroPlan (_ : State) (x : ProgUnit) (f1 : Nat) : Plan :=
  let sel := cReg x f1
  { checks := [failIf (bankBad x sel) stReserved], banks := [bankIx x.ref.dom sel]
    run := fun _ s => ⟨zeroBank (bankIx x.ref.dom sel) s, stDone, 0⟩ }

def czeroDef : OpDef :=
  { opc := 0x4B, mask := slotMask cSlot 0 0 0 0 0 0, units := seqOnly, body := opBody fun s x a _ _ _ _ _ _ => czeroPlan s x (a % 16) }
def cxferReadDef : OpDef :=
  { opc := 0x4C, mask := slotMask cSlot gSlot gSlot gSlot 0 0 3, units := seqOnly, names := fun f => !bitAt f 0
    body := opBody fun s x a b c d _ _ low => cxferReadPlan s x (cReg x (a % 16)) (gReg x b) (gReg x c) (gReg x d) low }
def cxferAddDef : OpDef :=
  { opc := 0x4C, mask := slotMask cSlot gSlot gSlot gSlot 0 0 3, units := seqOnly, names := fun f => bitAt f 0
    body := opBody fun s x a b c d _ _ _ => cxferAddPlan s x (cReg x (a % 16)) (gReg x b) (gReg x c) (gReg x d) }

/-! Vector and update family (R260). -/

def vopDef : OpDef :=
  { opc := 0x80, mask := slotMask tSlot tSlot tSlot gSlot 0 0 255, units := seqOnly
    body := opBody fun s x a b c d _ _ low => vopPlan s x a b c d low }

/-- The three RSUM rows; the reserved OP 3 falls to RSUM_ACC, which refuses it. -/
def rsumDef (names : Nat → Bool) : OpDef :=
  { opc := 0x81, mask := slotMask gSlot gSlot tSlot gSlot 0 0 3, units := seqOnly, names := names
    body := opBody fun s x a b c d _ _ low => rsumPlan s x (low % 4) a b c d }
def rsumAccDef : OpDef := rsumDef fun f => decide (f % 4 = 0) || decide (f % 4 = 3)
def rsumCombDef : OpDef := rsumDef fun f => decide (f % 4 = 1)
def rsumOutDef : OpDef := rsumDef fun f => decide (f % 4 = 2)

def rotDef : OpDef :=
  { opc := 0x84, mask := slotMask tSlot tSlot gSlot 0 0 0 127, units := seqOnly
    body := opBody fun s x a b c _ _ _ low => rotPlan s x a b c low }
def dropDef : OpDef :=
  { opc := 0x85, mask := slotMask tSlot tSlot gSlot gSlot 0 0 0, units := seqOnly
    body := opBody fun s x a b c d _ _ _ => dropPlan s x a b c d }
def sampleDef : OpDef :=
  { opc := 0x88, mask := slotMask tSlot gSlot gSlot gSlot 0 0 0, units := seqOnly
    body := opBody fun s x a b c d _ _ _ => samplePlan s x a b c d }
def rngDef : OpDef :=
  { opc := 0x89, mask := slotMask gSlot gSlot gSlot gSlot gSlot 0 3, units := seqOnly
    body := opBody fun s x a b c d e _ low => rngPlan s x a b c d e low }
def hupdDef : OpDef :=
  { opc := 0x8C, mask := slotMask gSlot 0 0 0 0 0 0, units := seqOnly, body := opBody fun s x a _ _ _ _ _ _ => hupdPlan s x a }
def hloadDef : OpDef :=
  { opc := 0x8D, mask := slotMask gSlot gSlot 0 0 0 0 63, units := seqOnly
    body := opBody fun s x a b _ _ _ _ low => hloadPlan s x a b low }

/-! Transfer and synchronisation family (R270), without WAITST, FENCE and RING. -/

def xferDef : OpDef :=
  { opc := 0xC0, mask := slotMask gSlot gSlot gSlot gSlot gSlot 0 3, units := allUnits
    body := opBody fun s x a b c d e _ low => xferPlan s x a b c d e low }
def collDef : OpDef :=
  { opc := 0xC4, mask := slotMask gSlot 0 0 0 0 0 0, units := notCarrier, body := opBody fun s x a _ _ _ _ _ _ => collPlan s x a }
def landingDef : OpDef :=
  { opc := 0xC9, mask := slotMask stSlot gSlot 0 0 0 0 255, units := allUnits, names := fun f => decide (f % 256 ≠ 0)
    body := opBody fun s x a b _ _ _ _ low => landingPlan s x (a % 4) b low }
def landingCancelDef : OpDef :=
  { opc := 0xC9, mask := slotMask stSlot gSlot 0 0 0 0 255, units := allUnits, names := fun f => decide (f % 256 = 0)
    body := opBody fun s x _ b _ _ _ _ _ => cancelPlan s x b }
def pgrantDef : OpDef :=
  { opc := 0xCC, mask := slotMask gSlot stSlot 0 0 0 0 3, units := allUnits
    body := opBody fun s x a b _ _ _ _ low => pgrantPlan s x a (b % 4) low }
def openDef : OpDef :=
  { opc := 0xD0, mask := slotMask gSlot 0 0 0 0 0 0, units := notLink, body := opBody fun s x a _ _ _ _ _ _ => openPlan s x a }
def releaseDef : OpDef :=
  { opc := 0xD1, mask := slotMask gSlot gSlot 0 0 0 0 0, units := notLink
    body := opBody fun s x a b _ _ _ _ _ => releasePlan s x a b }
def closeDef : OpDef :=
  { opc := 0xD2, mask := slotMask gSlot 0 0 0 0 0 0, units := notLink, body := opBody fun s x a _ _ _ _ _ _ => closePlan s x a }
def offloadDef : OpDef :=
  { opc := 0xD3, mask := slotMask gSlot gSlot 0 0 0 0 0, units := carrierOnly
    body := opBody fun s x a b _ _ _ _ _ => movePlan true s x a b }
def prefetchDef : OpDef :=
  { opc := 0xD4, mask := slotMask gSlot gSlot 0 0 0 0 0, units := carrierOnly
    body := opBody fun s x a b _ _ _ _ _ => movePlan false s x a b }

/-- A waiting instruction with its row: what the unit looks at again. -/
structure Waiting where
  f : Fields
  d : OpDef

/-- The operation that an instruction issues, but for those of the control tables. -/
def opOf : Instr → Option Waiting
  | .tld _ f => some ⟨f, tldDef⟩
  | .tst _ f => some ⟨f, tstDef⟩
  | .qnt _ f => some ⟨f, qntDef⟩
  | .mma _ f => some ⟨f, mmaDef⟩
  | .ldown _ f => some ⟨f, ldownDef⟩
  | .drain _ f => some ⟨f, drainDef⟩
  | .czero _ f => some ⟨f, czeroDef⟩
  | .cxferRead _ f => some ⟨f, cxferReadDef⟩
  | .cxferAdd _ f => some ⟨f, cxferAddDef⟩
  | .vop _ f => some ⟨f, vopDef⟩
  | .rsumAcc _ f => some ⟨f, rsumAccDef⟩
  | .rsumComb _ f => some ⟨f, rsumCombDef⟩
  | .rsumOut _ f => some ⟨f, rsumOutDef⟩
  | .rot _ f => some ⟨f, rotDef⟩
  | .drop _ f => some ⟨f, dropDef⟩
  | .sample _ f => some ⟨f, sampleDef⟩
  | .rng _ f => some ⟨f, rngDef⟩
  | .hupd _ f => some ⟨f, hupdDef⟩
  | .hload _ f => some ⟨f, hloadDef⟩
  | .xfer _ f => some ⟨f, xferDef⟩
  | .coll _ f => some ⟨f, collDef⟩
  | .landing _ f => some ⟨f, landingDef⟩
  | .landingCancel _ f => some ⟨f, landingCancelDef⟩
  | .pgrant _ f => some ⟨f, pgrantDef⟩
  | .openStash _ f => some ⟨f, openDef⟩
  | .release _ f => some ⟨f, releaseDef⟩
  | .closeStash _ f => some ⟨f, closeDef⟩
  | .offload _ f => some ⟨f, offloadDef⟩
  | .prefetch _ f => some ⟨f, prefetchDef⟩
  | _ => none

/-- The unit waits at issue for power alone: the other waits have ended, the checks pass, the gate is shut (R369, R373). -/
def waitsForPower (s : State) (x : ProgUnit) : Bool :=
  match x.waiting.bind opOf with
  | some ⟨f, d⟩ => match d.body with
    | .op g =>
      let p := g s x f
      !mustWait s x p && decide (firstFail p.checks = 0) && !p.hold && decide (gate s x p.draw p.moves ≠ .go)
    | .control _ => false
  | none => false

end Sys2Proof.Machine
end

