-- ==== Sys2Proof/Machine/PowerEvents.lean ====
section
/-! DEFINITION. What the power controller does at its events (R364 to R387): samples, the limiter, grants, withdrawal, ageing, droop,
temperatures, slow notices and energy. Sums of samples are exact, in milliwatts. -/
namespace Sys2Proof.Machine

/-- Set a bit of PWR_STATUS; HOT, EMERGENCY and CEILING_HOLD interrupt when they become set (R399). -/
def raisePower (bit : Nat) (s : State) : State :=
  if pf s Reg.PWR_STATUS bit bit = 1 then s
  else sendMsi (getReg s porchDom Reg.HALL_MSI_POWER) (setPf s Reg.PWR_STATUS bit bit 1)

/-! Withdrawal (R373). -/

/-- A landing whose request is withdrawn ends with the status. -/
def endWithdrawn (s : State) (g : Grant) : State :=
  match g.landing.bind (findLanding s), g.stage with
  | some l, .queued => failLanding l { status := stGrant, cls := 2, dom := l.table, unit := unitCode l.holder.kind } s
  | some l, .admitted => failLanding l { status := stGrant, cls := 2, dom := l.table, unit := unitCode l.holder.kind } s
  | _, _ => s

/-- Every grant and request goes; the operations that wait for power, and waiting PGRANTs, end with GRANT_WITHDRAWN. -/
def withdrawAll (s : State) : State :=
  let stuck := (s.units.filter (waitsForPower s)).map (·.ref)
  let s := s.power.grants.foldl endWithdrawn s
  withdrawGrants (stuck.foldl (fun s u => refuse u stGrant s) s)

/-! Samples (R364, R366, R370, R372). -/

/-- PWR_LIMIT and PWR_WINDOW as used (R366). -/
def limitWatts (s : State) : Nat := max 1200 (min 2800 (pf s Reg.PWR_LIMIT 11 0))
def windowSecs (s : State) : Nat := max 1 (min 10 (pf s Reg.PWR_WINDOW 3 0))

/-- The sum of the newest n samples. -/
def newest (s : State) (n : Nat) : Nat := (s.power.samples.drop (s.power.samples.length - n)).foldl (· + ·) 0

/-- PWR_MEASURE.M100 and WINDOW_AVG, in whole watts. -/
def showMeasure (s : State) : State :=
  let n := windowSecs s * 100000
  setPf (setPf s Reg.PWR_MEASURE 15 0 (lastTen s / 10000)) Reg.PWR_MEASURE 31 16 (newest s n / (n * 1000))

/-! Energy (R386). -/

/-- The estimates of a unit's operations in flight, in µW. -/
def unitDraw (x : ProgUnit) : Nat := (x.inFlight.map (·.draw)).foldl (· + ·) 0
def domDraw (s : State) (dom : Nat) : Nat := ((s.units.filter fun x => x.ref.dom = dom).map unitDraw).foldl (· + ·) 0

/-- A domain's weight in the division: its static share and its activity. -/
def domWeight (s : State) (dom : Nat) : Nat := Config.staticShare dom * 1000 + domDraw s dom

/-- The running commands of a domain, each with its unit's estimate. -/
def runningCmds (s : State) (dom : Nat) : List (Nat × Nat × Nat) :=
  (s.units.filter fun x => x.ref.dom = dom && x.running).filterMap fun x => match x.owner with
    | .command q seq => some (q, seq, unitDraw x)
    | _ => none

def chargeCmd (q seq nj : Nat) (s : State) : State :=
  let x := getQueue s q
  setQueue s { x with cmds := x.cmds.map fun c => if c.seq = seq then { c with nj := c.nj + nj } else c }

/-- One domain's share among its commands, equally where their units estimate nothing; what division leaves is overhead. -/
def chargeDomain (dom nj : Nat) (s : State) : State :=
  if dom < 2 then addOverhead nj s
  else
    let cs := runningCmds s dom
    if cs.isEmpty then addIdle nj s
    else
      let total : Nat := (cs.map (·.2.2)).foldl (· + ·) 0
      let part := fun (w : Nat) => if total = 0 then nj / cs.length else nj * w / total
      let spent : Nat := (cs.map fun c => part c.2.2).foldl (· + ·) 0
      addOverhead (nj - spent) (cs.foldl (fun s c => chargeCmd c.1 c.2.1 (part c.2.2) s) s)

/-- The energy of one sample, 10 nJ for each milliwatt. -/
def chargeSample (mw : Nat) (s : State) : State :=
  let all := 10 * mw
  let loss := min all (10 * Config.conversionLoss mw)
  let ds := (domainIds s.variant).filter fun d => !isLost s d
  let total : Nat := (ds.map (domWeight s)).foldl (· + ·) 0
  let share := fun (d : Nat) => if total = 0 then 0 else (all - loss) * domWeight s d / total
  let spent : Nat := (ds.map share).foldl (· + ·) 0
  let s' := addOverhead (all - spent) (ds.foldl (fun s' d => chargeDomain d (share d) s') (addTotal all s))
  if jobId s' = 0 then s' else addJob all s'

/-- POWER_SAMPLE. The ten-second window is the longest that anything reads. -/
def powerSample (mw : Nat) (s : State) : State :=
  let all := s.power.samples ++ [mw]
  let s := { s with power := { s.power with samples := all.drop (all.length - 1000000) } }
  let s := showMeasure (chargeSample mw s)
  let s := if 3400 * 10000 < lastTen s then
      let s := raisePower 8 s
      bump (setLimiter (max 1 (pf s Reg.PWR_STATUS 4 0 - 4)) s) porchDom Reg.PWR_CEILING_TRIP_COUNT 1
    else if lastTen s ≤ 3300 * 10000 then setPf s Reg.PWR_STATUS 8 8 0 else s
  letIn s

/-! The limiter (R366, R367). -/

/-- Ten times the room, in milliwatts. -/
def room (s : State) : Int :=
  let n := windowSecs s * 100000
  ((limitWatts s * 1000 * n : Nat) : Int) - (newest s (n - 10) : Int)

/-- The CDs lowered by new numbers of points (R367). -/
def lowerBy (g : Nat → Nat) (s : State) : State :=
  retarget { s with power := { s.power with lowered := ((fittedOf s .cd).map fun d => (d, g d)).filter fun e => decide (0 < e.2) } }
/-- Every CD one point lower, down to point 5; every lowered CD one point higher, up to its target (R367). -/
def lowerAll (s : State) : State := lowerBy (fun d => min (loweredBy s d + 1) (5 - targetPoint s d)) s
def raiseAll (s : State) : State := lowerBy (fun d => loweredBy s d - 1) s

/-- LIMITER_STEP: the rate, then the operating points after a whole window at one end. -/
def limiterStep (s : State) : State :=
  let r := pf s Reg.PWR_STATUS 4 0
  let m : Int := lastTen s
  let steps := windowSecs s * 10000
  let past := decide (room s < m)
  let r' := if past then max 1 (r - 1) else if m + 640000 < room s ∧ r < 16 then r + 1 else r
  let low := if r = 1 ∧ r' = 1 ∧ past = true then s.power.lowWindow + 1 else 0
  let high := if r = 16 ∧ r' = 16 ∧ 20 * lastTen s ≤ 19 * (limitWatts s * 10000) then s.power.highWindow + 1 else 0
  let s := setLimiter r' s
  let put := fun (a b : Nat) (s : State) => { s with power := { s.power with lowWindow := a, highWindow := b } }
  if steps ≤ low then put 0 0 (lowerAll s)
  else if steps ≤ high then put 0 0 (raiseAll s)
  else put low high s

/-! Grants (R369, R371). -/

/-- GRANT_IN_FORCE: what waited for this grant goes on. -/
def grantInForce (n : Nat) (s : State) : State :=
  match s.power.grants.find? fun g => g.n = n && g.stage = .admitted with
  | none => s
  | some g =>
    let gs := s.power.grants.map fun y => if y.n = n then { y with stage := GrantStage.inForce } else y
    let s := { s with power := { s.power with grants := gs } }
    let mark := fun (o : Op) => if o.need = .grant n then { o with need := OpNeed.work } else o
    let s := { s with units := s.units.map fun x => { x with inFlight := x.inFlight.map mark } }
    let s := match g.landing with
      | some l => endLanding l stDone s
      | none => s
    showGrants s

/-- Take watts from a unit's automatic grants in force, the newest first. -/
def shrink (u : UnitRef) : Nat → List Grant → List Grant
  | _, [] => []
  | w, g :: t =>
    if g.holder = u ∧ g.source = .auto ∧ g.stage = .inForce then
      { g with watts := g.watts - w } :: shrink u (w - g.watts) t
    else g :: shrink u w t

/-- AUTO_GRANT_RELEASE: E has stayed 80 W or more below G for 100 µs. -/
def releaseAuto (u : UnitRef) (s : State) : State :=
  let g := grantsWhere s fun g => g.holder = u && g.source = .auto && g.stage = .inForce
  let spare := g * 1000000 - unitDraw (getUnit s u)
  if u.kind = .sequencer ∧ 80000000 ≤ spare then
    let gs := (shrink u (16 * (spare / 16000000)) s.power.grants.reverse).reverse
    showGrants { s with power := { s.power with grants := gs.filter fun y => y.stage ≠ .inForce || decide (0 < y.watts) } }
  else s

/-! Ageing (R378). -/

/-- V_SET plus the offset exceeds V_CEIL at a point. -/
def pastCeiling (s : State) (dom point : Nat) : Bool :=
  decide (fld (getReg s dom (Reg.VTABLE0 + 8 * point)).toNat 31 16 < supply s dom point)

def ageingWord (dom : Nat) (s : State) : Nat := rf s dom Reg.PWR_AGE 8 0 + 65536 * rf s dom Reg.PWR_OPPOINT 18 16

def saveAgeing (dom : Nat) (s : State) : State :=
  { s with mram := { s.mram with ageing := assign s.mram.ageing dom (ageingWord dom s) } }

/-- AGEING_CHECK. With point 5 itself past its ceiling, MAX_ALLOWED stays at 5, the lowest there is. -/
def ageingCheck (dom margin : Nat) (s : State) : State :=
  let least := fld (getReg s dom (Reg.VTABLE0 + 8 * rf s dom Reg.PWR_OPPOINT 2 0)).toNat 39 32
  if least ≤ margin then s
  else
    let s := setRf s dom Reg.PWR_AGE 7 0 (satAdd 8 (rf s dom Reg.PWR_AGE 7 0) 1)
    let gone := (List.range 6).filter (pastCeiling s dom)
    let s := if gone.isEmpty then s else
      let m := max (rf s dom Reg.PWR_OPPOINT 18 16) (min 5 (gone.foldl max 0 + 1))
      setRf (setRf s dom Reg.PWR_OPPOINT 18 16 m) dom Reg.PWR_AGE 8 8 1
    retarget (showSupply dom (saveAgeing dom s))

/-! Droop and ramps (R376, R379). -/

def droopTrip (dom : Nat) (s : State) : State :=
  if s.power.droop.contains dom then s
  else
    let s := bump { s with power := { s.power with droop := s.power.droop ++ [dom] } } dom Reg.PWR_DROOP_COUNT 1
    showRates (if rf s dom Reg.PWR_OPPOINT 24 24 = 1 then setRf s dom Reg.PWR_OPPOINT 25 25 1 else s)

def droopClose (dom : Nat) (s : State) : State :=
  showRates { s with power := { s.power with droop := s.power.droop.filter (· ≠ dom) } }

/-- FROZEN_RAMP_RESUME: 20 µs after the window closed. -/
def resumeRamp (dom : Nat) (s : State) : State :=
  if s.power.droop.contains dom then s
  else
    let s := setRf s dom Reg.PWR_OPPOINT 25 25 0
    if s.power.rampHeld.contains dom then
      setRf { s with power := { s.power with rampHeld := s.power.rampHeld.filter (· ≠ dom) } } dom Reg.PWR_OPPOINT 24 24 1
    else s

/-- OPPOINT_RAMP_DONE: the point and the supply of the ramp's end; the landings that ramped end (R376). -/
def rampDone (dom : Nat) (s : State) : State :=
  match s.power.ramps.find? fun r => r.1 = dom with
  | none => s
  | some (_, p) =>
    if rf s dom Reg.PWR_OPPOINT 24 24 = 0 ∨ rf s dom Reg.PWR_OPPOINT 25 25 = 1 then s
    else
      let ends := (s.power.rampLandings.filter fun r => r.1 = dom).map (·.2)
      let s := { s with power := { s.power with ramps := s.power.ramps.filter (fun r => r.1 ≠ dom),
                                                rampLandings := s.power.rampLandings.filter fun r => r.1 ≠ dom } }
      let s := showSupply dom (setRf (setRf s dom Reg.PWR_OPPOINT 2 0 p) dom Reg.PWR_OPPOINT 24 24 0)
      ends.foldl (fun s n => endLanding n stDone s) s

/-! Temperatures (R381, R382). -/

/-- Readings go to PWR_SENSE.TEMP_C; HOT says that a die stands at 95 °C or above. -/
def takeTemps (temps : List (Nat × Nat)) (s : State) : State :=
  let s := temps.foldl (fun s t =>
    let s := { s with power := { s.power with temps := assign s.power.temps t.1 t.2 } }
    if (powered s).contains t.1 then setRf s t.1 Reg.PWR_SENSE 7 0 (min t.2 255) else s) s
  if s.power.temps.any fun t => decide (95 ≤ t.2) then raisePower 6 s else setPf s Reg.PWR_STATUS 6 6 0

/-- The CDs whose cap answers for a die: itself, or the CDs next to it. -/
def cdsFor (s : State) (dom : Nat) : List Nat :=
  if domType dom = some .cd then [dom] else (neighbours s.variant dom).filter fun d => decide (domType d = some .cd)

/-- The ordered pairs of neighbours, the hotter first, with known temperatures. -/
def hotPairs (s : State) : List (Nat × Nat × Nat) :=
  s.power.temps.flatMap fun a => (s.power.temps.filter fun b =>
    (neighbours s.variant a.1).contains b.1 && decide (b.2 < a.2)).map fun b => (a.1, b.1, a.2 - b.2)

/-- CONVERGENCE_STEP: a pair acts from above 35 °C down to 30 °C. -/
def convergenceStep (temps : List (Nat × Nat)) (s : State) : State :=
  let s := takeTemps temps s
  let acts := (hotPairs s).filter fun p => decide (35 < p.2.2) || (decide (30 < p.2.2) && s.power.hotSides.contains (p.1, p.2.1))
  let low := (acts.flatMap fun p => cdsFor s p.1).eraseDups
  let s := { s with power := { s.power with hotSides := acts.map fun p => (p.1, p.2.1) } }
  showRates ((fittedOf s .cd).foldl (fun s d =>
    let c := lookup 16 s.power.converge d
    let c' := if low.contains d then max 1 (c - 1) else min 16 (c + 1)
    if c = c' then s
    else bump { s with power := { s.power with converge := assign s.power.converge d c' } } d Reg.PWR_CONVERGE_COUNT 1) s)

/-- THERMAL_CAP_STEP: down at 95 °C, up below 92 °C, held between. -/
def thermalStep (temps : List (Nat × Nat)) (s : State) : State :=
  let s := takeTemps temps s
  let reached := fun (limit : Nat) => ((s.power.temps.filter fun t => decide (limit ≤ t.2)).flatMap fun t => cdsFor s t.1)
  let hot := reached 95
  let warm := reached 92
  showRates ((fittedOf s .cd).foldl (fun s d =>
    let c := lookup 16 s.power.thermal d
    let c' := if hot.contains d then max 1 (c - 1) else if warm.contains d then c else min 16 (c + 1)
    { s with power := { s.power with thermal := assign s.power.thermal d c' } }) s)

/-- THERMAL_EMERGENCY: once per emergency; it raises an in-band interrupt (R457). -/
def thermalEmergency (dom temp : Nat) (s : State) : State :=
  let s := takeTemps [(dom, temp)] s
  if emergency s then s
  else
    let s := withdrawAll (emit (.ibi 1) (raisePower 7 s))
    let caps := (fittedOf s .cd).foldl (fun l d => assign l d 1) s.power.thermal
    retarget (showRates { s with power := { s.power with thermal := caps } })

/-- EMERGENCY_END: every die is below 95 °C; the targets are restored. -/
def emergencyEnd (temps : List (Nat × Nat)) (s : State) : State :=
  let s := takeTemps temps s
  if emergency s && s.power.temps.all (fun t => decide (t.2 < 95)) then retarget (setPf s Reg.PWR_STATUS 7 7 0) else s

/-! Slow notices (R383 to R385). -/

/-- The lowest rate of the CDs, droop halving ignored. -/
def slowRate (s : State) : Nat := ((presentOf s .cd).map fun d => cdRate s d false).foldl min 16

/-- The slowest CD: least rate times clock, then least ID (log entry 61). -/
def slowest (s : State) : Nat :=
  let speed := fun (d : Nat) => cdRate s d false * (8 - rf s d Reg.PWR_OPPOINT 2 0)
  (presentOf s .cd).foldl (fun best d => if speed d < speed best then d else best) ((presentOf s .cd).headD 0x10)

/-- The module is throttled. -/
def throttled (s : State) : Bool :=
  decide (slowRate s < 16)
    || ((pf s Reg.PWR_STATUS 5 5 = 1 || emergency s)
        && (presentOf s .cd).any fun d => decide (min 5 (rf s d Reg.PWR_OPPOINT 10 8) < rf s d Reg.PWR_OPPOINT 2 0))

/-- T_arr; the clock of point k is (8 − k)/8 of 1.2 GHz (R375). -/
def arrivalTick (s : State) : Nat :=
  let d := slowest s
  let t := 8 - min 5 (rf s d Reg.PWR_OPPOINT 10 8)
  let c := 8 - rf s d Reg.PWR_OPPOINT 2 0
  s.stepTick + ceilDiv (pf s Reg.PWR_SLOW_BASIS 47 0 * 16 * t) (slowRate s * c)

def notice (s : State) (arr : Nat) : List Byte :=
  leBytes 1 2 ++ leBytes 1 (slowRate s) ++ leBytes 1 (rf s (slowest s) Reg.PWR_OPPOINT 2 0) ++ [0] ++ leBytes 2 (jobRank s)
    ++ posBytes (mkPos (posEpoch s.pos) (posStep s.pos + 1) 0 0 arr) ++ List.replicate 11 0

def sendNotice (arr : Nat) (active : Bool) (s : State) : State :=
  let s := bump (sendToMembers 1 2 (notice s arr) s) porchDom Reg.PWR_SLOW_SENT_COUNT 1
  { s with power := { s.power with lastArr := arr, lastNotice := some s.power.clock, notified := active } }

/-- SLOW_NOTICE_SEND, in a running job: when throttling begins, when T_arr moves, when throttling ends. -/
def slowSend (s : State) : State :=
  let basis := pf s Reg.PWR_SLOW_BASIS 47 0
  if fabState s ≠ fabRunning ∨ pf s Reg.PWR_CTRL 1 1 = 0 ∨ basis = 0 then s
  else if throttled s then
    let arr := arrivalTick s
    let moved := (arr - s.power.lastArr) + (s.power.lastArr - arr)
    let soon := match s.power.lastNotice with
      | some t => decide (s.power.clock < t + 10000)
      | none => false
    if soon then s
    else if s.power.notified && decide (16 * moved < basis) then s
    else sendNotice arr true s
  else if s.power.notified then sendNotice 0 false s
  else s

/-- What a notice changes (R385). -/
def takeNotice (b : List Byte) (s : State) : State :=
  let p : Pos := BitVec.ofNat 120 (recNat b 6 15)
  let arr := posTick p
  let s := bump s porchDom Reg.PWR_SLOW_RECV_COUNT 1
  let s := setReg s porchDom Reg.PWR_SLOW_LAST
    (BitVec.ofNat 64 (recNat b 4 2 + (recNat b 1 1 % 32) * 65536 + (recNat b 2 1 % 8) * 2 ^ 21))
  let s := setReg s porchDom Reg.PWR_SLOW_LAST_TICK (BitVec.ofNat 64 arr)
  if pf s Reg.PWR_CTRL 2 2 = 1 ∧ posEpoch p = posEpoch s.pos ∧ posStep p = posStep s.pos + 1 then
    (dies s).foldl (fun s d => if rf s d Reg.LP_HINT 47 0 < arr then setRf s d Reg.LP_HINT 47 0 arr else s) s
  else s

end Sys2Proof.Machine
end

