-- ==== Sys2Proof/Machine/DomainOps.lean ====
section
/-! DEFINITION. Domain failures and resets (R43, R337 to R344, R441, R460): requests, causes, and the end of a reset. -/
namespace Sys2Proof.Machine

/-! Requests and causes (R340). -/

/-- The types that a domain reset may name: not the Porch. -/
def resettable (s : State) (dom : Nat) : Bool := isFitted s dom && decide (dom ≠ porchDom) && !inReset s dom

/-- DOM_RESET.GO: refused for the Porch, an unfitted domain, or one already in reset. -/
def requestReset (v : Nat) (s : State) : State :=
  if !bitAt v 8 then s
  else if resettable s (fld v 7 0) then domainReset (fld v 7 0) 1 0 s
  else setPf s Reg.DOM_RESET 9 9 1

/-- A reset that the module starts itself. -/
def failDomain (dom cause causeRec : Nat) (s : State) : State :=
  if resettable s dom && !isLost s dom then domainReset dom cause causeRec s else s

/-- The sites that a packet passes (R40): along the row of its source to the column of its destination, then along that column. -/
def corridorRoute (a b : Nat) : List Nat :=
  let along := fun (x y : Nat) => if x ≤ y then (List.range (y + 1 - x)).map (x + ·) else (List.range (x + 1 - y)).map (x - ·)
  (along (a % 5) (b % 5)).map (a / 5 * 5 + ·) ++ ((along (a / 5) (b / 5)).drop 1).map (5 * · + b % 5)

/-- The two sites are the ends of an edge that a packet from one domain to another crosses, in its direction. -/
def onRoute (src dst siteA siteB : Nat) : Bool :=
  let r := corridorRoute (siteOf src) (siteOf dst)
  (r.zip (r.drop 1)).contains (siteA, siteB)

/-- The deferred work of an operation that fails does not take place (R43): no update, no opened stash, no collective, no move. A RING to
STAIR_CLOSE has opened its boundary already. -/
def abandonWork (u : UnitRef) (op : Nat) (need : OpNeed) (s : State) : State :=
  match need with
  | .coll key => { s with colls := s.colls.filter fun c => c.key ≠ key }
  | .move _ _ => cancelMovesOf (fun m => m.mover = u && m.op = op) s
  | _ => s

/-- What a failed operation still waits for. -/
def needAfterFail : OpNeed → OpNeed
  | .close => .close
  | _ => .work

/-- An operation in flight fails with DOMAIN_LOST, its record written (R43). -/
def failOp (u : UnitRef) (op : Nat) (s : State) : State :=
  match (getUnit s u).inFlight.find? fun o => o.id = op with
  | none => s
  | some o =>
    if o.status ≠ 0 then s
    else mapOp u op (fun o => { o with status := stLost, logged := true, need := needAfterFail o.need }) (abandonWork u op o.need s)

/-- CORRIDOR_CRC_FAIL (R43): the record, the operation's status, and the reset of the destination (R340). -/
def corridorFail (src dst siteA siteB : Nat) (u : UnitRef) (op : Nat) (s : State) : State :=
  let n := nextLogSeq s
  let x := getUnit s u
  let mine := decide (u.dom = src) && x.inFlight.any fun o => o.id = op
  let s := logFault { status := stLost, cls := 2, dom := src, cmd := if mine then ownerCmd x.owner else none,
                      detail := some (src + 256 * dst, siteA + 256 * siteB, 4), unit := if mine then unitCode u.kind else 0 } s
  let s := if mine then failOp u op s else s
  failDomain dst 4 n s

/-! The fault log (R339). -/

/-- FLOG_COPY: the record with the LOG_SEQ, or 64 zero bytes. -/
def copyRecord (v : Nat) (s : State) : State :=
  let d := pf s Reg.FLOG_COPY_DEST 43 0
  let a := if d % 64 = 0 then d else 0
  let bytes := (s.faults.find? fun b => recNat b 0 4 = v % 2 ^ 32).getD (List.replicate 64 0)
  if memMapped s a 64 && !needsDown s a 64 then writeMem s a bytes else s

/-! The end of a reset (R341 to R343). -/

/-- The identity registers from the image that the domain loads (R441): the one that was its source when its reset began (R427). -/
def loadIdentity (dom : Nat) (s : State) : State :=
  let im := (getDomain s dom).image.getD (sourceImage s dom)
  let s := setRf s dom Reg.DOM_INFO 63 32 im.version
  let s := setReg s dom Reg.DOM_SVN (BitVec.ofNat 64 im.svn)
  (List.range 8).foldl (fun s i => setReg s dom (0xF40 + 8 * i) (BitVec.ofNat 64 (recNat im.digest (8 * i) 8))) s

/-- Every field but the STK ones takes its reset value (R16); the identity and voltage registers are loaded, not reset. -/
def resetRegs (dom : Nat) (s : State) : State :=
  (regOffsets dom).foldl (fun s off =>
    let loaded := (decide (0xF00 ≤ off) && decide (off < 0x1000)) || (decide (Reg.VTABLE0 ≤ off) && decide (off ≤ Reg.VTABLE5))
    match regDef dom off with
    | some r =>
      if loaded then s
      else
        let keep := BitVec.ofNat 64 r.stk
        setReg s dom off ((getReg s dom off &&& keep) ||| (regDefault s.variant (regKey dom off) &&& ~~~keep))
    | none => s) s

/-- Step 3 of R341: SRAM and the Larder zero, banks empty, programs lost, lanes rekeyed (R112, R212, R342). -/
def scrub (dom : Nat) (s : State) : State :=
  let s := { s with mem := tblClear s.mem (slotBase dom) (sramSize dom) }
  if domType dom = some .cd then
    let s := (List.range 32).foldl (fun s b => zeroBank ((dom - 0x10) * 32 + b) s) s
    rekey dom { s with hearth := s.hearth.filter fun h => h.1 / 64 ≠ dom }
  else s

/-- The registers of a domain that has been reset; its droop windows and ramps are over. -/
def freshDomain (dom : Nat) (s : State) : State :=
  let key := getReg s dom Reg.LG_KEY
  let s := loadIdentity dom (resetRegs dom s)
  let s := setDomain s { getDomain s dom with image := none }
  let s := if domType dom = some .cd then
      setReg (setRf s dom Reg.TRAIN_STEP_STATUS 31 0 (posStep s.pos)) dom Reg.LG_KEY key else s
  let p := s.power
  let p := { p with droop := p.droop.filter (· ≠ dom), ramps := p.ramps.filter (fun r => r.1 ≠ dom), rampHeld := p.rampHeld.filter (· ≠ dom) }
  showSupply dom (showRates { s with power := p })

/-- The aborted completions of R227, in sequence order, each after its CLASS 6 record. -/
def writeAborted (dom : Nat) (s : State) : State :=
  let lost := (getDomain s dom).aborted
  let s := lost.foldl (fun s c =>
    writeCompletion c.1 (finishCmd c.1 c.2 stAbortedReset 0
      (logFault { status := stAbortedReset, cls := 6, dom := dom, cmd := some c } s))) s
  setDomain s { getDomain s dom with aborted := [] }

/-- Ports of an IOD that leaves reset start anew when they are enabled (R305). -/
def freshPorts (dom : Nat) (s : State) : State :=
  [0, 1].foldl (fun s n =>
    let p : PortRef := ⟨dom, n⟩
    let s := setPort s (blankPort p)
    setPortState (if portF s p Reg.PORT_CTRL 0 0 = 1 then ptDetect else ptDown) p s) s

/-- The landings whose ramp the reset ended (R376). -/
def endRampLandings (dom : Nat) (s : State) : State :=
  if s.power.ramps.any fun r => r.1 = dom then s
  else
    let ends := (s.power.rampLandings.filter fun r => r.1 = dom).map (·.2)
    let s := { s with power := { s.power with rampLandings := s.power.rampLandings.filter fun r => r.1 ≠ dom } }
    ends.foldl (fun s n => endLanding n stDone s) s

/-- The Hall starts its boot payload (R422): the header's checks, the copy, the digest. -/
def payloadFlaw (s : State) (len : Nat) (b : List Byte) : Nat :=
  if recNat b 0 4 ≠ 0x5041594C ∨ recNat b 4 4 ≠ 0 ∨ recNat b 32 32 ≠ 0 then stReserved
  else if len = 0 ∨ 0x10000000 - 64 < len ∨ len ≤ recNat b 24 8 ∨ recNat b 16 8 % 0x200000 ≠ 0
      ∨ inHbm s (recNat b 16 8) len = false then stLength
  else if needsDown s (recNat b 16 8) len then stLost
  else 0

def storeByte (s : State) (a : Nat) : Byte := tblGet memDefault s.store a
def storeRead (s : State) (a n : Nat) : List Byte := (List.range n).map fun i => storeByte s (a + i)

/-- The devicetree goes to memory beside the payload (R422, log entry 129). -/
def placeTree (load len : Nat) (s : State) : State :=
  let b := Config.treeBytes ((domainIds s.variant).filter (isFitted s)) (hbmSize s.variant)
  let a := Config.treeAddr s.freeCtr
  if inHbm s a b.length ∧ overlaps a b.length load len = false then writeServed a b s else s

/-- The Hall's firmware loads the boot payload and starts hart 0 (R422), or records why not. -/
def hallBoot (s : State) : State :=
  let b := storeRead s 0 64
  let len := recNat b 8 8
  let st := payloadFlaw s len b
  if st = 0 then
    let body := storeRead s 64 len
    let load := recNat b 16 8
    let s := placeTree load len (writeMem s load body)
    emit (.hallStart (load + recNat b 24 8) 0 (Config.treeAddr s.freeCtr))
      (tick { s with boot := { s.boot with payload := sha3_512 body } })
  else logFault { status := st, cls := statusClass st, dom := 0 } { s with boot := { s.boot with payload := List.replicate 64 0 } }

/-- A domain is lost (R343): its bit, its letterboxes, its completions, and what the module loses with it. -/
def loseDomain (dom : Nat) (s : State) : State :=
  let s := setRb (setRb s porchDom Reg.DOM_HEALTH dom true) porchDom Reg.DOM_IN_RESET dom false
  let s := writeAborted dom (setReceiverLost dom true s)
  let s := if domType dom = some .iod then [0, 1].foldl (fun s n => setPortState ptDown ⟨dom, n⟩ s) s else s
  if dom = 0 ∨ domType dom = some .msd then takeOut s else s

/-- The engines of a domain that the spare cannot all replace: those mapped out at final test (R413) and those that fail self-test now. -/
def failedEngines (s : State) (dom : Nat) (failed : List Nat) : List Nat :=
  ((((factory s).spares.filter fun e => e.1 = dom).map (·.2)) ++ failed).eraseDups

/-- Self-test passes: on a CD the spare stands in for one failed engine, two are a failure (R28). -/
def selfTestOk (s : State) (dom : Nat) (selfTest : Bool) (failed : List Nat) : Bool :=
  selfTest && (decide (domType dom ≠ some .cd) || decide ((failedEngines s dom failed).length < 2))

/-- Steps 3 to 7 of R341, or the loss of R343. -/
def endReset (dom : Nat) (selfTest : Bool) (failed : List Nat) (s : State) : State :=
  if !inReset s dom then s
  else
    let s := freshDomain dom (scrub dom s)
    let s := setDomain s { getDomain s dom with failed := failedEngines s dom failed }
    if selfTestOk s dom selfTest failed then
      let s := setRb (setRb s porchDom Reg.DOM_HEALTH dom false) porchDom Reg.DOM_IN_RESET dom false
      let s := writeAborted dom (writeLostLandings dom (setReceiverLost dom false s))
      let s := if domType dom = some .iod then freshPorts dom s else s
      let s := if dom = porchDom then s else endRampLandings dom (retarget s)
      if dom = 0 then hallBoot s else s
    else
      loseDomain dom (logFault { status := stLost, cls := 3, dom := dom, detail := some (5, (getDomain s dom).record, 0) } s)

/-! Uncorrectable errors (R344, R460). -/

/-- The domain that holds an address and DETAIL1 of R338. -/
def eccPlace (s : State) (a : Nat) : Option (Nat × Nat) :=
  if inHbm s a 1 then
    let k := hbmStack s a
    let off := (a / 4096 / hbmStacks s.variant) * 4096 + a % 4096
    some (stackMsd s k, 1 + 32 * (k % 2) + Config.pseudoChannel off % 32)
  else if memMapped s a 1 then (sramDom a).map fun d => (d, 0)
  else none

/-- The MSD spares the pseudo-channel: the uncorrectable 64-byte line reads zero; the third in one stack loses the MSD (R460). -/
def spareChannel (dom code a : Nat) (s : State) : State :=
  let d := getDomain s dom
  let stack := (code - 1) / 32
  let spared := if d.spared.contains (stack, (code - 1) % 32) then d.spared else d.spared ++ [(stack, (code - 1) % 32)]
  let s := writeMem (setDomain s { d with spared := spared }) (a / 64 * 64) (List.replicate 64 0)
  if 2 < (spared.filter fun e => e.1 = stack).length then
    loseDomain dom (dropDomain dom (logFault { status := stLost, cls := 3, dom := dom, detail := some (5, 0, 0) } s))
  else s

/-- A read of an uncorrectable word: the fault with its die and pseudo-channel, the owner restarted, the channel spared in HBM. -/
def eccHit (dom code a : Nat) (u : UnitRef) (op : Nat) (s : State) : State :=
  let fl := (((getUnit s u).inFlight.find? fun o => o.id = op).map (·.flags)).getD 0
  let s := restartBy u { status := stLost, cls := 4, dom := u.dom, addr := some a, detail := some (dom, code, 0) } fl s
  if code = 0 then s else spareChannel dom code a s

/-- ECC_UNCORRECTABLE in data that an operation reads: DOMAIN_LOST, a CLASS 4 record, a job restart, the spare. -/
def eccData (a : Nat) (u : UnitRef) (op : Nat) (s : State) : State :=
  ((eccPlace s a).map fun x => eccHit x.1 x.2 a u op s).getD s

end Sys2Proof.Machine
end

