-- ==== Sys2Proof/Machine/FrameOps.lean ====
section
/-! DEFINITION. IEEE 802.3 frames (R328, R329): the rings of descriptors, sending and receiving. -/
namespace Sys2Proof.Machine

/-- CRC-32 of IEEE 802.3, reflected, and the FCS of a frame. -/
def crc32Bit (c : Nat) : Nat := if c % 2 = 1 then (c / 2) ^^^ 0xEDB88320 else c / 2
def crc32 (bs : List Byte) : Nat :=
  bs.foldl (fun c b => (List.range 8).foldl (fun c _ => crc32Bit c) (c ^^^ b.toNat)) 0xFFFFFFFF ^^^ 0xFFFFFFFF
def fcs (bs : List Byte) : List Byte := leBytes 4 (crc32 bs)

/-- A MAC Control frame: EtherType 0x8808 in network order. -/
def macControl (f : List Byte) : Bool := f.getD 12 0 = 0x88 && f.getD 13 0 = 0x08

def frameLog2 (s : State) (p : PortRef) (ring : Nat) : Nat := portF s p ring 52 48
/-- Address of descriptor n of a ring; none when the ring is not configured or not in memory. -/
def frameDesc (s : State) (p : PortRef) (ring n : Nat) : Option Nat :=
  let base := portF s p ring 43 0
  let l := frameLog2 s p ring
  let a := base + 16 * (n % 2 ^ l)
  if base % 64 = 0 ∧ 4 ≤ l ∧ l ≤ 16 ∧ memMapped s a 16 = true ∧ needsDown s a 16 = false then some a else none

def framesOn (s : State) (p : PortRef) : Bool := portUp s p && portState s p = ptActive && portF s p Reg.PORT_CTRL 1 1 = 1

/-- Reserved bits of a descriptor that are not zero (R9, R329). -/
def descBad (s : State) (d : Nat) : Bool :=
  decide (readNat s d 8 / 2 ^ 44 ≠ 0) || decide (readNat s (d + 10) 1 / 4 ≠ 0) || decide (readNat s (d + 11) 5 ≠ 0)

/-- DONE and REFUSED. -/
def refuseDesc (d : Nat) (s : State) : State := writeNat s (d + 10) 1 3

/-- A frame leaves in TC3 as a packet of PKIND 0x04 to the switch port that bridges it (R328); one longer than a packet takes goes in
several, in order (log entry 123). -/
def sendFrame (p : PortRef) (frame : List Byte) (s : State) : State :=
  (List.range (ceilDiv frame.length 8576)).foldl (fun s k =>
    let dst := Config.bridgeAddr (2 * p.iod + p.port)
    let pk := packetBytes s (posEpoch s.pos) 4 dst ((frame.drop (8576 * k)).take 8576)
    queuePacket p 3 pk (emit (.packet 3 pk) (countPseq dst s))) (emit (.frame p frame) s)

/-- Send or refuse one posted frame (R329). Bytes that a domain in reset or lost would serve cannot be read (R44). -/
def sendOne (p : PortRef) (s : State) : State :=
  let head := portF s p Reg.FRAME_TX_HEAD 31 0
  match frameDesc s p Reg.FRAME_TX_RING head with
  | none => s
  | some d =>
    let addr := readNat s d 8 % 2 ^ 44
    let len := readNat s (d + 8) 2
    let data := readMem s addr len
    let s := if descBad s d = true ∨ len < 60 ∨ 9212 < len ∨ memMapped s addr len = false ∨ needsDown s addr len = true then
        bumpPort (refuseDesc d s) p Reg.FRAME_DROP_COUNT 1
      else if macControl data then bumpPort (refuseDesc d s) p Reg.FRAME_CTRL_DROP_COUNT 1
      else sendFrame p (data ++ fcs data) (writeNat s (d + 10) 1 1)
    setPortF s p Reg.FRAME_TX_HEAD 31 0 ((head + 1) % 2 ^ 32)

/-- Serve the transmit ring: every posted descriptor, in order, at most one lap. -/
def serveTx (p : PortRef) (s : State) : State :=
  if framesOn s p then
    let n := sub32 (portF s p Reg.FRAME_TX_TAIL 31 0) (portF s p Reg.FRAME_TX_HEAD 31 0)
    if n ≤ 2 ^ frameLog2 s p Reg.FRAME_TX_RING then (List.range n).foldl (fun s _ => sendOne p s) s else s
  else s

/-- A frame is dropped and counted. -/
def dropFrame (p : PortRef) (s : State) : State := bumpPort s p Reg.FRAME_DROP_COUNT 1

/-- The frame goes to the next posted buffer; a descriptor with reserved bits set is refused and posts none (R9). The number bounds the
descriptors looked at. -/
def fillFrame (p : PortRef) (data : List Byte) : Nat → State → State
  | 0, s => dropFrame p s
  | k + 1, s =>
    let head := portF s p Reg.FRAME_RX_HEAD 31 0
    if head = portF s p Reg.FRAME_RX_TAIL 31 0 then dropFrame p s
    else match frameDesc s p Reg.FRAME_RX_RING head with
      | none => dropFrame p s
      | some d =>
        let addr := readNat s d 8 % 2 ^ 44
        let n := data.length
        let next := fun (s : State) => setPortF s p Reg.FRAME_RX_HEAD 31 0 ((head + 1) % 2 ^ 32)
        if descBad s d then fillFrame p data k (next (refuseDesc d s))
        else if readNat s (d + 8) 2 < n ∨ memMapped s addr n = false ∨ needsDown s addr n = true then dropFrame p s
        else next (writeNat (writeNat (writeMem s addr data) (d + 8) 2 n) (d + 10) 1 1)

/-- A received frame (R328, R329); a packet that brought it has been taken. -/
def receiveFrame (p : PortRef) (f : List Byte) (s : State) : State :=
  if !framesOn s p then s
  else
    let n := f.length - 4
    let data := f.take n
    let posted := sub32 (portF s p Reg.FRAME_RX_TAIL 31 0) (portF s p Reg.FRAME_RX_HEAD 31 0)
    let brought := s.fabric.received.filter fun pk => decide (pkKind pk ≠ 4) || decide (pkPayload pk ≠ f)
    let s := { s with fabric := { s.fabric with received := brought } }
    if f.length < 64 ∨ 9216 < f.length ∨ fcs data ≠ f.drop n then dropFrame p s
    else if macControl f then bumpPort s p Reg.FRAME_CTRL_DROP_COUNT 1
    else fillFrame p data (min posted 65536) s

end Sys2Proof.Machine
end

