-- ==== Sys2Proof/Machine/JobOps.lean ====
section
/-! DEFINITION. Jobs, the roster, votes and membership (R310, R313, R324 to R327, R331, R332), as operations that register writes,
flits and packets start. -/
namespace Sys2Proof.Machine

/-- Present entries of this module's job, by rank and address; the roster holds the module's own entry (R310). -/
def jobEntries (s : State) : List Partner := s.fabric.roster.filter fun p => p.job = jobId s

/-- Two present entries carry this module's JOB_ID and JOB_RANK (R313). -/
def rankConflict (s : State) : Bool := decide (1 < ((jobEntries s).filter fun p => p.rank = jobRank s).length)

/-- RANK_CONFLICT follows the roster while the module forms. -/
def showConflict (s : State) : State :=
  if fabState s = fabForming then setPf s Reg.FAB_STATE 3 3 (b2n (rankConflict s)) else s

/-- A write of FAB_JOB (R308, R313, R327, R387). -/
def writeFabJob (v : Nat) (s : State) : State :=
  let fs := fabState s
  let s := if fs = fabRunning ∨ fs = fabRestarting ∨ fs = fabStopped then leaveJob s else s
  let s := setPf { s with fabric := { s.fabric with out := false } } Reg.FAB_JOB 48 0 (fld v 48 0)
  let id := fld v 31 0
  let s := if id ≠ 0 ∧ id ≠ pf s Reg.ENERGY_JOB_ID 31 0 then
      let s := setPf (setReg s porchDom Reg.ENERGY_JOB 0) Reg.ENERGY_JOB_ID 31 0 id
      { s with power := { s.power with jobNj := 0 } }
    else s
  let s := announceSelf s
  let s := if bitAt v 48 then
      let n := pf s Reg.FAB_EXPECT 16 0
      if id = 0 ∨ n = 0 ∨ 65536 < n then setPf s Reg.FAB_STATE 4 4 1 else setFabState fabForming s
    else s
  showConflict s

/-- The roster holds what forming needs (R313). Whether every member is itself FORMING or RUNNING is not in the roster: the sender of
JOB_FORMED answers for it (log entry 47). -/
def mayForm (s : State) : Bool :=
  let es := jobEntries s
  decide (fabState s = fabForming) && !rankConflict s && decide (es.length = pf s Reg.FAB_EXPECT 16 0)
    && es.any fun p => p.rank = jobRank s

def ascending (l : List Nat) : List Nat := sortBy (fun a b => decide (a ≤ b)) l

/-- The job forms (R313). -/
def formJob (s : State) : State :=
  let ranks := ascending ((jobEntries s).map (·.rank))
  let s := setPf (setPf s Reg.FAB_MEMBERS 16 0 ranks.length) Reg.FAB_STATE 47 32 (ranks.headD 0)
  let s := setReg s porchDom Reg.CG_KEY_IN_FORCE (getReg s porchDom Reg.CG_JOB_KEY)
  let s := setFabState fabRunning { s with fabric := { s.fabric with members := ranks }, slew := 0, sinceSlew := 0 }
  moveTo (mkPos 1 0 0 0 0) s

/-! The roster (R310, R331). -/

/-- One change record: the entry's new content, and its kind. -/
structure Change where
  entry : Partner
  kind  : Nat
deriving DecidableEq, Repr

def changeOf (s : State) (b : List Byte) : Change :=
  { entry := { addr := recNat b 0 2, ports := recNat b 3 1, job := recNat b 4 4, rank := recNat b 8 2, epoch := recNat b 10 2,
               variant := recNat b 12 1, contract := recNat b 13 1, serial := BitVec.ofNat 64 (recNat b 16 8),
               changed := posTick s.pos },
    kind := recNat b 24 1 }

def changesOf (s : State) (b : List Byte) : List Change :=
  (List.range (recNat b 4 2)).map fun i => changeOf s ((b.drop (8 + 32 * i)).take 32)

/-- The 32 bytes of a roster entry (R310). -/
def entryBytes (present : Bool) (p : Partner) : List Byte :=
  leBytes 2 p.addr ++ leBytes 1 (b2n present) ++ leBytes 1 p.ports ++ leBytes 4 p.job ++ leBytes 2 p.rank ++ leBytes 2 p.epoch
    ++ leBytes 1 p.variant ++ leBytes 1 p.contract ++ [0, 0] ++ leBytes 8 p.serial.toNat ++ leBytes 6 p.changed ++ [0, 0]

/-- Write a changed entry into the mirror, when there is one that can be written (R310, R335). -/
def mirror (present : Bool) (p : Partner) (s : State) : State :=
  let base := pf s Reg.FAB_ROSTER_MIRROR 43 0
  let a := base + 32 * p.addr
  if base ≠ 0 ∧ base % 4096 = 0 ∧ memMapped s a 32 = true ∧ needsDown s a 32 = false then writeMem s a (entryBytes present p) else s

/-- A departure or a change of job of a member starts a restart on a RUNNING module (R324). -/
def memberGone (old : Partner) (s : State) : State :=
  if fabState s = fabRunning ∧ old.job = jobId s ∧ s.fabric.members.contains old.rank = true ∧ old.addr ≠ fabAddr s then
    jobRestart 0 0 none s
  else s

/-- Apply one change (R310). -/
def applyChange (s : State) (c : Change) : State :=
  let old := s.fabric.roster.find? fun p => p.addr = c.entry.addr
  if c.kind = 2 then
    let s := { s with fabric := { s.fabric with roster := s.fabric.roster.filter fun p => p.addr ≠ c.entry.addr } }
    let s := answerDeparted c.entry.addr (mirror false c.entry s)
    match old with
    | some p => memberGone p s
    | none => s
  else
    let r := upsert (fun (p : Partner) => decide (p.addr = c.entry.addr)) c.entry s.fabric.roster
    let s := { s with fabric := { s.fabric with roster := r } }
    let s := mirror true c.entry s
    match old with
    | some p => if p.job = c.entry.job then s else memberGone p s
    | none => s

def bumpGen (s : State) : State := setPf s Reg.FAB_ROSTER_GEN 31 0 ((pf s Reg.FAB_ROSTER_GEN 31 0 + 1) % 2 ^ 32)

/-- The roster after a full resend (R331): entries that it does not list have departed. -/
def replaceRoster (number : Nat) (s : State) : State :=
  let news := s.fabric.resend
  let gone := s.fabric.roster.filter fun p => !(news.any fun q => q.addr = p.addr)
  let s := gone.foldl (fun s p => applyChange s ⟨{ p with changed := posTick s.pos }, 2⟩) s
  let changed := news.filter fun q => !(s.fabric.roster.any fun p => { p with changed := q.changed } = q)
  let s := changed.foldl (fun s q => applyChange s ⟨q, 1⟩) s
  bumpGen { s with fabric := { s.fabric with resend := [], announced := number, gap := false } }

/-- Ask for a full resend (R331). -/
def requestResend (p : PortRef) (s : State) : State :=
  queueFlit p flitAnnounce (leBytes 4 s.fabric.announced ++ [0, 0, 4, 0]) { s with fabric := { s.fabric with gap := true } }

/-- One announcement, once every earlier one is applied. -/
def applyNews (b : List Byte) (s : State) : State :=
  showConflict (bumpGen ((changesOf s b).foldl applyChange { s with fabric := { s.fabric with announced := recNat b 0 4 } }))

/-- Announcements kept during a resend are applied in order after it; one that is still beyond a gap asks for another resend (R331). -/
def catchUp (p : PortRef) : Nat → State → State
  | 0, s => s
  | n + 1, s =>
    match s.fabric.news.find? fun b => sub32 (recNat b 0 4) s.fabric.announced = 1 with
    | some b => catchUp p n (applyNews b { s with fabric := { s.fabric with news := s.fabric.news.erase b } })
    | none =>
      let ahead := fun (b : List Byte) => sub32 (recNat b 0 4) s.fabric.announced
      let s := { s with fabric := { s.fabric with news := s.fabric.news.filter fun b => decide (0 < ahead b) && decide (ahead b < 2 ^ 31) } }
      if s.fabric.news.isEmpty then s else requestResend p s

/-- An ANNOUNCE payload (R310, R331). -/
def announce (p : PortRef) (b : List Byte) (s : State) : State :=
  let number := recNat b 0 4
  let fl := recNat b 6 1
  let keep := fun (s : State) => { s with fabric := { s.fabric with news := s.fabric.news ++ [b] } }
  if bitAt fl 2 then s
  else if bitAt fl 0 then
    let joins := ((changesOf s b).filter fun c => c.kind = 1).map (·.entry)
    let s := { s with fabric := { s.fabric with resend := s.fabric.resend ++ joins } }
    if bitAt fl 1 then catchUp p (s.fabric.news.length + 1) (showConflict (replaceRoster number s)) else showConflict s
  else
    let d := sub32 number s.fabric.announced
    if d = 0 ∨ 2 ^ 31 ≤ d then s
    else if s.fabric.gap then keep s
    else if d = 1 then applyNews b s
    else requestResend p (keep s)

/-! Votes (R325, R326). -/

/-- The epoch's members present in the roster, this module among them while its own entry is there. -/
def presentRanks (s : State) : List Nat :=
  ascending (((jobEntries s).map (·.rank)).filter fun r => s.fabric.members.contains r)

def lowestPresent (s : State) : Option Nat := (presentRanks s).head?

def addVote (v : Vote) (s : State) : State :=
  { s with fabric := { s.fabric with votes := upsert (fun (x : Vote) => decide (x.rank = v.rank)) v s.fabric.votes } }

/-- Send a vote to the lowest-ranked member present; again only after the coordinator named before has left (R325). -/
def castVote (s : State) : State :=
  if fabState s ≠ fabRestarting then s
  else match lowestPresent s with
    | none => s
    | some c =>
      let again := match s.fabric.voted with
        | some old => !(presentRanks s).contains old
        | none => true
      if !again then s
      else
        let key := decide (jobRank s = pf s Reg.FAB_STATE 47 32)
        let s := { s with fabric := { s.fabric with voted := some c } }
        if c = jobRank s then addVote ⟨jobRank s, posEpoch s.pos, key⟩ s
        else sendToRank 1 3 c (restartPayload s 2 (leBytes 2 c ++ leBytes 1 (b2n key) ++ List.replicate 13 0)) s

/-- decide of R325. -/
def decideContinue (n members : Nat) (keystoneVoted : Bool) : Bool :=
  decide (members < 2 * n) || (decide (2 * n = members) && keystoneVoted)

/-- The member map of a MEMBERSHIP packet (R332). -/
def memberMap (ranks : List Nat) : List Byte :=
  (List.range 8192).map fun i => BitVec.ofNat 8 ((List.range 8).foldl (fun acc j => acc + (if ranks.contains (8 * i + j) then 2 ^ j else 0)) 0)

/-- Ranks that a member map marks. -/
def ranksOfMap (map : List Byte) : List Nat :=
  (map.zipIdx).flatMap fun b => ((List.range 8).filter fun j => bitAt b.1.toNat j).map fun j => 8 * b.2 + j

/-- A voter takes the new epoch and the restore-step agreement starts (R326, R346). The module runs again under the new membership
(log entry 48). -/
def takeMembership (epoch keystone coordinator : Nat) (ranks : List Nat) (s : State) : State :=
  let s := setPf (setPf s Reg.FAB_MEMBERS 16 0 ranks.length) Reg.FAB_STATE 47 32 keystone
  let f := { s.fabric with members := ranks, voted := none, votes := [], settled := true, agreeing := true, restoreTo := none }
  let f := { f with earlyColl := f.earlyColl.filter fun e => decide (epoch ≤ e.epoch) }
  let s := { s with fabric := { f with coordinator := some coordinator }, slew := 0, sinceSlew := 0 }
  let s := moveTo (mkPos epoch (posStep s.pos) 0 0 0) s
  tryAgree (sendAgree false (setFabState fabRunning s))

/-- STOPPED_MINORITY (R327). -/
def stopMinority (voters : Nat) (s : State) : State :=
  let s := { s with fabric := { s.fabric with voted := none, votes := [], settled := true } }
  let d := (posEpoch s.pos, voters, pf s Reg.FAB_MEMBERS 16 0)
  setFabState fabStopped (logFault { status := stMinority, cls := 5, dom := porchDom, detail := some d } s)

/-- The coordinator decides (R325, R326). -/
def tally (s : State) : State :=
  if fabState s = fabRestarting ∧ s.fabric.voted = some (jobRank s) ∧ s.fabric.settled = false then
    let vs := s.fabric.votes
    let n := vs.length
    let members := pf s Reg.FAB_MEMBERS 16 0
    let others := (vs.map (·.rank)).filter (· ≠ jobRank s)
    if decideContinue n members (vs.any (·.keystone)) then
      let ranks := ascending (vs.map (·.rank))
      let epoch := (vs.map (·.epoch)).foldl max 0 + 1
      let key := ranks.headD 0
      let body := restartPayload s 3 (leBytes 2 epoch ++ [0, 0] ++ leBytes 4 n ++ leBytes 2 key ++ leBytes 2 (jobRank s)
        ++ List.replicate 4 0 ++ memberMap ranks)
      takeMembership epoch key (jobRank s) ranks (others.foldl (fun s r => sendToRank 1 3 r body s) s)
    else
      let body := restartPayload s 4 (leBytes 2 (jobRank s) ++ [0, 0] ++ leBytes 4 n ++ leBytes 4 members ++ List.replicate 4 0)
      stopMinority n (others.foldl (fun s r => sendToRank 1 3 r body s) s)
  else s

/-! Packets of PKIND 0x03 (R332). -/

/-- The packet comes from a member of the epoch, by its roster entry and the rank it names (R324). -/
def fromMember (pk : List Byte) (s : State) : Bool :=
  let rank := recNat (pkPayload pk) 8 2
  s.fabric.members.contains rank && (jobEntries s).any fun p => p.addr = pkSrc pk && p.rank = rank

/-- The body of a restart-protocol packet of one kind and of this module's job, after R312: a packet of a later epoch first makes the
receiver join the restart. -/
def restartBody (rkind : Nat) (pk : List Byte) (s : State) : State × Option (List Byte) :=
  let look := fun (s : State) =>
    let b := pkPayload pk
    if pkKind pk = 3 ∧ recNat b 0 1 = rkind ∧ recNat b 1 3 = 0 ∧ recNat b 4 4 = jobId s then (s, some b) else (s, none)
  match arrive pk s with
  | .gone s' =>
    -- a second membership of the same restart comes from an epoch already left (R326)
    if rkind = 3 ∧ pkEpoch pk < posEpoch s.pos ∧ s.fabric.coordinator.isSome = true then look s else (s', none)
  | .later s => look (joinRestart s)
  | .here s => look s

end Sys2Proof.Machine
end

