-- ==== Sys2Proof/Machine/Job.lean ====
section
/-! DEFINITION. The commands of jobs and restarts: FAB_JOB_WRITE to VOTE_TIMEOUT, AGREE_PACKET, BOUNDARY_PACKET (R312 to R314, R323
to R327, R346). -/
namespace Sys2Proof.Machine

/-- JOB_FORMED (R313). -/
def execJobFormed (s : State) : Host.Outcome State Fault Refusal :=
  .next (let s := showConflict s; if mayForm s then formJob s else s)

/-- RESTART_PACKET (R324). -/
def execRestartPacket (pk : List Byte) (s : State) : Host.Outcome State Fault Refusal :=
  .next (match restartBody 1 pk s with
    | (s, some b) => if fabState s = fabRunning ∧ fromMember pk s = true then jobRestart (recNat b 16 4) (recNat b 20 2) none s else s
    | (s, none) => s)

/-- VOTE_SEND (R325): FAB_SETTLE has passed since the last roster change. -/
def execVoteSend (s : State) : Host.Outcome State Fault Refusal := .next (castVote s)

/-- VOTE_PACKET (R325). -/
def execVotePacket (pk : List Byte) (s : State) : Host.Outcome State Fault Refusal :=
  .next (match restartBody 2 pk s with
    | (s, some b) =>
      if fabState s = fabRestarting ∧ recNat b 16 2 = jobRank s ∧ fromMember pk s = true then
        addVote ⟨recNat b 8 2, recNat b 10 2, bitAt (recNat b 18 1) 0⟩ s
      else s
    | (s, none) => s)

/-- VOTE_TALLY (R325). -/
def execVoteTally (s : State) : Host.Outcome State Fault Refusal := .next (tally s)

/-- MEMBERSHIP_PACKET (R326): in RESTARTING, or from a coordinator of lower rank than the one followed. -/
def execMembershipPacket (pk : List Byte) (s : State) : Host.Outcome State Fault Refusal :=
  .next (match restartBody 3 pk s with
    | (s, some b) =>
      let c := recNat b 26 2
      let ranks := ranksOfMap (b.drop 32)
      let lower := match s.fabric.coordinator with
        | some old => decide (c < old) && decide (fabState s = fabRunning)
        | none => false
      if (fabState s = fabRestarting ∨ lower = true) ∧ ranks.contains (jobRank s) = true then
        takeMembership (recNat b 16 2) (recNat b 24 2) c ranks s
      else s
    | (s, none) => s)

/-- STOP_PACKET (R327). -/
def execStopPacket (pk : List Byte) (s : State) : Host.Outcome State Fault Refusal :=
  .next (match restartBody 4 pk s with
    | (s, some b) => if fabState s = fabRestarting then stopMinority (recNat b 20 4) s else s
    | (s, none) => s)

/-- VOTE_TIMEOUT (R326): 1 ms after the last vote without an answer. -/
def execVoteTimeout (s : State) : Host.Outcome State Fault Refusal :=
  .next (match s.fabric.voted with
    | some c =>
      if fabState s = fabRestarting ∧ (presentRanks s).all (fun r => decide (c ≤ r)) = true then
        stopMinority s.fabric.votes.length s
      else s
    | none => s)

/-- AGREE_PACKET (R346, R356). -/
def execAgreePacket (pk : List Byte) (s : State) : Host.Outcome State Fault Refusal :=
  .next (match restartBody 5 pk s with
    | (s, some b) =>
      let a : Agreement := ⟨recNat b 8 2, recNat b 16 4, recNat b 20 4, bitAt (recNat b 24 1) 0⟩
      if bitAt (recNat b 24 1) 1 then
        if s.fabric.agreeing || s.restore.waiting then tryAgree (applyAgree a.step a.anchor a.need s) else s
      else tryAgree { s with fabric := { s.fabric with agrees := s.fabric.agrees ++ [a] } }
    | (s, none) => s)

/-- One step-boundary packet of this module's epoch or of a later one (R323, R332): one of a later epoch, or of a step that this module
does not close yet, waits. -/
def boundaryIn (epoch : Nat) (b : List Byte) (s : State) : State :=
  let fl := recNat b 1 1
  let part := b2n (bitAt fl 2)
  let count := recNat b 28 4
  let body := b.drop 32
  let items := (List.range count).map fun i =>
    if part = 0 then (recNat body (16 * i) 4, recNat body (16 * i + 8) 8) else (recNat body (8 * i) 8, 0)
  let x : BoundaryPart := ⟨bitAt fl 1, part, recNat b 2 2, recNat b 24 4, bitAt fl 0, items⟩
  let step := recNat b 4 4
  let led := recNat b 8 2
  let lay := recNat b 10 2
  let sig := recNat b 16 8
  let wait := { s with early := s.early ++ [⟨epoch, step, led, lay, sig, x⟩] }
  if posEpoch s.pos < epoch then wait else
  match s.boundary with
  | some y =>
    if y.step < step then wait
    else if step < y.step then s
    else if led = y.ledgers.length ∧ lay = y.layers.length ∧ sig = y.sig then
      tryCommit { s with boundary := some { y with parts := y.parts ++ [x] } }
    else headerFault s
  | none =>
    if step < posStep s.pos then s
    else wait

/-- BOUNDARY_PACKET (R323). -/
def execBoundaryPacket (pk : List Byte) (s : State) : Host.Outcome State Fault Refusal :=
  .next (match arrive pk s with
    | .gone s => s
    | .later s => if pkKind pk = 2 ∧ recNat (pkPayload pk) 0 1 = 1 then boundaryIn (pkEpoch pk) (pkPayload pk) (joinRestart s) else joinRestart s
    | .here s =>
      let b := pkPayload pk
      if pkKind pk = 2 ∧ recNat b 0 1 = 1 ∧ fabState s = fabRunning then boundaryIn (pkEpoch pk) b s else s)

end Sys2Proof.Machine
end

