-- ==== Sys2Proof/Machine/BootOps.lean ====
section
/-! DEFINITION. Start-up, recovery, updates and identity (R413 to R432), and the power pins (R448, R453 to R455). A power-on that finds a
good set runs to READY within its command (log entry 3). -/
namespace Sys2Proof.Machine

/-! Image sets (R416 to R418). -/

def allZero (bs : List Byte) : Bool := bs.all (· = 0)
def cut (bs : List Byte) (off len : Nat) : List Byte := (bs.drop off).take len

abbrev setHeadBytes : Nat := 16384
/-- The image set lies from 0x023_0000 to the end of the 64 MiB of MRAM (R413, R417). -/
abbrev mramSize : Nat := 0x4000000
abbrev mramSet : Nat := 0x230000
abbrev setMax : Nat := mramSize - mramSet
def setVersion (b : List Byte) : Nat := recNat b 8 4
def setSvn (b : List Byte) : Nat := recNat b 12 4
def setLength (b : List Byte) : Nat := recNat b 16 8
def setEntry (b : List Byte) (i : Nat) : List Byte := cut b (9920 + 128 * i) 128
def entryType (e : List Byte) : Nat := recNat e 0 1
def entryImage (b e : List Byte) : List Byte := cut b (recNat e 8 8) (recNat e 16 8)

/-- Largest body by TYPE (R416). -/
def bodyMax (type : Nat) : Nat := if type = 0 then 0x400000 else if type = 2 then 0x1000000 else 0x800000

/-- One image of a set: R418, rules 3, 4, 6, 7 and 8. -/
def imageGood (variant : Nat) (b e : List Byte) : Bool :=
  let im := entryImage b e
  let len := recNat im 16 8
  let digest := sha3_512 (im.take 64 ++ im.drop 4864)
  decide (setHeadBytes ≤ recNat e 8 8) && decide (recNat e 8 8 % 64 = 0) && decide (recNat e 8 8 + recNat e 16 8 ≤ setLength b)
    && decide (recNat e 16 8 = 4864 + len) && decide (len % 64 = 0) && decide (len ≤ bodyMax (entryType e))
    && decide (recNat im 0 4 = 0x494D4731) && decide (recNat im 4 1 = entryType e) && decide (recNat im 5 1 = 1)
    && decide (recNat im 8 4 = setVersion b) && decide (recNat im 12 4 = setSvn b) && bitAt (recNat im 24 1) variant
    && decide (recNat im 24 1 < 8) && decide (cut im 64 64 = digest) && decide (cut e 64 64 = digest)
    && dsaVerify (cut b 2656 2592) digest (ascii "SK20-IMAGE") (cut im 128 4627)
    && allZero (cut im 6 2) && allZero (cut im 25 39) && allZero (cut im 4755 109) && allZero (cut e 1 7) && allZero (cut e 24 40)

/-- R418. -/
def setGood (variant minSvn : Nat) (b : List Byte) : Bool :=
  let es := (List.range 5).map (setEntry b)
  decide (setHeadBytes ≤ setLength b) && decide (setLength b ≤ setMax) && decide (setLength b ≤ b.length)
    && decide (sha3_512 (cut b 64 2592) = Config.romRootDigest)
    && dsaVerify (cut b 64 2592) (b.take 5248) (ascii "SK20-KEY") (cut b 5248 4627)
    && decide (recNat b 0 4 = 0x53455431) && decide (recNat b 25 1 = 5)
    && (List.range 5).all (fun t => decide ((es.filter fun e => entryType e = t).length = 1))
    && decide (minSvn ≤ setSvn b) && bitAt (recNat b 24 1) variant && decide (recNat b 24 1 < 8)
    && allZero (cut b 4 4) && allZero (cut b 26 38) && allZero (cut b 9875 45) && allZero (cut b 10560 5824)
    && es.all (imageGood variant b)

/-- An image's copy matches the DIGEST in its header (R416). -/
def copyGood (im : List Byte) : Bool := decide (sha3_512 (im.take 64 ++ im.drop 4864) = cut im 64 64)

/-- The images of a set by TYPE, copied, each copy checked against its DIGEST (R420, R426); one that fails is not there. -/
def copiesOf (b : List Byte) : List (List Byte) :=
  (List.range 5).map fun t =>
    let im := entryImage b ((((List.range 5).map (setEntry b)).find? fun e => entryType e = t).getD [])
    if copyGood im then im else []

/-! Identity (R429, R430). -/

def deviceSeed (s : State) : List Byte := (sha3_512 (ascii "SK20-DEVICE" ++ Config.pufResponse s.mram.puf)).take 32

/-- The derived public key is not the one that the device certificate carries. -/
def identityBad (s : State) : Bool :=
  match certOf s.mram.certDevice with
  | none => true
  | some c => decide (c.key ≠ dsaPublic (deviceSeed s))

/-- The chain as Falnu writes it (R430): root under the set's ROOT_KEY and signed by itself, the product CA by the root, the device by the
product CA, the device's serialNumber. Nothing in the module checks it. -/
def chainGood (s : State) : Bool :=
  match certOf s.mram.certRoot, certOf s.mram.certCa, certOf s.mram.certDevice with
  | some root, some ca, some device =>
    decide (root.key = cut s.mram.set 64 2592) && signedBy root root && signedBy ca root && signedBy device ca
      && decide (subjectSerial device.subject = some (hexDigits (factory s).serial.toNat))
  | _, _, _ => false

/-! BOOT_STATUS. -/

abbrev bootRom : Nat := 0
abbrev bootVerify : Nat := 1
abbrev bootRecovery : Nat := 2
abbrev bootLoading : Nat := 3
abbrev bootReady : Nat := 4
abbrev bootNoFactory : Nat := 5
def bootState (s : State) : Nat := pf s Reg.BOOT_STATUS 3 0

/-- A change of STATE raises an in-band interrupt (R457). -/
def setBoot (v : Nat) (s : State) : State :=
  if bootState s = v then s else emit (.ibi 1) (setPf s Reg.BOOT_STATUS 3 0 v)

/-- BOOT_SET and BOOT_MIN_SVN from MRAM. -/
def showSet (s : State) : State :=
  let s := setPf (setPf s Reg.BOOT_SET 31 0 (setVersion s.mram.set)) Reg.BOOT_SET 63 32 (setSvn s.mram.set)
  setPf s Reg.BOOT_MIN_SVN 31 0 s.mram.minSvn

/-! Power off and on. -/

/-- Nothing of the module but MRAM, the carrier store and the world outside: every register and memory as before a power-on. -/
def cold (s : State) : State :=
  { State.reset with
    pending := s.pending, freeCtr := s.freeCtr, variant := s.variant, regs := [], mram := s.mram, store := s.store,
    boot := { Boot.initial with firmware := false }, pins := { s.pins with i3cAddr := none }, out := s.out }

/-- What the firmware loads for one die (R378, R377, R441): its table and ageing offset set the supply of point 0 (R420, R390). -/
def loadDie (s : State) (dom : Nat) : State :=
  let s := loadIdentity dom s
  if (powered s).contains dom then
    let table := (((factory s).vtables.find? fun v => v.1 = dom).map (·.2)).getD []
    let s := (List.range 6).foldl (fun s k => setReg s dom (Reg.VTABLE0 + 8 * k) (table.getD k 0)) s
    let w := lookup 0 s.mram.ageing dom
    showSupply dom (setRf (setRf s dom Reg.PWR_AGE 8 0 (w % 512)) dom Reg.PWR_OPPOINT 18 16 (w / 65536))
  else s

/-- Pseudo-channels that fail training: two in a stack are spared, a third loses the MSD (R421). -/
def trainingLost (b : BootInputs) (dom : Nat) : Bool :=
  [0, 1].any fun k => decide (2 < ((List.range 32).filter fun c => b.channels.contains (dom, 32 * k + c)).length)

def bootFailed (s : State) (b : BootInputs) (dom : Nat) : Bool :=
  let engines := (b.engines.filter fun e => e.1 = dom).map (·.2)
  b.lost.contains dom || trainingLost b dom || !selfTestOk s dom true engines || !isFitted s dom

/-- A domain at power-on: lost with its record (cause 5), or with its spares (R28, R421, R460), a CD with a fresh key (R212, R216). -/
def bootDie (b : BootInputs) (s : State) (dom : Nat) : State :=
  if bootFailed s b dom then
    let s := logFault { status := stLost, cls := 3, dom := dom, detail := some (5, 0, 0) } s
    setReceiverLost dom true (setRb s porchDom Reg.DOM_HEALTH dom true)
  else
    let engines := failedEngines s dom ((b.engines.filter fun e => e.1 = dom).map (·.2))
    let channels := (b.channels.filter fun c => c.1 = dom).map fun c => (c.2 / 32, c.2 % 32)
    let s := setDomain s { getDomain s dom with failed := engines, spared := channels.eraseDups }
    if domType dom = some .cd then rekey dom s else s

/-- The records held since step 1, and those that a trip or a shutdown left in MRAM (R382, R421, R448). -/
def writeHeld (s : State) : State :=
  let s := s.mram.unlogged.foldl (fun s d => logFault { status := stLost, cls := 3, dom := d } s) s
  let s := s.boot.records.foldl (fun s r => logFault { status := r.1, cls := 2, dom := r.2 } s) s
  { s with boot := { s.boot with records := [] }, mram := { s.mram with unlogged := [] } }

/-- Steps 2 to 8 of R420, the set being good. -/
def startFirmware (b : BootInputs) (s : State) : State :=
  let s := setBoot bootLoading { s with boot := { s.boot with copies := copiesOf s.mram.set, firmware := true } }
  let s := showSet ((domainIds s.variant).foldl loadDie s)
  let s := writeHeld s
  let s := ((domainIds s.variant).filter fun d => decide (d ≠ porchDom)).foldl (bootDie b) s
  let s := retarget (showRates s)
  let s := if isLost s 0 then s else hallBoot s
  setBoot bootReady (tick (setPf s Reg.BOOT_TIME 31 0 (Config.bootMs s.freeCtr)))

/-! The management lanes (R423, R425, R456). -/

/-- EtherType 0x88B5; the MAC address of a lane, from the factory record. -/
def mgmtType : List Byte := [0x88, 0xB5]
def laneMac (s : State) (lane : Nat) : List Byte := (((factory s).macs.getD lane []) ++ List.replicate 6 0).take 6
def broadcastMac : List Byte := List.replicate 6 0xFF

/-- A frame leaves a lane: header, payload, padding to 60 bytes, FCS. -/
def sendMgmt (lane : Nat) (dst payload : List Byte) (s : State) : State :=
  let b := dst ++ laneMac s lane ++ mgmtType ++ payload
  let b := b ++ List.replicate (60 - b.length) 0
  emit (.mgmt lane (b ++ fcs b)) s

/-- The payload of a frame that a lane takes: sent to one of the module's addresses, its FCS right, EtherType 0x88B5, no VLAN tag; every other
frame is dropped and not counted. -/
def mgmtPayload (s : State) (f : List Byte) : Option (List Byte) :=
  let n := f.length - 4
  let b := f.take n
  if 64 ≤ f.length ∧ fcs b = f.drop n ∧ cut b 12 2 = mgmtType ∧ (cut b 0 6 = laneMac s 0 ∨ cut b 0 6 = laneMac s 1) then some (b.drop 14)
  else none

/-! Recovery (R423, R424). -/

/-- Bytes that the request at an offset asks for. -/
def recoveryWant (s : State) (off : Nat) : Nat := if off = 0 then 1024 else min 1024 (s.boot.recTotal - off)

/-- The payload of a request. -/
def recoveryReq (s : State) (off : Nat) : List Byte :=
  leBytes 2 0x10 ++ [0, 0] ++ leBytes 8 (factory s).serial.toNat ++ leBytes 4 off ++ leBytes 4 (recoveryWant s off) ++ leBytes 1 s.variant
    ++ [0, 0, 0] ++ leBytes 4 s.mram.minSvn

def sendRecoveryReq (s : State) : State :=
  match s.boot.recovery with
  | none => s
  | some off => sendMgmt s.boot.recLane broadcastMac (recoveryReq s off) s

/-- An attempt begins at offset 0. -/
def beginRecovery (s : State) : State :=
  sendRecoveryReq { s with boot := { s.boot with recovery := some 0, recTotal := 0, retry := false } }

/-- An attempt has failed; the next one comes with RECOVERY_RETRY. -/
def endAttempt (s : State) : State := { s with boot := { s.boot with recovery := none, retry := true } }

/-- Step 2 of R420: the set in MRAM is good, or recovery begins, its record held. -/
def verifySet (b : BootInputs) (s : State) : State :=
  let s := setBoot bootVerify s
  if setGood s.variant s.mram.minSvn s.mram.set then startFirmware b s
  else
    let s := { s with boot := { s.boot with records := s.boot.records ++ [(stSignature, porchDom)] } }
    beginRecovery (setBoot bootRecovery s)

/-- Step 1 of R420 and its failures (R421); the record of a device key that does not match is held. -/
def powerOn (b : BootInputs) (s : State) : State :=
  let s := cold s
  if !b.porchOk then setPf s Reg.BOOT_STATUS 7 7 1
  else if !b.factoryA && !b.factoryB then setBoot bootNoFactory s
  else
    let n := (s.mram.bootCount + 1) % 2 ^ 32
    let s := setPf { s with mram := { s.mram with bootCount := n } } Reg.BOOT_COUNT 31 0 n
    let s := setPf s Reg.BOOT_STATUS 6 6 (b2n (!b.factoryA))
    let s := if identityBad s then
        setPf { s with boot := { s.boot with records := [(stSignature, porchDom)] } } Reg.BOOT_STATUS 5 5 1
      else s
    verifySet b s

/-- The fetched set is complete: MIN_SVN, RECOVERED and the rest of the power-on, or another attempt (R424). -/
def finishRecovery (b : BootInputs) (s : State) : State :=
  if setGood s.variant s.mram.minSvn s.mram.set then
    let s := { s with mram := { s.mram with minSvn := max s.mram.minSvn (setSvn s.mram.set) },
                      boot := { s.boot with recovery := none, retry := false } }
    startFirmware b (setPf s Reg.BOOT_STATUS 4 4 1)
  else endAttempt s

/-- RECOVERY_DATA: a matching block goes into the image-set region of MRAM. -/
def recoveryData (b : BootInputs) (frame : List Byte) (s : State) : State :=
  match s.boot.recovery, mgmtPayload s frame with
  | some off, some f =>
    if recNat f 0 2 ≠ 0x11 ∨ recNat f 2 2 ≠ 0 ∨ recNat f 4 8 ≠ (factory s).serial.toNat ∨ recNat f 12 4 ≠ off then s
    else
      let total := recNat f 16 4
      if setMax < total ∨ (off ≠ 0 ∧ total ≠ s.boot.recTotal) then endAttempt s
      else
        let s := { s with boot := { s.boot with recTotal := total } }
        let n := min 1024 (total - off)
        if f.length < 20 + n then s
        else
          let set := s.mram.set ++ List.replicate (off + n - s.mram.set.length) 0
          let s := { s with mram := { s.mram with set := patch set off (cut f 20 n) } }
          if off + n < total then sendRecoveryReq { s with boot := { s.boot with recovery := some (off + n) } }
          else finishRecovery b { s with mram := { s.mram with set := s.mram.set.take total } }
  | _, _ => s

/-! Updates (R426, R427). -/

def setUpd (state status version : Nat) (s : State) : State :=
  setPf (setPf (setPf s Reg.UPD_STATUS 2 0 state) Reg.UPD_STATUS 31 16 status) Reg.UPD_STATUS 63 32 version

/-- The identity that a domain's registers show (R441). -/
def shownImage (s : State) (dom : Nat) : ImageId :=
  ⟨rf s dom Reg.DOM_INFO 63 32, rf s dom Reg.DOM_SVN 31 0, (List.range 8).flatMap fun i => leBytes 8 (getReg s dom (0xF40 + 8 * i)).toNat⟩

/-- A domain runs the image that the committed set gives it. -/
def runsImage (s : State) (dom : Nat) : Bool := decide (shownImage s dom = sourceImage s dom)

/-- The Porch INBOX. -/
abbrev porchBox : Nat := boxId porchDom 0
def answerSlot (slot status : Nat) (s : State) : State :=
  if slotState s porchBox slot = 2 then ackSlot porchBox slot status s else s

/-- Step 5: the next domain that still runs another image is reset; with none left the UPDATE ends, and a held write of FAB_JOB takes
effect. -/
def updateNext : List Nat → State → State
  | [], s =>
    let held := s.boot.heldJob
    let s := { s with boot := { s.boot with updating := false, updQueue := [], heldJob := none } }
    let s := answerSlot s.boot.updSlot stDone (setPf s Reg.UPD_STATUS 2 0 0)
    match held with
    | some v => writeFabJob v s
    | none => s
  | d :: rest, s =>
    let s := { s with boot := { s.boot with updQueue := d :: rest } }
    if inReset s d then s
    else if isLost s d || runsImage s d then updateNext rest s
    else domainReset d 1 0 s

/-- A domain has left its reset: an UPDATE goes on. -/
def updateOn (s : State) : State := if s.boot.updating then updateNext s.boot.updQueue s else s

/-- A bad bundle, at whatever step it shows (R426). -/
def updateBad (slot version : Nat) (s : State) : State :=
  answerSlot slot stSignature (setUpd 0 stSignature version (logFault { status := stSignature, cls := 2, dom := porchDom } s))

/-- Step 2 of R426: the images' copies in the second area of reserved HBM. -/
def stageUpdate (set : List Byte) (s : State) : State :=
  setUpd 2 0 (setVersion set) { s with boot := { s.boot with staged := copiesOf set } }

/-- Step 3: the set goes into MRAM, and its digests are checked as it reads back. -/
def writeSet (set : List Byte) (s : State) : State :=
  setUpd 3 0 (setVersion set) { s with mram := { s.mram with set := set } }
def setReadsBack (set : List Byte) (s : State) : Bool :=
  decide (s.mram.set = set) && decide (copiesOf s.mram.set = s.boot.staged) && s.boot.staged.all fun im => !im.isEmpty

/-- Step 4: MIN_SVN rises, and the staged copies are the source of every later load. -/
def commitSet (s : State) : State :=
  showSet { s with mram := { s.mram with minSvn := max s.mram.minSvn (setSvn s.mram.set) }
                   boot := { s.boot with copies := s.boot.staged, staged := [] } }

/-- Steps 2 to 5 of R426, the bundle being good; all but the resets of step 5 within the command (log entry 130). -/
def commitUpdate (slot mode : Nat) (b : List Byte) (s : State) : State :=
  let set := b.take (setLength b)
  let version := setVersion b
  let s := writeSet set (stageUpdate set s)
  if !setReadsBack set s then updateBad slot version s
  else
    let s := commitSet s
    if mode = 1 then answerSlot slot stDone (setUpd 0 stDone version s)
    else
      let ds := (dies s).filter fun d => !isLost s d
      updateNext ds (setUpd 4 stDone version { s with boot := { s.boot with updating := true, updSlot := slot } })

/-- A write of FAB_JOB; one with START is held while an UPDATE resets domains (R426). -/
def fabJobWrite (v : Nat) (s : State) : State :=
  if s.boot.updating && bitAt v 48 then { s with boot := { s.boot with heldJob := some v } } else writeFabJob v s

/-! Service messages (R425). -/

/-- The fields of a service message. -/
structure Service where
  op    : Nat
  arg0  : Nat
  arg1  : Nat
  arg2  : Nat
  nonce : List Byte
deriving DecidableEq, Repr

def serviceOf (p : List Byte) : Service := ⟨recNat p 0 2, recNat p 8 8, recNat p 16 8, recNat p 24 8, cut p 32 32⟩

/-- A message that can be decoded. -/
def decodable (p : List Byte) : Bool :=
  decide (p.length = 64) && decide (1 ≤ recNat p 0 2) && decide (recNat p 0 2 ≤ 6) && allZero (cut p 2 6)
    && (decide (recNat p 0 2 = 1) || allZero (cut p 32 32))

/-- The payload of a slot of the Porch INBOX. -/
def messageAt (s : State) (slot : Nat) : List Byte := slotRead s porchBox slot 32 (slotLength s porchBox slot)

/-- One entry of the report (R431). -/
def reportEntry (s : State) (dom : Nat) : List Byte :=
  let st := if inReset s dom then 3 else if isLost s dom then 2 else 1
  let type := match domType dom with
    | some t => domCode t
    | none => 0
  leBytes 1 dom ++ leBytes 1 st ++ leBytes 1 type ++ [0] ++ leBytes 4 (rf s dom Reg.DOM_INFO 63 32)
    ++ leBytes 4 (rf s dom Reg.DOM_SVN 31 0) ++ [0, 0, 0, 0] ++ (shownImage s dom).digest

def vtableDigest (s : State) : List Byte :=
  sha3_512 ((powered s).flatMap fun d => (List.range 6).flatMap fun k => leBytes 8 (getReg s d (Reg.VTABLE0 + 8 * k)).toNat)

/-- Some domain runs an image other than the MRAM set's; one that is lost or in reset runs none. -/
def mixed (s : State) : Bool :=
  let set := copiesOf s.mram.set
  ((domainIds s.variant).filter fun d => !isDown s d).any fun d =>
    decide (shownImage s d ≠ imageId (set.getD (match domType d with | some t => domCode t | none => 0) []))

/-- The report without its signature. -/
def reportBody (s : State) (nonce : List Byte) : List Byte :=
  leBytes 4 0x41545354 ++ [1] ++ leBytes 1 s.variant ++ [1, 20] ++ leBytes 8 (factory s).serial.toNat ++ leBytes 4 s.mram.bootCount
    ++ leBytes 4 s.mram.minSvn ++ leBytes 4 (setVersion s.mram.set)
    ++ leBytes 4 (pf s Reg.BOOT_STATUS 4 4 + 2 * b2n (mixed s) + 4 * pf s Reg.BOOT_STATUS 6 6) ++ nonce ++ posBytes s.pos
    ++ List.replicate 49 0 ++ (domainIds s.variant).flatMap (reportEntry s) ++ vtableDigest s ++ s.boot.payload

/-- The 6,483 bytes of a report. -/
def report (s : State) (nonce : List Byte) : List Byte :=
  let b := reportBody s nonce
  let rnd := (List.range 32).map (Config.signRandom s.freeCtr)
  b ++ (dsaSign (deviceSeed s) rnd b (ascii "SK20-ATTEST") ++ List.replicate 4627 0).take 4627

/-- The certificate chain as CERT_READ gives it: the total counts the bytes after it. -/
def chainBytes (s : State) : List Byte :=
  let one := fun (c : List Byte) => leBytes 4 c.length ++ c
  let all := one s.mram.certRoot ++ one s.mram.certCa ++ one s.mram.certDevice
  leBytes 4 all.length ++ all

def attestStatus (s : State) (m : Service) : Nat :=
  if m.arg0 % 64 ≠ 0 then stAlign
  else if m.arg1 < 6483 ∨ memMapped s m.arg0 6483 = false then stLength
  else if pf s Reg.BOOT_STATUS 5 5 = 1 then stSignature
  else if needsDown s m.arg0 6483 then stLost
  else 0

def serveAttest (slot : Nat) (m : Service) (s : State) : State :=
  let st := attestStatus s m
  answerSlot slot st (if st = 0 then tick (writeMem s m.arg0 (report s m.nonce)) else s)

def serveCert (slot : Nat) (m : Service) (s : State) : State :=
  let b := chainBytes s
  let st := if m.arg1 < b.length ∨ memMapped s m.arg0 b.length = false then stLength
    else if needsDown s m.arg0 b.length then stLost else 0
  answerSlot slot st (if st = 0 then writeMem s m.arg0 b else s)

abbrev storeSize : Nat := 0x10000000

def serveStoreWrite (slot : Nat) (m : Service) (s : State) : State :=
  let st := if m.arg1 % 4096 ≠ 0 then stAlign
    else if storeSize < m.arg1 + m.arg2 ∨ memMapped s m.arg0 m.arg2 = false then stLength
    else if needsDown s m.arg0 m.arg2 then stLost else 0
  answerSlot slot st
    (if st = 0 then { s with store := tblSetRun memDefault s.store m.arg1 (readMem s m.arg0 m.arg2) } else s)

def serveStoreRead (slot : Nat) (m : Service) (s : State) : State :=
  let st := if storeSize < m.arg1 + m.arg2 ∨ memMapped s m.arg0 m.arg2 = false then stLength
    else if needsDown s m.arg0 m.arg2 then stLost else 0
  answerSlot slot st (if st = 0 then writeMem s m.arg0 (storeRead s m.arg1 m.arg2) else s)

/-- UPDATE: the refusals of R228 and R426, then its steps. -/
def serveUpdateMsg (slot : Nat) (m : Service) (s : State) : State :=
  let fs := fabState s
  let busy := decide (m.arg2 = 2) && (decide (fs = fabForming) || decide (fs = fabRunning) || decide (fs = fabRestarting))
  let st := if 2 < m.arg2 ∨ s.boot.updating = true ∨ busy = true then stReserved
    else if m.arg0 % 64 ≠ 0 then stAlign
    else if memMapped s m.arg0 m.arg1 = false then stLength
    else if needsDown s m.arg0 m.arg1 then stLost else 0
  if st ≠ 0 then answerSlot slot st s
  else
    let b := readMem s m.arg0 m.arg1
    let s := setUpd 1 0 (setVersion b) s
    if m.arg1 < setLength b then answerSlot slot stLength (setUpd 0 stLength (setVersion b) s)
    else if !setGood s.variant s.mram.minSvn b then updateBad slot (setVersion b) s
    else if m.arg2 = 0 then answerSlot slot stDone (setUpd 0 stDone (setVersion b) s)
    else commitUpdate slot m.arg2 b s

/-- MODULE_RESET: DONE now, the reset 10 ms later. -/
def serveReset (slot : Nat) (_ : Service) (s : State) : State :=
  answerSlot slot stDone { s with boot := { s.boot with resetIn := true } }

/-- A message that stands POSTED in a slot of the Porch INBOX: served when it names the operation; refused when nothing decodes it. -/
def serviceMsg (op slot : Nat) (serve : Nat → Service → State → State) (s : State) : State :=
  let p := messageAt s slot
  if !s.boot.firmware || decide (16 ≤ slot) || decide (slotState s porchBox slot ≠ 2) then s
  else if !decodable p then answerSlot slot stReserved s
  else if recNat p 0 2 = op ∧ ¬(s.boot.updating = true ∧ slot = s.boot.updSlot) then serve slot (serviceOf p) s
  else s

/-- The answer over the management port: the data in KIND 0x0002 frames, then the status (log entry 65), to the address that asked. -/
def mgmtAnswer (dst : List Byte) (status : Nat) (data : List Byte) (s : State) : State :=
  let frame := fun (off : Nat) (bytes : List Byte) =>
    leBytes 2 2 ++ [0, 0] ++ leBytes 8 (factory s).serial.toNat ++ leBytes 4 off ++ leBytes 4 data.length ++ bytes
  let s := (List.range (ceilDiv data.length 1024)).foldl (fun s k => sendMgmt 0 dst (frame (1024 * k) (cut data (1024 * k) 1024)) s) s
  sendMgmt 0 dst (frame data.length (leBytes 2 status)) s

/-- The status of a service asked for over the management port: the checks of its arguments that do not concern memory. -/
def mgmtStatus (s : State) (m : Service) : Nat :=
  match m.op with
  | 1 => if m.arg0 % 64 ≠ 0 then stAlign else if m.arg1 < 6483 then stLength
      else if pf s Reg.BOOT_STATUS 5 5 = 1 then stSignature else stDone
  | 2 => if m.arg1 < (chainBytes s).length then stLength else stDone
  | 6 => stDone
  | _ => stReserved

/-- MGMT_SERVICE_FRAME: ATTEST, CERT_READ and MODULE_RESET only. -/
def mgmtService (frame : List Byte) (s : State) : State :=
  match mgmtPayload s frame with
  | none => s
  | some f =>
    let p := cut f 4 64
    let dst := cut frame 6 6
    let m := serviceOf p
    if !s.boot.firmware || decide (recNat f 0 2 ≠ 1) then s
    else if !decodable p || decide (recNat f 2 2 ≠ 0) then mgmtAnswer dst stReserved [] s
    else if mgmtStatus s m ≠ stDone then mgmtAnswer dst (mgmtStatus s m) [] s
    else if m.op = 1 then tick (mgmtAnswer dst stDone (report s m.nonce) s)
    else if m.op = 2 then mgmtAnswer dst stDone (chainBytes s) s
    else mgmtAnswer dst stDone [] { s with boot := { s.boot with resetIn := true } }

/-! The pins (R447, R448, R453 to R455). -/

/-- The module stops: everything but MRAM and the store is lost. -/
def powerOff (s : State) : State := cold s

/-- A thermal trip or an input shutdown leaves a record for the next power-on (R382, R448). -/
def owe (dom : Nat) (s : State) : State := { s with mram := { s.mram with unlogged := s.mram.unlogged ++ [dom] } }

end Sys2Proof.Machine
end

