-- ==== Sys2Proof/Machine/BootCmds.lean ====
section
/-! DEFINITION. The commands of start-up, recovery, identity and the pins (R420 to R432, R447, R448, R453 to R458). -/
namespace Sys2Proof.Machine

/-- PWR_GOOD_RISE (R453): step 1 of R420, or its wait for RESET_N (R455). -/
def execPwrGoodRise (b : BootInputs) (s : State) : Host.Outcome State Fault Refusal :=
  .next (if s.pins.pwrGood then s
    else
      let s := { s with pins := { s.pins with pwrGood := true } }
      if s.pins.resetN then powerOn b s else s)

/-- The feed is gone: the TAP and the scan register are reset with it (log entry 30). -/
def feedLost (s : State) : State :=
  let s := powerOff s
  { s with pins := { s.pins with pwrGood := false, jtagIr := 1, scan := 0 } }

/-- PWR_GOOD_FALL (R453). -/
def execPwrGoodFall (s : State) : Host.Outcome State Fault Refusal := .next (if s.pins.pwrGood then feedLost s else s)

/-- RESET_N takes a level (R454, R455): low, all stops; at its rise step 1 of R420 starts, unless a MODULE_RESET releases later. -/
def resetPin (high : Bool) (b : BootInputs) (s : State) : State :=
  if s.pins.resetN = high then s
  else
    let s := { s with pins := { s.pins with resetN := high } }
    if !s.pins.pwrGood then s
    else if high then (if s.boot.resetIn then s else powerOn b s)
    else
      let due := s.boot.resetIn
      let s := cold s
      { s with boot := { s.boot with resetIn := due } }

/-- RESET_N (R454). -/
def execResetN (high : Bool) (b : BootInputs) (s : State) : Host.Outcome State Fault Refusal := .next (resetPin high b s)

/-- MODULE_RESET_TIMER (R425, R455): 10 ms after the message. -/
def execModuleResetTimer (b : BootInputs) (s : State) : Host.Outcome State Fault Refusal :=
  .next (if !s.boot.resetIn then s
    else if s.pins.resetN && s.pins.pwrGood then powerOn b s
    else { s with boot := { s.boot with resetIn := false } })

/-- VIN_SHUTDOWN (R447, R448): acts as a fall of PWR_GOOD, its cause in MRAM. -/
def execVinShutdown (cause : Nat) (s : State) : Host.Outcome State Fault Refusal :=
  .next (if s.pins.pwrGood && decide (cause < 2) then
      feedLost (owe porchDom { s with mram := { s.mram with shutdown := some cause } })
    else s)

/-- RECOVERY_DATA (R424). -/
def execRecoveryData (b : BootInputs) (frame : List Byte) (s : State) : Host.Outcome State Fault Refusal :=
  .next (recoveryData b frame s)

/-- RECOVERY_REQ_TIMEOUT (R424): the request again, on the other lane. -/
def execRecoveryReqTimeout (s : State) : Host.Outcome State Fault Refusal :=
  .next (sendRecoveryReq (if s.boot.recovery.isSome then { s with boot := { s.boot with recLane := 1 - s.boot.recLane } } else s))

/-- RECOVERY_RETRY (R424): 1 s after a failed attempt. -/
def execRecoveryRetry (s : State) : Host.Outcome State Fault Refusal := .next (if s.boot.retry then beginRecovery s else s)

/-- ATTEST (R431). -/
def execAttest (slot : Nat) (s : State) : Host.Outcome State Fault Refusal := .next (serviceMsg 1 slot serveAttest s)

/-- CERT_READ (R425). -/
def execCertRead (slot : Nat) (s : State) : Host.Outcome State Fault Refusal := .next (serviceMsg 2 slot serveCert s)

/-- UPDATE (R426). -/
def execUpdate (slot : Nat) (s : State) : Host.Outcome State Fault Refusal := .next (serviceMsg 3 slot serveUpdateMsg s)

/-- STORE_WRITE (R425). -/
def execStoreWrite (slot : Nat) (s : State) : Host.Outcome State Fault Refusal := .next (serviceMsg 4 slot serveStoreWrite s)

/-- STORE_READ (R425). -/
def execStoreRead (slot : Nat) (s : State) : Host.Outcome State Fault Refusal := .next (serviceMsg 5 slot serveStoreRead s)

/-- MODULE_RESET (R425). -/
def execModuleReset (slot : Nat) (s : State) : Host.Outcome State Fault Refusal := .next (serviceMsg 6 slot serveReset s)

/-- MGMT_SERVICE_FRAME (R425). -/
def execMgmtServiceFrame (frame : List Byte) (s : State) : Host.Outcome State Fault Refusal := .next (mgmtService frame s)

/-- The 16 bytes of an I3C read (R457); bytes 1 to 4 are zero before the firmware starts. -/
def i3cBytes (s : State) (inlet outlet : BitVec 8) : List Byte :=
  let hottest := min 255 ((s.power.temps.map (·.2)).foldl max 0)
  leBytes 1 (pf s Reg.BOOT_STATUS 7 0)
    ++ (if s.boot.firmware then leBytes 1 (pf s Reg.PWR_STATUS 7 0) ++ leBytes 2 (pf s Reg.PWR_MEASURE 15 0) ++ leBytes 1 hottest
        else List.replicate 4 0)
    ++ [inlet, outlet, BitVec.ofNat 8 s.variant] ++ leBytes 8 (factory s).serial.toNat

/-- I3C_PRIVATE_READ (R457). -/
def execI3cPrivateRead (inlet outlet : BitVec 8) (s : State) : Host.Outcome State Fault Refusal :=
  .next (if s.pins.pwrGood then emit (.i3c (i3cBytes s inlet outlet)) s else s)

/-- I3C_DYNAMIC_ADDRESS (R457). -/
def execI3cDynamicAddress (a : BitVec 7) (s : State) : Host.Outcome State Fault Refusal :=
  .next (if s.pins.pwrGood then { s with pins := { s.pins with i3cAddr := some a } } else s)

/-- The TAP's instructions, in the model's own numbers (R458). -/
abbrev irBypass : Nat := 0
abbrev irIdcode : Nat := 1
abbrev irSample : Nat := 2
abbrev irExtest : Nat := 3

/-- The TAP takes an instruction and shifts a value out. -/
def tap (ir out : Nat) (s : State) : State :=
  if s.pins.pwrGood then emit (.jtag out) { s with pins := { s.pins with jtagIr := ir } } else s

/-- The identification code of an item (R458). -/
def idcode (s : State) : Nat := 0x0B020C4F + s.variant * 2 ^ 28

/-- JTAG_BYPASS (R458). -/
def execJtagBypass (s : State) : Host.Outcome State Fault Refusal := .next (tap irBypass 0 s)

/-- JTAG_IDCODE (R458). -/
def execJtagIdcode (s : State) : Host.Outcome State Fault Refusal := .next (tap irIdcode (idcode s) s)

/-- JTAG_SAMPLE_PRELOAD (R458): the levels come out, the value shifted in stands in the boundary-scan register. -/
def execJtagSamplePreload (pins preload : BitVec 22) (s : State) : Host.Outcome State Fault Refusal :=
  .next (if s.pins.pwrGood then tap irSample pins.toNat { s with pins := { s.pins with scan := preload } } else s)

/-- JTAG_EXTEST (R458): the boundary-scan register drives the signals; once STATE has left ROM it acts as BYPASS. -/
def execJtagExtest (pins : BitVec 22) (s : State) : Host.Outcome State Fault Refusal :=
  .next (if bootState s = bootRom then tap irExtest pins.toNat s else tap irBypass 0 s)

end Sys2Proof.Machine
end

