-- ==== Sys2Proof/Machine/Frame.lean ====
section
/-! DEFINITION. The commands of IEEE 802.3 frames (R328, R329). -/
namespace Sys2Proof.Machine

def writeTxTail (p : PortRef) (v : Nat) (s : State) : State := serveTx p (setPortF s p Reg.FRAME_TX_TAIL 31 0 (v % 2 ^ 32))
def writeRxTail (p : PortRef) (v : Nat) (s : State) : State := setPortF s p Reg.FRAME_RX_TAIL 31 0 (v % 2 ^ 32)

/-- FRAME_RECEIVE (R328). -/
def execFrameReceive (p : PortRef) (frame : List Byte) (s : State) : Host.Outcome State Fault Refusal :=
  .next (receiveFrame p frame s)

end Sys2Proof.Machine
end

