-- ==== Sys2Proof/Machine/LowPower.lean ====
section
/-! DEFINITION. The commands of the low-power states (R295 to R298). LP_STATE shows the state from the start of its entry to the end
of the wake (log entry 50). -/
namespace Sys2Proof.Machine

/-- LP_ENTER (R296): an idle domain takes the state its next event allows; one that rests in a lesser state goes on to the deeper one that
a later hint allows (R385). -/
def enterLp (dom : Nat) (s : State) : State :=
  let l := getLp s dom
  let st := lpChoice s dom
  if decide (l.phase = .stay) && domIdle s dom && decide (l.state < st) then
    setLp s ⟨dom, st, .entering, plannedWake s dom st, false, posTick s.pos⟩
  else s

def execLpEnter (dom : Nat) (s : State) : Host.Outcome State Fault Refusal :=
  .next (if s.boot.firmware && isDieDom s dom then enterLp dom s else s)

/-- LP_ENTRY_COMPLETE (R295, R298): a wake that waited for it begins. -/
def execLpEntryComplete (dom : Nat) (s : State) : Host.Outcome State Fault Refusal :=
  .next (
    let l := getLp s dom
    if isDieDom s dom && decide (l.phase = .entering) then
      setLp s { l with phase := if l.event then .waking else .stay, event := false }
    else s)

/-- LP_WAKE_START (R296): the planned tick has come. -/
def execLpWakeStart (dom : Nat) (s : State) : Host.Outcome State Fault Refusal :=
  .next (match (getLp s dom).wake with
    | some w => if isDieDom s dom && decide (w ≤ posTick s.pos) then startWake dom s else s
    | none => s)

/-- LP_WAKE_EVENT (R298): an event that arrives outside S0 counts as late and wakes the domain. -/
def execLpWakeEvent (dom : Nat) (s : State) : Host.Outcome State Fault Refusal :=
  .next (if isDieDom s dom then lateEvent dom s else s)

/-- LP_WAKE_COMPLETE (R296): back in S0; waits that the position satisfies end (R298). -/
def execLpWakeComplete (dom : Nat) (s : State) : Host.Outcome State Fault Refusal :=
  .next (
    let l := getLp s dom
    if isDieDom s dom && decide (l.phase = .waking) then serveWaits (setLp s ⟨dom, 0, .stay, none, false, l.since⟩) else s)

end Sys2Proof.Machine
end

