-- ==== Sys2Proof/Machine/Port.lean ====
section
/-! DEFINITION. The commands of a port's training and faults (R305 to R309). An event that does not fit the port's state changes
nothing (log entry 5). -/
namespace Sys2Proof.Machine

/-- An event for a port in one of these states. -/
def inState (p : PortRef) (states : List Nat) (f : State → State) (s : State) : State :=
  if portUp s p && states.contains (portState s p) then f s else s

def laneCount (m : Nat) : Nat := ((List.range 8).filter fun i => bitAt m i).length

/-- PORT_SIGNAL_DETECT (R305). -/
def execPortSignalDetect (p : PortRef) (lanes : BitVec 8) (s : State) : Host.Outcome State Fault Refusal :=
  .next (inState p [ptDetect] (fun s => if 7 ≤ laneCount lanes.toNat then setPortState ptEqualise p s else s) s)

/-- PORT_DETECT_TIMEOUT (R305). -/
def execPortDetectTimeout (p : PortRef) (s : State) : Host.Outcome State Fault Refusal :=
  .next (inState p [ptDetect] (setPortState ptDown p) s)

/-- PORT_DETECT_ATTEMPT (R305): 100 ms after the attempt before, ENABLE still 1. -/
def execPortDetectAttempt (p : PortRef) (s : State) : Host.Outcome State Fault Refusal :=
  .next (inState p [ptDown] (fun s => if portF s p Reg.PORT_CTRL 0 0 = 1 then setPortState ptDetect p s else s) s)

/-- PORT_EQUALISE_DONE (R305); a port still in RETRAIN returns to EQUALISE before it (log entry 46). -/
def execPortEqualiseDone (p : PortRef) (ok : Bool) (s : State) : Host.Outcome State Fault Refusal :=
  .next (inState p [ptEqualise, ptRetrain] (fun s => if ok then setPortState ptLock p s else enterRetrain p s) s)

/-- PORT_LOCK_DONE (R305): 8 lanes, or 7 of a spared port. -/
def lockDone (p : PortRef) (m : Nat) (s : State) : State :=
  let spared := portF s p Reg.PORT_STATUS 12 12 = 1
  if laneCount m = 8 ∨ (laneCount m = 7 ∧ spared) then
    let s := setPortF (setPortState ptMeasure p s) p Reg.PORT_STATUS 11 4 m
    sendTimestamp p (setPort s { getPort s p with delays := [] })
  else enterRetrain p s

def execPortLockDone (p : PortRef) (lanes : BitVec 8) (s : State) : Host.Outcome State Fault Refusal :=
  .next (inState p [ptLock] (lockDone p lanes.toNat) s)

/-- The median of the exchanges, in ns: the mean of the two middle delays, rounded down (log entry 49). -/
def medianDelay (l : List Int) : Nat :=
  let d := sortBy (fun (a b : Int) => decide (a ≤ b)) l
  wrapInt 16 ((d.getD 31 0 + d.getD 32 0) / 32)

/-- PORT_MEASURE_DONE (R307): 64 exchanges are in; the descriptor leaves (R308). -/
def execPortMeasureDone (p : PortRef) (s : State) : Host.Outcome State Fault Refusal :=
  .next (inState p [ptMeasure] (fun s =>
    let x := getPort s p
    if x.delays.length < 64 then s
    else sendDescriptor p (setPortState ptDescribe p (setPortF s p Reg.PORT_STATUS 47 32 (medianDelay x.delays)))) s)

/-- ADDR_CONFLICT_RETRY (R309). -/
def execAddrConflictRetry (p : PortRef) (s : State) : Host.Outcome State Fault Refusal :=
  .next (inState p [ptDescribe] (fun s => if portF s p Reg.PORT_STATUS 13 13 = 1 then sendDescriptor p s else s) s)

/-- LANE_FAULT (R306). -/
def laneFault (p : PortRef) (lane : Nat) (s : State) : State :=
  if portF s p Reg.PORT_STATUS 12 12 = 1 then enterRetrain p s
  else
    let m := portF s p Reg.PORT_STATUS 11 4
    let s := setPortF (setPortF s p Reg.PORT_STATUS 11 4 (setFld m lane lane 0)) p Reg.PORT_STATUS 12 12 1
    bumpPort s p Reg.PORT_LANE_RETIRE_COUNT 1

def execLaneFault (p : PortRef) (lane : Nat) (s : State) : Host.Outcome State Fault Refusal :=
  .next (inState p [ptActive] (fun s => if bitAt (portF s p Reg.PORT_STATUS 11 4) lane then laneFault p lane s else s) s)

/-- PORT_RX_TIMEOUT (R306). -/
def execPortRxTimeout (p : PortRef) (s : State) : Host.Outcome State Fault Refusal :=
  .next (inState p [ptActive] (enterRetrain p) s)

end Sys2Proof.Machine
end

