-- ==== Sys2Proof/Machine/WalkOps.lean ====
section
/-! DEFINITION. What a register shows (R299, R300, R439), and the state walk (R231 to R233, R388; log entry 64). -/
namespace Sys2Proof.Machine

/-! Sections (R232). -/

def walkPart (code items : Nat) (body : List Byte) : List Byte :=
  leBytes 4 code ++ leBytes 4 items ++ leBytes 8 (32 + body.length) ++ List.replicate 16 0 ++ body

/-- The units of a domain that commands and landings start, in the order of their UNIT codes (R217). -/
def unitsOfKind (dom : Nat) (k : UnitKind) : List UnitRef := (List.range (unitsFitted dom k)).map fun i => ⟨dom, k, i⟩
def walkUnits (dom : Nat) : List UnitRef :=
  match domType dom with
  | some .cd => unitsOfKind dom .sequencer ++ unitsOfKind dom .carrier
  | some .msd => unitsOfKind dom .carrier
  | some .iod => unitsOfKind dom .link
  | _ => []

/-- The 2,640 bytes of a unit (R238). -/
def unitImage (x : ProgUnit) : List Byte :=
  let r := List.range
  leBytes 8 x.pc ++ (r 32).flatMap (fun n => leBytes 8 (gReg x n)) ++ (r 32).flatMap (fun n => leBytes 64 (tReg x n))
    ++ (r 16).flatMap (fun n => leBytes 8 (kReg x n)) ++ (r 16).flatMap (fun n => leBytes 8 (cReg x n))
    ++ leBytes 8 (((r 8).map fun n => b2n (pReg x n) * 2 ^ n).foldl (· + ·) 0)
    ++ (r 4).flatMap (fun n => posBytes (stReg x n) ++ [0])

/-- The units of a domain that run Falnu's firmware (R217): the Porch's power controller, and the letterbox handler that every domain but the
Hall has. -/
def firmwareUnits (dom : Nat) : Nat := if dom = porchDom then 2 else 1

/-- Such a unit runs a program that no command starts; what its registers hold is open (log entry 64). -/
def firmwareUnit (free dom n : Nat) : ProgUnit :=
  let v := fun (w r : Nat) => BitVec.ofNat w (Config.firmwareReg free dom n r)
  { idleUnit ⟨dom, .sequencer, n⟩ with
    running := true, pc := (v 64 0).toNat
    g := (List.range 32).map fun i => v 64 (1 + i), t := (List.range 32).map fun i => v 512 (33 + i)
    k := (List.range 16).map fun i => v 32 (65 + i), c := (List.range 16).map fun i => v 64 (81 + i)
    p := v 8 97, st := (List.range 4).map fun i => v 120 (98 + i) }

/-- The units of section 0x03, in ascending number: those that commands start, then those of the firmware. -/
def unitsImage (s : State) (dom : Nat) : List Byte :=
  (walkUnits dom).flatMap (fun u => unitImage (getUnit s u))
    ++ (List.range (firmwareUnits dom)).flatMap fun n => unitImage (firmwareUnit s.freeCtr dom n)
def unitsListed (dom : Nat) : Nat := (walkUnits dom).length + firmwareUnits dom

/-- Section 0x07: what the ports of an IOD, their lanes and the roster hold, in the open layout (R232, log entry 64). -/
def portFacts (s : State) (dom : Nat) : List Nat :=
  (s.ports.filter fun p => p.ref.iod = dom).flatMap (fun p =>
      [p.ref.port, p.nextTx, p.nextRx, p.resendSeq, p.resends, p.retrains] ++ p.credits ++ p.faults ++ p.delays.map Int.toNat)
    ++ (regOffsets dom).map (fun o => (getReg s dom o).toNat)
    ++ s.fabric.roster.flatMap fun r => [r.addr, r.ports, r.job, r.rank, r.epoch, r.variant, r.contract, r.serial.toNat]
def portBytes (s : State) (dom : Nat) : List Byte :=
  (List.range Config.portSectionLength).map (Config.portSectionByte (portFacts s dom))

/-- One queue: its seven registers, then its incomplete commands. -/
def queueBytes (s : State) (q : Nat) : List Byte :=
  let pcOf := fun (seq : Nat) => ((s.units.find? fun x => x.running && decide (x.owner = .command q seq)).map (·.pc)).getD 0
  ([0, 8, 0x10, 0x18, 0x20, 0x28, 0x30].flatMap fun o => leBytes 8 (getReg s (q / 256) (qReg q o)).toNat)
    ++ (getQueue s q).cmds.flatMap fun c => leBytes 4 c.seq ++ leBytes 4 (cmdUnit c) ++ leBytes 8 (pcOf c.seq)

/-- One bank, tile by tile, block by block. -/
def bankBytes (s : State) (bank : Nat) : List Byte :=
  let k := bankKind s bank
  (List.range (gridTiles k)).flatMap fun n => (List.range (blocksOf k)).flatMap fun g =>
    blockOf s bank k n g (n / gridCols k) (n % gridCols k)
def bankItems (s : State) (bank : Nat) : Nat := gridTiles (bankKind s bank) * blocksOf (bankKind s bank)

/-- Section 0x08 (R388). -/
def grantBytes (g : Grant) : List Byte :=
  leBytes 1 g.holder.dom ++ leBytes 1 (unitCode g.holder.kind) ++ leBytes 2 g.holder.idx ++ leBytes 4 g.watts ++ leBytes 6 g.tick
    ++ List.replicate 18 0
def powerRegOffsets : List Nat := (porchRegs.map (·.off)).filter fun o => decide (0x6000 ≤ o) && decide (o < 0x7000)
def listedGrants (s : State) : List Grant :=
  s.power.grants.filter (fun g => g.stage = .inForce) ++ s.power.grants.filter fun g => g.stage = .queued
def powerBytes (s : State) : List Byte :=
  let n := s.power.samples.length
  powerRegOffsets.flatMap (fun o => leBytes 8 (getReg s porchDom o).toNat)
    ++ (List.replicate (1024 - n) 0 ++ s.power.samples.drop (n - 1024)).flatMap (leBytes 4)
    ++ (listedGrants s).flatMap grantBytes

/-! Sizes. -/

def sizeAll (l : List Nat) : Nat := l.foldl (· + ·) 0
def cdBanks (dom : Nat) : List Nat := (List.range 32).map fun b => (dom - 0x10) * 32 + b

/-- WALK_SIZE: the bytes that a walk now writes. -/
def walkSize (s : State) (dom : Nat) : Nat :=
  let queues := 32 + sizeAll ((List.range 16).map fun q => 56 + 16 * (getQueue s (dom * 256 + q)).cmds.length)
  let units := 32 + 2640 * unitsListed dom
  64 + 32 + 8 * (regOffsets dom).length + match domType dom with
    | some .porch => units + 32 + 8 * powerRegOffsets.length + 4096 + 32 * (listedGrants s).length
    | some .cd => queues + units + 32 + blockBytes * sizeAll ((cdBanks dom).map (bankItems s)) + 32 + 8 + 16 * 4416
    | some .msd => queues + units + (if dom = 0x20 then 32 + 16 * s.stash.stashes.length else 0)
    | some .iod => queues + units + 32 + Config.portSectionLength
    | _ => 0

/-- What a read of a register returns: the live position and counts, or the bits held (R299, R300, R231). -/
def regView (s : State) (dom off : Nat) : Word :=
  if (regDef dom off).isNone then 0
  else if dom = porchDom ∧ off = Reg.STAIR_POS_TICK then BitVec.ofNat 64 (posTick s.pos)
  else if dom = porchDom ∧ off = Reg.LAND_PENDING then BitVec.ofNat 64 (pendingIn s dom)
  else if dom ≠ porchDom ∧ off = Reg.LAND_PENDING_D then BitVec.ofNat 64 (pendingIn s dom)
  else if off = Reg.WALK_SIZE then BitVec.ofNat 64 (walkSize s dom)
  else getReg s dom off

/-! The image. -/

def walkRegBytes (s : State) (dom : Nat) : List Byte :=
  walkPart 1 (regOffsets dom).length ((regOffsets dom).flatMap fun o => leBytes 8 (regView s dom o).toNat)

def walkBody (s : State) (dom : Nat) : List Byte :=
  let queues := walkPart 2 16 ((List.range 16).flatMap fun q => queueBytes s (dom * 256 + q))
  let units := walkPart 3 (unitsListed dom) (unitsImage s dom)
  walkRegBytes s dom ++ match domType dom with
    | some .porch => units ++ walkPart 8 (powerRegOffsets.length + 1024 + (listedGrants s).length) (powerBytes s)
    | some .cd => queues ++ units
        ++ walkPart 4 (sizeAll ((cdBanks dom).map (bankItems s))) ((cdBanks dom).flatMap (bankBytes s))
        ++ walkPart 5 4416 (leBytes 8 (getReg s dom Reg.LG_KEY).toNat
            ++ (List.range 4416).flatMap fun l => leBytes 16 (getLane s dom l).ctr.toNat)
    | some .msd => queues ++ units ++ (if dom = 0x20 then
        walkPart 6 s.stash.stashes.length (s.stash.stashes.flatMap fun x => leBytes 8 x.header ++ leBytes 8 x.budget) else [])
    | some .iod => queues ++ units ++ walkPart 7 1 (portBytes s dom)
    | _ => []

def walkImage (s : State) (w : Walk) (fin : Pos) : List Byte :=
  leBytes 1 w.dom ++ leBytes 1 s.variant ++ [1] ++ leBytes 1 (b2n w.quiesce) ++ leBytes 4 (walkSize s w.dom) ++ posBytes w.start
    ++ posBytes fin ++ List.replicate 26 0 ++ walkBody s w.dom

def walkDest (s : State) (dom : Nat) : Nat := rf s dom Reg.WALK_DEST 43 0
def walkCap (s : State) (dom : Nat) : Nat := rf s dom Reg.WALK_CAP 31 0

/-- The header first, then the sections, with the end position zero; no more than the destination takes. -/
def writeImage (w : Walk) (s : State) : State :=
  writeServed (walkDest s w.dom) ((walkImage s w 0).take (walkCap s w.dom)) (tick s)

/-- The walk is over: status, FINISHED. -/
def endWalk (dom status : Nat) (s : State) : State :=
  let s := { s with walks := s.walks.filter fun w => w.dom ≠ dom }
  setRf (setRf (setRf s dom Reg.WALK_STATUS 0 0 0) dom Reg.WALK_STATUS 1 1 1) dom Reg.WALK_STATUS 31 16 status

/-- Units of a domain suspended, or resumed (R233). -/
def pauseUnits (dom : Nat) (b : Bool) (s : State) : State :=
  { s with units := s.units.map fun (x : ProgUnit) => if x.ref.dom = dom then { x with paused := b } else x }

/-- A write of WALK_START (R231, R233). What a domain in reset or lost would take of the image is not written (R44, log entry 64). -/
def startWalk (dom v : Nat) (s : State) : State :=
  if !bitAt v 0 then s
  else if s.walks.any fun w => w.dom = dom then setRf s dom Reg.WALK_STATUS 2 2 1
  else
    let a := walkDest s dom
    let n := walkSize s dom
    if a % 64 ≠ 0 then endWalk dom stAlign s
    else if walkCap s dom < n ∨ memMapped s a n = false then endWalk dom stLength s
    else
      let w : Walk := ⟨dom, bitAt v 1, s.pos⟩
      let s := setRf { s with walks := s.walks ++ [w] } dom Reg.WALK_STATUS 0 0 1
      if w.quiesce then pauseUnits dom true s else writeImage w s

/-- WALK_DONE: a quiesced image is written once nothing is in flight, and the units go on; then the end position. -/
def walkDone (dom : Nat) (s : State) : State :=
  match s.walks.find? fun w => w.dom = dom with
  | none => s
  | some w =>
    let busy := s.units.any fun x => x.ref.dom = dom && !x.inFlight.isEmpty
    if w.quiesce && busy then s
    else
      let s := if w.quiesce then pauseUnits dom false (writeImage w s) else s
      serveWaits (endWalk dom stDone (writeServed (walkDest s dom + 23) (posBytes s.pos) s))

end Sys2Proof.Machine
end

