-- ==== Sys2Proof/Machine/Access.lean ====
section
/-! DEFINITION. Accesses to control blocks and letterboxes (R14 to R17, R37, R44, R391, R394, R395, R401 to R406, R435 to R440): what a
write stores and starts, what a read returns. -/
namespace Sys2Proof.Machine

/-! Writes of registers. -/

/-- The bits that an access of a size at an offset writes (R436). -/
def laneMask (off size : Nat) : Nat := if size = 8 then 2 ^ 64 - 1 else if off % 8 = 4 then 2 ^ 64 - 2 ^ 32 else 2 ^ 32 - 1

/-- What a write leaves in a register without behaviour of its own (R15, R437): RW and WRB bits take the value, RW1C bits clear. -/
def plainBits (r : RegDef) (m v old : Nat) : Nat :=
  let take := (r.rw ||| r.wrb) &&& m
  let held := (old &&& (2 ^ 64 - 1 - take)) ||| (v &&& take)
  held &&& (2 ^ 64 - 1 - (v &&& r.w1c &&& m))

def storePlain (dom off m v : Nat) (r : RegDef) (s : State) : State :=
  setReg s dom off (BitVec.ofNat 64 (plainBits r m v (getReg s dom off).toNat))

/-- The value as the register's own rule sees it: written bits, kept RW bits, no WRB bit of an unwritten half (R436). -/
def seenValue (r : RegDef) (m v old : Nat) : Nat := (v &&& m) ||| (old &&& (2 ^ 64 - 1 - m) &&& (2 ^ 64 - 1 - r.wrb) &&& (2 ^ 64 - 1 - r.w1c))

/-- A write of CG_JOB_KEY reaches the key in force at once while no job exists (R197, R314). -/
def keyWritten (s : State) : State :=
  if fabState s = fabNoJob then setReg s porchDom Reg.CG_KEY_IN_FORCE (getReg s porchDom Reg.CG_JOB_KEY) else s

/-- TRAIN_SKIP_REQUEST (R171): a request counts until the module's header has left. -/
def requestSkip (v : Nat) (s : State) : State :=
  if !bitAt v 0 then s
  else if s.train.left then setRf s 0x10 Reg.TRAIN_SKIP_REQUEST 1 1 1
  else { s with train := { s.train with request := true } }

/-- Porch registers with behaviour of their own; s holds the stored bits, s0 does not. -/
def porchWrite (off v : Nat) (acts : Bool) (s0 s : State) : State :=
  if off = Reg.CG_JOB_KEY then keyWritten s
  else if off = Reg.FAB_JOB then fabJobWrite v s0
  else if off = Reg.ANNEX_CTRL then writeAnnexCtrl v s0
  else if !acts then s
  else if off = Reg.STAIR_SET then stairSet v s
  else if off = Reg.STAIR_CLOSE then closeStep v s
  else if off = Reg.DOM_RESET then requestReset v s
  else if off = Reg.FLOG_COPY then copyRecord v s
  else if off = Reg.RST_CTRL then writeRstCtrl v s
  else if off = Reg.PWR_CTRL then (if bitAt v 0 then withdrawAll s else s)
  else if off = Reg.WALK_START then startWalk porchDom v s
  else s

/-- Queue registers: the doorbell, the control register, the bases that ENABLE locks (R221, R222). -/
def queueWrite (q off v : Nat) (acts : Bool) (s0 s : State) : State :=
  if off = Reg.Q_CTRL then writeQCtrl q v s0
  else if off = Reg.Q_TAIL then (if acts then writeQTail q v s0 else s0)
  else if off = Reg.Q_RING ∨ off = Reg.Q_CPL_BASE then (if qBaseLocked s0 q then s0 else s)
  else s

/-- Port registers (R305, R329). -/
def portWrite (p : PortRef) (off v : Nat) (acts : Bool) (s0 s : State) : State :=
  if off = Reg.PORT_CTRL then serveTx p (writePortCtrl p v s0)
  else if off = Reg.FRAME_TX_TAIL then (if acts then writeTxTail p v s0 else s0)
  else if off = Reg.FRAME_RX_TAIL then (if acts then writeRxTail p v s0 else s0)
  else s

/-- Registers of the other domains with behaviour of their own. -/
def dieWrite (dom off v : Nat) (acts : Bool) (s0 s : State) : State :=
  if off = Reg.WALK_START then (if acts then startWalk dom v s else s)
  else if 0x100000 ≤ off ∧ off < 0x100400 then queueWrite (dom * 256 + (off - 0x100000) / 0x40) (off % 0x40) v acts s0 s
  else if off = Reg.PWR_OPPOINT then retarget s
  else if dom = 0x10 ∧ off = Reg.TRAIN_SKIP_REQUEST then (if acts then requestSkip v s else s)
  else if dom = 0x20 ∧ off = Reg.STASH_LARDER_SHARE then shareWritten s
  else if domType dom = some .iod ∧ 0x300000 ≤ off ∧ off < 0x300200 then
    portWrite ⟨dom, (off - 0x300000) / 0x100⟩ (off % 0x100) v acts s0 s
  else s

/-- WRB bits of the half that a 4-byte write leaves alone read as last written, whatever the register's own rule stored (R15, R436). -/
def keepTriggers (r : RegDef) (dom o m old : Nat) (s : State) : State :=
  let kept := r.wrb &&& (2 ^ 64 - 1 - m)
  if kept = 0 then s
  else setReg s dom o (BitVec.ofNat 64 (((getReg s dom o).toNat &&& (2 ^ 64 - 1 - kept)) ||| (old &&& kept)))

/-- A write of size 4 or 8 to a register of a domain that answers. -/
def writeReg (dom off size v : Nat) (s : State) : State :=
  match regDef dom (off / 8 * 8) with
  | none => s
  | some r =>
    let o := off / 8 * 8
    let m := laneMask off size
    let v := if off % 8 = 4 then v * 2 ^ 32 else v
    let old := (getReg s dom o).toNat
    let w := seenValue r m v old
    let acts := decide (r.wrb &&& m ≠ 0)
    let s' := storePlain dom o m v r s
    keepTriggers r dom o m old (if dom = porchDom then porchWrite o w acts s s' else dieWrite dom o w acts s s')

/-- An access to the block of a die that sleeps wakes it, but for reads of its landing and low-power registers (R298, R440). -/
def wakeAccess (dom off : Nat) (read : Bool) (s : State) : State :=
  let served := read && decide (0x101000 ≤ off) && decide (off < 0x101080)
  if isDieDom s dom && !served then lateEvent dom s else s

/-- The interrupt files of the Hall's block: a 4-byte write of an identity to offset 0 of a page (R395). -/
def filePage (dom off : Nat) : Bool := decide (dom = 0) && decide (0x8000000 ≤ off)
def fileWrite (off size v : Nat) (s : State) : State :=
  let o := off - 0x8000000
  let id := v % 2 ^ 32
  if size = 4 ∧ o % 0x1000 = 0 ∧ o < 64 * 0x8000 ∧ o % 0x8000 / 0x1000 < 5 ∧ 1 ≤ id ∧ id < 256 then
    pend (o / 0x8000) (o % 0x8000 / 0x1000) id s
  else s

/-- A write to a control block: nothing in a domain that is absent or down (R44), or while the module is off. -/
def writeControl (dom off size v : Nat) (s : State) : State :=
  if isDown s dom || !isFitted s dom || !s.boot.firmware then s
  else if filePage dom off then fileWrite off size v s
  else writeReg dom off size v (wakeAccess dom off false s)

/-- A read of STAIR_POS_TICK latches the other fields (R299). -/
def latchPosition (s : State) : State :=
  let s := setReg s porchDom Reg.STAIR_POS_HIGH (BitVec.ofNat 64 (posPhase s.pos + 256 * posMb s.pos + 2 ^ 24 * posStep s.pos))
  setReg s porchDom Reg.STAIR_EPOCH (BitVec.ofNat 64 (posEpoch s.pos))

/-- What a read returns, and what it does. -/
structure ReadOut where
  s : State
  v : Nat
deriving DecidableEq, Repr

def readControl (dom off : Nat) (s : State) : ReadOut :=
  if filePage dom off then ⟨s, 0⟩
  else
    let s := wakeAccess dom off true s
    let v := (regView s dom off).toNat
    ⟨if dom = porchDom ∧ off = Reg.STAIR_POS_TICK then latchPosition s else s, v⟩

/-! Letterboxes. -/

/-- The definition of a box register; the 32 LB_GRANT registers share one. -/
def boxRegDef (off : Nat) : Option RegDef :=
  if 0x1100 ≤ off ∧ off < 0x1200 then regFind boxRegDefs 0x1100 else regFind boxRegDefs off

/-- A claim; FABRIC_IN has no sender, so a claim on it finds none (R400, log entry 67). -/
def claimBox (box sender : Nat) (s : State) : State :=
  if box = fabricIn then setBox s box (Reg.LB_GRANT0 + 8 * sender) 32 else claim box sender s

/-- An 8-byte write to a box register; src is the agent as SRC records it (R401 to R406). -/
def writeBox (box off v src : Nat) (s : State) : State :=
  match boxRegDef off with
  | none => s
  | some r =>
    let s' := setBox s box off (BitVec.ofNat 64 (plainBits r (2 ^ 64 - 1) v (getBox s box off).toNat))
    if off = Reg.LB_CLAIM then claimBox box (v % 32) s'
    else if off = Reg.LB_RING then ring box (v % 32) (fld v 11 8) src s'
    else if off = Reg.LB_ACK then acknowledge box (fld v 51 48) (v % 2 ^ 32) (fld v 47 32) s'
    else if off = Reg.LB_RELEASE then releaseSlot box (fld v 11 8) (v % 32) s'
    else if off = Reg.LB_MASK then maskWrite box v s
    else s'

/-- Bytes of a slot that a sender may store (R401). -/
def slotOpen (box i : Nat) : Bool :=
  (decide (2 ≤ i) && decide (i < 8)) || (decide (box = fabricOut) && decide (16 ≤ i) && decide (i < 18)) || decide (32 ≤ i)

/-- A store into a slot: module-written and reserved bytes keep their values. -/
def storeSlot (box off : Nat) (bs : List Byte) (s : State) : State :=
  bs.zipIdx.foldl (fun s b =>
    if slotOpen box ((off + b.2) % 256) then { s with boxMem := tblSet memDefault s.boxMem (box + off + b.2) b.1 } else s) s

/-- A store to a box of a die that sleeps wakes it: its doorbell is there (R298). -/
def wakeBox (box : Nat) (s : State) : State := if isDieDom s (boxOwner box) then lateEvent (boxOwner box) s else s

/-- A store of size bytes at an offset of a box. -/
def storeBox (box off size v src : Nat) (s : State) : State :=
  let s := wakeBox box s
  if !s.boot.firmware then s
  else if off < 0x1000 then storeSlot box off (leBytes size v) s
  else writeBox box off v src s

/-- A load of 8 bytes at an offset of a box. -/
def loadBox (s : State) (box off : Nat) : Nat :=
  if off < 0x1000 then leNat ((List.range 8).map fun i => tblGet memDefault s.boxMem (box + off + i))
  else if (boxRegDef off).isSome then (boxView s box off).toNat else 0

/-! Agents. -/

/-- SRC of a ring (R401). -/
def srcOf (a : Agent) : Nat := a.dom + (if a.dom = 0 then 256 * (a.hart % 64) else 0)

/-- A Hall access covered by R36, or of a size that its range does not take (R37, R394). -/
def hallFault (hart addr : Nat) (store : Bool) (s : State) : State :=
  if isDown s 0 then s
  else
    let a := addr % 2 ^ 44
    let s := logFault { status := stLength, cls := 1, dom := 0, addr := some a } s
    let s := setReg s 0 Reg.HALL_ACCESS_LAST (BitVec.ofNat 64 (a + 2 ^ 44 * (hart % 64) + 2 ^ 50 * b2n store))
    sendMsi (getReg s porchDom Reg.HALL_MSI_ACCESS) (bump s 0 Reg.HALL_ACCESS_COUNT 1)

/-- The sizes that the range of an address takes from a hart (R391). -/
def sizeOk (addr size : Nat) : Bool :=
  if controlBase ≤ addr ∧ addr < controlEnd then (decide (size = 4) || decide (size = 8)) && decide (addr % size = 0)
  else if boxBase ≤ addr ∧ addr < boxEnd ∧ addr % 0x2000 < 0x1000 then
    [1, 2, 4, 8].contains size && decide (addr % size = 0)
  else if boxBase ≤ addr ∧ addr < boxEnd then decide (size = 8) && decide (addr % 8 = 0)
  else true

/-- An access that R37 serves: a range wholly in mapped memory, or one of a size that its control block or letterbox takes. -/
def served (s : State) (addr size : Nat) : Bool :=
  memMapped s addr size
    || ((controlAt addr).isSome || (boxAt s addr).isSome) && !refusedAddr s addr && sizeOk addr size

/-- A store by an agent: to memory, a control block or a letterbox. -/
def agentStore (g : Agent) (addr size v : Nat) (s : State) : State :=
  if !s.boot.firmware || isDown s g.dom || decide (size = 0) then s
  else if memMapped s addr size then (if needsDown s addr size then s else writeNat s addr size v)
  else if !served s addr size then (if g.dom = 0 then hallFault g.hart addr true s else s)
  else match controlAt addr, boxAt s addr with
    | some (d, off), _ => writeControl d off size v s
    | none, some (o, b, off) => storeBox (boxId o b) off size v (srcOf g) s
    | none, none => s

/-- A store by an agent through the register write of a row: the box is given by its address. -/
def boxCommand (g : Agent) (addr reg : Nat) (v : Nat) (s : State) : State :=
  match boxAt s addr with
  | some (o, b, _) => if s.boot.firmware && !isDown s g.dom then writeBox (boxId o b) reg v (srcOf g) (wakeBox (boxId o b) s) else s
  | none => if g.dom = 0 then hallFault g.hart addr true s else s

end Sys2Proof.Machine
end

