-- ==== Sys2Proof/Machine/Flags.lean ====
section
/-! DEFINITION. The comparisons of PSET, which set a predicate (R250). The informational flags of an operation (R21) are formed by the
operation that reports them. -/
namespace Sys2Proof.Machine

/-- CMP: EQ, NE, LTU, GEU, LT, GE; none for a reserved code. -/
def cmpFn (cmp a b : Nat) : Option Bool :=
  match cmp with
  | 0 => some (decide (a = b))
  | 1 => some (decide (a ≠ b))
  | 2 => some (decide (a < b))
  | 3 => some (decide (b ≤ a))
  | 4 => some (decide (sext 64 a < sext 64 b))
  | 5 => some (decide (sext 64 b ≤ sext 64 a))
  | _ => none

end Sys2Proof.Machine
end

