-- ==== Sys2Proof/Machine/Operands.lean ====
section
/-! DEFINITION. The operand forms of the control family (R250, R251): immediates, effective addresses, the functions of GOP and GOPI,
and the fields that DSET names. Slots and predicates stand in StairOps and Issue. -/
namespace Sys2Proof.Machine

/-- The signed fields OFF and OFS [21:0], IMM of LI [46:0] and of GOPI [41:6]. -/
def immOff (f : Fields) : Int := sext 22 f.toNat
def immLi (f : Fields) : Int := sext 47 f.toNat
def immGopi (f : Fields) : Int := sext 36 (fld f.toNat 41 6)
def fnOf (f : Fields) : Nat := fld f.toNat 5 0

/-- ga + OFS, modulo 2^64 (R251). -/
def gldAddr (x : ProgUnit) (f : Fields) : Nat := wrapInt 64 ((gReg x (slotF2 f) : Int) + immOff f)

/-- The functions of GOP and GOPI, modulo 2^64 (R250, R251); none for a reserved FN. -/
def gopFn (fn a b : Nat) : Option Nat :=
  let m := 2 ^ 64
  let sh := b % 64
  match fn with
  | 0x00 => some ((a + b) % m)
  | 0x01 => some ((a + (m - b % m)) % m)
  | 0x02 => some (Nat.land a b)
  | 0x03 => some (Nat.lor a b)
  | 0x04 => some (Nat.xor a b)
  | 0x05 => some (a * 2 ^ sh % m)
  | 0x06 => some (a / 2 ^ sh)
  | 0x07 => some (wrapInt 64 (sext 64 a / ((2 ^ sh : Nat) : Int)))
  | 0x08 => some (a * b % m)
  | 0x09 => some (min a b)
  | 0x0A => some (max a b)
  | 0x0B => some (a / b)
  | _ => none

/-- The place of a DSET field in the 512 bits of a descriptor: high and low bit (R239, R251); none for a reserved code. -/
def dsetField (code : Nat) : Option (Nat × Nat) :=
  match code with
  | 0 => some (43, 0)
  | 1 => some (107, 64)
  | 2 => some (171, 128)
  | 3 => some (247, 192)
  | 4 => some (287, 256)
  | 5 => some (319, 288)
  | 6 => some (351, 320)
  | 7 => some (358, 352)
  | 8 => some (363, 360)
  | 9 => some (373, 368)
  | 10 => some (415, 384)
  | 11 => some (447, 416)
  | 12 => some (479, 448)
  | 13 => some (511, 480)
  | _ => none

/-- DSET: the field takes the value, or the sum wrapped within its width. -/
def dsetDesc (d code v : Nat) (add : Bool) : Option Nat :=
  (dsetField code).map fun p => setFld d p.1 p.2 (if add then fld d p.1 p.2 + v else v)

end Sys2Proof.Machine
end

