-- ==== Sys2Proof/Machine/ControlOps.lean ====
section
/-! DEFINITION. The encoding rows of the control family (R250, R251), and of WAITST, FENCE and RING (R273, R274); the waits at issue that
end (R245); the completion of operations (R247). -/
namespace Sys2Proof.Machine

/-! Control instructions: what each does to its unit. -/

/-- The unit with its next word ahead. -/
def goOn (s : State) (x : ProgUnit) : Ctl := .done (setUnit s (advance x 1))

def nopCtl (s : State) (x : ProgUnit) (_ : Fields) : Ctl := goOn s x
/-- END (R244): RUN_COMPLETE follows once nothing is in flight. -/
def endCtl (s : State) (x : ProgUnit) (_ : Fields) : Ctl := .done (setUnit s { x with ended := true })

/-- BR (R244, R250). -/
def brCtl (s : State) (x : ProgUnit) (f : Fields) : Ctl :=
  let pc := (x.pc : Int) + immOff f
  if 0 ≤ pc ∧ pc < x.store.length then .done (setUnit s { x with pc := pc.toNat }) else .refuse stLength

def liCtl (s : State) (x : ProgUnit) (f : Fields) : Ctl := goOn s (setG x (slotF1 f) (wrapInt 64 (immLi f)))
def gopCtl (s : State) (x : ProgUnit) (f : Fields) : Ctl :=
  match gopFn (fnOf f) (gReg x (slotF2 f)) (gReg x (slotF3 f)) with
  | some v => goOn s (setG x (slotF1 f) v)
  | none => .refuse stReserved
def gopiCtl (s : State) (x : ProgUnit) (f : Fields) : Ctl :=
  match gopFn (fnOf f) (gReg x (slotF2 f)) (wrapInt 64 (immGopi f)) with
  | some v => goOn s (setG x (slotF1 f) v)
  | none => .refuse stReserved
def psetCtl (s : State) (x : ProgUnit) (f : Fields) : Ctl :=
  match cmpFn (fld f.toNat 2 0) (gReg x (slotF2 f)) (gReg x (slotF3 f)) with
  | some b => goOn s (setP x (slotF1 f % 8) b)
  | none => .refuse stReserved

/-- GLD (R251): memory, a control block or a letterbox. -/
def gldCtl (s : State) (x : ProgUnit) (f : Fields) : Ctl :=
  let a := gldAddr x f
  let put := fun (s : State) (v : Nat) => goOn s (setG x (slotF1 f) v)
  if a % 8 ≠ 0 then .refuse stAlign
  else if refusedAddr s a then .refuse stLength
  else if memMapped s a 8 then (if needsDown s a 8 then .refuse stLost else put s (readNat s a 8))
  else match controlAt a, boxAt s a with
    | some (d, off), _ =>
      if isDown s d then .refuse stLost
      else
        let r := readControl d off s
        put r.s r.v
    | none, some (o, b, off) => put s (loadBox s (boxId o b) off)
    | none, none => .refuse stLength

/-- A store waits for earlier operations of its unit that write any of its bytes: O2 (R226, log entry 70). -/
def storeHeld (x : ProgUnit) (a n : Nat) : Bool := x.inFlight.any fun o => rangeMeet o.writes [(a, n)]

/-- An operation whose effects on memory are still to come. -/
def effectsDue (o : Op) : Bool := match o.need with
  | .move _ _ => true
  | .coll _ => true
  | .update _ _ _ => true
  | .opening _ => true
  | _ => false

/-- A write there is a doorbell: Q_TAIL, or a letterbox's LB_RING (R226, R404). -/
def isDoorbell (s : State) (a : Nat) : Bool :=
  (match controlAt a with
   | some (d, off) => decide (0x10 ≤ d) && decide (0x100000 ≤ off) && decide (off < 0x100400) && decide (off % 0x40 = Reg.Q_TAIL)
   | none => false)
    || (match boxAt s a with
        | some (_, _, off) => decide (off = Reg.LB_RING)
        | none => false)

/-- O7: a doorbell waits for every earlier write of its unit. -/
def doorbellHeld (s : State) (x : ProgUnit) (a : Nat) : Bool := isDoorbell s a && x.inFlight.any effectsDue

/-- GST (R251): the unit goes on, then the write takes effect. -/
def gstCtl (s : State) (x : ProgUnit) (f : Fields) : Ctl :=
  let a := gldAddr x f
  let v := gReg x (slotF1 f)
  let s' := setUnit s (advance x 1)
  if storeHeld x a 8 || doorbellHeld s x a then .wait s
  else if a % 8 ≠ 0 then .refuse stAlign
  else if refusedAddr s a then .refuse stLength
  else if memMapped s a 8 then (if needsDown s a 8 then .refuse stLost else .done (writeNat s' a 8 v))
  else match controlAt a, boxAt s a with
    | some (d, off), _ => if isDown s d then .refuse stLost else .done (writeControl d off 8 v s')
    | none, some (o, b, off) => .done (storeBox (boxId o b) off 8 v x.ref.dom s')
    | none, none => .refuse stLength

/-- The checks of DLD, DST, STLD and STST: 64-byte alignment, memory that answers (R251). -/
def lineFlaw (s : State) (a n : Nat) : Nat :=
  if a % 64 ≠ 0 then stAlign else if memMapped s a n = false then stLength else if needsDown s a n then stLost else 0

def dldCtl (s : State) (x : ProgUnit) (f : Fields) : Ctl :=
  let a := gReg x (slotF2 f)
  if lineFlaw s a 64 ≠ 0 then .refuse (lineFlaw s a 64) else goOn s (setT x (slotF1 f) (readNat s a 64))
def dstCtl (s : State) (x : ProgUnit) (f : Fields) : Ctl :=
  let a := gReg x (slotF2 f)
  if storeHeld x a 64 then .wait s
  else if lineFlaw s a 64 ≠ 0 then .refuse (lineFlaw s a 64)
  else goOn (writeNat s a 64 (tReg x (slotF1 f))) x

/-- DSET (R251). -/
def dsetCtl (s : State) (x : ProgUnit) (f : Fields) : Ctl :=
  match dsetDesc (tReg x (slotF1 f)) (fld f.toNat 3 0) (gReg x (slotF2 f)) (bitAt f.toNat 4) with
  | some d => goOn s (setT x (slotF1 f) d)
  | none => .refuse stReserved

def ksetCtl (s : State) (x : ProgUnit) (f : Fields) : Ctl := goOn s (setK x (slotF1 f % 16) (gReg x (slotF2 f) % 2 ^ 32))
def kgetCtl (s : State) (x : ProgUnit) (f : Fields) : Ctl := goOn s (setG x (slotF1 f) (kReg x (slotF2 f % 16)))
def csetCtl (s : State) (x : ProgUnit) (f : Fields) : Ctl := goOn s (setC x (slotF1 f % 16) (gReg x (slotF2 f)))
def strdCtl (s : State) (x : ProgUnit) (f : Fields) : Ctl := goOn s (setSt x (slotF1 f % 4) s.pos)

/-- STLD and STST (R238): 15 bytes of a position, then one byte that holds nothing. -/
def stldCtl (s : State) (x : ProgUnit) (f : Fields) : Ctl :=
  let a := gReg x (slotF2 f)
  if lineFlaw s a 16 ≠ 0 then .refuse (lineFlaw s a 16)
  else goOn s (setSt x (slotF1 f % 4) (BitVec.ofNat 120 (readNat s a 15)))
def ststCtl (s : State) (x : ProgUnit) (f : Fields) : Ctl :=
  let a := gReg x (slotF2 f)
  if storeHeld x a 16 then .wait s
  else if lineFlaw s a 16 ≠ 0 then .refuse (lineFlaw s a 16)
  else goOn (writeMem s a (posBytes (stReg x (slotF1 f % 4)) ++ [0])) x

/-- WAITST (R273), an operation: with 32 in flight it waits for room (R245). -/
def waitstCtl (s : State) (x : ProgUnit) (f : Fields) : Ctl :=
  if 32 ≤ x.inFlight.length then .wait s
  else match waitResult x f s.pos with
  | some b => goOn s (setP x (slotF3 f % 8) b)
  | none => .wait s

/-- FENCE (R274). -/
def fenceCtl (s : State) (x : ProgUnit) (_ : Fields) : Ctl := if x.inFlight.isEmpty then goOn s x else .wait s

/-- RING (R274): one 8-byte write, after every earlier write of the unit (O7). The RING that closes a step completes with its commit
(R282); in STOPPED_MINORITY it is refused (R327, log entry 127). -/
def ringRun (u : UnitRef) (a v : Nat) (id : Nat) (s : State) : Effect :=
  let closing := a = controlBase + 0x10000000 * porchDom + Reg.STAIR_CLOSE
  match controlAt a, boxAt s a with
  | some (d, off), _ =>
    if isDown s d then ⟨mapOp u id (fun o => { o with need := .work }) s, stLost, 0⟩
    else
      let s' := writeControl d off 8 v s
      if closing ∧ fabState s = fabStopped then ⟨mapOp u id (fun o => { o with need := .work }) s', stMinority, 0⟩
      else if closing && (s.boundary.isSome || s'.boundary.isNone) then
        ⟨mapOp u id (fun o => { o with need := .work }) s', stDone, 0⟩
      else ⟨s', stDone, 0⟩
  | none, some (o, b, off) => ⟨storeBox (boxId o b) off 8 v u.dom s, stDone, 0⟩
  | none, none => ⟨s, stDone, 0⟩

def ringPlan (s : State) (x : ProgUnit) (f1 f2 : Nat) : Plan :=
  let a := gReg x f1
  { checks := [failIf (decide (a % 8 ≠ 0)) stAlign,
      failIf (refusedAddr s a || ((controlAt a).isNone && (boxAt s a).isNone)) stLength]
    hold := x.inFlight.any effectsDue
    need := if a = controlBase + 0x10000000 * porchDom + Reg.STAIR_CLOSE then .close else .work
    run := ringRun x.ref a (gReg x f2) }

/-! Rows. -/

def ctlDef (opc mask : Nat) (g : State → ProgUnit → Fields → Ctl) : OpDef :=
  { opc := opc, mask := mask, units := allUnits, body := .control g }
def nopDef : OpDef := ctlDef 0x00 (slotMask 0 0 0 0 0 0 0) nopCtl
def endDef : OpDef := ctlDef 0x01 (slotMask 0 0 0 0 0 0 0) endCtl
def brDef : OpDef := ctlDef 0x02 (slotMask 0 0 0 0 0 0 0x3FFFFF) brCtl
def liDef : OpDef := ctlDef 0x03 (slotMask gSlot 0 0 0 0 0 0x7FFFFFFFFFFF) liCtl
def gopDef : OpDef := ctlDef 0x04 (slotMask gSlot gSlot gSlot 0 0 0 63) gopCtl
def gopiDef : OpDef := ctlDef 0x05 (slotMask gSlot gSlot 0 0 0 0 0x3FFFFFFFFFF) gopiCtl
def psetDef : OpDef := ctlDef 0x06 (slotMask pSlot gSlot gSlot 0 0 0 7) psetCtl
def gldDef : OpDef := ctlDef 0x08 (slotMask gSlot gSlot 0 0 0 0 0x3FFFFF) gldCtl
def gstDef : OpDef := ctlDef 0x09 (slotMask gSlot gSlot 0 0 0 0 0x3FFFFF) gstCtl
def dldDef : OpDef := ctlDef 0x0A (slotMask tSlot gSlot 0 0 0 0 0) dldCtl
def dstDef : OpDef := ctlDef 0x0B (slotMask tSlot gSlot 0 0 0 0 0) dstCtl
def dsetDef : OpDef := ctlDef 0x0C (slotMask tSlot gSlot 0 0 0 0 31) dsetCtl
def ksetDef : OpDef := ctlDef 0x0D (slotMask kSlot gSlot 0 0 0 0 0) ksetCtl
def kgetDef : OpDef := ctlDef 0x0E (slotMask gSlot kSlot 0 0 0 0 0) kgetCtl
def csetDef : OpDef := ctlDef 0x0F (slotMask cSlot gSlot 0 0 0 0 0) csetCtl
def strdDef : OpDef := ctlDef 0x10 (slotMask stSlot 0 0 0 0 0 0) strdCtl
def stldDef : OpDef := ctlDef 0x11 (slotMask stSlot gSlot 0 0 0 0 0) stldCtl
def ststDef : OpDef := ctlDef 0x12 (slotMask stSlot gSlot 0 0 0 0 0) ststCtl
def waitstDef : OpDef := ctlDef 0xC8 (slotMask stSlot stSlot pSlot 0 0 0 1) waitstCtl
def fenceDef : OpDef := ctlDef 0xCA (slotMask 0 0 0 0 0 0 0) fenceCtl
def ringDef : OpDef :=
  { opc := 0xCB, mask := slotMask gSlot gSlot 0 0 0 0 0, units := allUnits, body := opBody fun s x a b _ _ _ _ _ => ringPlan s x a b }

/-! Waits at issue (R245, R246). -/

/-- What a unit waits with. -/
def waitingOf : Instr → Option Waiting
  | .waitst _ f => some ⟨f, waitstDef⟩
  | .fence _ f => some ⟨f, fenceDef⟩
  | .ring _ f => some ⟨f, ringDef⟩
  | .gst _ f => some ⟨f, gstDef⟩
  | .dst _ f => some ⟨f, dstDef⟩
  | .stst _ f => some ⟨f, ststDef⟩
  | i => opOf i

/-- ISSUE_WAIT_END: the unit looks again at the instruction that waits. -/
def lookAgain (u : UnitRef) (s : State) : State :=
  let x := getUnit s u
  match x.waiting with
  | none => s
  | some i => match waitingOf i with
    | none => s
    | some ⟨f, d⟩ =>
      let y := { x with waiting := none }
      let s' := setUnit s y
      if mayIssue s' u then attempt u i f d s'
      else if x.stopped then s'
      else s

/-! Completion (R247). -/

/-- The status with which an operation ends its deferred work, unless it has failed already (R43). -/
def settleOp (u : UnitRef) (id status flags : Nat) (logged : Bool) (s : State) : State :=
  mapOp u id (fun o => { o with need := .work, status := if o.status = 0 then status else o.status, flags := o.flags ||| flags,
                                logged := o.logged || logged }) s

/-- OPERATION_COMPLETE: HUPD takes effect once the skip decision has come (R169), OPEN opens its stash (R176). -/
def completeNow (u : UnitRef) (id : Nat) (s : State) : State :=
  match (getUnit s u).inFlight.find? fun o => o.id = id with
  | none => s
  | some o => match o.need with
    | .update _ _ _ => completeOp u id (serveUpdate u id s)
    | .opening h =>
      let e := openNow h s
      completeOp u id (settleOp u id e.status 0 false e.s)
    | _ => completeOp u id s

/-- COLL_COMPLETE (R319). -/
def completeColl (u : UnitRef) (id : Nat) (s : State) : State :=
  match (getUnit s u).inFlight.find? fun o => o.id = id with
  | none => s
  | some o => match o.need with
    | .coll key => match getColl s key with
      | none => s
      | some c => match endColl c (unitFault (getUnit s u) 0) s with
        | none => s
        | some e => completeOp u id (settleOp u id e.status e.flags e.logged e.s)
    | _ => s

/-- STASH_MOVE_SWITCH (R183): the copy of an operation has ended. -/
def switchOf (u : UnitRef) (op : Nat) (s : State) : State :=
  match moveOf s u op with
  | some (h, m) => switchMove h m s
  | none => s

end Sys2Proof.Machine
end

