-- ==== Sys2Proof/Machine/Control.lean ====
section
/-! DEFINITION. The control instructions (R250, R251): each command means that its unit issues the instruction that its program counter
names, with these operand bits. -/
namespace Sys2Proof.Machine

/-- NOP (R250): the unit goes on. -/
def execNop (u : UnitRef) (x : Fields) (s : State) : Host.Outcome State Fault Refusal :=
  .next (issue u (.nop u x) x nopDef s)

/-- END (R244): nothing more issues; RUN_COMPLETE follows. -/
def execEndProg (u : UnitRef) (x : Fields) (s : State) : Host.Outcome State Fault Refusal :=
  .next (issue u (.endProg u x) x endDef s)

/-- BR (R244, R250). -/
def execBr (u : UnitRef) (x : Fields) (s : State) : Host.Outcome State Fault Refusal :=
  .next (issue u (.br u x) x brDef s)

/-- LI (R250). -/
def execLi (u : UnitRef) (x : Fields) (s : State) : Host.Outcome State Fault Refusal :=
  .next (issue u (.li u x) x liDef s)

/-- GOP (R250). -/
def execGop (u : UnitRef) (x : Fields) (s : State) : Host.Outcome State Fault Refusal :=
  .next (issue u (.gop u x) x gopDef s)

/-- GOPI (R250). -/
def execGopi (u : UnitRef) (x : Fields) (s : State) : Host.Outcome State Fault Refusal :=
  .next (issue u (.gopi u x) x gopiDef s)

/-- PSET (R250). -/
def execPset (u : UnitRef) (x : Fields) (s : State) : Host.Outcome State Fault Refusal :=
  .next (issue u (.pset u x) x psetDef s)

/-- GLD (R251). -/
def execGld (u : UnitRef) (x : Fields) (s : State) : Host.Outcome State Fault Refusal :=
  .next (issue u (.gld u x) x gldDef s)

/-- GST (R251). -/
def execGst (u : UnitRef) (x : Fields) (s : State) : Host.Outcome State Fault Refusal :=
  .next (issue u (.gst u x) x gstDef s)

/-- DLD (R250, R251). -/
def execDld (u : UnitRef) (x : Fields) (s : State) : Host.Outcome State Fault Refusal :=
  .next (issue u (.dld u x) x dldDef s)

/-- DST (R250, R251). -/
def execDst (u : UnitRef) (x : Fields) (s : State) : Host.Outcome State Fault Refusal :=
  .next (issue u (.dst u x) x dstDef s)

/-- DSET (R251). -/
def execDset (u : UnitRef) (x : Fields) (s : State) : Host.Outcome State Fault Refusal :=
  .next (issue u (.dset u x) x dsetDef s)

/-- KSET (R250). -/
def execKset (u : UnitRef) (x : Fields) (s : State) : Host.Outcome State Fault Refusal :=
  .next (issue u (.kset u x) x ksetDef s)

/-- KGET (R250). -/
def execKget (u : UnitRef) (x : Fields) (s : State) : Host.Outcome State Fault Refusal :=
  .next (issue u (.kget u x) x kgetDef s)

/-- CSET (R250). -/
def execCset (u : UnitRef) (x : Fields) (s : State) : Host.Outcome State Fault Refusal :=
  .next (issue u (.cset u x) x csetDef s)

/-- STRD (R250). -/
def execStrd (u : UnitRef) (x : Fields) (s : State) : Host.Outcome State Fault Refusal :=
  .next (issue u (.strd u x) x strdDef s)

/-- STLD (R238, R250). -/
def execStld (u : UnitRef) (x : Fields) (s : State) : Host.Outcome State Fault Refusal :=
  .next (issue u (.stld u x) x stldDef s)

/-- STST (R238, R250). -/
def execStst (u : UnitRef) (x : Fields) (s : State) : Host.Outcome State Fault Refusal :=
  .next (issue u (.stst u x) x ststDef s)

end Sys2Proof.Machine
end

