-- ==== Sys2Proof/Machine/FaultCmds.lean ====
section
/-! DEFINITION. The commands of faults and domain resets (R43, R337 to R344). -/
namespace Sys2Proof.Machine

/-- POLL_MISS (R337): the fifth miss in a row of a CD, MSD or IOD. -/
def execPollMiss (dom : Nat) (s : State) : Host.Outcome State Fault Refusal :=
  .next (if s.boot.firmware && decide (0x10 ≤ dom) then failDomain dom 2 0 s else s)

/-- The reader of an ECC_UNCORRECTABLE is an operation: one in flight, or the control load that the unit is about to issue. -/
def readerIsOp (s : State) (u : UnitRef) (op : Nat) : Bool :=
  let x := getUnit s u
  x.inFlight.any (fun o => o.id = op) || (x.running && decide (op = x.nextOp))

/-- ECC_UNCORRECTABLE (R340, R344, R460): in data that an operation reads, or in firmware state. -/
def execEccUncorrectable (addr : Nat) (u : UnitRef) (op : Nat) (s : State) : Host.Outcome State Fault Refusal :=
  .next (if !s.boot.firmware then s
    else if readerIsOp s u op then eccData addr u op s
    else failDomain u.dom 3 0 s)

/-- CORRIDOR_CRC_FAIL (R43): between two fitted domains, last seen at an edge of the route of R40. -/
def execCorridorCrcFail (src dst siteA siteB : Nat) (u : UnitRef) (op : Nat) (s : State) : Host.Outcome State Fault Refusal :=
  .next (if s.boot.firmware && isFitted s src && isFitted s dst && onRoute src dst siteA siteB
    then corridorFail src dst siteA siteB u op s else s)

/-- DOMAIN_RESET_END (R341 to R343); an UPDATE that waits for it goes on (R426), and a restore (R345). -/
def execDomainResetEnd (dom : Nat) (selfTest : Bool) (failed : List Nat) (s : State) : Host.Outcome State Fault Refusal :=
  .next (if inReset s dom then tryAgree (tryRestore (updateOn (endReset dom selfTest failed s))) else s)

/-- PORCH_FAULT (R340): the whole module as at power-on. -/
def execPorchFault (b : BootInputs) (s : State) : Host.Outcome State Fault Refusal :=
  .next (if s.boot.firmware then powerOn b s else s)

end Sys2Proof.Machine
end

