-- ==== Sys2Proof/Machine/Flit.lean ====
section
/-! DEFINITION. The flits that a port receives (R303, R307 to R310, R330), beats among them (R283 to R287). -/
namespace Sys2Proof.Machine

/-- Flits reach a port that has codeword lock: MEASURE, DESCRIBE or ACTIVE. -/
def portTakes (s : State) (p : PortRef) (states : List Nat) : Bool := portUp s p && states.contains (portState s p)

/-- What is left of a flit's meaning once the link layer has taken it. -/
def withFlit (type : Nat) (p : PortRef) (fec : Option Nat) (f : List Byte) (states : List Nat) (k : List Byte → State → State)
    (s : State) : State :=
  if portTakes s p states then
    match linkIn type p fec f s with
    | .dropped s => s
    | .taken s => k (flPayload f) s
  else s

/-! DATA (R303, R311). -/

/-- A packet is whole: one with a reserved value or another address is discarded (R312), a duplicate too (R306); the rest waits for its own
command. -/
def assembled (pk : List Byte) (s : State) : State :=
  if packetFlaw s pk then bump s porchDom Reg.FAB_STALE_COUNT 1
  else if s.fabric.seen.contains (pkKey pk) then bump s porchDom Reg.FAB_DUP_COUNT 1
  else { s with fabric := { s.fabric with seen := s.fabric.seen ++ [pkKey pk], received := s.fabric.received ++ [pk] } }

/-- Join a DATA flit to the packet of its class; the credits of a letter wait until FABRIC_IN has taken it (R408). -/
def joinData (p : PortRef) (f : List Byte) (s : State) : State :=
  let x := getPort s p
  let tc := flTc f
  let old := if flSop f then (0, []) else ((x.partials.find? fun e => e.1 = tc).map (·.2)).getD (0, [])
  let n := old.1 + 1
  let pk := old.2 ++ flPayload f
  let rest := x.partials.filter fun e => e.1 ≠ tc
  if flEop f then
    let kept := decide (tc = 2) && decide (pkKind pk = 5) && !packetFlaw s pk && !s.fabric.seen.contains (pkKey pk)
    let s := assembled pk (setPort s { x with partials := rest })
    if kept then { s with fabric := { s.fabric with due := s.fabric.due ++ [(p, n, pkSrc pk, pkPseq pk)] } } else giveCredits p tc n s
  else setPort s { x with partials := rest ++ [(tc, n, pk)] }

/-- DATA_FLIT (R303). -/
def execDataFlit (p : PortRef) (fec : Option Nat) (flit : List Byte) (s : State) : Host.Outcome State Fault Refusal :=
  .next (withFlit flitData p fec flit [ptActive] (fun _ s => joinData p flit s) s)

/-- Resend from a SEQ onward, over the lanes in turn; after three resends of one flit the port retrains (R303). -/
def resendFrom (p : PortRef) (seq : Nat) (s : State) : State :=
  let x := getPort s p
  let n := if x.resends ≠ 0 ∧ x.resendSeq = seq then x.resends + 1 else 1
  if 3 < n then enterRetrain p (setPort s { x with resends := 0 })
  else
    let old := x.replay.filter fun e => decide (mod24 (e.1 + 2 ^ 24 - seq) < 2 ^ 23)
    let s := setPort s { x with resendSeq := seq, resends := n }
    old.foldl (fun s e => onLane p e.2 s) (bumpPort s p Reg.PORT_RETRY_COUNT old.length)

/-- RETRY_FLIT (R303). -/
def execRetryFlit (p : PortRef) (fec : Option Nat) (flit : List Byte) (s : State) : Host.Outcome State Fault Refusal :=
  .next (withFlit flitRetry p fec flit [ptDescribe, ptActive] (fun b s =>
    let seq := recNat b 0 3
    resendFrom p seq (ackFlits p (mod24 (seq + 2 ^ 24 - 1)) s)) s)

/-- TIMESTAMP_FLIT (R307, R330): a response gives one delay; a request is answered. A flit with another ROLE has not passed the link layer. -/
def timestampIn (p : PortRef) (t4 : Nat) (b : List Byte) (s : State) : State :=
  if recNat b 0 1 = 0 then
    let body := [1] ++ List.replicate 7 0 ++ leBytes 8 (recNat b 8 8) ++ leBytes 8 t4
      ++ leBytes 8 (Config.portClock s.freeCtr).toNat
    sendFlit p flitTimestamp 0 false false body (tick s)
  else if portState s p = ptMeasure then
    let x := getPort s p
    let i := fun (n : Nat) => (n : Int)
    let d : Int := ((i t4 - i (recNat b 8 8)) - (i (recNat b 24 8) - i (recNat b 16 8))) / 2
    if x.delays.length < 64 then
      let s := setPort s { x with delays := x.delays ++ [d] }
      if x.delays.length + 1 < 64 then sendTimestamp p s else s
    else s
  else s

def execTimestampFlit (p : PortRef) (fec : Option Nat) (t4 : Word) (flit : List Byte) (s : State) : Host.Outcome State Fault Refusal :=
  .next (withFlit flitTimestamp p fec flit [ptMeasure, ptDescribe, ptActive] (timestampIn p t4.toNat) s)

/-- The port becomes ACTIVE (R309, R330): the address, the beat flag, the first credits. -/
def activate (p : PortRef) (address : Nat) (beats : Bool) (s : State) : State :=
  let first := (activePorts s).isEmpty
  let s := setPortF (setPortState ptActive p s) p Reg.PORT_STATUS 13 13 0
  let x := getPort s p
  let s := setPort s { x with retrains := 0, resends := 0, beats := beats, addr := some address, credits := [0, 0, 0, 0] }
  let s := routeWaiting p (if first then setPf s Reg.FAB_STATE 31 16 address else s)
  serveTx p (sendFlit p flitCredit 0 false false (leBytes 2 512 ++ leBytes 2 64 ++ leBytes 2 64 ++ leBytes 2 64) s)

/-- The switch's descriptor (R308, R309): another address than that of the ACTIVE ports is a conflict. -/
def descriptorIn (p : PortRef) (b : List Byte) (s : State) : State :=
  let address := recNat b 20 2
  if !((activePorts s).filter (· ≠ p)).isEmpty ∧ address ≠ fabAddr s then setPortF s p Reg.PORT_STATUS 13 13 1
  else activate p address (bitAt (recNat b 22 2) 0) s

/-- DESCRIPTOR_FLIT (R308). -/
def execDescriptorFlit (p : PortRef) (fec : Option Nat) (flit : List Byte) (s : State) : Host.Outcome State Fault Refusal :=
  .next (withFlit flitDescriptor p fec flit [ptDescribe] (descriptorIn p) s)

/-- ANNOUNCE_FLIT (R310). -/
def execAnnounceFlit (p : PortRef) (fec : Option Nat) (flit : List Byte) (s : State) : Host.Outcome State Fault Refusal :=
  .next (withFlit flitAnnounce p fec flit [ptActive] (announce p) s)

/-- CREDIT_FLIT (R330): credits for all four classes; waiting flits go out. -/
def execCreditFlit (p : PortRef) (fec : Option Nat) (flit : List Byte) (s : State) : Host.Outcome State Fault Refusal :=
  .next (withFlit flitCredit p fec flit [ptActive] (fun b s =>
    drainPort p ((List.range 4).foldl (fun s c => addCredits p c (recNat b (2 * c) 2) s) s)) s)

/-! Beats (R283 to R287). -/

/-- The beat port (R283). -/
def beatPort (s : State) : Option PortRef := (activePorts s).find? fun p => (getPort s p).beats
def isMaster (s : State) : Bool := pf s Reg.STAIR_SYNC 17 17 = 1

/-- Apply a beat of this epoch (R284): its tick is corrected for the path delay, in ns. -/
def applyBeat (p : PortRef) (beatTick : Nat) (s : State) : State :=
  let delay := portF s p Reg.PORT_STATUS 47 32
  let ns : Int := 10 * (posTick s.pos : Int) - (10 * (beatTick : Int) + (delay : Int))
  let s := setPf (setPf s Reg.STAIR_SYNC 15 0 (wrapInt 16 ns)) Reg.STAIR_SYNC 16 16 0
  let s := bump { s with missed := 0 } porchDom Reg.STAIR_BEAT_COUNT 1
  if ns < -160 then
    bump (moveTick (beatTick + delay / 10) { s with slew := 0 }) porchDom Reg.STAIR_JUMP_COUNT 1
  else { s with slew := Int.tdiv ns 10 }

/-- BEAT (R283, R284): only on the beat port, of this epoch, and not while this module is the beat master (R286). -/
def execBeat (p : PortRef) (fec : Option Nat) (flit : List Byte) (s : State) : Host.Outcome State Fault Refusal :=
  .next (withFlit flitBeat p fec flit [ptActive] (fun b s =>
    if isMaster s ∨ beatPort s ≠ some p ∨ recNat b 0 2 ≠ posEpoch s.pos then s else applyBeat p (recNat b 2 6) s) s)

/-- HOLDOVER_ENTER (R285): one more beat has failed to arrive; at the sixteenth in a row HOLDOVER is set. -/
def execHoldoverEnter (s : State) : Host.Outcome State Fault Refusal :=
  .next (if isMaster s then s
    else
      let s := { s with missed := s.missed + 1 }
      if 16 ≤ s.missed then setPf s Reg.STAIR_SYNC 16 16 1 else s)

/-- EPOCH_TICK_LIMIT (R287). -/
def execEpochTickLimit (s : State) : Host.Outcome State Fault Refusal :=
  .next (if isMaster s && decide (2 ^ 48 - 2 ^ 36 ≤ posTick s.pos) && decide (fabState s = fabRunning) then jobRestart 0 0 none s
    else s)

end Sys2Proof.Machine
end

