-- ==== Sys2Proof/Machine/Letter.lean ====
section
/-! DEFINITION. The letterbox commands (R400 to R412) and the Hall's faulting accesses (R394). -/
namespace Sys2Proof.Machine

/-- The packet has left the receiving port's buffer. -/
def packetGone (pk : List Byte) (s : State) : State := releaseDue (fun a n => a = pkSrc pk && n = pkPseq pk) s

/-- A partner's message takes the lowest FREE slot of FABRIC_IN, or waits at its IOD (R408). -/
def letterIn (pk : List Byte) (seq : Nat) (payload : List Byte) (s : State) : State :=
  if bitAt (getBox s fabricIn Reg.LB_STATUS).toNat 3 then packetGone pk (answerLost (pkSrc pk) seq s)
  else match freeSlot? s fabricIn with
  | some n => if s.fabric.held.isEmpty then packetGone pk (fillIn (pkSrc pk) seq payload n s)
      else { s with fabric := { s.fabric with held := s.fabric.held ++ [(pkSrc pk, seq, payload)] } }
  | none => { s with fabric := { s.fabric with held := s.fabric.held ++ [(pkSrc pk, seq, payload)] } }

/-- A letter that its epoch alone makes stale (R312). -/
def staleLetter (pk : List Byte) (s : State) : Bool :=
  decide (pkKind pk = 5) && s.boot.firmware && !packetFlaw s pk
    && (s.fabric.received.contains pk || !s.fabric.seen.contains (pkKey pk)) && decide (pkEpoch pk < posEpoch s.pos)

/-- A letter of this epoch, or of a later one whose restart this module has joined, is delivered. -/
def deliver (pk : List Byte) (seq : Nat) (payload : List Byte) (s : State) : State :=
  if pkKind pk = 5 ∧ payload.length ≤ 224 then letterIn pk seq payload s else packetGone pk s

/-- FABRIC_LB_MESSAGE (R408): a packet of PKIND 0x05 with at most 224 bytes of message; a stale one is answered with STALE_EPOCH. -/
def execFabricLbMessage (pk : List Byte) (seq : Nat) (payload : List Byte) (s : State) : Host.Outcome State Fault Refusal :=
  .next (match arrive pk s with
    | .gone t => packetGone pk (if staleLetter pk s then returnAck (pkSrc pk) seq stStale t else t)
    | .later t => deliver pk seq payload (joinRestart t)
    | .here t => deliver pk seq payload t)

/-- The FABRIC_OUT slot that waits for an answer from a partner. -/
def sentSlot (s : State) (peer seq : Nat) : Option Nat :=
  (List.range 16).find? fun n => slotState s fabricOut n = 2 && slotPeer s fabricOut n = peer && slotSeq s fabricOut n = seq

/-- The FABRIC_OUT slot of the message is ACKED with the code that came back. -/
def ackReturned (pk : List Byte) (seq code : Nat) (s : State) : State :=
  let s := packetGone pk s
  match sentSlot s (pkSrc pk) seq with
  | some n => if pkKind pk = 5 then ackSlot fabricOut n (code % 65536) s else s
  | none => s

/-- FABRIC_LB_ACK_RETURN (R408). -/
def execFabricLbAckReturn (pk : List Byte) (seq code : Nat) (s : State) : Host.Outcome State Fault Refusal :=
  .next (match arrive pk s with
    | .gone s => packetGone pk s
    | .later s => ackReturned pk seq code (joinRestart s)
    | .here s => ackReturned pk seq code s)

/-- LB_CLAIM (R403). -/
def execLbClaim (agent : Agent) (box : Nat) (v : Word) (s : State) : Host.Outcome State Fault Refusal :=
  .next (boxCommand agent box Reg.LB_CLAIM v.toNat s)

/-- LB_RING (R404). -/
def execLbRing (agent : Agent) (box : Nat) (v : Word) (s : State) : Host.Outcome State Fault Refusal :=
  .next (boxCommand agent box Reg.LB_RING v.toNat s)

/-- LB_ACK (R405). -/
def execLbAck (agent : Agent) (box : Nat) (v : Word) (s : State) : Host.Outcome State Fault Refusal :=
  .next (boxCommand agent box Reg.LB_ACK v.toNat s)

/-- LB_RELEASE (R406). -/
def execLbRelease (agent : Agent) (box : Nat) (v : Word) (s : State) : Host.Outcome State Fault Refusal :=
  .next (boxCommand agent box Reg.LB_RELEASE v.toNat s)

/-- LB_MASK_WRITE (R404). -/
def execLbMaskWrite (agent : Agent) (box : Nat) (v : Word) (s : State) : Host.Outcome State Fault Refusal :=
  .next (boxCommand agent box Reg.LB_MASK v.toNat s)

/-- Some access at the address, of 1 to 8 bytes, is one that R37 does not serve. -/
def unserved (s : State) (addr : Nat) : Bool := [1, 2, 4, 8].any fun n => !served s addr n

/-- HALL_ACCESS_FAULT (R394). -/
def execHallAccessFault (hart addr : Nat) (store : Bool) (s : State) : Host.Outcome State Fault Refusal :=
  .next (if s.boot.firmware && unserved s (addr % 2 ^ 44) then hallFault hart addr store s else s)

end Sys2Proof.Machine
end

