-- ==== Sys2Proof/Machine/Matrix.lean ====
section
/-! DEFINITION. The tile and matrix operations (R252 to R259, R100, R101): each command means that its unit issues the instruction that its program counter
names, with these operand bits. -/
namespace Sys2Proof.Machine

/-- TLD (R253). -/
def execTld (u : UnitRef) (x : Fields) (s : State) : Host.Outcome State Fault Refusal :=
  .next (issue u (.tld u x) x tldDef s)

/-- TST (R253). -/
def execTst (u : UnitRef) (x : Fields) (s : State) : Host.Outcome State Fault Refusal :=
  .next (issue u (.tst u x) x tstDef s)

/-- QNT (R254). -/
def execQnt (u : UnitRef) (x : Fields) (s : State) : Host.Outcome State Fault Refusal :=
  .next (issue u (.qnt u x) x qntDef s)

/-- MMA (R255, R256). -/
def execMma (u : UnitRef) (x : Fields) (s : State) : Host.Outcome State Fault Refusal :=
  .next (issue u (.mma u x) x mmaDef s)

/-- LDOWN (R257). -/
def execLdown (u : UnitRef) (x : Fields) (s : State) : Host.Outcome State Fault Refusal :=
  .next (issue u (.ldown u x) x ldownDef s)

/-- DRAIN (R258). -/
def execDrain (u : UnitRef) (x : Fields) (s : State) : Host.Outcome State Fault Refusal :=
  .next (issue u (.drain u x) x drainDef s)

/-- CZERO (R259). -/
def execCzero (u : UnitRef) (x : Fields) (s : State) : Host.Outcome State Fault Refusal :=
  .next (issue u (.czero u x) x czeroDef s)

/-- CXFER_READ (R100). -/
def execCxferRead (u : UnitRef) (x : Fields) (s : State) : Host.Outcome State Fault Refusal :=
  .next (issue u (.cxferRead u x) x cxferReadDef s)

/-- CXFER_ADD (R101). -/
def execCxferAdd (u : UnitRef) (x : Fields) (s : State) : Host.Outcome State Fault Refusal :=
  .next (issue u (.cxferAdd u x) x cxferAddDef s)

end Sys2Proof.Machine
end

