-- ==== Sys2Proof/Machine/Power.lean ====
section
/-! DEFINITION. The commands of power and temperature (R364 to R387). They come from sensors and timers; nothing happens while the
module is off. -/
namespace Sys2Proof.Machine

/-- An event of the running module. -/
def whileOn (f : State → State) (s : State) : State := if s.boot.firmware then f s else s

/-- An event of one die that has a clock and a supply. -/
def onDie (dom : Nat) (f : State → State) (s : State) : State :=
  if s.boot.firmware && (powered s).contains dom && !isDown s dom then f s else s

/-- Readings of fitted domains. -/
def ofFitted (s : State) (temps : List (Nat × Nat)) : List (Nat × Nat) := temps.filter fun t => isFitted s t.1

/-- OPPOINT_RAMP_DONE (R376). -/
def execOppointRampDone (dom : Nat) (s : State) : Host.Outcome State Fault Refusal := .next (onDie dom (rampDone dom) s)

/-- POWER_SAMPLE (R364, R370). -/
def execPowerSample (milliwatts : Nat) (s : State) : Host.Outcome State Fault Refusal := .next (whileOn (powerSample milliwatts) s)

/-- LIMITER_STEP (R366). -/
def execLimiterStep (s : State) : Host.Outcome State Fault Refusal := .next (whileOn limiterStep s)

/-- GRANT_IN_FORCE (R371). -/
def execGrantInForce (n : Nat) (s : State) : Host.Outcome State Fault Refusal := .next (grantInForce n s)

/-- AUTO_GRANT_RELEASE (R369). -/
def execAutoGrantRelease (u : UnitRef) (s : State) : Host.Outcome State Fault Refusal := .next (releaseAuto u s)

/-- AGEING_CHECK (R378). -/
def execAgeingCheck (dom margin : Nat) (s : State) : Host.Outcome State Fault Refusal := .next (onDie dom (ageingCheck dom margin) s)

/-- CONVERGENCE_STEP (R381). -/
def execConvergenceStep (temps : List (Nat × Nat)) (s : State) : Host.Outcome State Fault Refusal :=
  .next (whileOn (convergenceStep (ofFitted s temps)) s)

/-- THERMAL_CAP_STEP (R382). -/
def execThermalCapStep (temps : List (Nat × Nat)) (s : State) : Host.Outcome State Fault Refusal :=
  .next (whileOn (thermalStep (ofFitted s temps)) s)

/-- THERMAL_EMERGENCY (R382): 105 °C or above. -/
def execThermalEmergency (dom temp : Nat) (s : State) : Host.Outcome State Fault Refusal :=
  .next (if s.boot.firmware && isFitted s dom && decide (105 ≤ temp) then thermalEmergency dom temp s else s)

/-- THERMAL_TRIP (R382): 110 °C or above; the regulators switch off, the trip stands in MRAM. -/
def execThermalTrip (dom temp : Nat) (s : State) : Host.Outcome State Fault Refusal :=
  .next (if s.boot.firmware && isFitted s dom && decide (110 ≤ temp) then
      powerOff (owe dom { s with mram := { s.mram with lastTrip := some dom } })
    else s)

/-- EMERGENCY_END (R382). -/
def execEmergencyEnd (temps : List (Nat × Nat)) (s : State) : Host.Outcome State Fault Refusal :=
  .next (whileOn (emergencyEnd (ofFitted s temps)) s)

/-- DROOP_TRIP (R379). -/
def execDroopTrip (dom : Nat) (s : State) : Host.Outcome State Fault Refusal := .next (onDie dom (droopTrip dom) s)

/-- DROOP_WINDOW_CLOSE (R379). -/
def execDroopWindowClose (dom : Nat) (s : State) : Host.Outcome State Fault Refusal := .next (onDie dom (droopClose dom) s)

/-- FROZEN_RAMP_RESUME (R376, R379). -/
def execFrozenRampResume (dom : Nat) (s : State) : Host.Outcome State Fault Refusal := .next (onDie dom (resumeRamp dom) s)

/-- SLOW_NOTICE_SEND (R383, R384). -/
def execSlowNoticeSend (s : State) : Host.Outcome State Fault Refusal := .next (whileOn slowSend s)

/-- SLOW_NOTICE_RECEIVE (R384, R385). -/
def execSlowNoticeReceive (pk : List Byte) (s : State) : Host.Outcome State Fault Refusal :=
  .next (onPacket pk 2 (fun b s => if recNat b 0 1 = 2 then takeNotice b s else s) s)

end Sys2Proof.Machine
end

