-- ==== Sys2Proof/Machine/Queue.lean ====
section
/-! DEFINITION. The commands of the queues: COMMAND_ACCEPT, RUN, WAIT, MARKER, COMPLETION_WRITE and the register writes of a queue
(R220 to R228). -/
namespace Sys2Proof.Machine

/-- RUN (R223, R243): an accepted RUN starts on unit idx of its kind, where the domain has one. A unit that runs a program takes no second
one. -/
def runStart (q seq idx : Nat) (s : State) : State :=
  match startable s q seq with
  | none => s
  | some c =>
    match unitKindOf (q / 256) (cmdUnit c) with
    | none => s
    | some k =>
      let u : UnitRef := ⟨q / 256, k, idx⟩
      if cmdKind c ≠ kindRun ∨ unitsFitted u.dom k ≤ idx ∨ (getUnit s u).running = true then s
      else
        let flaw := binaryFlaw s (cmdProgram c) (cmdUnit c)
        if flaw ≠ 0 then
          finishCmd q seq flaw 0 (logFault
            { status := flaw, cls := if flaw = stLost then 2 else 1, dom := q / 256, cmd := some (q, seq), unit := cmdUnit c } s)
        else if readNat s (cmdProgram c + 8) 4 = 0 then finishCmd q seq stDone 0 s
        else setStage q seq .running
          (startProgram u (.command q seq) (cmdProgram c) (cmdArg c) (cmdArgLen c) (q * 2 ^ 32 + seq) s)

def execRun (q seq idx : Nat) (s : State) : Host.Outcome State Fault Refusal := .next (runStart q seq idx s)

/-- WAIT (R223): a count reached completes it; a lost domain of the named queue ends it. -/
def waitTest (q seq : Nat) (s : State) : State :=
  match startable s q seq with
  | none => s
  | some c =>
    if cmdKind c ≠ kindWait then s
    else if sub32 (qDone s (cmdWaitQueue c)) (cmdWaitCount c) < 2 ^ 31 then finishCmd q seq stDone 0 s
    else if isLost s (cmdWaitQueue c / 256) then
      finishCmd q seq stLost 0 (logFault { status := stLost, cls := 2, dom := q / 256, cmd := some (q, seq) } s)
    else s

def execWait (q seq : Nat) (s : State) : Host.Outcome State Fault Refusal := .next (waitTest q seq s)

/-- MARKER (R223): no effect; it completes in its place. -/
def markerDone (q seq : Nat) (s : State) : State :=
  match startable s q seq with
  | none => s
  | some c => if cmdKind c = kindMarker then finishCmd q seq stDone 0 s else s

def execMarker (q seq : Nat) (s : State) : Host.Outcome State Fault Refusal := .next (markerDone q seq s)

/-- COMMAND_ACCEPT (R224). -/
def execCommandAccept (q : Nat) (s : State) : Host.Outcome State Fault Refusal :=
  .next (if mayAccept s q then acceptCmd q s else s)

/-- COMPLETION_WRITE (R225). -/
def execCompletionWrite (q : Nat) (s : State) : Host.Outcome State Fault Refusal :=
  .next (if queueExists s q && !isDown s (q / 256) then writeCompletion q s else s)

end Sys2Proof.Machine
end

