-- ==== Sys2Proof/Machine/Stair.lean ====
section
/-! DEFINITION. The commands of the Stair: STAIR_TICK, STAIR_SET, STAIR_CLOSE (R278 to R284, R300). -/
namespace Sys2Proof.Machine

/-- One tick (R278, R284): one forward, or none or two while an offset is slewed away, at most one correction in 64 ticks. -/
def tickOnce (s : State) : State :=
  let s := { s with power := { s.power with clock := s.power.clock + 1 } }
  let t := posTick s.pos
  if s.slew ≠ 0 ∧ 63 ≤ s.sinceSlew then
    if 0 < s.slew then { s with slew := s.slew - 1, sinceSlew := 0 }
    else moveTick (t + 2) { s with slew := s.slew + 1, sinceSlew := 0 }
  else moveTick (t + 1) { s with sinceSlew := s.sinceSlew + 1 }

/-- The residency counter of a low-power state (R300). -/
def residency (s : State) (dom : Nat) : State :=
  let st := (getLp s dom).state
  if st = 0 then s else bump s dom (Reg.LP_RESIDENCY_S1 + 8 * (st - 1)) 1

/-- A port in RETRAIN returns to EQUALISE (R305): within a tick (log entry 46). -/
def returnPorts (s : State) : State :=
  (allPorts s).foldl (fun s p => if portState s p = ptRetrain then setPortState ptEqualise p s else s) s

/-- STAIR_TICK (R278). -/
def execStairTick (s : State) : Host.Outcome State Fault Refusal :=
  .next (if s.boot.firmware then returnPorts ((dies s).foldl residency (tickOnce s)) else s)

end Sys2Proof.Machine
end

