-- ==== Sys2Proof/Machine/Transfer.lean ====
section
/-! DEFINITION. The transfer and synchronisation instructions (R270 to R277): each command means that its unit issues the instruction that its program counter
names, with these operand bits. -/
namespace Sys2Proof.Machine

/-- XFER (R271). -/
def execXfer (u : UnitRef) (x : Fields) (s : State) : Host.Outcome State Fault Refusal :=
  .next (issue u (.xfer u x) x xferDef s)

/-- COLL (R272, R315). -/
def execColl (u : UnitRef) (x : Fields) (s : State) : Host.Outcome State Fault Refusal :=
  .next (issue u (.coll u x) x collDef s)

/-- WAITST (R273). -/
def execWaitst (u : UnitRef) (x : Fields) (s : State) : Host.Outcome State Fault Refusal :=
  .next (issue u (.waitst u x) x waitstDef s)

/-- LANDING (R272, R290). -/
def execLanding (u : UnitRef) (x : Fields) (s : State) : Host.Outcome State Fault Refusal :=
  .next (issue u (.landing u x) x landingDef s)

/-- LANDING_CANCEL (R293). -/
def execLandingCancel (u : UnitRef) (x : Fields) (s : State) : Host.Outcome State Fault Refusal :=
  .next (issue u (.landingCancel u x) x landingCancelDef s)

/-- FENCE (R274). -/
def execFence (u : UnitRef) (x : Fields) (s : State) : Host.Outcome State Fault Refusal :=
  .next (issue u (.fence u x) x fenceDef s)

/-- RING (R274). -/
def execRing (u : UnitRef) (x : Fields) (s : State) : Host.Outcome State Fault Refusal :=
  .next (issue u (.ring u x) x ringDef s)

/-- PGRANT (R275). -/
def execPgrant (u : UnitRef) (x : Fields) (s : State) : Host.Outcome State Fault Refusal :=
  .next (issue u (.pgrant u x) x pgrantDef s)

/-- OPEN (R176, R276). -/
def execOpenStash (u : UnitRef) (x : Fields) (s : State) : Host.Outcome State Fault Refusal :=
  .next (issue u (.openStash u x) x openDef s)

/-- RELEASE (R185, R276). -/
def execRelease (u : UnitRef) (x : Fields) (s : State) : Host.Outcome State Fault Refusal :=
  .next (issue u (.release u x) x releaseDef s)

/-- CLOSE (R185, R276). -/
def execCloseStash (u : UnitRef) (x : Fields) (s : State) : Host.Outcome State Fault Refusal :=
  .next (issue u (.closeStash u x) x closeDef s)

/-- OFFLOAD (R183, R277). -/
def execOffload (u : UnitRef) (x : Fields) (s : State) : Host.Outcome State Fault Refusal :=
  .next (issue u (.offload u x) x offloadDef s)

/-- PREFETCH (R183, R277). -/
def execPrefetch (u : UnitRef) (x : Fields) (s : State) : Host.Outcome State Fault Refusal :=
  .next (issue u (.prefetch u x) x prefetchDef s)

end Sys2Proof.Machine
end

