-- ==== Sys2Proof/Machine/Units.lean ====
section
/-! DEFINITION. What happens to units, walks, landings and collectives beside issue: the waits that end, completions, switches (R183,
R232, R244 to R247, R291, R292, R319). -/
namespace Sys2Proof.Machine

/-- STASH_MOVE_SWITCH (R183). -/
def execStashMoveSwitch (u : UnitRef) (op : Nat) (s : State) : Host.Outcome State Fault Refusal := .next (switchOf u op s)

/-- ISSUE_WAIT_END (R245). -/
def execIssueWaitEnd (u : UnitRef) (s : State) : Host.Outcome State Fault Refusal := .next (lookAgain u s)

/-- OPERATION_COMPLETE (R247). -/
def execOperationComplete (u : UnitRef) (op : Nat) (s : State) : Host.Outcome State Fault Refusal := .next (completeNow u op s)

/-- A carrier that is free again takes the program of a landing that found none (R291, log entry 17). -/
def startWaiting (dom : Nat) (s : State) : State :=
  match waitingProgram s dom with
  | some l => if isDown s dom then s else fireProgram l s
  | none => s

/-- RUN_COMPLETE (R244). -/
def execRunComplete (u : UnitRef) (s : State) : Host.Outcome State Fault Refusal :=
  .next (if u.kind = .carrier then startWaiting u.dom (completeRun u s) else completeRun u s)

/-- WALK_DONE (R232, R233). -/
def execWalkDone (dom : Nat) (s : State) : Host.Outcome State Fault Refusal := .next (walkDone dom s)

/-- LANDING_FIRE (R291). -/
def execLandingFire (n : Nat) (s : State) : Host.Outcome State Fault Refusal :=
  .next (match findLanding s n with
    | some l => if mayFire s l then fireLanding l s else s
    | none => s)

/-- LANDING_ACTION_DONE (R291). -/
def execLandingActionDone (n : Nat) (s : State) : Host.Outcome State Fault Refusal :=
  .next (match findLanding s n with
    | some l => if l.fired then landingDone l s else s
    | none => s)

/-- The oldest open refresh window of an MSD is cut short: refresh resumes, its landing ends, the event counts (R292). -/
def clipRefresh (dom : Nat) (s : State) : State :=
  let d := getDomain s dom
  match d.refresh with
  | [] => s
  | w :: rest => bump (endLanding w.1 stDone (setDomain s { d with refresh := rest })) dom Reg.LAND_CLIPPED_COUNT 1

/-- REFRESH_POSTPONE_LIMIT (R292). -/
def execRefreshPostponeLimit (dom : Nat) (s : State) : Host.Outcome State Fault Refusal :=
  .next (if domType dom = some .msd then clipRefresh dom s else s)

/-- COLL_PACKET (R319): a packet of a later epoch waits until this module has that epoch, too. -/
def execCollPacket (pk : List Byte) (s : State) : Host.Outcome State Fault Refusal :=
  let e : EarlyColl := ⟨pkEpoch pk, pkSrc pk, pkPayload pk⟩
  .next (match arrive pk s with
    | .gone s => s
    | .later s => if pkKind pk = 1 then keepColl e (joinRestart s) else joinRestart s
    | .here s => if pkKind pk = 1 ∧ fabState s = fabRunning then collIn e s else s)

/-- COLL_COMPLETE (R319). -/
def execCollComplete (u : UnitRef) (op : Nat) (s : State) : Host.Outcome State Fault Refusal := .next (completeColl u op s)

end Sys2Proof.Machine
end

