-- ==== Sys2Proof/Machine/Vector.lean ====
section
/-! DEFINITION. The vector and update operations (R260 to R268): each command means that its unit issues the instruction that its program counter
names, with these operand bits. -/
namespace Sys2Proof.Machine

/-- VOP (R261). -/
def execVop (u : UnitRef) (x : Fields) (s : State) : Host.Outcome State Fault Refusal :=
  .next (issue u (.vop u x) x vopDef s)

/-- RSUM_ACC (R262). -/
def execRsumAcc (u : UnitRef) (x : Fields) (s : State) : Host.Outcome State Fault Refusal :=
  .next (issue u (.rsumAcc u x) x rsumAccDef s)

/-- RSUM_COMB (R262). -/
def execRsumComb (u : UnitRef) (x : Fields) (s : State) : Host.Outcome State Fault Refusal :=
  .next (issue u (.rsumComb u x) x rsumCombDef s)

/-- RSUM_OUT (R262). -/
def execRsumOut (u : UnitRef) (x : Fields) (s : State) : Host.Outcome State Fault Refusal :=
  .next (issue u (.rsumOut u x) x rsumOutDef s)

/-- ROT (R263). -/
def execRot (u : UnitRef) (x : Fields) (s : State) : Host.Outcome State Fault Refusal :=
  .next (issue u (.rot u x) x rotDef s)

/-- DROP (R264). -/
def execDrop (u : UnitRef) (x : Fields) (s : State) : Host.Outcome State Fault Refusal :=
  .next (issue u (.drop u x) x dropDef s)

/-- SAMPLE (R207, R265). -/
def execSample (u : UnitRef) (x : Fields) (s : State) : Host.Outcome State Fault Refusal :=
  .next (issue u (.sample u x) x sampleDef s)

/-- RNG (R205, R266). -/
def execRng (u : UnitRef) (x : Fields) (s : State) : Host.Outcome State Fault Refusal :=
  .next (issue u (.rng u x) x rngDef s)

/-- HUPD (R157, R267). -/
def execHupd (u : UnitRef) (x : Fields) (s : State) : Host.Outcome State Fault Refusal :=
  .next (issue u (.hupd u x) x hupdDef s)

/-- HLOAD (R268). -/
def execHload (u : UnitRef) (x : Fields) (s : State) : Host.Outcome State Fault Refusal :=
  .next (issue u (.hload u x) x hloadDef s)

end Sys2Proof.Machine
end

