-- ==== Sys2Proof/Machine/Writes.lean ====
section
/-! DEFINITION. The rows that are one 8-byte write to a register, and REGISTER_WRITE (R437): the row's own bits are as the row says, the
rest is as written. -/
namespace Sys2Proof.Machine

/-- An 8-byte write to a Porch register. -/
def porchStore (off v : Nat) (s : State) : State := writeControl porchDom off 8 v s

/-- An 8-byte write to a register of a queue that exists. -/
def queueStore (q off v : Nat) (s : State) : State :=
  if queueExists s q then writeControl (q / 256) (qReg (q % 256) off) 8 v s else s

/-- An 8-byte write to a register of a port. -/
def portStore (p : PortRef) (off v : Nat) (s : State) : State :=
  if domType p.iod = some .iod ∧ p.port < 2 then writeControl p.iod (portReg p off) 8 v s else s

/-- Q_TAIL (R224). -/
def execQTail (q : Nat) (v : Word) (s : State) : Host.Outcome State Fault Refusal := .next (queueStore q Reg.Q_TAIL v.toNat s)

/-- Q_ENABLE (R222): the value written has ENABLE 1. -/
def execQEnable (q : Nat) (v : Word) (s : State) : Host.Outcome State Fault Refusal :=
  .next (queueStore q Reg.Q_CTRL (setFld v.toNat 0 0 1) s)

/-- Q_DISABLE (R222): the value written has ENABLE 0. -/
def execQDisable (q : Nat) (v : Word) (s : State) : Host.Outcome State Fault Refusal :=
  .next (queueStore q Reg.Q_CTRL (setFld v.toNat 0 0 0) s)

/-- RESUME (R221): the value written has RESUME 1. -/
def execResume (q : Nat) (v : Word) (s : State) : Host.Outcome State Fault Refusal :=
  .next (queueStore q Reg.Q_CTRL (setFld v.toNat 2 2 1) s)

/-- WALK_GO (R231, R233): a write of WALK_START with GO 1. -/
def execWalkGo (dom : Nat) (v : Word) (s : State) : Host.Outcome State Fault Refusal :=
  .next (writeControl dom Reg.WALK_START 8 (setFld v.toNat 0 0 1) s)

/-- STAIR_SET (R280). -/
def execStairSet (v : Word) (s : State) : Host.Outcome State Fault Refusal := .next (porchStore Reg.STAIR_SET v.toNat s)

/-- STAIR_CLOSE (R281). -/
def execStairClose (v : Word) (s : State) : Host.Outcome State Fault Refusal := .next (porchStore Reg.STAIR_CLOSE v.toNat s)

/-- PORT_ENABLE (R305): a write of PORT_CTRL. -/
def execPortEnable (p : PortRef) (v : Word) (s : State) : Host.Outcome State Fault Refusal :=
  .next (portStore p Reg.PORT_CTRL v.toNat s)

/-- PORT_RETRAIN (R305): a write of PORT_CTRL with RETRAIN 1. -/
def execPortRetrain (p : PortRef) (v : Word) (s : State) : Host.Outcome State Fault Refusal :=
  .next (portStore p Reg.PORT_CTRL (setFld v.toNat 2 2 1) s)

/-- FAB_JOB_WRITE (R313): the value written has START 0. -/
def execFabJobWrite (v : Word) (s : State) : Host.Outcome State Fault Refusal :=
  .next (porchStore Reg.FAB_JOB (setFld v.toNat 48 48 0) s)

/-- FAB_JOB_START (R313): the value written has START 1. -/
def execFabJobStart (v : Word) (s : State) : Host.Outcome State Fault Refusal :=
  .next (porchStore Reg.FAB_JOB (setFld v.toNat 48 48 1) s)

/-- ANNEX_ENABLE (R347): the value written has ENABLE 1. -/
def execAnnexEnable (v : Word) (s : State) : Host.Outcome State Fault Refusal :=
  .next (porchStore Reg.ANNEX_CTRL (setFld v.toNat 0 0 1) s)

/-- A write of RST_CTRL with GO 1 and a MODE. -/
def restoreStore (mode v : Nat) (s : State) : State := porchStore Reg.RST_CTRL (setFld (setFld v 2 1 mode) 0 0 1) s

/-- RESTORE_GO (R355). -/
def execRestoreGo (v : Word) (s : State) : Host.Outcome State Fault Refusal := .next (restoreStore 0 v.toNat s)

/-- EXPORT_GO (R359). -/
def execExportGo (v : Word) (s : State) : Host.Outcome State Fault Refusal := .next (restoreStore 1 v.toNat s)

/-- IMPORT_GO (R359). -/
def execImportGo (v : Word) (s : State) : Host.Outcome State Fault Refusal := .next (restoreStore 2 v.toNat s)

/-- FRAME_TX_TAIL (R329). -/
def execFrameTxTail (p : PortRef) (v : Word) (s : State) : Host.Outcome State Fault Refusal :=
  .next (portStore p Reg.FRAME_TX_TAIL v.toNat s)

/-- FRAME_RX_TAIL (R329). -/
def execFrameRxTail (p : PortRef) (v : Word) (s : State) : Host.Outcome State Fault Refusal :=
  .next (portStore p Reg.FRAME_RX_TAIL v.toNat s)

/-- DOM_RESET_GO (R340): a write of DOM_RESET with GO 1. -/
def execDomResetGo (v : Word) (s : State) : Host.Outcome State Fault Refusal :=
  .next (porchStore Reg.DOM_RESET (setFld v.toNat 8 8 1) s)

/-- TRAIN_SKIP_REQUEST (R171), a register of CD 0x10. -/
def execTrainSkipRequest (v : Word) (s : State) : Host.Outcome State Fault Refusal :=
  .next (writeControl 0x10 Reg.TRAIN_SKIP_REQUEST 8 v.toNat s)

/-- CG_JOB_KEY_WRITE (R197). -/
def execCgJobKeyWrite (v : Word) (s : State) : Host.Outcome State Fault Refusal := .next (porchStore Reg.CG_JOB_KEY v.toNat s)

/-- STASH_LARDER_SHARE_WRITE (R191), a register of MSD 0x20. -/
def execStashLarderShareWrite (v : Word) (s : State) : Host.Outcome State Fault Refusal :=
  .next (writeControl 0x20 Reg.STASH_LARDER_SHARE 8 v.toNat s)

/-- FLOG_COPY (R339). -/
def execFlogCopy (v : Word) (s : State) : Host.Outcome State Fault Refusal := .next (porchStore Reg.FLOG_COPY v.toNat s)

/-- PWR_WITHDRAW (R373): a write of PWR_CTRL with WITHDRAW 1. -/
def execPwrWithdraw (v : Word) (s : State) : Host.Outcome State Fault Refusal :=
  .next (porchStore Reg.PWR_CTRL (setFld v.toNat 0 0 1) s)

/-- PWR_OPPOINT_TARGET (R376): a write of PWR_OPPOINT. -/
def execPwrOppointTarget (dom : Nat) (v : Word) (s : State) : Host.Outcome State Fault Refusal :=
  .next (writeControl dom Reg.PWR_OPPOINT 8 v.toNat s)

/-- REGISTER_WRITE (R437): a store by an agent. -/
def execRegisterWrite (agent : Agent) (addr size : Nat) (v : Word) (s : State) : Host.Outcome State Fault Refusal :=
  .next (agentStore agent addr size v.toNat s)

end Sys2Proof.Machine
end

