-- ==== Sys2Proof/Machine/Dispatch.lean ====
section
/-! DEFINITION. The dispatch of commands to their meanings: one arm per row of the table. -/
namespace Sys2Proof.Machine

/-- The effect of a command on everything but the queue. -/
def exec (i : Instr) (s : State) : Host.Outcome State Fault Refusal :=
  match i with
  | .nop u x => Sys2Proof.Machine.execNop u x s
  | .endProg u x => Sys2Proof.Machine.execEndProg u x s
  | .br u x => Sys2Proof.Machine.execBr u x s
  | .li u x => Sys2Proof.Machine.execLi u x s
  | .gop u x => Sys2Proof.Machine.execGop u x s
  | .gopi u x => Sys2Proof.Machine.execGopi u x s
  | .pset u x => Sys2Proof.Machine.execPset u x s
  | .gld u x => Sys2Proof.Machine.execGld u x s
  | .gst u x => Sys2Proof.Machine.execGst u x s
  | .dld u x => Sys2Proof.Machine.execDld u x s
  | .dst u x => Sys2Proof.Machine.execDst u x s
  | .dset u x => Sys2Proof.Machine.execDset u x s
  | .kset u x => Sys2Proof.Machine.execKset u x s
  | .kget u x => Sys2Proof.Machine.execKget u x s
  | .cset u x => Sys2Proof.Machine.execCset u x s
  | .strd u x => Sys2Proof.Machine.execStrd u x s
  | .stld u x => Sys2Proof.Machine.execStld u x s
  | .stst u x => Sys2Proof.Machine.execStst u x s
  | .tld u x => Sys2Proof.Machine.execTld u x s
  | .tst u x => Sys2Proof.Machine.execTst u x s
  | .qnt u x => Sys2Proof.Machine.execQnt u x s
  | .mma u x => Sys2Proof.Machine.execMma u x s
  | .ldown u x => Sys2Proof.Machine.execLdown u x s
  | .drain u x => Sys2Proof.Machine.execDrain u x s
  | .czero u x => Sys2Proof.Machine.execCzero u x s
  | .cxferRead u x => Sys2Proof.Machine.execCxferRead u x s
  | .cxferAdd u x => Sys2Proof.Machine.execCxferAdd u x s
  | .vop u x => Sys2Proof.Machine.execVop u x s
  | .rsumAcc u x => Sys2Proof.Machine.execRsumAcc u x s
  | .rsumComb u x => Sys2Proof.Machine.execRsumComb u x s
  | .rsumOut u x => Sys2Proof.Machine.execRsumOut u x s
  | .rot u x => Sys2Proof.Machine.execRot u x s
  | .drop u x => Sys2Proof.Machine.execDrop u x s
  | .sample u x => Sys2Proof.Machine.execSample u x s
  | .rng u x => Sys2Proof.Machine.execRng u x s
  | .hupd u x => Sys2Proof.Machine.execHupd u x s
  | .hload u x => Sys2Proof.Machine.execHload u x s
  | .xfer u x => Sys2Proof.Machine.execXfer u x s
  | .coll u x => Sys2Proof.Machine.execColl u x s
  | .waitst u x => Sys2Proof.Machine.execWaitst u x s
  | .landing u x => Sys2Proof.Machine.execLanding u x s
  | .landingCancel u x => Sys2Proof.Machine.execLandingCancel u x s
  | .fence u x => Sys2Proof.Machine.execFence u x s
  | .ring u x => Sys2Proof.Machine.execRing u x s
  | .pgrant u x => Sys2Proof.Machine.execPgrant u x s
  | .openStash u x => Sys2Proof.Machine.execOpenStash u x s
  | .release u x => Sys2Proof.Machine.execRelease u x s
  | .closeStash u x => Sys2Proof.Machine.execCloseStash u x s
  | .offload u x => Sys2Proof.Machine.execOffload u x s
  | .prefetch u x => Sys2Proof.Machine.execPrefetch u x s
  | .stashMoveSwitch u op => Sys2Proof.Machine.execStashMoveSwitch u op s
  | .issueWaitEnd u => Sys2Proof.Machine.execIssueWaitEnd u s
  | .operationComplete u op => Sys2Proof.Machine.execOperationComplete u op s
  | .runComplete u => Sys2Proof.Machine.execRunComplete u s
  | .run q seq idx => Sys2Proof.Machine.execRun q seq idx s
  | .wait q seq => Sys2Proof.Machine.execWait q seq s
  | .marker q seq => Sys2Proof.Machine.execMarker q seq s
  | .commandAccept q => Sys2Proof.Machine.execCommandAccept q s
  | .completionWrite q => Sys2Proof.Machine.execCompletionWrite q s
  | .qTail q v => Sys2Proof.Machine.execQTail q v s
  | .qEnable q v => Sys2Proof.Machine.execQEnable q v s
  | .qDisable q v => Sys2Proof.Machine.execQDisable q v s
  | .resume q v => Sys2Proof.Machine.execResume q v s
  | .walkGo dom v => Sys2Proof.Machine.execWalkGo dom v s
  | .walkDone dom => Sys2Proof.Machine.execWalkDone dom s
  | .stairTick => Sys2Proof.Machine.execStairTick s
  | .stairSet v => Sys2Proof.Machine.execStairSet v s
  | .stairClose v => Sys2Proof.Machine.execStairClose v s
  | .beat p fec flit => Sys2Proof.Machine.execBeat p fec flit s
  | .holdoverEnter => Sys2Proof.Machine.execHoldoverEnter s
  | .epochTickLimit => Sys2Proof.Machine.execEpochTickLimit s
  | .landingFire n => Sys2Proof.Machine.execLandingFire n s
  | .landingActionDone n => Sys2Proof.Machine.execLandingActionDone n s
  | .refreshPostponeLimit dom => Sys2Proof.Machine.execRefreshPostponeLimit dom s
  | .lpEnter dom => Sys2Proof.Machine.execLpEnter dom s
  | .lpWakeStart dom => Sys2Proof.Machine.execLpWakeStart dom s
  | .lpWakeEvent dom => Sys2Proof.Machine.execLpWakeEvent dom s
  | .portEnable p v => Sys2Proof.Machine.execPortEnable p v s
  | .portRetrain p v => Sys2Proof.Machine.execPortRetrain p v s
  | .portSignalDetect p lanes => Sys2Proof.Machine.execPortSignalDetect p lanes s
  | .portDetectTimeout p => Sys2Proof.Machine.execPortDetectTimeout p s
  | .portEqualiseDone p ok => Sys2Proof.Machine.execPortEqualiseDone p ok s
  | .portLockDone p lanes => Sys2Proof.Machine.execPortLockDone p lanes s
  | .portMeasureDone p => Sys2Proof.Machine.execPortMeasureDone p s
  | .addrConflictRetry p => Sys2Proof.Machine.execAddrConflictRetry p s
  | .laneFault p lane => Sys2Proof.Machine.execLaneFault p lane s
  | .portRxTimeout p => Sys2Proof.Machine.execPortRxTimeout p s
  | .dataFlit p fec flit => Sys2Proof.Machine.execDataFlit p fec flit s
  | .retryFlit p fec flit => Sys2Proof.Machine.execRetryFlit p fec flit s
  | .timestampFlit p fec t4 flit => Sys2Proof.Machine.execTimestampFlit p fec t4 flit s
  | .descriptorFlit p fec flit => Sys2Proof.Machine.execDescriptorFlit p fec flit s
  | .announceFlit p fec flit => Sys2Proof.Machine.execAnnounceFlit p fec flit s
  | .creditFlit p fec flit => Sys2Proof.Machine.execCreditFlit p fec flit s
  | .corridorCrcFail src dst siteA siteB u op => Sys2Proof.Machine.execCorridorCrcFail src dst siteA siteB u op s
  | .fabJobWrite v => Sys2Proof.Machine.execFabJobWrite v s
  | .fabJobStart v => Sys2Proof.Machine.execFabJobStart v s
  | .jobFormed => Sys2Proof.Machine.execJobFormed s
  | .collPacket pk => Sys2Proof.Machine.execCollPacket pk s
  | .collComplete u op => Sys2Proof.Machine.execCollComplete u op s
  | .boundaryPacket pk => Sys2Proof.Machine.execBoundaryPacket pk s
  | .slowNoticeSend => Sys2Proof.Machine.execSlowNoticeSend s
  | .slowNoticeReceive pk => Sys2Proof.Machine.execSlowNoticeReceive pk s
  | .restartPacket pk => Sys2Proof.Machine.execRestartPacket pk s
  | .voteSend => Sys2Proof.Machine.execVoteSend s
  | .votePacket pk => Sys2Proof.Machine.execVotePacket pk s
  | .voteTally => Sys2Proof.Machine.execVoteTally s
  | .membershipPacket pk => Sys2Proof.Machine.execMembershipPacket pk s
  | .stopPacket pk => Sys2Proof.Machine.execStopPacket pk s
  | .voteTimeout => Sys2Proof.Machine.execVoteTimeout s
  | .agreePacket pk => Sys2Proof.Machine.execAgreePacket pk s
  | .annexSumsPacket pk => Sys2Proof.Machine.execAnnexSumsPacket pk s
  | .anchorPacket pk => Sys2Proof.Machine.execAnchorPacket pk s
  | .annexPiece pk => Sys2Proof.Machine.execAnnexPiece pk s
  | .annexAck pk => Sys2Proof.Machine.execAnnexAck pk s
  | .annexConfig pk => Sys2Proof.Machine.execAnnexConfig pk s
  | .fetchReq pk => Sys2Proof.Machine.execFetchReq pk s
  | .fetchData pk => Sys2Proof.Machine.execFetchData pk s
  | .fetchRefused pk => Sys2Proof.Machine.execFetchRefused pk s
  | .annexAckTimeout => Sys2Proof.Machine.execAnnexAckTimeout s
  | .annexEnable v => Sys2Proof.Machine.execAnnexEnable v s
  | .restoreGo v => Sys2Proof.Machine.execRestoreGo v s
  | .exportGo v => Sys2Proof.Machine.execExportGo v s
  | .importGo v => Sys2Proof.Machine.execImportGo v s
  | .restoreDone => Sys2Proof.Machine.execRestoreDone s
  | .frameTxTail p v => Sys2Proof.Machine.execFrameTxTail p v s
  | .frameRxTail p v => Sys2Proof.Machine.execFrameRxTail p v s
  | .frameReceive p frame => Sys2Proof.Machine.execFrameReceive p frame s
  | .fabricLbMessage pk seq payload => Sys2Proof.Machine.execFabricLbMessage pk seq payload s
  | .fabricLbAckReturn pk seq code => Sys2Proof.Machine.execFabricLbAckReturn pk seq code s
  | .lbClaim agent box v => Sys2Proof.Machine.execLbClaim agent box v s
  | .lbRing agent box v => Sys2Proof.Machine.execLbRing agent box v s
  | .lbAck agent box v => Sys2Proof.Machine.execLbAck agent box v s
  | .lbRelease agent box v => Sys2Proof.Machine.execLbRelease agent box v s
  | .lbMaskWrite agent box v => Sys2Proof.Machine.execLbMaskWrite agent box v s
  | .hallAccessFault hart addr store => Sys2Proof.Machine.execHallAccessFault hart addr store s
  | .pollMiss dom => Sys2Proof.Machine.execPollMiss dom s
  | .eccUncorrectable addr u op => Sys2Proof.Machine.execEccUncorrectable addr u op s
  | .domResetGo v => Sys2Proof.Machine.execDomResetGo v s
  | .domainResetEnd dom selfTest failed => Sys2Proof.Machine.execDomainResetEnd dom selfTest failed s
  | .trainSkipRequest v => Sys2Proof.Machine.execTrainSkipRequest v s
  | .cgJobKeyWrite v => Sys2Proof.Machine.execCgJobKeyWrite v s
  | .stashLarderShareWrite v => Sys2Proof.Machine.execStashLarderShareWrite v s
  | .flogCopy v => Sys2Proof.Machine.execFlogCopy v s
  | .pwrWithdraw v => Sys2Proof.Machine.execPwrWithdraw v s
  | .pwrOppointTarget dom v => Sys2Proof.Machine.execPwrOppointTarget dom v s
  | .oppointRampDone dom => Sys2Proof.Machine.execOppointRampDone dom s
  | .powerSample milliwatts => Sys2Proof.Machine.execPowerSample milliwatts s
  | .limiterStep => Sys2Proof.Machine.execLimiterStep s
  | .grantInForce n => Sys2Proof.Machine.execGrantInForce n s
  | .autoGrantRelease u => Sys2Proof.Machine.execAutoGrantRelease u s
  | .ageingCheck dom margin => Sys2Proof.Machine.execAgeingCheck dom margin s
  | .convergenceStep temps => Sys2Proof.Machine.execConvergenceStep temps s
  | .thermalCapStep temps => Sys2Proof.Machine.execThermalCapStep temps s
  | .thermalEmergency dom temp => Sys2Proof.Machine.execThermalEmergency dom temp s
  | .thermalTrip dom temp => Sys2Proof.Machine.execThermalTrip dom temp s
  | .droopTrip dom => Sys2Proof.Machine.execDroopTrip dom s
  | .droopWindowClose dom => Sys2Proof.Machine.execDroopWindowClose dom s
  | .pwrGoodRise b => Sys2Proof.Machine.execPwrGoodRise b s
  | .pwrGoodFall => Sys2Proof.Machine.execPwrGoodFall s
  | .resetN high b => Sys2Proof.Machine.execResetN high b s
  | .vinShutdown cause => Sys2Proof.Machine.execVinShutdown cause s
  | .recoveryData b frame => Sys2Proof.Machine.execRecoveryData b frame s
  | .recoveryReqTimeout => Sys2Proof.Machine.execRecoveryReqTimeout s
  | .recoveryRetry => Sys2Proof.Machine.execRecoveryRetry s
  | .attest slot => Sys2Proof.Machine.execAttest slot s
  | .certRead slot => Sys2Proof.Machine.execCertRead slot s
  | .update slot => Sys2Proof.Machine.execUpdate slot s
  | .storeWrite slot => Sys2Proof.Machine.execStoreWrite slot s
  | .storeRead slot => Sys2Proof.Machine.execStoreRead slot s
  | .moduleReset slot => Sys2Proof.Machine.execModuleReset slot s
  | .moduleResetTimer b => Sys2Proof.Machine.execModuleResetTimer b s
  | .mgmtServiceFrame frame => Sys2Proof.Machine.execMgmtServiceFrame frame s
  | .i3cPrivateRead inlet outlet => Sys2Proof.Machine.execI3cPrivateRead inlet outlet s
  | .i3cDynamicAddress a => Sys2Proof.Machine.execI3cDynamicAddress a s
  | .jtagBypass => Sys2Proof.Machine.execJtagBypass s
  | .jtagIdcode => Sys2Proof.Machine.execJtagIdcode s
  | .jtagSamplePreload pins preload => Sys2Proof.Machine.execJtagSamplePreload pins preload s
  | .jtagExtest pins => Sys2Proof.Machine.execJtagExtest pins s
  | .registerWrite agent addr size v => Sys2Proof.Machine.execRegisterWrite agent addr size v s
  | .porchFault b => Sys2Proof.Machine.execPorchFault b s
  | .lpEntryComplete dom => Sys2Proof.Machine.execLpEntryComplete dom s
  | .lpWakeComplete dom => Sys2Proof.Machine.execLpWakeComplete dom s
  | .emergencyEnd temps => Sys2Proof.Machine.execEmergencyEnd temps s
  | .frozenRampResume dom => Sys2Proof.Machine.execFrozenRampResume dom s
  | .portDetectAttempt p => Sys2Proof.Machine.execPortDetectAttempt p s

end Sys2Proof.Machine
end

