-- ==== Sys2Proof/Safety.lean ====
section
/-! DEFINITION. What a safe run keeps: the shape of the state (Sound) and what no command may do to a module (Keeps). -/
namespace Sys2Proof.Machine

/-- A program unit has the register files of R237 and at most 32 operations in flight (R245). -/
structure UnitSound (x : ProgUnit) : Prop where
  g : x.g.length = 32
  t : x.t.length = 32
  k : x.k.length = 16
  c : x.c.length = 16
  st : x.st.length = 4
  inFlight : x.inFlight.length ≤ 32

/-- The shape of every state that a run meets: each sparse table in its one canonical form, the internal fault log as R339 and R338 bound
it, units as R237 and R245 bound them, at most 64 accepted commands of a queue incomplete (R224). -/
structure Sound (s : State) : Prop where
  mem : memWf s.mem = true
  store : memWf s.store = true
  boxMem : memWf s.boxMem = true
  boxRegs : tblWf zeroWord s.boxRegs = true
  regs : tblWf (regDefault s.variant) s.regs = true
  entries : tblWf entryDefault s.entries = true
  tiles : tblWf tileDefault s.tiles = true
  kinds : tblWf kindDefault s.bankKinds = true
  lanes : tblWf laneDefault s.lanes = true
  logLength : s.faults.length ≤ 4096
  logRecords : ∀ b ∈ s.faults, b.length = 64
  units : ∀ x ∈ s.units, UnitSound x
  queues : ∀ q ∈ s.queues, q.cmds.length ≤ 64

/-- What Falnu alone writes into MRAM (R413): both copies of the factory record, PUF helper data, certificates. -/
structure FactoryData where
  copyA : Factory
  copyB : Factory
  puf   : List Byte
  certs : List (List Byte)
deriving DecidableEq, Repr

def Mram.factory (m : Mram) : FactoryData := ⟨m.copyA, m.copyB, m.puf, [m.certRoot, m.certCa, m.certDevice]⟩

/-- From state r to state s nothing happened that no command may do: the state stays sound, the queue of waiting commands and the
ordering item stay, MIN_SVN does not fall (R419), what Falnu wrote stays (R413), the free counter does not fall, and nothing that left
the module is unsaid. -/
structure Keeps (r s : State) : Prop where
  sound : Sound r → Sound s
  pending : s.pending = r.pending
  variant : s.variant = r.variant
  minSvn : r.mram.minSvn ≤ s.mram.minSvn
  factory : s.mram.factory = r.mram.factory
  freeCtr : r.freeCtr ≤ s.freeCtr
  out : r.out <+: s.out

/-! Terms in which statements speak of a unit that issues. -/

/-- Unit u issues the instruction at its program counter now, and that is row d with operand bits f: the unit may issue, the word at
its program counter is the row's opcode with those bits, the predicate holds, the bits that the row does not use are zero, and this
kind of unit runs the row (R228, R234 to R236, R245, R249). -/
def ready (s : State) (u : UnitRef) (d : OpDef) (f : Fields) : Bool :=
  let x := getUnit s u
  mayIssue s u && decide (wordAt x = some (BitVec.ofNat 64 (d.opc * 2 ^ 56 + f.toNat))) && decide (d.opc < 256) && d.names f.toNat
    && predicated x f && decide (f.toNat &&& (2 ^ 56 - 1 - d.mask) = 0) && d.units u.kind

/-- The operation as it stands in flight when it has issued, its effects still to come (R245). -/
def newOp (p : Plan) (id : Nat) : Op := ⟨id, p.reads ++ p.touch, p.writes, p.banks, p.entries, p.rdEntries, p.locks, p.need, p.draw, 0, 0, false⟩

/-- The state once the operation is in flight: the unit stands at its next word. -/
def begun (u : UnitRef) (p : Plan) (s : State) : State :=
  let x := getUnit s u
  setUnit s (advance { x with waiting := none, inFlight := x.inFlight ++ [newOp p x.nextOp], nextOp := x.nextOp + 1 } 1)

/-- The operation issues now and has its effects: nothing makes it wait, every check passes, power is granted, its view is not empty
and every byte it needs is served (R44, R228, R240, R245, R246, R369). -/
def startsNow (s : State) (u : UnitRef) (p : Plan) : Bool :=
  let x := getUnit s u
  !mustWait s x p && decide (firstFail p.checks = 0) && !p.hold && decide (gate s x p.draw p.moves = .go) && !p.empty && !p.unserved (begun u p s)

/-- The state with an operation's outcome beside it in flight: the status and the informational flags it ends with (R21, R247). -/
def settle (u : UnitRef) (id : Nat) (e : Effect) : State :=
  mapOp u id (fun o => { o with status := if o.status = 0 then e.status else o.status, flags := o.flags ||| e.flags }) e.s

/-- What an operation that starts now leaves. -/
def started (u : UnitRef) (p : Plan) (s : State) : State := settle u (getUnit s u).nextOp (p.run (getUnit s u).nextOp (begun u p s))

/-- A state differs from another at most in one unit. -/
def sameButUnit (u : UnitRef) (s t : State) : Prop :=
  (∀ v, v ≠ u → getUnit t v = getUnit s v) ∧ { t with units := s.units } = s

end Sys2Proof.Machine
end

