-- ==== Sys2Proof/Certificates/Slice0/Obligations.lean ====
section
/-! DEFINITION. The statements for the provers: what the rules of spec/ say each command does. -/
section
open Sys2Proof Sys2Proof.Machine

/-- A step runs the command at the front of the queue, with the queue's rest left waiting; with an empty queue it changes nothing.
That an empty queue idles is the model's choice (log entry 6). -/
def Obligations.StepRunsFrontCommand : Prop :=
  (∀ (s : State) (c : Instr) (rest : List Instr), s.pending = c :: rest → step s = exec c { s with pending := rest })
    ∧ ∀ s : State, s.pending = [] → step s = .next s

/-- No command stops the module: each answers a next state, whatever the state.
An event whose conditions do not hold changes nothing: the model's choice (log entry 5). -/
def Obligations.EveryCommandAnswersNext : Prop := ∀ (c : Instr) (s : State), ∃ t, exec c s = .next t

/-- The state after reset has the shape that every step keeps. Its registers hold the reset values of their tables (FAB_SETTLE, PWR_LIMIT,
PWR_WINDOW, PWR_STATUS, LP_CTRL of each die, PWR_SENSE of each CD), the position is zero (R278), no queue is enabled (R221), no unit
runs, and nothing has been written, logged, opened or scheduled. BOOT_STATUS shows READY: the model's choice of moment (log entry 3). -/
def Obligations.ResetStateIsSoundWithItsValues : Prop :=
  Sound State.reset
    ∧ (∀ dom off, regKey dom off ≠ regKey porchDom Reg.BOOT_STATUS →
      getReg State.reset dom off = regDefault State.reset.variant (regKey dom off))
    ∧ pf State.reset Reg.FAB_SETTLE 15 0 = 0xC8 ∧ pf State.reset Reg.PWR_LIMIT 11 0 = 0xA28 ∧ pf State.reset Reg.PWR_WINDOW 3 0 = 4
    ∧ pf State.reset Reg.PWR_STATUS 4 0 = 16 ∧ pf State.reset Reg.BOOT_STATUS 3 0 = 4
    ∧ (∀ d ∈ domsOf State.reset.variant .cd, rf State.reset d Reg.LP_CTRL 2 0 = 4 ∧ rf State.reset d Reg.PWR_SENSE 36 32 = 16)
    ∧ (∀ d ∈ domsOf State.reset.variant .msd, rf State.reset d Reg.LP_CTRL 2 0 = 4)
    ∧ (∀ d ∈ domsOf State.reset.variant .iod, rf State.reset d Reg.LP_CTRL 2 0 = 2)
    ∧ (∀ d ∈ domsOf State.reset.variant .cd, ∀ q, q < 16 → qEnabled State.reset (256 * d + q) = false)
    ∧ State.reset.pos = 0 ∧ (∀ u, (getUnit State.reset u).running = false) ∧ (∀ d, isDown State.reset d = false)
    ∧ (∀ a, getByte State.reset a = 0) ∧ State.reset.faults = [] ∧ State.reset.stash.stashes = [] ∧ State.reset.landings = []
    ∧ State.reset.power.grants = [] ∧ State.reset.pending = []

/-- Every step keeps the shape of the state. -/
def Obligations.StepKeepsSound : Prop := ∀ s t : State, Sound s → step s = .next t → Sound t

/-- No step lowers MIN_SVN (R419), and none changes what Falnu alone writes into MRAM (R413). -/
def Obligations.StepNeverLowersMinSvn : Prop :=
  ∀ s t : State, step s = .next t → s.mram.minSvn ≤ t.mram.minSvn ∧ t.mram.factory = s.mram.factory

/-- A command leaves the commands that wait behind it as they are, and takes back nothing that has left the module. -/
def Obligations.CommandKeepsQueueAndOutputs : Prop :=
  ∀ (c : Instr) (s t : State), exec c s = .next t →
    t.pending = s.pending ∧ t.variant = s.variant ∧ ∃ more, t.out = s.out ++ more

/-! Control instructions (R235 to R238, R244, R245, R250, R251). In each, x is the unit before and y the unit after. -/

/-- The unit goes on to its next word; at WORDS its program ends (R244); apart from its register files it stays as it was. -/
def wentOn (x y : ProgUnit) : Prop :=
  y.pc = x.pc + 1 ∧ y.ended = decide (x.store.length ≤ x.pc + 1)
    ∧ { y with pc := x.pc, ended := x.ended, g := x.g, t := x.t, k := x.k, c := x.c, p := x.p, st := x.st } = x

/-- A g register as a word. -/
def gWord (x : ProgUnit) (n : Nat) : Word := BitVec.ofNat 64 (gReg x n)

/-- The unit goes on, with the word v in register gn; g0 takes nothing (R237); every other register stays. -/
def wroteG (n : Nat) (v : Word) (x y : ProgUnit) : Prop :=
  wentOn x y ∧ (∀ m, gWord y m = if m = n ∧ m ≠ 0 then v else gWord x m)
    ∧ y.t = x.t ∧ y.k = x.k ∧ y.c = x.c ∧ y.p = x.p ∧ y.st = x.st

/-- The unit goes on with every register file as it was. -/
def keptFiles (x y : ProgUnit) : Prop := wentOn x y ∧ y.g = x.g ∧ y.t = x.t ∧ y.k = x.k ∧ y.c = x.c ∧ y.p = x.p ∧ y.st = x.st

/-- The functions of GOP and GOPI on 64-bit words (R250). -/
def gopWord (fn : Nat) (a b : Word) : Option Word :=
  match fn with
  | 0x00 => some (a + b)
  | 0x01 => some (a - b)
  | 0x02 => some (a &&& b)
  | 0x03 => some (a ||| b)
  | 0x04 => some (a ^^^ b)
  | 0x05 => some (a <<< (b.toNat % 64))
  | 0x06 => some (a >>> (b.toNat % 64))
  | 0x07 => some (a.sshiftRight (b.toNat % 64))
  | 0x08 => some (a * b)
  | 0x09 => some (if a.toNat ≤ b.toNat then a else b)
  | 0x0A => some (if a.toNat ≤ b.toNat then b else a)
  | 0x0B => some (if b = 0 then 0 else a / b)
  | _ => none

/-- The comparisons of PSET (R250). -/
def cmpWord (cmp : Nat) (a b : Word) : Option Bool :=
  match cmp with
  | 0 => some (decide (a = b))
  | 1 => some (decide (a ≠ b))
  | 2 => some (decide (a.toNat < b.toNat))
  | 3 => some (decide (b.toNat ≤ a.toNat))
  | 4 => some (decide (a.toInt < b.toInt))
  | 5 => some (decide (b.toInt ≤ a.toInt))
  | _ => none

/-- The DSET field codes with the high and the low bit of each field in the 512 bits of a descriptor (R239, R250, R251). -/
def dsetTable : List (Nat × Nat × Nat) :=
  [(0, 43, 0), (1, 107, 64), (2, 171, 128), (3, 247, 192), (4, 287, 256), (5, 319, 288), (6, 351, 320), (7, 358, 352), (8, 363, 360),
    (9, 373, 368), (10, 415, 384), (11, 447, 416), (12, 479, 448), (13, 511, 480)]

/-- What the control instructions that touch no memory do (R237, R244, R250, R251): each completes at issue, changes its own destination
register alone, and nothing of the module but its unit. -/
def Obligations.ControlRegisterResults : Prop :=
  ∀ (s : State) (u : UnitRef) (f : Fields), Sound s →
    let x := getUnit s u
    let d := slotF1 f
    let a := gWord x (slotF2 f)
    let b := gWord x (slotF3 f)
    (ready s u nopDef f = true → ∃ t, exec (.nop u f) s = .next t ∧ sameButUnit u s t ∧ keptFiles x (getUnit t u))
    ∧ (ready s u endDef f = true → ∃ t, exec (.endProg u f) s = .next t ∧ sameButUnit u s t ∧ getUnit t u = { x with ended := true })
    ∧ (ready s u brDef f = true → ∀ target : Nat, (target : Int) = (x.pc : Int) + (BitVec.ofNat 22 f.toNat).toInt →
        target < x.store.length → ∃ t, exec (.br u f) s = .next t ∧ sameButUnit u s t ∧ getUnit t u = { x with pc := target })
    ∧ (ready s u liDef f = true → ∃ t, exec (.li u f) s = .next t ∧ sameButUnit u s t
        ∧ wroteG d ((BitVec.ofNat 47 f.toNat).signExtend 64) x (getUnit t u))
    ∧ (ready s u gopDef f = true → ∀ v, gopWord (f.toNat % 64) a b = some v → ∃ t, exec (.gop u f) s = .next t ∧ sameButUnit u s t
        ∧ wroteG d v x (getUnit t u))
    ∧ (ready s u gopiDef f = true → ∀ v, gopWord (f.toNat % 64) a ((BitVec.ofNat 36 (f.toNat / 64)).signExtend 64) = some v →
        ∃ t, exec (.gopi u f) s = .next t ∧ sameButUnit u s t ∧ wroteG d v x (getUnit t u))
    ∧ (ready s u kgetDef f = true → ∃ t, exec (.kget u f) s = .next t ∧ sameButUnit u s t
        ∧ wroteG d (BitVec.ofNat 64 (kReg x (slotF2 f % 16))) x (getUnit t u))
    ∧ (ready s u psetDef f = true → ∀ v, cmpWord (f.toNat % 8) a b = some v → ∃ t, exec (.pset u f) s = .next t ∧ sameButUnit u s t
        ∧ (let y := getUnit t u
          wentOn x y ∧ (∀ m, m < 8 → pReg y m = if m = d % 8 ∧ m ≠ 0 then v else pReg x m)
            ∧ y.g = x.g ∧ y.t = x.t ∧ y.k = x.k ∧ y.c = x.c ∧ y.st = x.st))
    ∧ (ready s u ksetDef f = true → ∃ t, exec (.kset u f) s = .next t ∧ sameButUnit u s t
        ∧ (let y := getUnit t u
          wentOn x y ∧ (∀ m, kReg y m = if m = d % 16 then a.toNat % 2 ^ 32 else kReg x m)
            ∧ y.g = x.g ∧ y.t = x.t ∧ y.c = x.c ∧ y.p = x.p ∧ y.st = x.st))
    ∧ (ready s u csetDef f = true → ∃ t, exec (.cset u f) s = .next t ∧ sameButUnit u s t
        ∧ (let y := getUnit t u
          wentOn x y ∧ (∀ m, cReg y m = if m = d % 16 then a.toNat else cReg x m)
            ∧ y.g = x.g ∧ y.t = x.t ∧ y.k = x.k ∧ y.p = x.p ∧ y.st = x.st))
    ∧ (ready s u strdDef f = true → ∃ t, exec (.strd u f) s = .next t ∧ sameButUnit u s t
        ∧ (let y := getUnit t u
          wentOn x y ∧ (∀ m, stReg y m = if m = d % 4 then s.pos else stReg x m)
            ∧ y.g = x.g ∧ y.t = x.t ∧ y.k = x.k ∧ y.c = x.c ∧ y.p = x.p))
    ∧ (ready s u dsetDef f = true → ∀ hi lo, (f.toNat % 16, hi, lo) ∈ dsetTable → ∃ t, exec (.dset u f) s = .next t ∧ sameButUnit u s t
        ∧ (let y := getUnit t u
          wentOn x y ∧ fld (tReg y d) hi lo = (a.toNat + (if bitAt f.toNat 4 then fld (tReg x d) hi lo else 0)) % 2 ^ (hi + 1 - lo)
            ∧ (∀ i, i < lo ∨ hi < i → bitAt (tReg y d) i = bitAt (tReg x d) i) ∧ (∀ m, m ≠ d → tReg y m = tReg x m)
            ∧ y.g = x.g ∧ y.k = x.k ∧ y.c = x.c ∧ y.p = x.p ∧ y.st = x.st))

/-- The address ga + OFS of GLD and GST (R250, R251). -/
def accessAddr (x : ProgUnit) (f : Fields) : Nat := (gWord x (slotF2 f) + (BitVec.ofNat 22 f.toNat).signExtend 64).toNat

/-- Loads (R238, R250, R251): GLD of memory, of a register of a control block and of a letterbox, DLD and STLD put what stands there into
their register; nothing else changes. -/
def Obligations.ControlLoads : Prop :=
  ∀ (s : State) (u : UnitRef) (f : Fields), Sound s →
    let x := getUnit s u
    let d := slotF1 f
    let a := accessAddr x f
    let line := gReg x (slotF2 f)
    (ready s u gldDef f = true → a % 8 = 0 → memMapped s a 8 = true → needsDown s a 8 = false →
      ∃ t, exec (.gld u f) s = .next t ∧ sameButUnit u s t ∧ wroteG d (BitVec.ofNat 64 (readNat s a 8)) x (getUnit t u))
    ∧ (ready s u gldDef f = true → a % 8 = 0 → memMapped s a 8 = false →
      ∀ dom off, controlAt a = some (dom, off) → isFitted s dom = true → isDown s dom = false → dom ≠ porchDom → off < 0x8000000 →
        (getLp s dom).state = 0 →
        ∃ t, exec (.gld u f) s = .next t ∧ sameButUnit u s t ∧ wroteG d (regView s dom off) x (getUnit t u))
    ∧ (ready s u gldDef f = true → a % 8 = 0 → memMapped s a 8 = false → controlAt a = none → ∀ o b off, boxAt s a = some (o, b, off) →
        ∃ t, exec (.gld u f) s = .next t ∧ sameButUnit u s t ∧ wroteG d (BitVec.ofNat 64 (loadBox s (boxId o b) off)) x (getUnit t u))
    ∧ (ready s u dldDef f = true → line % 64 = 0 → memMapped s line 64 = true → needsDown s line 64 = false →
        ∃ t, exec (.dld u f) s = .next t ∧ sameButUnit u s t
          ∧ (let y := getUnit t u
            wentOn x y ∧ (∀ m, tReg y m = if m = d then readNat s line 64 else tReg x m)
              ∧ y.g = x.g ∧ y.k = x.k ∧ y.c = x.c ∧ y.p = x.p ∧ y.st = x.st))
    ∧ (ready s u stldDef f = true → line % 64 = 0 → memMapped s line 16 = true → needsDown s line 16 = false →
        ∃ t, exec (.stld u f) s = .next t ∧ sameButUnit u s t
          ∧ (let y := getUnit t u
            wentOn x y ∧ (∀ m, (stReg y m).toNat = if m = d % 4 then readNat s line 15 else (stReg x m).toNat)
              ∧ y.g = x.g ∧ y.t = x.t ∧ y.k = x.k ∧ y.c = x.c ∧ y.p = x.p))

/-- Every byte of memory outside the n bytes at a stays, and those bytes hold v, little-endian. -/
def storedAtAddr (a n v : Nat) (s t : State) : Prop :=
  readNat t a n = v % 256 ^ n ∧ ∀ c, c < a ∨ a + n ≤ c → getByte t c = getByte s c

/-- The module but for its memory and unit u. -/
def sameButUnitAndMemory (u : UnitRef) (s t : State) : Prop :=
  (∀ v, v ≠ u → getUnit t v = getUnit s v) ∧ { t with units := s.units, mem := s.mem } = s

/-- Stores (R226, R238, R250, R251): GST, DST and STST, when no operation of the unit in flight writes there, store 8, 64 and 16 bytes, change
no other byte of memory and no register, and the unit goes on. A GST of bytes that one in flight writes waits, and a doorbell waits for
every effect of the unit that is still to come. A GST that reaches a control block or a letterbox does there what an
8-byte store by an agent of its domain does. -/
def Obligations.ControlStores : Prop :=
  ∀ (s : State) (u : UnitRef) (f : Fields), Sound s →
    let x := getUnit s u
    let a := accessAddr x f
    let line := gReg x (slotF2 f)
    (ready s u gstDef f = true → storeHeld x a 8 = false → a % 8 = 0 → memMapped s a 8 = true → needsDown s a 8 = false →
      ∃ t, exec (.gst u f) s = .next t ∧ sameButUnitAndMemory u s t ∧ keptFiles x (getUnit t u)
        ∧ storedAtAddr a 8 (gReg x (slotF1 f)) s t)
    ∧ (ready s u gstDef f = true → storeHeld x a 8 = true ∨ doorbellHeld s x a = true →
      ∃ t, exec (.gst u f) s = .next t ∧ sameButUnit u s t ∧ getUnit t u = { x with waiting := some (.gst u f) })
    ∧ (ready s u gstDef f = true → storeHeld x a 8 = false → doorbellHeld s x a = false → a % 8 = 0 → memMapped s a 8 = false →
      refusedAddr s a = false → u.dom ≠ 0 →
      s.boot.firmware = true → (∀ dom off, controlAt a = some (dom, off) → isDown s dom = false) →
      ∀ hart, exec (.gst u f) s = exec (.registerWrite ⟨u.dom, hart⟩ a 8 (gWord x (slotF1 f))) (setUnit s (advance x 1)))
    ∧ (ready s u dstDef f = true → storeHeld x line 64 = false → line % 64 = 0 → memMapped s line 64 = true → needsDown s line 64 = false →
      ∃ t, exec (.dst u f) s = .next t ∧ sameButUnitAndMemory u s t ∧ keptFiles x (getUnit t u)
        ∧ storedAtAddr line 64 (tReg x (slotF1 f)) s t)
    ∧ (ready s u ststDef f = true → storeHeld x line 16 = false → line % 64 = 0 → memMapped s line 16 = true →
      needsDown s line 16 = false →
      ∃ t, exec (.stst u f) s = .next t ∧ sameButUnitAndMemory u s t ∧ keptFiles x (getUnit t u)
        ∧ storedAtAddr line 16 (stReg x (slotF1 f % 4)).toNat s t)

/-- Every Rhoac row with its encoding row. -/
def rhoacRows (u : UnitRef) (f : Fields) : List (Instr × OpDef) :=
  [(.nop u f, nopDef), (.endProg u f, endDef), (.br u f, brDef), (.li u f, liDef), (.gop u f, gopDef), (.gopi u f, gopiDef),
    (.pset u f, psetDef), (.gld u f, gldDef), (.gst u f, gstDef), (.dld u f, dldDef), (.dst u f, dstDef), (.dset u f, dsetDef),
    (.kset u f, ksetDef), (.kget u f, kgetDef), (.cset u f, csetDef), (.strd u f, strdDef), (.stld u f, stldDef), (.stst u f, ststDef),
    (.waitst u f, waitstDef), (.fence u f, fenceDef)]

/-- The rows that are operations (R245), with their encoding rows. -/
def operationRows (u : UnitRef) (f : Fields) : List (Instr × OpDef) :=
  [(.tld u f, tldDef), (.tst u f, tstDef), (.qnt u f, qntDef), (.mma u f, mmaDef), (.ldown u f, ldownDef), (.drain u f, drainDef),
    (.czero u f, czeroDef), (.cxferRead u f, cxferReadDef), (.cxferAdd u f, cxferAddDef), (.vop u f, vopDef), (.rsumAcc u f, rsumAccDef),
    (.rsumComb u f, rsumCombDef), (.rsumOut u f, rsumOutDef), (.rot u f, rotDef), (.drop u f, dropDef), (.sample u f, sampleDef),
    (.rng u f, rngDef), (.hupd u f, hupdDef), (.hload u f, hloadDef), (.xfer u f, xferDef), (.coll u f, collDef),
    (.landing u f, landingDef), (.landingCancel u f, landingCancelDef), (.ring u f, ringDef), (.pgrant u f, pgrantDef),
    (.openStash u f, openDef), (.release u f, releaseDef), (.closeStash u f, closeDef), (.offload u f, offloadDef),
    (.prefetch u f, prefetchDef)]

/-- A refusal at issue (R20, R247, R336): the unit stands at its word and issues nothing more, with the status of its earliest failure;
the log takes one record; registers, the rest of the module and, with no fault ring, memory stay. -/
def refusedAt (u : UnitRef) (st : Nat) (s t : State) : Prop :=
  let x := getUnit s u
  let y := getUnit t u
  y.stopped = true ∧ (x.status = 0 → y.status = st) ∧ y.pc = x.pc ∧ y.inFlight = x.inFlight ∧ y.g = x.g ∧ y.t = x.t ∧ y.k = x.k
    ∧ y.c = x.c ∧ y.p = x.p ∧ y.st = x.st ∧ (∀ v, v ≠ u → getUnit t v = getUnit s v)
    ∧ (s.faults.length < 4096 → t.faults = s.faults ++ [faultBytes (nextLogSeq s) s.pos
        ⟨st, statusClass st, u.dom, ownerCmd x.owner, none, none, unitCode u.kind⟩])
    ∧ (flogOn s = false → t.mem = s.mem)
    ∧ { t with units := s.units, faults := s.faults, mem := s.mem, regs := s.regs, imsic := s.imsic, out := s.out } = s

/-- R235, R236: an instruction whose predicate is false does nothing but advance its unit; one that sets a bit its row does not use, or
whose unit may not run it, is refused with FIELD_RESERVED_NONZERO. Every row of the instruction tables is covered. -/
def Obligations.PredicatesAndReservedBits : Prop :=
  ∀ (s : State) (u : UnitRef) (f : Fields), Sound s → mayIssue s u = true →
    ∀ e ∈ rhoacRows u f ++ operationRows u f,
      wordAt (getUnit s u) = some (BitVec.ofNat 64 (e.2.opc * 2 ^ 56 + f.toNat)) → e.2.names f.toNat = true →
      (predicated (getUnit s u) f = false →
        ∃ t, exec e.1 s = .next t ∧ sameButUnit u s t ∧ keptFiles (getUnit s u) (getUnit t u))
      ∧ (predicated (getUnit s u) f = true → f.toNat &&& (2 ^ 56 - 1 - e.2.mask) ≠ 0 ∨ e.2.units u.kind = false →
        ∃ t, exec e.1 s = .next t ∧ refusedAt u stReserved s t)

/-- Refusals of control instructions (R244, R251): a branch out of the program, a reserved FN, CMP or FIELD code, a misaligned address, an
address outside every served range. -/
def Obligations.ControlRefusals : Prop :=
  ∀ (s : State) (u : UnitRef) (f : Fields), Sound s →
    let x := getUnit s u
    let a := accessAddr x f
    let line := gReg x (slotF2 f)
    let target := (x.pc : Int) + (BitVec.ofNat 22 f.toNat).toInt
    (ready s u brDef f = true → target < 0 ∨ x.store.length ≤ target → ∃ t, exec (.br u f) s = .next t ∧ refusedAt u stLength s t)
    ∧ (ready s u gopDef f = true → 0x0B < f.toNat % 64 → ∃ t, exec (.gop u f) s = .next t ∧ refusedAt u stReserved s t)
    ∧ (ready s u gopiDef f = true → 0x0B < f.toNat % 64 → ∃ t, exec (.gopi u f) s = .next t ∧ refusedAt u stReserved s t)
    ∧ (ready s u psetDef f = true → 5 < f.toNat % 8 → ∃ t, exec (.pset u f) s = .next t ∧ refusedAt u stReserved s t)
    ∧ (ready s u dsetDef f = true → 13 < f.toNat % 16 → ∃ t, exec (.dset u f) s = .next t ∧ refusedAt u stReserved s t)
    ∧ (ready s u gldDef f = true → a % 8 ≠ 0 → ∃ t, exec (.gld u f) s = .next t ∧ refusedAt u stAlign s t)
    ∧ (ready s u gldDef f = true → a % 8 = 0 → refusedAddr s a = true → ∃ t, exec (.gld u f) s = .next t ∧ refusedAt u stLength s t)
    ∧ (ready s u gstDef f = true → storeHeld x a 8 = false → doorbellHeld s x a = false → a % 8 ≠ 0 → ∃ t, exec (.gst u f) s = .next t ∧ refusedAt u stAlign s t)
    ∧ (ready s u gstDef f = true → storeHeld x a 8 = false → doorbellHeld s x a = false → a % 8 = 0 → refusedAddr s a = true →
      ∃ t, exec (.gst u f) s = .next t ∧ refusedAt u stLength s t)
    ∧ ∀ e ∈ [(Instr.dld u f, dldDef, 64), (.dst u f, dstDef, 64), (.stld u f, stldDef, 16), (.stst u f, ststDef, 16)],
      ready s u e.2.1 f = true → storeHeld x line e.2.2 = false →
      (line % 64 ≠ 0 → ∃ t, exec e.1 s = .next t ∧ refusedAt u stAlign s t)
        ∧ (line % 64 = 0 → memMapped s line e.2.2 = false → ∃ t, exec e.1 s = .next t ∧ refusedAt u stLength s t)

/-! Operations (R240, R241, R245 to R247, R252 to R276). Their effects stand in memory when they issue (log entry 4). -/

/-- What an operation asks for when the unit issues it (R241). -/
def planOf (d : OpDef) (s : State) (u : UnitRef) (f : Fields) : Option Plan :=
  match d.body with
  | .op g => some (g s (getUnit s u) f)
  | .control _ => none

/-- The unit is ready for the row, and its operation starts now. -/
def startsOp (s : State) (u : UnitRef) (d : OpDef) (f : Fields) : Prop :=
  ready s u d f = true ∧ ∃ p, planOf d s u f = some p ∧ startsNow s u p = true

/-- The unit has issued one operation more, in flight with status st, and stands at its next word; its g, k, c, p and st registers are
as they were. -/
def issuedOne (st : Nat) (x y : ProgUnit) : Prop :=
  y.pc = x.pc + 1 ∧ y.nextOp = x.nextOp + 1 ∧ y.waiting = none ∧ y.g = x.g ∧ y.k = x.k ∧ y.c = x.c ∧ y.p = x.p ∧ y.st = x.st
    ∧ ∃ o ∈ y.inFlight, o.id = x.nextOp ∧ o.status = st

/-- What becomes of an operation at issue, for every row that is one: it waits for an earlier one (R245, R246); a check that fails refuses
it, and nothing else happens (R20, R240, R247); an empty view ends it DONE without effect (R240); a byte that a lost domain or one in
reset would serve ends it DOMAIN_LOST without effect (R44, R343); otherwise it starts and has its effects.
That it has them at issue is the model's choice (log entries 4, 26, 27). -/
def Obligations.OperationsAtIssue : Prop :=
  ∀ (s : State) (u : UnitRef) (f : Fields), Sound s → ∀ e ∈ operationRows u f, ∀ p, planOf e.2 s u f = some p → ready s u e.2 f = true →
    let x := getUnit s u
    (mustWait s x p = true → ∃ t, exec e.1 s = .next t ∧ sameButUnit u s t ∧ getUnit t u = { x with waiting := some e.1 })
    ∧ (mustWait s x p = false → firstFail p.checks ≠ 0 → ∃ t, exec e.1 s = .next t ∧ refusedAt u (firstFail p.checks) s t)
    ∧ (mustWait s x p = false → firstFail p.checks = 0 → p.hold = true → ∃ t, exec e.1 s = .next t ∧ sameButUnit u s t
        ∧ getUnit t u = { x with waiting := some e.1 })
    ∧ (mustWait s x p = false → firstFail p.checks = 0 → p.hold = false → gate s x p.draw p.moves = .go → p.empty = true →
        ∃ t, exec e.1 s = .next t ∧ sameButUnit u s t ∧ issuedOne stDone x (getUnit t u) ∧ (getUnit t u).t = x.t)
    ∧ (mustWait s x p = false → firstFail p.checks = 0 → p.hold = false → gate s x p.draw p.moves = .go → p.empty = false →
        p.unserved (begun u p s) = true →
        ∃ t, exec e.1 s = .next t ∧ sameButUnit u s t ∧ issuedOne stLost x (getUnit t u) ∧ (getUnit t u).t = x.t)
    ∧ (startsNow s u p = true → exec e.1 s = .next (started u p s))

/-- No two of the ranges share a byte. -/
def apartRanges (l : List (Nat × Nat)) : Prop := l.Pairwise fun a b => overlaps a.1 a.2 b.1 b.2 = false

/-- A byte lies in none of the ranges. -/
def outside (l : List (Nat × Nat)) (c : Nat) : Prop := ∀ r ∈ l, c < r.1 ∨ r.1 + r.2 ≤ c

/-- Operations that read and write memory alone: XFER copies its bytes as they stood before (R271); TLD and TST copy the rows of a view
(R253); RNG writes its results (R205, R266); SAMPLE claims its cursor values and writes one choice per row (R207 to R210, R265). Each
leaves every byte that it does not write, and everything else but its unit.
The effects stand at issue: the model's choice (log entry 4). -/
def Obligations.OperationsOnMemory : Prop :=
  ∀ (s : State) (u : UnitRef) (f : Fields), Sound s →
    let x := getUnit s u
    let g1 := gReg x (slotF1 f)
    (startsOp s u xferDef f → lowOf f % 4 = 0 → ∃ t, exec (.xfer u f) s = .next t ∧ sameButUnitAndMemory u s t
      ∧ issuedOne stDone x (getUnit t u)
      ∧ (∀ i, i < gReg x (slotF3 f) → getByte t (g1 + i) = getByte s (gReg x (slotF2 f) + i))
      ∧ ∀ c, outside [(g1, gReg x (slotF3 f))] c → getByte t c = getByte s c)
    ∧ (∀ e ∈ [(Instr.tld u f, tldDef), (.tst u f, tstDef)], startsOp s u e.2 f →
        let td := viewOf (tReg x (slotF1 f))
        let ts := viewOf (tReg x (slotF2 f))
        td.stash = false → ts.stash = false → apartRanges (viewRows td) → ∃ t, exec e.1 s = .next t
          ∧ (∀ r ∈ (viewRows ts).zip (viewRows td), readMem t r.2.1 r.2.2 = readMem s r.1.1 r.1.2)
          ∧ (∀ c, outside (viewRows td) c → getByte t c = getByte s c) ∧ issuedOne stDone x (getUnit t u)
          ∧ (td.g = false → sameButUnitAndMemory u s t))
    ∧ (startsOp s u rngDef f →
        let mode := f.toNat % 4
        let size := if mode = 0 then 16 else 4
        let id := gReg x (slotF2 f) % 2 ^ 32
        let w := gReg x (slotF3 f) % 2 ^ 32
        ∃ t, exec (.rng u f) s = .next t ∧ sameButUnitAndMemory u s t ∧ issuedOne stDone x (getUnit t u)
          ∧ (∀ i, i < gReg x (slotF5 f) →
            let o := cg (cgKey s) (cgPosIx 6 id w (gReg x (slotF4 f) + i))
            (mode = 0 → readNat t (g1 + 16 * i) 16 = o % 2 ^ 128) ∧ (mode = 1 → readNat t (g1 + 4 * i) 4 = o % 2 ^ 32)
              ∧ (mode = 2 → readMem t (g1 + 4 * i) 4 = rngBytes 2 o))
          ∧ ∀ c, outside [(g1, size * gReg x (slotF5 f))] c → getByte t c = getByte s c)
    ∧ (startsOp s u sampleDef f →
        let ts := viewOf (tReg x (slotF1 f))
        let a := gReg x (slotF2 f)
        let out := gReg x (slotF3 f)
        let rows := seenRows ts
        overlaps a 32 out (8 * rows) = false →
        ∃ t, exec (.sample u f) s = .next t ∧ sameButUnitAndMemory u s t ∧ issuedOne stDone x (getUnit t u)
          ∧ readNat t (a + 8) 8 = (claimBase s a + rows) % 2 ^ 64
          ∧ (∀ q, q < rows →
            let ch := chooseRow (cgKey s) (streamId s a) (claimBase s a + q) (gReg x (slotF4 f) % 2 ^ 32) (rowOf s ts q)
            readNat t (out + 8 * q) 4 = ch.1 % 2 ^ 32
              ∧ readNat t (out + 8 * q + 4) 4 = b2n ch.2 + 2 * b2n ((rowOf s ts q).any fvIsNan))
          ∧ ∀ c, outside [(a + 8, 8), (out, 8 * rows)] c → getByte t c = getByte s c)

/-- The bytes of the wide elements that a view covers. -/
def wideCells (v : View) : List (Nat × Nat) :=
  (seenCells v).map fun c => let p := storedAt v c.1 c.2
    (wideAddr v p.1 p.2, fmtBytes (vFmt v))

/-- The draw of an element in nearest mode (none) and in CG-stochastic mode (R54, R199, R201). -/
def drawAt (s : State) (rnd : Nat) (td : View) (i j : Nat) : Option Nat :=
  if rnd = 1 then some (cgDraw24 (cg (cgKey s) (roundPos s td i j))) else none

/-- Vector operations in memory, in nearest and in CG-stochastic mode (R199, R261, R263, R264): every element of td is the function's exact
result, rounded once to td's format; no byte outside td's elements changes.
The effects stand at issue or at completion as the model chose (log entries 4, 10, 53, 85). -/
def Obligations.VectorResults : Prop :=
  ∀ (s : State) (u : UnitRef) (f : Fields), Sound s →
    let x := getUnit s u
    let low := f.toNat % 2 ^ 22
    let td := viewOf (tReg x (slotF1 f))
    let ts := viewOf (tReg x (slotF2 f))
    let top := 256 ^ fmtBytes (vFmt td)
    td.stash = false →
    (startsOp s u vopDef f → low % 4 < 2 →
      let fn := fld low 7 2
      let tb := viewOf (tReg x (slotF3 f))
      let sc := fvRead .fp32 (gReg x (slotF4 f) % 2 ^ 32)
      ∃ t, exec (.vop u f) s = .next t
        ∧ (∀ i j, i < seenRows td → j < seenCols td →
          let b := if vopUsesB fn then wideGet s tb i (if seenCols tb = 1 then 0 else j) else .fin false 0
          let v := if fn = 0x18 then vRowMax s.freeCtr (rowOf s ts i) else if fn = 0x19 then vRowSum (rowOf s ts i)
            else vopElem fn (wideGet s ts i j) b sc
          let inBits := if vopIsRow fn then 0 else wideBits s ts i j
          wideBits t td i j = (vopRound (vFmt td) fn inBits (low % 4) (drawAt s (low % 4) td i j) v).1.bits % top)
        ∧ ∀ c, outside (wideCells td) c → getByte t c = getByte s c)
    ∧ (startsOp s u dropDef f →
      let gT := gReg x (slotF4 f)
      ∃ t, exec (.drop u f) s = .next t
        ∧ (∀ i j, i < seenRows td → j < seenCols td →
          let gone := cgDraw24 (cg (cgKey s) (dropPos s td (gReg x (slotF3 f) % 2 ^ 32) i j)) < gT % 2 ^ 24
          let v := if gone then VRes.zero false else vMul (wideGet s ts i j) (fvRead .fp32 (gT / 2 ^ 32))
          wideBits t td i j = (vopRound (vFmt td) 0 0 0 none v).1.bits % top)
        ∧ ∀ c, outside (wideCells td) c → getByte t c = getByte s c)
    ∧ (startsOp s u rotDef f →
      let a : RotArgs := ⟨low % 16, fld low 4 4, bitAt low 5, fld low 6 6, gReg x (slotF3 f) % 2 ^ 32⟩
      ∃ t, exec (.rot u f) s = .next t
        ∧ (∀ i j, i < seenRows td → j < seenCols td →
          let p := storedAt ts i j
          let b := rotBlock s ts a p.1 p.2
          wideBits t td i j = (vopRound .fp32 0 0 0 none (rotOut (cgKey s) a b.2.1 b.2.2 b.1)).1.bits % 2 ^ 32)
        ∧ (∀ c, outside (wideCells td) c → getByte t c = getByte s c)
        ∧ tReg (getUnit t u) (slotF1 f) = rotTag (tReg x (slotF1 f)) a (ts.t != td.t)
        ∧ ∀ n, n ≠ slotF1 f → tReg (getUnit t u) n = tReg x n)

/-- QNT without a ledger, a layer record or a side door, in memory, to nearest (R56, R70 to R76, R254): each tile of td holds the codes and the
tile-scale word of the exact quantisation of its elements; no byte outside td changes; td takes the rotation tag of ts.
The effects stand at issue: the model's choice (log entry 4). -/
def Obligations.QuantisationResults : Prop :=
  ∀ (s : State) (u : UnitRef) (f : Fields), Sound s → startsOp s u qntDef f → f.toNat % 4 = 0 → slotF3 f = 0 → slotF4 f = 0 →
    let x := getUnit s u
    let td := viewOf (tReg x (slotF1 f))
    let ts := viewOf (tReg x (slotF2 f))
    let a : QntArgs := ⟨u, ts, td, vFmt td, kReg x td.slot, 0, none, none⟩
    td.stash = false → ts.stash = false → td.side = 0 → apartRanges (viewRows td) →
    (∀ r ∈ viewRanges ts, ∀ q ∈ viewRanges td, overlaps r.1 r.2 q.1 q.2 = false) →
    ∃ t, exec (.qnt u f) s = .next t
      ∧ (∀ ti tj, ti < tileRows td → tj < tileCols td →
        let q := quantTile (vFmt td) (fp32Num (kReg x td.slot)) (vectorLanes u.dom 0) (fun _ => 0) ((qntElems s a ti tj).map qIn) s
        tileWord t td ti tj = q.word % 256
          ∧ ∀ n, n < 256 → elemWord t td (vFmt td) (16 * ti + n / 16) (16 * tj + n % 16) = q.words.getD n 0)
      ∧ (∀ c, outside (viewRows td) c → getByte t c = getByte s c)
      ∧ tReg (getUnit t u) (slotF1 f) = tagDesc (tReg x (slotF1 f)) ts.h ts.rotSide ts.axis ts.layer (ts.t != td.t)

/-- Every bank of the Cellars but one reads as before. -/
def otherBanks (bank : Nat) (s t : State) : Prop :=
  ∀ b, b ≠ bank → bankKind t b = bankKind s b ∧ (∀ n, n < 256 → getTile t b n = getTile s b n)
    ∧ ∀ i j, i < 256 → j < 256 → getEntry t b i j = getEntry s b i j

/-- Accumulators (R92, R99 to R101, R189, R259, R262). RSUM ACC adds the terms of each row exactly to its block, COMB block to block, OUT writes
each sum rounded to FP32; a sum is exact below 2^192, and no byte outside the written blocks changes. CZERO empties a bank; a CXFER read
writes the tiles' rail blocks and leaves the bank; an add joins each block's rails to its entries, in a bank that is not in reference
mode, and leaves memory. No other bank changes.
The effects stand at issue or at completion as the model chose (log entries 4, 54). -/
def Obligations.AccumulatorResults : Prop :=
  ∀ (s : State) (u : UnitRef) (f : Fields), Sound s →
    let x := getUnit s u
    let ga := gReg x (slotF1 f)
    let gb := gReg x (slotF2 f)
    let ta := viewOf (tReg x (slotF3 f))
    let n := gReg x (slotF4 f)
    let bankOf := fun slot => bankIx u.dom (cReg x (slot % 16))
    (startsOp s u rsumAccDef f → ∃ t, exec (.rsumAcc u f) s = .next t ∧ sameButUnitAndMemory u s t ∧ issuedOne stDone x (getUnit t u)
      ∧ (∀ i, i < n → let sum := readNat s (ga + 24 * i) 24 + (((rowOf s ta i).map fun v => (rsumTerm v).1).foldl (· + ·) 0 : Nat)
        sum < 2 ^ 192 → readNat t (ga + 24 * i) 24 = sum)
      ∧ ∀ c, outside [(ga, 24 * n)] c → getByte t c = getByte s c)
    ∧ (startsOp s u rsumCombDef f → overlaps ga (24 * n) gb (24 * n) = false ∨ ga = gb →
      ∃ t, exec (.rsumComb u f) s = .next t ∧ sameButUnitAndMemory u s t ∧ issuedOne stDone x (getUnit t u)
        ∧ (∀ i, i < n → let sum := readNat s (ga + 24 * i) 24 + readNat s (gb + 24 * i) 24
          sum < 2 ^ 192 → readNat t (ga + 24 * i) 24 = sum)
        ∧ ∀ c, outside [(ga, 24 * n)] c → getByte t c = getByte s c)
    ∧ (startsOp s u rsumOutDef f → overlaps ga (24 * n) gb (4 * n) = false →
      ∃ t, exec (.rsumOut u f) s = .next t ∧ sameButUnitAndMemory u s t ∧ issuedOne stDone x (getUnit t u)
        ∧ (∀ i, i < n → readNat t (gb + 4 * i) 4 = (roundNum .fp32 none ⟨(readNat s (ga + 24 * i) 24 : Int), 0, 2 ^ 149⟩).bits % 2 ^ 32)
        ∧ ∀ c, outside [(gb, 4 * n)] c → getByte t c = getByte s c)
    ∧ (startsOp s u czeroDef f → let bank := bankOf (slotF1 f)
      ∃ t, exec (.czero u f) s = .next t ∧ issuedOne stDone x (getUnit t u) ∧ bankKind t bank = .empty
        ∧ (∀ n, n < 256 → getTile t bank n = ⟨0, 0⟩) ∧ (∀ i j, i < 256 → j < 256 → getEntry t bank i j = ⟨0, 0, false, false, false⟩)
        ∧ otherBanks bank s t ∧ t.mem = s.mem ∧ t.regs = s.regs)
    ∧ (startsOp s u cxferReadDef f → bitAt f.toNat 1 = false →
      let bank := bankOf (slotF1 f)
      let k := bankKind s bank
      let a := gReg x (slotF2 f)
      let gT := gReg x (slotF3 f)
      let gO := gReg x (slotF4 f)
      ∃ t, exec (.cxferRead u f) s = .next t ∧ sameButUnitAndMemory u s t ∧ issuedOne stDone x (getUnit t u)
        ∧ (∀ m g, m < fld gT 24 16 → g < blocksOf k → let n := gT % 256 + m
          readMem t (a + (m * blocksOf k + g) * 8512) 8512
            = blockOf s bank k n g (gO % 2 ^ 32 + n / gridCols k) (gO / 2 ^ 32 + n % gridCols k))
        ∧ ∀ c, outside [(a, fld gT 24 16 * blocksOf k * 8512)] c → getByte t c = getByte s c)
    ∧ (startsOp s u cxferAddDef f →
      let bank := bankOf (slotF1 f)
      let a := gReg x (slotF2 f)
      let gT := gReg x (slotF3 f)
      ∃ t, exec (.cxferAdd u f) s = .next t ∧ t.mem = s.mem ∧ otherBanks bank s t
        ∧ (bankKind s bank = .plain → (∀ m i j, m < fld gT 24 16 → i < 16 → j < 16 →
          let n := gT % 256 + m
          let b := a + m * 8512
          let r := 16 * (n / 16) + i
          let c := 16 * (n % 16) + j
          getRails t bank .plain r c = if readNat s b 8 = 0 then getRails s bank .plain r c
            else (joinRails 128 (getRails s bank .plain r c) (blockRails s b .plain i j)).1)))

/-- What the tile-blocks of one reduction slice add to an output's rails (R84, R87 to R93). -/
def sliceInto (pass k kb i j : Nat) (a b : OpTile) (r : Rails) : Rails :=
  if a.poison || b.poison then { r with poison := true }
  else if a.zero || b.zero then r
  else
    let acc := (List.range (min 16 (k - 16 * kb))).foldl (fun acc q =>
      pairTerm (if a.kind = 1 ∨ b.kind = 1 then 3 else pass) a.fine b.fine acc (a.elems.getD (16 * (i % 16) + q) zeroElem)
        (b.elems.getD (16 * q + j % 16) zeroElem)) accZero
    if acc.nan || decide (acc.infA = 3) || decide (acc.infB = 3) then { r with poison := true }
    else
      let ra := railOut acc.r.1 acc.infA
      let rb := railOut acc.r.2 acc.infB
      let y := (addRails 128 r ra.v rb.v).1
      { y with sat := y.sat || ra.clamped || rb.clamped }

/-- Products, LDOWN and the drain (R82 to R97, R129, R255, R257, R258). An MMA of narrow operands without a layer record adds, slice by
slice in rising k, the tile-blocks of every output in its M × N to the output's rails, and changes no other bank, no entry outside
M × N and no memory. LDOWN writes the lintel sums of its rows. A wide DRAIN to nearest without the lintel writes each clean entry's
value rounded once and NaN for a poisoned one, and leaves the bank.
The effects stand at issue: the model's choice (log entry 4). -/
def Obligations.MatrixAndDrainResults : Prop :=
  ∀ (s : State) (u : UnitRef) (f : Fields), Sound s →
    let x := getUnit s u
    let low := f.toNat % 2 ^ 22
    (startsOp s u mmaDef f → bitAt low 2 = false → slotF5 f = 0 →
      let bank := bankIx u.dom (cReg x (slotF1 f % 16))
      let ta := viewOf (tReg x (slotF2 f))
      let tb := viewOf (tReg x (slotF3 f))
      let d := gReg x (slotF4 f)
      ∃ t, exec (.mma u f) s = .next t ∧ t.mem = s.mem ∧ otherBanks bank s t
        ∧ (∀ i j, i < dimM d → j < dimN d → getRails t bank .plain i j
          = (List.range (ceilDiv (dimK d) 16)).foldl (fun r kb => sliceInto (low % 4) (dimK d) kb i j
              (opTile s ta (vFmt ta) (i / 16) kb) (opTile s tb (vFmt tb) kb (j / 16)) r) (getRails s bank .plain i j))
        ∧ (∀ i j, i < 256 → j < 256 → dimM d ≤ i ∨ dimN d ≤ j → getEntry t bank i j = getEntry s bank i j))
    ∧ (startsOp s u ldownDef f →
      let td := viewOf (tReg x (slotF1 f))
      let ta := viewOf (tReg x (slotF2 f))
      let tb := viewOf (tReg x (slotF3 f))
      let d := gReg x (slotF4 f)
      td.stash = false → ∃ t, exec (.ldown u f) s = .next t
        ∧ (∀ i l, i < dimM d → l < dimN d → wideBits t td i l = fvBits .fp32 (lintelSum ((List.range (dimK d)).map fun k =>
            (elemRep (fp32Num (kReg x ta.slot)) (opTile s ta (vFmt ta) (i / 16) (k / 16)) (16 * (i % 16) + k % 16), wideGet s tb k l))).1
              % 2 ^ 32)
        ∧ ∀ c, outside (wideCells td) c → getByte t c = getByte s c)
    ∧ (startsOp s u drainDef f → low % 8 = 0 →
      let td := viewOf (tReg x (slotF1 f))
      let bank := bankIx u.dom (cReg x (slotF2 f % 16))
      let k := bankKind s bank
      let d := gReg x (slotF6 f)
      td.stash = false → fmtWide (vFmt td) = true → ∃ t, exec (.drain u f) s = .next t
        ∧ (∀ i j, i < dimM d → j < dimN d → let r := getRails s bank k i j
          (r.poison = true → wideBits t td i j = fmtNan (vFmt td) % 256 ^ fmtBytes (vFmt td))
            ∧ (r.poison = false → wideBits t td i j
              = (roundNum (vFmt td) none (numAdd (numMul (railUnit s bank k i j) ⟨r.a, r.b, 1⟩) (fvNum (.fin false 0)))).bits
                % 256 ^ fmtBytes (vFmt td)))
        ∧ t.entries = s.entries ∧ t.tiles = s.tiles ∧ t.bankKinds = s.bankKinds
        ∧ ∀ c, outside (wideCells td) c → getByte t c = getByte s c)

/-- Operations that only enter something into the module's tables: HUPD waits in flight for the skip decision of the step then in force, with
its descriptor as read at issue (R149, R169, R241); HLOAD stores a program (R268); COLL begins a collective with its contribution as it stands (R241, R315);
LANDING enters a landing and marks its record pending (R288, R290); a cancel takes the pending one out again (R293); PGRANT enters a
request, schedules one, or releases the unit's grants (R275; an admitted one too: log entry 23).
The effects stand at issue: the model's choice (log entry 4). -/
def Obligations.EnteringOperations : Prop :=
  ∀ (s : State) (u : UnitRef) (f : Fields), Sound s →
    let x := getUnit s u
    let a := gReg x (slotF1 f)
    (startsOp s u hupdDef f → ∃ t, exec (.hupd u f) s = .next t ∧ sameButUnit u s t ∧ issuedOne stDone x (getUnit t u)
      ∧ ∃ o ∈ (getUnit t u).inFlight, o.id = x.nextOp ∧ o.need = .update (readMem s a 128) (posStep s.pos) none)
    ∧ (startsOp s u hloadDef f → ∃ t, exec (.hload u f) s = .next t ∧ issuedOne stDone x (getUnit t u)
      ∧ hearthProg t u.dom (f.toNat % 64)
        = some ((List.range (gReg x (slotF2 f))).map fun i => BitVec.ofNat 64 (readNat s (a + 8 * i) 8))
      ∧ (∀ slot, slot < 64 → slot ≠ f.toNat % 64 → hearthProg t u.dom slot = hearthProg s u.dom slot)
      ∧ { t with units := s.units, hearth := s.hearth } = s)
    ∧ (startsOp s u collDef f → let d := collDesc s a
      ∃ t, exec (.coll u f) s = .next t ∧ t.mem = s.mem ∧ t.nextColl = s.nextColl + 1
        ∧ (s.fabric.earlyColl = [] → ∃ c, getColl t s.nextColl = some c ∧ c.own = readMem s d.src (d.elements * unitBytes d.etype)
          ∧ c.collId = d.collId ∧ c.step = posStep s.pos ∧ c.dst = d.dst ∧ c.elements = d.elements ∧ c.issuer = u ∧ c.op = x.nextOp))
    ∧ (startsOp s u landingDef f → let r := gReg x (slotF2 f)
      let kind := f.toNat % 256
      ∃ t, exec (.landing u f) s = .next t ∧ readNat t r 1 = 1 ∧ (∀ c, c ≠ r → getByte t c = getByte s c)
        ∧ t.landings = s.landings ++ [⟨s.nextLanding, landTable u kind (landParams s r), stReg x (slotF1 f % 4), kind, some r,
            landParams s r, u, none, false⟩]
        ∧ t.faults = s.faults ∧ t.pos = s.pos)
    ∧ (startsOp s u landingCancelDef f → let r := gReg x (slotF2 f)
      ∃ t, exec (.landingCancel u f) s = .next t ∧ sameButUnit u s { t with mem := s.mem, landings := s.landings }
        ∧ (∀ l, s.landings.find? (fun l => l.record = some r && !l.fired) = some l →
          t.landings = s.landings.filter (fun m => m.n ≠ l.n) ∧ readNat t r 1 = 4 ∧ readNat t (r + 2) 2 = stDone
            ∧ ∀ c, outside [(r, 1), (r + 2, 2)] c → getByte t c = getByte s c)
        ∧ ((∀ l ∈ s.landings, l.record = some r → l.fired = true) → t.landings = s.landings ∧ t.mem = s.mem))
    ∧ (startsOp s u pgrantDef f → let w := a % 2 ^ 32
      ∃ t, exec (.pgrant u f) s = .next t ∧ t.mem = s.mem ∧ t.faults = s.faults
        ∧ (w = 0 → t.power.grants = s.power.grants.filter (fun g => !(decide (g.holder = u) && decide (g.source = .pgrant) && decide (g.stage ≠ .queued)))
          ∧ t.landings = s.landings)
        ∧ (w ≠ 0 → bitAt f.toNat 0 = false → t.power.nextGrant = s.power.nextGrant + 1 ∧ t.landings = s.landings
          ∧ ∃ g ∈ t.power.grants, g.n = s.power.nextGrant ∧ g.holder = u ∧ g.watts = w ∧ g.source = .pgrant)
        ∧ (w ≠ 0 → bitAt f.toNat 0 = true → t.power.grants = s.power.grants
          ∧ t.landings = s.landings ++ [⟨s.nextLanding, porchDom, stReg x (slotF2 f % 4), 4, none, [BitVec.ofNat 64 w], u,
            if bitAt f.toNat 1 then some x.nextOp else none, false⟩]))

/-- Stash operations (R176, R183 to R185, R276): OPEN opens its stash when it completes, unless another has taken the header or the free
share since its checks; RELEASE frees an entry's pages and leaves STATE 5; CLOSE
leaves no such stash and every other as it was; OFFLOAD and PREFETCH begin the copy of a full entry in the right STATE with its OFFLOAD
bit when pages are free, and have no effect on any other; the switch puts the entry on its new pages.
The effects stand at issue or at completion as the model chose (log entries 4, 14). -/
def Obligations.StashOperations : Prop :=
  ∀ (s : State) (u : UnitRef) (f : Fields), Sound s →
    let x := getUnit s u
    let h := gReg x (slotF1 f)
    let e := gReg x (slotF2 f)
    let clear := fun (n : Nat) => entAddr s h n + 32 ≤ h ∨ h + 64 ≤ entAddr s h n
    (startsOp s u openDef f → ∃ t, exec (.openStash u f) s = .next t ∧ sameButUnit u s t ∧ issuedOne stDone x (getUnit t u)
      ∧ ∃ o ∈ (getUnit t u).inFlight, o.id = x.nextOp ∧ o.need = .opening h)
    ∧ (∀ (o : Op) (k : Nat), x.inFlight.find? (fun z => z.id = o.id) = some o → o.need = .opening k → o.status = 0 →
      (findStash s k = none → readNat s (k + 16) 4 ≤ freeShare s → ∃ t, exec (.operationComplete u o.id) s = .next t
        ∧ t.stash.stashes = s.stash.stashes ++ [⟨k, readNat s (k + 16) 4, [], []⟩] ∧ t.mem = s.mem
        ∧ ∀ z ∈ (getUnit t u).inFlight, z.id ≠ o.id)
      ∧ ((findStash s k).isSome = true ∨ freeShare s < readNat s (k + 16) 4 → ∃ t, exec (.operationComplete u o.id) s = .next t
        ∧ t.stash = s.stash ∧ (getUnit t u).stopped = true ∧ ∀ z ∈ (getUnit t u).inFlight, z.id ≠ o.id))
    ∧ (startsOp s u releaseDef f → clear e → ∃ t, exec (.release u f) s = .next t
      ∧ (1 ≤ entState s h e ∧ entState s h e ≤ 4 → entState t h e = 5
        ∧ ∀ y, findStash t h = some y → (∀ p ∈ y.placed, p.entry ≠ e) ∧ ∀ m ∈ y.moves, m.entry ≠ e)
      ∧ (entState s h e = 0 ∨ 4 < entState s h e → t.mem = s.mem ∧ t.stash = s.stash)
      ∧ (∀ c, outside [(h + 20, 4), (h + 36, 4), (entAddr s h e + 5, 1)] c → getByte t c = getByte s c)
      ∧ ∀ k, k ≠ h → findStash t k = findStash s k)
    ∧ (startsOp s u closeDef f → ∃ t, exec (.closeStash u f) s = .next t ∧ findStash t h = none
      ∧ ∀ k, k ≠ h → findStash t k = findStash s k)
    ∧ (∀ r ∈ [(Instr.offload u f, offloadDef, true), (.prefetch u f, prefetchDef, false)], startsOp s u r.2.1 f →
      ∃ t, exec r.1 s = .next t
        ∧ (∀ y, findStash s h = some y → entState s h e = (if r.2.2 then 1 else 2) → bitAt (entCtrl s h e) 1 = true →
          (∀ m ∈ y.moves, m.entry ≠ e) → entSize s h e ≤ entWritten s h e → entPages s h e ≤ roomFor s y r.2.2 →
          ∃ z, findStash t h = some z
            ∧ ∃ m ∈ z.moves, m.entry = e ∧ m.toAttic = r.2.2 ∧ m.copying = true ∧ m.mover = u ∧ m.op = x.nextOp)
        ∧ (entState s h e ≠ (if r.2.2 then 1 else 2) ∨ bitAt (entCtrl s h e) 1 = false → sameButUnit u s t
          ∧ ∃ o ∈ (getUnit t u).inFlight, o.id = x.nextOp ∧ o.need = .work ∧ o.status = stDone))
    ∧ ∀ (op k : Nat) (m : StashMove) (y : Stash), moveOf s u op = some (k, m) → findStash s k = some y →
      entAddr s k m.entry + 32 ≤ k ∨ k + 64 ≤ entAddr s k m.entry →
      ∃ t z, exec (.stashMoveSwitch u op) s = .next t ∧ findStash t k = some z
        ∧ (∀ p ∈ z.placed, p.entry = m.entry → p.pages = m.pages ∧ p.attic = m.toAttic) ∧ (∀ n ∈ z.moves, n.entry ≠ m.entry)
        ∧ entState t k m.entry = (if m.toAttic then 2 else 1)
        ∧ ∀ c, outside [(k + 20, 4), (k + 36, 4), (entAddr s k m.entry + 5, 1)] c → getByte t c = getByte s c

/-- Waits and completions (R223, R244, R245, R247, R273, R274, R319): FENCE and WAITST go on or wait; the end of a wait issues the waiting
instruction as things then stand; RING stores as an agent of its domain does; an operation that completes leaves the unit its flags, and
a failed one stops it; a program that is over hands its command the status and flags; a collective whose contributions agree writes its
result once its own has left, one whose do not ends with its record (R319, R321). -/
def Obligations.WaitsAndCompletions : Prop :=
  ∀ (s : State) (u : UnitRef) (f : Fields), Sound s →
    let x := getUnit s u
    (ready s u fenceDef f = true → ∃ t, exec (.fence u f) s = .next t ∧ sameButUnit u s t
      ∧ (x.inFlight = [] → keptFiles x (getUnit t u)) ∧ (x.inFlight ≠ [] → getUnit t u = { x with waiting := some (.fence u f) }))
    ∧ (ready s u waitstDef f = true →
      let arrived := (stReg x (slotF1 f % 4)).toNat ≤ s.pos.toNat
      let late := bitAt f.toNat 0 = true ∧ (stReg x (slotF2 f % 4)).toNat ≤ s.pos.toNat
      let pd := slotF3 f % 8
      let went := fun (b : Bool) (y : ProgUnit) => wentOn x y ∧ (∀ m, m < 8 → pReg y m = if m = pd ∧ m ≠ 0 then b else pReg x m)
        ∧ y.g = x.g ∧ y.t = x.t ∧ y.k = x.k ∧ y.c = x.c ∧ y.st = x.st
      let room := x.inFlight.length < 32
      ∃ t, exec (.waitst u f) s = .next t ∧ sameButUnit u s t ∧ (room → arrived → went true (getUnit t u))
        ∧ (room → ¬arrived → late → went false (getUnit t u))
        ∧ (¬room ∨ (¬arrived ∧ ¬late) → getUnit t u = { x with waiting := some (.waitst u f) }))
    ∧ (∀ p, planOf ringDef s u f = some p → ready s u ringDef f = true → startsNow s u p = true → u.dom ≠ 0 → s.boot.firmware = true →
      let a := gReg x (slotF1 f)
      a ≠ controlBase + 0x10000000 * porchDom + Reg.STAIR_CLOSE → (∀ dom off, controlAt a = some (dom, off) → isDown s dom = false) →
      ∀ hart r, exec (.registerWrite ⟨u.dom, hart⟩ a 8 (gWord x (slotF2 f))) (begun u p s) = .next r →
        exec (.ring u f) s = .next (settle u x.nextOp ⟨r, stDone, 0⟩))
    ∧ (∀ e ∈ operationRows u f ++ [(.waitst u f, waitstDef), (.fence u f, fenceDef), (.gst u f, gstDef), (.dst u f, dstDef),
          (.stst u f, ststDef)],
        let s' := setUnit s { x with waiting := none }
        x.waiting = some e.1 → ready s' u e.2 f = true → exec (.issueWaitEnd u) s = exec e.1 s'
          ∧ ∀ p, planOf e.2 s' u f = some p → startsNow s' u p = true → exec (.issueWaitEnd u) s = .next (started u p s'))
    ∧ (let s' := setUnit s { x with waiting := none }
      (x.waiting = some (.fence u f) → ready s' u fenceDef f = true → x.inFlight = [] →
        ∃ t, exec (.issueWaitEnd u) s = .next t ∧ sameButUnit u s t ∧ (getUnit t u).waiting = none ∧ (getUnit t u).pc = x.pc + 1)
      ∧ (x.waiting = some (.gst u f) → ready s' u gstDef f = true → let a := accessAddr x f
        storeHeld x a 8 = false → a % 8 = 0 → memMapped s a 8 = true → needsDown s a 8 = false →
        ∃ t, exec (.issueWaitEnd u) s = .next t ∧ sameButUnitAndMemory u s t ∧ (getUnit t u).waiting = none
          ∧ (getUnit t u).pc = x.pc + 1 ∧ storedAtAddr a 8 (gReg x (slotF1 f)) s t))
    ∧ (∀ o : Op, x.inFlight.find? (fun z => z.id = o.id) = some o → o.need = .work →
      ∃ t, exec (.operationComplete u o.id) s = .next t
        ∧ (o.status = stDone → sameButUnit u s t
          ∧ getUnit t u = { x with inFlight := x.inFlight.filter (fun z => z.id ≠ o.id), flags := x.flags ||| o.flags })
        ∧ (o.status ≠ stDone → (getUnit t u).stopped = true ∧ (x.status = 0 → (getUnit t u).status = o.status)
          ∧ (getUnit t u).inFlight = x.inFlight.filter (fun z => z.id ≠ o.id) ∧ (getUnit t u).flags = x.flags ||| o.flags
          ∧ (∀ v, v ≠ u → getUnit t v = getUnit s v)
          ∧ (o.logged = true → t.faults = s.faults)
          ∧ (o.logged = false → s.faults.length < 4096 → t.faults = s.faults ++ [faultBytes (nextLogSeq s) s.pos
            ⟨o.status, statusClass o.status, u.dom, ownerCmd x.owner, none, none, unitCode u.kind⟩])))
    ∧ (∀ q seq, x.running = true → x.ended = true ∨ x.stopped = true → x.inFlight = [] → x.waiting = none → x.owner = .command q seq →
      ∃ t, exec (.runComplete u) s = .next t ∧ (getUnit t u).running = false ∧ (∀ v, v ≠ u → getUnit t v = getUnit s v)
        ∧ (getQueue t q).cmds = (getQueue s q).cmds.map (fun c =>
          if c.seq = seq then { c with stage := .finished, status := x.status, flags := c.flags ||| x.flags } else c)
        ∧ (∀ p, p ≠ q → getQueue t p = getQueue s p) ∧ (∀ g ∈ t.power.grants, g.holder ≠ u) ∧ t.mem = s.mem ∧ t.faults = s.faults)
    ∧ ∀ (o : Op) (key : Nat) (c : Coll) (bytes : List Byte) (sat : Bool), x.inFlight.find? (fun z => z.id = o.id) = some o →
      o.need = .coll key → o.status = 0 → getColl s key = some c → c.key = key →
      (c.bad = none → ownLeft s c = true → allAgreed s c = true → collResult s c = some (bytes, sat) → needsDown s c.dst bytes.length = false →
        ∃ t, exec (.collComplete u o.id) s = .next t ∧ readMem t c.dst bytes.length = bytes
          ∧ (∀ a, outside [(c.dst, bytes.length)] a → getByte t a = getByte s a) ∧ getColl t key = none
          ∧ (∀ z ∈ (getUnit t u).inFlight, z.id ≠ o.id) ∧ t.faults = s.faults)
      ∧ (∀ i j, c.bad = some (i, j) → s.faults.length < 4096 → ∃ t, exec (.collComplete u o.id) s = .next t ∧ getColl t key = none
        ∧ (getUnit t u).stopped = true ∧ (∀ z ∈ (getUnit t u).inFlight, z.id ≠ o.id)
        ∧ t.faults = s.faults ++ [faultBytes (nextLogSeq s) s.pos ⟨stReserved, 1, u.dom, ownerCmd x.owner, none,
          some (c.collId, i + j * 2 ^ 16, 0), unitCode u.kind⟩])

/-- A HUPD completes (R149, R159, R162 to R164, R169), the memory of its operands being there. Before the skip decision of its own step is
known it waits. On a skip it writes its record and nothing else, APPLIED and the norms kept, and ends with STEP_SKIPPED. Otherwise it writes
its record and, but for PHASE 1, its arrays; APPLIED counts up; where the arrays and the record are apart and no lane is drawn from, each
element's pair and moments in use become what its program and R162 give from that element alone, or stay if the element is not finite,
which NONFINITE_COUNT counts. One that has failed in flight has no effect (R43). That all this happens at OPERATION_COMPLETE is the model's
choice (log entry 4); what the registers of a loaded program start from is free (log entry 56). -/
def Obligations.HearthUpdateCompletes : Prop :=
  ∀ (s : State) (u : UnitRef) (o : Op) (b : List Byte) (step : Nat) (decided : Option Bool), Sound s →
    let x := getUnit s u
    let d := updateOf b step
    let r := d.record
    let decision : Option Bool := if decided.isSome then decided
      else if step = posStep s.pos ∧ rb s u.dom Reg.TRAIN_STEP_STATUS 33 = true then some (rb s u.dom Reg.TRAIN_STEP_STATUS 34) else none
    let applied := readNat s (r + 8) 8
    x.inFlight.find? (fun z => z.id = o.id) = some o → o.need = .update b step decided →
    (o.status ≠ 0 → o.logged = true → ∃ t, exec (.operationComplete u o.id) s = .next t ∧ sameButUnit u s t
      ∧ (getUnit t u).stopped = true ∧ ∀ z ∈ (getUnit t u).inFlight, z.id ≠ o.id)
    ∧ (o.status = 0 → decision = none → (∀ z ∈ x.inFlight, z.id = o.id → z = o) → exec (.operationComplete u o.id) s = .next s)
    ∧ (∀ skip, o.status = 0 → decision = some skip → (∀ e ∈ updateReads d, needsDown s e.1 e.2 = false) →
      ∃ t, exec (.operationComplete u o.id) s = .next t ∧ t.faults = s.faults
      ∧ (∀ v, v ≠ u → getUnit t v = getUnit s v)
      ∧ getUnit t u = { x with inFlight := x.inFlight.filter (fun z => z.id ≠ o.id), flags := (getUnit t u).flags }
      ∧ (∀ c, outside (updateWrites d) c → getByte t c = getByte s c)
      ∧ readNat t r 4 = d.tensor ∧ readNat t (r + 4) 4 = step % 2 ^ 32 ∧ readNat t (r + 16) 8 = d.count
      ∧ (skip = true ∨ d.phase = 1 → readNat t (r + 8) 8 = applied ∧ readNat t (r + 24) 8 = 0 ∧ readNat t (r + 32) 8 = 0
        ∧ readNat t (r + 40) 4 = 0 ∧ ∀ c, outside [(r, 256)] c → getByte t c = getByte s c)
      ∧ (skip = true → (getUnit t u).flags = x.flags ||| flSkipped ∧ readNat t (r + 44) 1 % 8 = 1 ∧ readNat t (r + 48) 8 = 0
        ∧ readNat t (r + 56) 8 = 0 ∧ ∀ c, r + 64 ≤ c → getByte t c = getByte s c)
      ∧ (skip = false → d.phase ≠ 1 → readNat t (r + 8) 8 = (applied + 1) % 2 ^ 64 ∧ ∀ c, r + 64 ≤ c → c < r + 256 →
        (∀ e ∈ (updateWrites d).tail, c < e.1 ∨ e.1 + e.2 ≤ c) → getByte t c = getByte s c)
      ∧ (skip = false → d.phase ≠ 1 → d.rnd ≠ 2 → (updateReads d).Pairwise (fun p q => p.1 + p.2 ≤ q.1 ∨ q.1 + q.2 ≤ p.1) →
        let bias := fun n => if d.prog = 1 ∨ d.prog = 3 then biasOf (hyp d n) (applied + 1) else none
        let pair := fun i => pairValue (readNat s (d.master + 2 * i) 2) (readNat s (d.eaves + i) 1)
        let inputs := fun i => ElemIn.mk (fvRead .fp32 (readNat s (d.grad + 4 * i) 4))
          ((pair i).elim .nan fun v => .fin (decide (v < 0)) v.natAbs) (momentIn s d.used1 d.m1 d.fmt1 i) (momentIn s d.used2 d.m2 d.fmt2 i)
        let element := fun i => runElem s u.dom d (applied + 1) (bias 1) (bias 2) (inputs i)
        readNat t (r + 56) 8 = (List.range d.count).countP (fun i => (element i).isNone) % 2 ^ 64
        ∧ ∀ i, i < d.count →
          (element i = none → ∀ e ∈ updateArrays d, readMem t (e.1 + e.2.1 * i) e.2.1 = readMem s (e.1 + e.2.1 * i) e.2.1)
          ∧ ∀ v, element i = some v →
            let p := pairUpdate ((pair i).getD 0) v.delta
              (peekDraw s (hearthLanes u.dom d.rnd false) (cgPosIx 2 d.tensor step (d.origin + i)))
            let moment := fun (used : Bool) (base code : Nat) (m : Option FV) => ∀ y, used = true → m = some y →
              readMem t (base + momentBytes code * i) (momentBytes code) = leBytes (momentBytes code) (fvConvert (momentFmt code) none y).bits
            readMem t (d.master + 2 * i) 2 = leBytes 2 p.master ∧ readMem t (d.eaves + i) 1 = leBytes 1 p.eaves
            ∧ moment d.used1 d.m1 d.fmt1 v.m1 ∧ moment d.used2 d.m2 d.fmt2 v.m2))

/-! Command queues (R218, R221 to R225, R243). -/

/-- An accepted RUN whose binary passes the checks of R243 starts its program: the unit's registers are those of R218 and every other
one zero, its instruction store holds the binary's words, it stands at ENTRY, and nothing else of the module changes but the command,
which is under way. -/
def Obligations.RunStartsItsProgram : Prop :=
  ∀ (q seq idx : Nat) (s : State) (c : Cmd) (k : UnitKind),
    startable s q seq = some c → cmdKind c = kindRun → unitKindOf (q / 256) (cmdUnit c) = some k → idx < unitsFitted (q / 256) k →
    (getUnit s ⟨q / 256, k, idx⟩).running = false → binaryFlaw s (cmdProgram c) (cmdUnit c) = 0 →
    readNat s (cmdProgram c + 8) 4 ≠ 0 →
    ∃ t, exec (.run q seq idx) s = .next t ∧
      (let x := getUnit t ⟨q / 256, k, idx⟩
       x.running = true ∧ x.ended = false ∧ x.stopped = false ∧ x.waiting = none ∧ x.inFlight = [] ∧ x.status = 0 ∧ x.flags = 0
        ∧ x.owner = .command q seq ∧ x.pc = readNat s (cmdProgram c + 12) 4
        ∧ x.store.length = readNat s (cmdProgram c + 8) 4
        ∧ (∀ i, i < x.store.length → (x.store.getD i 0).toNat = readNat s (cmdProgram c + 64 + 8 * i) 8)
        ∧ gReg x 0 = 0 ∧ gReg x 1 = cmdArg c ∧ gReg x 2 = cmdArgLen c ∧ gReg x 3 = (if domType (q / 256) = some .cd then 16 else 0)
        ∧ gReg x 4 = 16 * (presentOf s .cd).length
        ∧ (∀ n, n < 6 → bitAt (gReg x 5) n = (presentOf s .cd).contains (0x10 + n)) ∧ gReg x 5 < 64
        ∧ gReg x 6 = (getReg s porchDom Reg.HBM_WINDOW).toNat ∧ gReg x 8 = (getReg s porchDom Reg.MODULE_IDENT).toNat
        ∧ (q < 65536 → seq < 2 ^ 32 → gReg x 7 = q * 2 ^ 32 + seq)
        ∧ (∀ n, 9 ≤ n → gReg x n = 0) ∧ (∀ n, tReg x n = 0) ∧ (∀ n, kReg x n = 0) ∧ (∀ n, cReg x n = 0)
        ∧ pReg x 0 = true ∧ (∀ n, 1 ≤ n → pReg x n = false) ∧ ∀ n, stReg x n = 0)
      ∧ (∀ v, v ≠ ⟨q / 256, k, idx⟩ → getUnit t v = getUnit s v)
      ∧ (getQueue t q).cmds = (getQueue s q).cmds.map (fun e => if e.seq = seq then { e with stage := .running } else e)
      ∧ (∀ p, p ≠ q → getQueue t p = getQueue s p)
      ∧ { t with units := s.units, queues := s.queues } = s

/-- What a completion that is decided now does to its queue: the command is finished with that status, and with the flags it has
gathered; no other queue changes. -/
def finishedIn (q seq status : Nat) (s t : State) : Prop :=
  (getQueue t q).cmds = (getQueue s q).cmds.map (fun e => if e.seq = seq then { e with stage := .finished, status := status } else e)
    ∧ ∀ p, p ≠ q → getQueue t p = getQueue s p

/-- R223: a WAIT whose count is reached is DONE, also when the named queue's domain is lost; with the count not reached and that domain
lost it is DOMAIN_LOST, with one fault record of CLASS 2; a MARKER is DONE with no effect. A RUN of a binary without words is DONE
(R243). -/
def Obligations.WaitAndMarkerFinish : Prop :=
  ∀ (q seq : Nat) (s : State) (c : Cmd), startable s q seq = some c →
    (cmdKind c = kindWait → (qDone s (cmdWaitQueue c) + 2 ^ 32 - cmdWaitCount c % 2 ^ 32) % 2 ^ 32 < 2 ^ 31 →
      ∃ t, exec (.wait q seq) s = .next t ∧ finishedIn q seq stDone s t ∧ { t with queues := s.queues } = s)
    ∧ (cmdKind c = kindWait → 2 ^ 31 ≤ (qDone s (cmdWaitQueue c) + 2 ^ 32 - cmdWaitCount c % 2 ^ 32) % 2 ^ 32 →
      isLost s (cmdWaitQueue c / 256) = true → s.faults.length < 4096 →
      ∃ t, exec (.wait q seq) s = .next t ∧ finishedIn q seq stLost s t
        ∧ t.faults = s.faults ++ [faultBytes (nextLogSeq s) s.pos { status := stLost, cls := 2, dom := q / 256, cmd := some (q, seq) }])
    ∧ (cmdKind c = kindMarker →
      ∃ t, exec (.marker q seq) s = .next t ∧ finishedIn q seq stDone s t ∧ { t with queues := s.queues } = s)
    ∧ ∀ (k : UnitKind) (idx : Nat), cmdKind c = kindRun → unitKindOf (q / 256) (cmdUnit c) = some k → idx < unitsFitted (q / 256) k →
      (getUnit s ⟨q / 256, k, idx⟩).running = false → binaryFlaw s (cmdProgram c) (cmdUnit c) = 0 →
      readNat s (cmdProgram c + 8) 4 = 0 →
      ∃ t, exec (.run q seq idx) s = .next t ∧ finishedIn q seq stDone s t ∧ { t with queues := s.queues } = s

/-- R224, R222: an enabled queue that is not stopped (R226), in a domain that is up, awake and not suspended by a walk (R233), accepts command
n = HEAD when a command waits, its completion slot is free and fewer than 64 are incomplete: HEAD advances and DONE does not. A record that
passes its checks waits to start as the last of the incomplete commands, and nothing else of the module changes. One that fails a check, or
cannot be read because its domain is down, is finished with its refusal status after a fault record; memory stays as it was when no fault
ring is set up, and no other queue and no unit changes. -/
def Obligations.AcceptAdvancesHead : Prop :=
  ∀ (q : Nat) (s : State), Sound s → queueExists s q = true → isDown s (q / 256) = false → qEnabled s q = true → qStopped s q = false →
    awake s (q / 256) = true → (∀ w ∈ s.walks, w.dom = q / 256 → w.quiesce = false) →
    qHead s q ≠ (getQueue s q).tail → sub32 (qHead s q) (qf s q Reg.Q_CPL_READ 31 0) < 2 ^ qLog2 s q → (getQueue s q).cmds.length < 64 →
    let n := qHead s q
    let a := qRing s q + 64 * (n % 2 ^ qLog2 s q)
    let c : Cmd := ⟨n, readMem s a 64, .accepted, 0, 0, 0, false⟩
    let flaw := if needsDown s a 64 then stLost else cmdFlaw s q c
    ∃ t, exec (.commandAccept q) s = .next t
      ∧ qHead t q = (n + 1) % 2 ^ 32 ∧ qDone t q = qDone s q ∧ (∀ p, p ≠ q → getQueue t p = getQueue s p) ∧ t.units = s.units ∧ t.pos = s.pos
      ∧ (flaw = 0 → (getQueue t q).cmds = (getQueue s q).cmds ++ [c] ∧ { t with regs := s.regs, queues := s.queues } = s)
      ∧ (flaw ≠ 0 → (∀ e ∈ (getQueue s q).cmds, e.seq ≠ n) →
        (getQueue t q).cmds = (getQueue s q).cmds ++ [{ c with stage := .finished, status := flaw }]
          ∧ (flogOn s = false → t.mem = s.mem)
          ∧ (s.faults.length < 4096 → t.faults = s.faults ++ [faultBytes (nextLogSeq s) s.pos
            { status := flaw, cls := if flaw = stLost then 2 else 1, dom := q / 256, cmd := some (q, n), unit := cmdUnit c }]))

/-- R225: the completion of the oldest command, once it has finished, is written as one record of 32 bytes into its slot; DONE advances;
the command leaves the queue; of memory only those 32 bytes change. -/
def Obligations.CompletionWritesItsRecord : Prop :=
  ∀ (q : Nat) (s : State) (c : Cmd) (rest : List Cmd), Sound s → queueExists s q = true → isDown s (q / 256) = false →
    (getQueue s q).cmds = c :: rest → c.stage = .finished →
    let a := qCplBase s q + 32 * (c.seq % 2 ^ qLog2 s q)
    memMapped s a 32 = true → needsDown s a 32 = false →
    ∃ t, exec (.completionWrite q) s = .next t
      ∧ readNat t a 2 = q % 65536 ∧ readNat t (a + 2) 2 = c.status % 65536 ∧ readNat t (a + 4) 4 = c.seq % 2 ^ 32
      ∧ readNat t (a + 8) 2 = c.flags % 64 + 2 ^ 15 * (1 - (c.seq / 2 ^ qLog2 s q) % 2)
      ∧ readNat t (a + 10) 6 = posTick s.pos ∧ readNat t (a + 16) 1 = posPhase s.pos ∧ readNat t (a + 17) 2 = posMb s.pos
      ∧ readNat t (a + 19) 4 = posStep s.pos ∧ readNat t (a + 23) 2 = posEpoch s.pos ∧ readNat t (a + 25) 7 = c.nj / 1000 % 2 ^ 56
      ∧ (∀ b, b < a ∨ a + 32 ≤ b → getByte t b = getByte s b)
      ∧ qDone t q = (c.seq + 1) % 2 ^ 32 ∧ qHead t q = qHead s q
      ∧ (getQueue t q).cmds = rest ∧ (∀ p, p ≠ q → getQueue t p = getQueue s p)
      ∧ t.units = s.units ∧ t.faults = s.faults

/-- The queue registers of q other than Q_TAIL, Q_CTRL, Q_PROGRESS and Q_STATUS. -/
def queueBases (s : State) (q : Nat) : Word × Word × Word :=
  (getReg s (q / 256) (qReg q Reg.Q_RING), getReg s (q / 256) (qReg q Reg.Q_CPL_BASE), getReg s (q / 256) (qReg q Reg.Q_CPL_READ))

/-- R224: Q_TAIL reads back what was written; a TAIL within the ring is used from then on, one that lies more than 2^LOG2_SIZE ahead of
HEAD is not used and sets TAIL_REFUSED. -/
def Obligations.DoorbellUsesOrRefusesTail : Prop :=
  ∀ (q : Nat) (s : State) (v : Word), Sound s → queueExists s q = true → isDown s (q / 256) = false → s.boot.firmware = true →
    ∃ t, exec (.qTail q v) s = .next t ∧ qf t q Reg.Q_TAIL 31 0 = v.toNat % 2 ^ 32
      ∧ (sub32 (v.toNat % 2 ^ 32) (qHead s q) ≤ 2 ^ qLog2 s q →
          (getQueue t q).tail = v.toNat % 2 ^ 32 ∧ qf t q Reg.Q_STATUS 2 2 = qf s q Reg.Q_STATUS 2 2)
      ∧ (2 ^ qLog2 s q < sub32 (v.toNat % 2 ^ 32) (qHead s q) →
          getQueue t q = getQueue s q ∧ qf t q Reg.Q_STATUS 2 2 = 1)
      ∧ qHead t q = qHead s q ∧ qDone t q = qDone s q ∧ queueBases t q = queueBases s q
      ∧ (getQueue t q).cmds = (getQueue s q).cmds ∧ t.mem = s.mem ∧ t.units = s.units

/-- R222, R221: an enable that passes its checks makes the queue start empty at TAIL; one that fails leaves ENABLE 0 and sets
CONFIG_REFUSED; clearing ENABLE while commands are incomplete shows DRAINING; RESUME clears STOPPED. -/
def Obligations.EnableDisableResume : Prop :=
  ∀ (q : Nat) (s : State) (v : Word), Sound s → queueExists s q = true → isDown s (q / 256) = false → s.boot.firmware = true →
    (bitAt v.toNat 0 = true → bitAt v.toNat 2 = false → qEnabled s q = false →
      ∃ t, exec (.qEnable q v) s = .next t ∧ (getQueue t q).cmds = (getQueue s q).cmds ∧ queueBases t q = queueBases s q ∧ t.mem = s.mem
        ∧ (enableOk s q = true → qEnabled t q = true ∧ qHead t q = qf s q Reg.Q_TAIL 31 0 ∧ qDone t q = qf s q Reg.Q_TAIL 31 0
          ∧ (getQueue t q).tail = qf s q Reg.Q_TAIL 31 0 ∧ qf t q Reg.Q_STATUS 3 3 = qf s q Reg.Q_STATUS 3 3)
        ∧ (enableOk s q = false → qEnabled t q = false ∧ qf t q Reg.Q_STATUS 3 3 = 1 ∧ qHead t q = qHead s q ∧ qDone t q = qDone s q))
    ∧ (bitAt v.toNat 0 = false → bitAt v.toNat 2 = false → qEnabled s q = true →
      ∃ t, exec (.qDisable q v) s = .next t ∧ qEnabled t q = false ∧ (getQueue t q).cmds = (getQueue s q).cmds ∧ t.mem = s.mem
        ∧ (qHead s q ≠ qDone s q → qDraining t q = true) ∧ (qHead s q = qDone s q → qDraining t q = qDraining s q)
        ∧ qHead t q = qHead s q ∧ qDone t q = qDone s q)
    ∧ (bitAt v.toNat 2 = true →
      ∃ t, exec (.resume q v) s = .next t ∧ qStopped t q = false ∧ (getQueue t q).failed = false
        ∧ (getQueue t q).cmds = (getQueue s q).cmds ∧ t.mem = s.mem
        ∧ (bitAt v.toNat 0 = true → qEnabled s q = true →
          qEnabled t q = true ∧ qHead t q = qHead s q ∧ qDone t q = qDone s q ∧ qf t q Reg.Q_STATUS 3 2 = qf s q Reg.Q_STATUS 3 2))

/-! The Stair (R278 to R287, R294), landings (R288 to R293), low-power states (R295 to R298), state walks (R231 to R233). -/

/-- Two positions agree in every field but TICK. -/
def sameButTick (p q : Pos) : Prop := posEpoch p = posEpoch q ∧ posStep p = posStep q ∧ posMb p = posMb q ∧ posPhase p = posPhase q

/-- STAIR_TICK (R278, R284): TICK rises by one; once in 64 ticks an offset to slew away holds it (ahead) or moves it by two (behind). It
never wraps. A WAITST that the new position satisfies ends with its predicate; an arrival wins over a deadline (R273, R294); one that waits for room among 32 operations in flight has not issued (R245). A port in RETRAIN goes back
to EQUALISE (R305; that a tick takes it there is the model's choice, log entry 46), and every other port keeps its state. No other
unit, no byte of memory, no queue and no fault record changes. -/
def Obligations.TickAdvancesAndEndsWaits : Prop :=
  ∀ s : State, s.boot.firmware = true → ∃ t, exec .stairTick s = .next t ∧ sameButTick t.pos s.pos
    ∧ (s.slew = 0 ∨ s.sinceSlew < 63 → posTick t.pos = min (posTick s.pos + 1) (2 ^ 48 - 1) ∧ t.slew = s.slew)
    ∧ (0 < s.slew → 63 ≤ s.sinceSlew → t.pos = s.pos ∧ t.slew = s.slew - 1)
    ∧ (s.slew < 0 → 63 ≤ s.sinceSlew → posTick t.pos = min (posTick s.pos + 2) (2 ^ 48 - 1) ∧ t.slew = s.slew + 1)
    ∧ (∀ u, (getUnit s u).waiting = none → getUnit t u = getUnit s u)
    ∧ (∀ (u : UnitRef) (f : Fields), let x := getUnit s u
        x.running = true → x.paused = false → awake s u.dom = true → inReset s u.dom = false → x.waiting = some (.waitst u f) →
        x.inFlight.length < 32 → t.pos ≠ s.pos →
        ((stReg x (slotF1 f % 4)).toNat ≤ t.pos.toNat →
          getUnit t u = advance { setP x (slotF3 f % 8) true with waiting := none } 1)
        ∧ (t.pos.toNat < (stReg x (slotF1 f % 4)).toNat → bitAt f.toNat 0 = true → (stReg x (slotF2 f % 4)).toNat ≤ t.pos.toNat →
          getUnit t u = advance { setP x (slotF3 f % 8) false with waiting := none } 1))
    ∧ (∀ p, portUp s p = true → portState t p = if portState s p = ptRetrain then ptEqualise else portState s p)
    ∧ t.power.clock = s.power.clock + 1 ∧ t.mem = s.mem ∧ t.queues = s.queues ∧ t.faults = s.faults ∧ t.out = s.out

/-- A write to STAIR_SET (R280): a greater pair (MICRO_BATCH, PHASE) takes effect, an equal one has no effect, a smaller one is ignored
and sets SET_REFUSED. Memory and queues stay as they are. -/
def Obligations.StairSetMovesForwardOnly : Prop :=
  ∀ (s : State) (v : Word), Sound s → s.boot.firmware = true → isDown s porchDom = false →
    let new := fld v.toNat 23 8 * 256 + fld v.toNat 7 0
    let old := posMb s.pos * 256 + posPhase s.pos
    ∃ t, exec (.stairSet v) s = .next t ∧ t.mem = s.mem ∧ t.queues = s.queues ∧ t.faults = s.faults
      ∧ (old < new → posMb t.pos = fld v.toNat 23 8 ∧ posPhase t.pos = fld v.toNat 7 0 ∧ posTick t.pos = posTick s.pos
        ∧ posStep t.pos = posStep s.pos ∧ posEpoch t.pos = posEpoch s.pos ∧ pf t Reg.STAIR_SYNC 18 18 = pf s Reg.STAIR_SYNC 18 18)
      ∧ (new = old → t.pos = s.pos ∧ t.units = s.units ∧ pf t Reg.STAIR_SYNC 18 18 = pf s Reg.STAIR_SYNC 18 18)
      ∧ (new < old → t.pos = s.pos ∧ t.units = s.units ∧ pf t Reg.STAIR_SYNC 18 18 = 1)

/-- A write to STAIR_CLOSE (R281): a value that is not the current STEP, a write while a boundary is in progress, or step 0xFFFF_FFFF is
ignored and sets CLOSE_REFUSED; so is a write in STOPPED_MINORITY (deduced from R327: log entry 127). A module alone, without an Annex and with an empty boundary table, commits: STEP rises by one,
MICRO_BATCH and PHASE become 0 (R278), the new step's CG key is in force (R197).
That it commits within the command is the model's choice (log entry 11). -/
def Obligations.StairCloseCommitsOrRefuses : Prop :=
  ∀ (s : State) (v : Word), Sound s → s.boot.firmware = true → isDown s porchDom = false →
    (v.toNat % 2 ^ 32 ≠ posStep s.pos ∨ s.boundary.isSome = true ∨ posStep s.pos = 2 ^ 32 - 1 ∨ fabState s = fabStopped →
      ∃ t, exec (.stairClose v) s = .next t ∧ t.pos = s.pos ∧ t.boundary = s.boundary ∧ t.mem = s.mem ∧ t.units = s.units
        ∧ t.queues = s.queues ∧ pf t Reg.STAIR_SYNC 19 19 = 1)
    ∧ (v.toNat % 2 ^ 32 = posStep s.pos → s.boundary = none → posStep s.pos ≠ 2 ^ 32 - 1 → inJob s = false → fabState s ≠ fabStopped → s.early = [] →
      s.annex.owed = [] →
      pf s Reg.FAB_BX_COUNTS 14 0 = 0 → pf s Reg.FAB_BX_COUNTS 28 16 = 0 → bxBase s % 8 = 0 →
      ∃ t, exec (.stairClose v) s = .next t ∧ posStep t.pos = posStep s.pos + 1 ∧ posMb t.pos = 0 ∧ posPhase t.pos = 0
        ∧ posTick t.pos = posTick s.pos ∧ posEpoch t.pos = posEpoch s.pos ∧ t.boundary = none ∧ t.train.committed = posStep s.pos
        ∧ getReg t porchDom Reg.CG_KEY_IN_FORCE = getReg s porchDom Reg.CG_JOB_KEY ∧ pf t Reg.STAIR_SYNC 20 20 = 0
        ∧ t.mem = s.mem ∧ t.queues = s.queues ∧ t.faults = s.faults)

/-- HOLDOVER_ENTER (R285): a module that is not its own beat master counts one more beat that has failed to arrive, and sets HOLDOVER from the
sixteenth in a row on. With MASTER set it does neither (R286), and at 2^48 - 2^36 ticks a running job restarts (R287): its state becomes
RESTARTING, FAB_RESTART_COUNT counts it, the boundary and the collectives end and no unit of a domain that is up runs. -/
def Obligations.HoldoverAndEpochLimit : Prop :=
  ∀ s : State, Sound s →
    (isMaster s = false → ∃ t, exec .holdoverEnter s = .next t ∧ t.missed = s.missed + 1 ∧ t.pos = s.pos ∧ t.mem = s.mem
      ∧ t.units = s.units ∧ t.queues = s.queues
      ∧ pf t Reg.STAIR_SYNC 16 16 = (if 16 ≤ s.missed + 1 then 1 else pf s Reg.STAIR_SYNC 16 16))
    ∧ (isMaster s = true → exec .holdoverEnter s = .next s)
    ∧ (isMaster s = true → 2 ^ 48 - 2 ^ 36 ≤ posTick s.pos → fabState s = fabRunning →
      ∃ t, exec .epochTickLimit s = .next t ∧ fabState t = fabRestarting ∧ t.boundary = none ∧ t.colls = []
        ∧ (getReg t porchDom Reg.FAB_RESTART_COUNT).toNat = min ((getReg s porchDom Reg.FAB_RESTART_COUNT).toNat + 1) (2 ^ 64 - 1)
        ∧ (∀ u, isDown s u.dom = false → (getUnit t u).running = false ∧ (getUnit t u).inFlight = []))
    ∧ (isMaster s = false ∨ posTick s.pos < 2 ^ 48 - 2 ^ 36 → exec .epochTickLimit s = .next s)

/-- The state in which a landing's action begins (R291): its record has FIRED and STATE 2, the landing counts as fired, and its domain, but for
the Porch, has counted it. -/
def afterFiring (l : Landing) (s : State) : State :=
  let s := recordWrite l 0 [2] (recordWrite l 8 (posBytes s.pos) s)
  let s := { s with landings := s.landings.map fun m => if m.n = l.n then { m with fired := true } else m }
  if l.table = porchDom then s else bump s l.table Reg.LAND_FIRED_COUNT 1

/-- The landing's record stands at STATE 3 with a status, the landing has left its table, and no byte of memory outside the record differs. -/
def landingEnded (l : Landing) (a status : Nat) (s t : State) : Prop :=
  readNat t a 1 = 3 ∧ readNat t (a + 2) 2 = status ∧ (∀ m ∈ t.landings, m.n ≠ l.n) ∧ ∀ b, (b < a ∨ a + 64 ≤ b) → getByte t b = getByte s b

/-- The landing's action has begun: its record stands at STATE 2, the landing stays in its table as fired, and no byte of memory outside the
record differs. -/
def landingBegun (l : Landing) (a : Nat) (s t : State) : Prop :=
  readNat t a 1 = 2 ∧ findLanding t l.n = some { l with fired := true } ∧ ∀ b, (b < a ∨ a + 64 ≤ b) → getByte t b = getByte s b

/-- A landing fires in a tick in which the position is at or beyond its target and no other of its table comes first (R291): FIRED takes the
position, STATE becomes 2 and its action of R289 begins. KIND 0x01 starts its carrier program with the starting registers of R218, g1 and g2
from the landing and g7 zero; 0x02 its collective; 0x03 copies a generation to an anchor, which on a module alone without an Annex ends at
once with ANCHOR_STEP; 0x04 requests its power; 0x05 sets the operating-point target; 0x06 opens a refresh window of P0 ticks at its MSD; the
marker 0x07 ends at once. At the end of its action a landing's record has STATE 3 and its STATUS, and it leaves the table: so a refresh window
closes at its last tick, and a collective's landing once its result is written. The limit of JESD238A cuts the oldest window short, which
LAND_CLIPPED_COUNT counts (R292). Which idle carrier a program takes is the model's choice (log entry 17). -/
def Obligations.LandingFiresAndEnds : Prop :=
  ∀ (s : State) (l : Landing) (a : Nat), Sound s → findLanding s l.n = some l → l.record = some a →
    needsDown s a 1 = false → needsDown s (a + 2) 2 = false → needsDown s (a + 8) 15 = false →
    let z := afterFiring l s
    let p := landParam l.params
    (mayFire s l = true →
      (l.kind = 1 → binaryFlaw z (p 0) 1 = 0 → readNat z (p 0 + 8) 4 ≠ 0 → ∀ u, idleCarrier z l.table = some u →
        ∃ t, exec (.landingFire l.n) s = .next t ∧ readNat t (a + 8) 15 = s.pos.toNat ∧ landingBegun l a s t
          ∧ (let x := getUnit t u
            x.running = true ∧ x.ended = false ∧ x.stopped = false ∧ x.owner = .landing l.n ∧ x.pc = readNat z (p 0 + 12) 4
              ∧ x.store.length = readNat z (p 0 + 8) 4 ∧ gReg x 1 = p 1 % 2 ^ 64 ∧ gReg x 2 = p 2 % 2 ^ 32 ∧ gReg x 7 = 0)
          ∧ (∀ v, v ≠ u → getUnit t v = getUnit s v) ∧ t.queues = s.queues)
      ∧ (l.kind = 2 → firstFail (collChecks z (p 0)) = 0 → s.fabric.earlyColl = [] →
        let d := collDesc z (p 0)
        d.elements ≠ 0 → ([(p 0, 128), (d.group, 8), (d.src, d.elements * unitBytes d.etype), (d.dst, d.dstLen)].all
          fun r => !needsDown z r.1 r.2) = true →
        ∃ t, exec (.landingFire l.n) s = .next t ∧ readNat t (a + 8) 15 = s.pos.toNat ∧ landingBegun l a s t
          ∧ t.nextColl = s.nextColl + 1 ∧ ∃ c, getColl t s.nextColl = some c ∧ c.landing = some l.n ∧ c.collId = d.collId
            ∧ c.own = readMem z d.src (d.elements * unitBytes d.etype) ∧ c.dst = d.dst)
      ∧ (l.kind = 3 → fabState s ≠ fabStopped → annexOn s = false → memberCount s = 1 → myPos s = 0 → s.annex.owed = [] → s.annex.anchors = [] →
        ∃ t, exec (.landingFire l.n) s = .next t ∧ landingEnded l a stDone s t ∧ readNat t (a + 8) 15 = s.pos.toNat
          ∧ pf t Reg.ANNEX_STATE 63 32 = pf s Reg.ANNEX_STATE 31 0 ∧ t.units = s.units ∧ t.queues = s.queues)
      ∧ (l.kind = 4 → l.wantOp = none → ∃ t, exec (.landingFire l.n) s = .next t ∧ readNat t (a + 8) 15 = s.pos.toNat ∧ landingBegun l a s t
        ∧ t.power.nextGrant = s.power.nextGrant + 1 ∧ t.units = s.units ∧ t.queues = s.queues
        ∧ ∃ g ∈ t.power.grants, g.n = s.power.nextGrant ∧ g.holder = l.holder ∧ g.watts = p 0 % 2 ^ 32 ∧ g.landing = some l.n)
      ∧ (l.kind = 5 → let dom := p 0 / 256 % 256
        dom ∈ powered s → isDown s dom = false → ∃ t, exec (.landingFire l.n) s = .next t ∧ readNat t (a + 8) 15 = s.pos.toNat
          ∧ rf t dom Reg.PWR_OPPOINT 10 8 = p 0 % 8 ∧ (readNat t a 1 = 2 ∨ landingEnded l a stDone s t)
          ∧ (∀ b, (b < a ∨ a + 64 ≤ b) → getByte t b = getByte s b) ∧ t.units = s.units ∧ t.queues = s.queues)
      ∧ (l.kind = 6 → ∃ t, exec (.landingFire l.n) s = .next t ∧ readNat t (a + 8) 15 = s.pos.toNat ∧ landingBegun l a s t
        ∧ (l.n, posTick s.pos + p 0) ∈ (getDomain t l.table).refresh ∧ t.units = s.units ∧ t.queues = s.queues)
      ∧ (l.kind = 7 → ∃ t, exec (.landingFire l.n) s = .next t ∧ readNat t (a + 8) 15 = s.pos.toNat ∧ landingEnded l a stDone s t
        ∧ t.units = s.units ∧ t.queues = s.queues))
    ∧ (l.fired = true → l.kind = 6 → (∀ w ∈ (getDomain s l.table).refresh, w.1 = l.n → w.2 ≤ posTick s.pos) →
      ∃ t, exec (.landingActionDone l.n) s = .next t ∧ landingEnded l a stDone s t
      ∧ (∀ w ∈ (getDomain t l.table).refresh, w.1 ≠ l.n) ∧ t.regs = s.regs ∧ t.units = s.units)
    ∧ (∀ (c : Coll) (bytes : List Byte) (sat : Bool), l.fired = true → l.kind = 2 → s.colls.find? (fun c => c.landing = some l.n) = some c →
      c.bad = none → ownLeft s c = true → allAgreed s c = true → collResult s c = some (bytes, sat) → needsDown s c.dst bytes.length = false →
      overlaps a 64 c.dst bytes.length = false →
      ∃ t, exec (.landingActionDone l.n) s = .next t ∧ readNat t a 1 = 3 ∧ readNat t (a + 2) 2 = stDone ∧ (∀ m ∈ t.landings, m.n ≠ l.n)
        ∧ readMem t c.dst bytes.length = bytes ∧ (∀ e ∈ t.colls, e.key ≠ c.key)
        ∧ ∀ b, outside [(a, 64), (c.dst, bytes.length)] b → getByte t b = getByte s b)
    ∧ (∀ e rest, l.fired = true → domType l.table = some .msd → (getDomain s l.table).refresh = (l.n, e) :: rest →
      ∃ t, exec (.refreshPostponeLimit l.table) s = .next t ∧ landingEnded l a stDone s t ∧ (getDomain t l.table).refresh = rest
      ∧ (getReg t l.table Reg.LAND_CLIPPED_COUNT).toNat = min ((getReg s l.table Reg.LAND_CLIPPED_COUNT).toNat + 1) (2 ^ 64 - 1))

/-- Low-power states (R295 to R298, R385): an idle domain enters the deepest state that its next event allows, from S0 or from a lesser state
that it rests in; the entry ends, the planned wake comes, an event outside S0 counts as late and wakes the domain (after the entry, if that is
still under way), and the end of the wake brings it back to S0. LP_STATE shows the state from the start of its entry, and 0 from the end
of the wake. What LP_STATE shows meanwhile is deduced (log entry 50). -/
def Obligations.LowPowerEntryAndWake : Prop :=
  ∀ (s : State) (dom : Nat), Sound s → isDieDom s dom = true →
    let l := getLp s dom
    (s.boot.firmware = true → l.phase = .stay → domIdle s dom = true → l.state < lpChoice s dom → ∃ t, exec (.lpEnter dom) s = .next t
      ∧ getLp t dom = ⟨dom, lpChoice s dom, .entering, plannedWake s dom (lpChoice s dom), false, posTick s.pos⟩
      ∧ rf t dom Reg.LP_STATE 2 0 = lpChoice s dom ∧ awake t dom = false ∧ t.mem = s.mem ∧ t.units = s.units
      ∧ ∀ d, d ≠ dom → getLp t d = getLp s d)
    ∧ (l.phase = .entering → ∃ t, exec (.lpEntryComplete dom) s = .next t
      ∧ getLp t dom = { l with phase := if l.event then .waking else .stay, event := false } ∧ rf t dom Reg.LP_STATE 2 0 = l.state % 8
      ∧ t.units = s.units ∧ t.mem = s.mem ∧ ∀ d, d ≠ dom → getLp t d = getLp s d)
    ∧ (∀ w, l.wake = some w → w ≤ posTick s.pos → l.state ≠ 0 → l.phase = .stay → ∃ t, exec (.lpWakeStart dom) s = .next t
      ∧ getLp t dom = { l with phase := .waking } ∧ rf t dom Reg.LP_STATE 2 0 = l.state % 8 ∧ t.units = s.units ∧ t.mem = s.mem
      ∧ ∀ d, d ≠ dom → getLp t d = getLp s d)
    ∧ (l.state ≠ 0 → ∃ t, exec (.lpWakeEvent dom) s = .next t
      ∧ (getReg t dom Reg.LP_WAKE_LATE_COUNT).toNat = min ((getReg s dom Reg.LP_WAKE_LATE_COUNT).toNat + 1) (2 ^ 64 - 1)
      ∧ (l.phase = .stay → (getLp t dom).phase = .waking) ∧ (l.phase = .entering → (getLp t dom).event = true)
      ∧ (getLp t dom).state = l.state ∧ t.units = s.units ∧ t.mem = s.mem ∧ ∀ d, d ≠ dom → getLp t d = getLp s d)
    ∧ (l.phase = .waking → ∃ t, exec (.lpWakeComplete dom) s = .next t ∧ awake t dom = true ∧ rf t dom Reg.LP_STATE 2 0 = 0
      ∧ t.mem = s.mem ∧ t.pos = s.pos ∧ ∀ d, d ≠ dom → getLp t d = getLp s d)

/-- What a walk with these parameters writes of its header (R232): domain, variant, contract version, QUIESCE, WALK_SIZE, the position at the
start. -/
def walkHeader (a dom : Nat) (w : Walk) (s t : State) : Prop :=
  readNat t a 1 = dom % 256 ∧ readNat t (a + 1) 1 = s.variant % 256 ∧ readNat t (a + 2) 1 = 1 ∧ readNat t (a + 3) 1 = b2n w.quiesce
    ∧ readNat t (a + 4) 4 = walkSize s dom % 2 ^ 32 ∧ readNat t (a + 8) 15 = w.start.toNat

/-- A state walk of any domain but the Hall (R231 to R233): WALK_START with a destination that takes the image starts one, which BUSY shows.
Without QUIESCE the image is written from the header on, within CAP bytes; with QUIESCE the domain's units are suspended, and the image is
written at WALK_DONE, once nothing of them is in flight. WALK_DONE writes the end position, ends the walk with status DONE, shows FINISHED
and lets every unit of the domain go on. A second start while one runs is ignored and sets OVERRUN; a destination that is misaligned, too
small or not mapped ends it with a status and writes nothing.
The contents of a walk are in part free (log entry 64). -/
def Obligations.WalkStartsAndEnds : Prop :=
  ∀ (s : State) (dom : Nat) (v : Word), Sound s → s.boot.firmware = true → isFitted s dom = true → dom ≠ 0 → isDown s dom = false →
    let a := rf s dom Reg.WALK_DEST 43 0
    let cap := rf s dom Reg.WALK_CAP 31 0
    let fits := a % 64 = 0 ∧ walkSize s dom ≤ cap ∧ memMapped s a (walkSize s dom) = true
    let idle := ∀ w ∈ s.walks, w.dom ≠ dom
    let served := ∀ b, a ≤ b → b < a + 64 → needsDown s b 1 = false
    ((∃ w ∈ s.walks, w.dom = dom) → ∃ t, exec (.walkGo dom v) s = .next t ∧ t.walks = s.walks ∧ t.mem = s.mem ∧ t.units = s.units
      ∧ rf t dom Reg.WALK_STATUS 2 2 = 1)
    ∧ (idle → a % 64 ≠ 0 → ∃ t, exec (.walkGo dom v) s = .next t ∧ t.mem = s.mem ∧ t.units = s.units ∧ t.walks = s.walks
      ∧ rf t dom Reg.WALK_STATUS 31 16 = stAlign ∧ rf t dom Reg.WALK_STATUS 1 0 = 2)
    ∧ (idle → a % 64 = 0 → cap < walkSize s dom ∨ memMapped s a (walkSize s dom) = false → ∃ t, exec (.walkGo dom v) s = .next t
      ∧ t.mem = s.mem ∧ t.units = s.units ∧ t.walks = s.walks ∧ rf t dom Reg.WALK_STATUS 31 16 = stLength
      ∧ rf t dom Reg.WALK_STATUS 1 0 = 2)
    ∧ (idle → fits → bitAt v.toNat 1 = true → ∃ t, exec (.walkGo dom v) s = .next t
      ∧ rf t dom Reg.WALK_STATUS 0 0 = 1 ∧ t.walks = s.walks ++ [⟨dom, true, s.pos⟩] ∧ t.mem = s.mem
      ∧ (∀ x ∈ s.units, x.ref.dom = dom → { x with paused := true } ∈ t.units) ∧ ∀ u, u.dom ≠ dom → getUnit t u = getUnit s u)
    ∧ (idle → fits → bitAt v.toNat 1 = false → ∃ t, exec (.walkGo dom v) s = .next t
      ∧ rf t dom Reg.WALK_STATUS 0 0 = 1 ∧ t.walks = s.walks ++ [⟨dom, false, s.pos⟩] ∧ t.units = s.units
      ∧ (served → walkHeader a dom ⟨dom, false, s.pos⟩ s t ∧ readNat t (a + 23) 15 = 0)
      ∧ ∀ b, outside [(a, cap)] b → getByte t b = getByte s b)
    ∧ ∀ w : Walk, s.walks.find? (fun w => w.dom = dom) = some w → served → 64 ≤ cap →
      (w.quiesce = true → ∀ x ∈ s.units, x.ref.dom = dom → x.inFlight = []) →
      ∃ t, exec (.walkDone dom) s = .next t ∧ (∀ w ∈ t.walks, w.dom ≠ dom) ∧ rf t dom Reg.WALK_STATUS 31 16 = stDone
        ∧ rf t dom Reg.WALK_STATUS 1 0 = 2 ∧ readNat t (a + 23) 15 = s.pos.toNat ∧ t.pos = s.pos
        ∧ (w.quiesce = false → ∀ b, (b < a + 23 ∨ a + 38 ≤ b) → getByte t b = getByte s b)
        ∧ (w.quiesce = true → walkHeader a dom w s t ∧ (∀ u, u.dom = dom → (getUnit t u).paused = false)
          ∧ ∀ b, outside [(a, cap)] b → getByte t b = getByte s b)

/-! Ports, flits and frames (R302 to R310, R328 to R330). -/

/-- What a port's loss of its link leaves: RETRAIN, or FAILED after three retrains without reaching ACTIVE (R305). -/
def retrainOf (s : State) (p : PortRef) : Nat := if 3 < (getPort s p).retrains + 1 then ptFailed else ptRetrain

/-- Port p now has this state; memory, units, queues and the position are as they were. -/
def portTurns (p : PortRef) (state : Nat) (s t : State) : Prop :=
  portState t p = state ∧ t.mem = s.mem ∧ t.units = s.units ∧ t.queues = s.queues ∧ t.pos = s.pos ∧ t.faults = s.faults

/-- The descriptor of a port as a flit, where nothing waits to leave and the replay buffer has room (R303, R308). -/
def descriptorLeaves (p : PortRef) (s t : State) : Prop :=
  (getPort s p).waiting = [] → (getPort s p).replay.length < 4096 → t.out = s.out
    ++ [.flit p (nextLane s p) (flitBytes flitDescriptor 0 (getPort s p).nextTx (ackOf (getPort s p)) false false (descriptorBytes s p))]

/-- Training, from DOWN to DESCRIBE (R305, R307, R308): each event moves the port as the table of R305 says; at the end of the measurement
PORT_STATUS shows its median and the descriptor leaves. -/
def Obligations.PortTrainsStateByState : Prop :=
  ∀ (s : State) (p : PortRef), Sound s → portUp s p = true →
    (∀ v : Word, s.boot.firmware = true → bitAt v.toNat 0 = true → portState s p = ptDown →
      ∃ t, exec (.portEnable p v) s = .next t ∧ portTurns p ptDetect s t)
    ∧ (portState s p = ptDetect → (∀ lanes : BitVec 8, 7 ≤ laneCount lanes.toNat →
        ∃ t, exec (.portSignalDetect p lanes) s = .next t ∧ portTurns p ptEqualise s t)
      ∧ (∀ lanes : BitVec 8, laneCount lanes.toNat < 7 → exec (.portSignalDetect p lanes) s = .next s)
      ∧ ∃ t, exec (.portDetectTimeout p) s = .next t ∧ portTurns p ptDown s t)
    ∧ (portState s p = ptDown → portF s p Reg.PORT_CTRL 0 0 = 1 →
      ∃ t, exec (.portDetectAttempt p) s = .next t ∧ portTurns p ptDetect s t)
    ∧ (portState s p = ptEqualise ∨ portState s p = ptRetrain →
      (∃ t, exec (.portEqualiseDone p true) s = .next t ∧ portTurns p ptLock s t)
      ∧ ∃ t, exec (.portEqualiseDone p false) s = .next t ∧ portTurns p (retrainOf s p) s t)
    ∧ (portState s p = ptLock → ∀ lanes : BitVec 8,
      (laneCount lanes.toNat = 8 ∨ (laneCount lanes.toNat = 7 ∧ portF s p Reg.PORT_STATUS 12 12 = 1) →
        ∃ t, exec (.portLockDone p lanes) s = .next t ∧ portTurns p ptMeasure s t ∧ portF t p Reg.PORT_STATUS 11 4 = lanes.toNat
          ∧ (getPort t p).delays = [])
      ∧ (laneCount lanes.toNat < 7 ∨ (laneCount lanes.toNat = 7 ∧ portF s p Reg.PORT_STATUS 12 12 = 0) →
        ∃ t, exec (.portLockDone p lanes) s = .next t ∧ portTurns p (retrainOf s p) s t))
    ∧ (portState s p = ptMeasure → 64 ≤ (getPort s p).delays.length →
      ∃ t, exec (.portMeasureDone p) s = .next t ∧ portTurns p ptDescribe s t
        ∧ portF t p Reg.PORT_STATUS 47 32 = medianDelay (getPort s p).delays
        ∧ descriptorLeaves p s t)

/-- A trained port (R305, R306, R309): ENABLE 0 turns it off; RETRAIN, 2 µs without a codeword and a second lane fault retrain it; the
first lane fault retires the lane and sets SPARED, and the port stays ACTIVE; on an address conflict it repeats its descriptor.
The fourth retrain fails a port: deduced (log entry 46). -/
def Obligations.PortLeavesActive : Prop :=
  ∀ (s : State) (p : PortRef), Sound s → portUp s p = true →
    (∀ v : Word, s.boot.firmware = true → bitAt v.toNat 0 = false → ∃ t, exec (.portEnable p v) s = .next t ∧ portTurns p ptDown s t)
    ∧ (portState s p = ptActive → (∀ v : Word, s.boot.firmware = true → bitAt v.toNat 0 = true →
        ∃ t, exec (.portRetrain p v) s = .next t ∧ portTurns p (retrainOf s p) s t)
      ∧ (∃ t, exec (.portRxTimeout p) s = .next t ∧ portTurns p (retrainOf s p) s t
        ∧ (getReg t p.iod (portReg p Reg.PORT_RETRAIN_COUNT)).toNat
          = min ((getReg s p.iod (portReg p Reg.PORT_RETRAIN_COUNT)).toNat + 1) (2 ^ 64 - 1))
      ∧ ∀ lane, lane < 8 → bitAt (portF s p Reg.PORT_STATUS 11 4) lane = true →
        (portF s p Reg.PORT_STATUS 12 12 = 0 → ∃ t, exec (.laneFault p lane) s = .next t ∧ portTurns p ptActive s t
          ∧ portF t p Reg.PORT_STATUS 12 12 = 1 ∧ bitAt (portF t p Reg.PORT_STATUS 11 4) lane = false
          ∧ (∀ k, k < 8 → k ≠ lane → bitAt (portF t p Reg.PORT_STATUS 11 4) k = bitAt (portF s p Reg.PORT_STATUS 11 4) k))
        ∧ (portF s p Reg.PORT_STATUS 12 12 = 1 → ∃ t, exec (.laneFault p lane) s = .next t ∧ portTurns p (retrainOf s p) s t))
    ∧ (portState s p = ptDescribe → portF s p Reg.PORT_STATUS 13 13 = 1 → ∃ t, exec (.addrConflictRetry p) s = .next t
      ∧ portTurns p ptDescribe s t ∧ descriptorLeaves p s t)

/-- Port p, in one of these states, receives a whole flit of a type: 640 bytes whose CRC is right, PLEN fitting; a flit that takes a SEQ
carries the one expected next (R302, R303). -/
def receives (type : Nat) (p : PortRef) (f : List Byte) (states : List Nat) (s : State) : Bool :=
  portTakes s p states && flitGood f && decide (flType f = type) && (!sequenced type || decide (flSeq f = (getPort s p).nextRx))

/-- What the port has of a packet of a class: how many flits of it, and their bytes. -/
def partOf (s : State) (p : PortRef) (tc : Nat) : Nat × List Byte :=
  (((getPort s p).partials.find? fun e => e.1 = tc).map (·.2)).getD (0, [])

/-- The packet that a DATA flit completes or goes on with: the bytes of its class so far, and its payload (R303, R311). -/
def joined (s : State) (p : PortRef) (f : List Byte) : List Byte := (if flSop f then [] else (partOf s p (flTc f)).2) ++ flPayload f

/-- A counter register of a port has counted n more (R439). -/
def portCounted (p : PortRef) (off n : Nat) (s t : State) : Prop :=
  (getReg t p.iod (portReg p off)).toNat = min ((getReg s p.iod (portReg p off)).toNat + n) (2 ^ 64 - 1)

/-- The same of a register of the Porch. -/
def porchCounted (off n : Nat) (s t : State) : Prop :=
  (getReg t porchDom off).toNat = min ((getReg s porchDom off).toNat + n) (2 ^ 64 - 1)

/-- Data and retries (R303, R306, R311, R312): a DATA flit in order raises the expected SEQ, counts the symbols that FEC corrected and joins its
packet; the last one hands the packet over, or drops it: one with a reserved value or another address counted as stale, a repeated (SRC, PSEQ)
as a duplicate. A flit that FEC could not correct counts, is answered with a RETRY that names the expected SEQ, and has no other effect but
the lane in turn. A RETRY resends, on some lane, every flit of the replay buffer from the SEQ it names that ACK does not cover; the fourth
RETRY in a row for one flit retrains the port. -/
def Obligations.DataAndRetryFlits : Prop :=
  ∀ (s : State) (p : PortRef) (f : List Byte), Sound s →
    (∀ n, receives flitData p f [ptActive] s = true → ∃ t, exec (.dataFlit p (some n) f) s = .next t
      ∧ (getPort t p).nextRx = ((getPort s p).nextRx + 1) % 2 ^ 24 ∧ portCounted p Reg.PORT_FEC_CORR_COUNT n s t
      ∧ t.mem = s.mem ∧ t.units = s.units ∧ t.queues = s.queues ∧ t.pos = s.pos
      ∧ (flEop f = false → t.fabric = s.fabric
        ∧ (flTc f, (if flSop f then 0 else (partOf s p (flTc f)).1) + 1, joined s p f) ∈ (getPort t p).partials)
      ∧ (flEop f = true → let pk := joined s p f
        let key := (pkSrc pk, pkPseq pk)
        (∀ e ∈ (getPort t p).partials, e.1 ≠ flTc f)
        ∧ (packetFlaw s pk = true → t.fabric.received = s.fabric.received ∧ porchCounted Reg.FAB_STALE_COUNT 1 s t)
        ∧ (packetFlaw s pk = false → s.fabric.seen.contains key = false →
          t.fabric.received = s.fabric.received ++ [pk] ∧ t.fabric.seen = s.fabric.seen ++ [key])
        ∧ (packetFlaw s pk = false → s.fabric.seen.contains key = true →
          t.fabric.received = s.fabric.received ∧ porchCounted Reg.FAB_DUP_COUNT 1 s t)))
    ∧ (portTakes s p [ptActive] = true → ∃ t, exec (.dataFlit p none f) s = .next t
      ∧ portCounted p Reg.PORT_FEC_UNCORR_COUNT 1 s t
      ∧ t.out = s.out ++ [.flit p (nextLane s p)
        (flitBytes flitRetry 0 0 (ackOf (getPort s p)) false false (leBytes 3 (getPort s p).nextRx ++ [0]))]
      ∧ getPort t p = { getPort s p with lane := nextLane s p + 1 }
      ∧ { t with regs := s.regs, out := s.out, ports := s.ports } = s)
    ∧ ∀ n, receives flitRetry p f [ptDescribe, ptActive] s = true → (getPort s p).waiting = [] →
      let q := recNat (flPayload f) 0 3
      ((getPort s p).resends = 0 → ∃ t, exec (.retryFlit p (some n) f) s = .next t ∧ (getPort t p).resendSeq = q ∧ (getPort t p).resends = 1
        ∧ (∀ e ∈ (getPort s p).replay, e.1 < 2 ^ 24 → 2 ^ 23 ≤ mod24 (flAck f + 2 ^ 24 - e.1) → mod24 (e.1 + 2 ^ 24 - q) < 2 ^ 23 →
          ∃ l, Out.flit p l e.2 ∈ t.out)
        ∧ t.fabric = s.fabric ∧ t.mem = s.mem ∧ t.units = s.units ∧ portState t p = portState s p)
      ∧ ((getPort s p).resends = 3 → (getPort s p).resendSeq = q → ∃ t, exec (.retryFlit p (some n) f) s = .next t
        ∧ portTurns p (retrainOf s p) s t)

/-- The other flits (R284, R303, R307 to R310, R330): a TIMESTAMP request is answered with both times, a response adds an exchange while the
port measures; the switch's descriptor makes the port ACTIVE, the first ACTIVE port gives the module its address, and another address than
that of the ACTIVE ports is a conflict; CREDIT adds its credits to all four classes; an announcement whose number follows is applied and
counted in FAB_ROSTER_GEN, one beyond a gap is kept; a beat of this epoch clears HOLDOVER, shows its offset, and sets the offset to
slew away or, when the local tick is more than 16 behind, TICK itself.
The port's clock is a free value (log entry 44); the first ACTIVE port is the model's choice (log entry 45). -/
def Obligations.ControlFlits : Prop :=
  ∀ (s : State) (p : PortRef) (f : List Byte) (n : Nat), Sound s →
    let b := flPayload f
    (∀ t4 : Word, receives flitTimestamp p f [ptMeasure] s = true → recNat b 0 1 = 1 → (getPort s p).delays.length < 64 →
      let i := fun n : Nat => (n : Int)
      ∃ t, exec (.timestampFlit p (some n) t4 f) s = .next t
        ∧ (getPort t p).delays = (getPort s p).delays
          ++ [((i t4.toNat - i (recNat b 8 8)) - (i (recNat b 24 8) - i (recNat b 16 8))) / 2]
        ∧ portTurns p ptMeasure s t)
    ∧ (∀ t4 : Word, receives flitTimestamp p f [ptMeasure, ptDescribe, ptActive] s = true → recNat b 0 1 = 0 → (getPort s p).waiting = [] →
      ∃ t, exec (.timestampFlit p (some n) t4 f) s = .next t
        ∧ t.out = s.out ++ [.flit p (nextLane s p) (flitBytes flitTimestamp 0 0 (ackOf (getPort s p)) false false
          ([1] ++ List.replicate 7 0 ++ leBytes 8 (recNat b 8 8) ++ leBytes 8 t4.toNat ++ leBytes 8 (Config.portClock s.freeCtr).toNat))]
        ∧ portTurns p (portState s p) s t)
    ∧ (receives flitDescriptor p f [ptDescribe] s = true →
      let others := (activePorts s).filter (· ≠ p)
      (others = [] ∨ recNat b 20 2 = fabAddr s → ∃ t, exec (.descriptorFlit p (some n) f) s = .next t ∧ portState t p = ptActive
        ∧ (activePorts s = [] → fabAddr t = recNat b 20 2) ∧ (getPort t p).addr = some (recNat b 20 2)
        ∧ (getPort t p).retrains = 0 ∧ t.units = s.units ∧ t.pos = s.pos)
      ∧ (others ≠ [] → recNat b 20 2 ≠ fabAddr s → ∃ t, exec (.descriptorFlit p (some n) f) s = .next t
        ∧ portTurns p ptDescribe s t ∧ portF t p Reg.PORT_STATUS 13 13 = 1 ∧ fabAddr t = fabAddr s))
    ∧ (receives flitCredit p f [ptActive] s = true → (getPort s p).waiting = [] → (getPort s p).credits.length = 4 →
      flCredit f = 0 → ∃ t, exec (.creditFlit p (some n) f) s = .next t ∧ portTurns p ptActive s t
        ∧ ∀ c, c < 4 → (getPort t p).credits.getD c 0 = (getPort s p).credits.getD c 0 + recNat b (2 * c) 2)
    ∧ (receives flitAnnounce p f [ptActive] s = true → recNat b 6 1 = 0 → s.fabric.gap = false →
      let d := sub32 (recNat b 0 4) s.fabric.announced
      (d = 1 → recNat b 4 2 = 0 → ∃ t, exec (.announceFlit p (some n) f) s = .next t
        ∧ t.fabric.announced = recNat b 0 4 ∧ t.fabric.roster = s.fabric.roster
        ∧ pf t Reg.FAB_ROSTER_GEN 31 0 = (pf s Reg.FAB_ROSTER_GEN 31 0 + 1) % 2 ^ 32 ∧ portState t p = ptActive)
      ∧ (∀ c, d = 1 → changesOf s b = [c] → c.kind ≠ 2 → (∀ e ∈ s.fabric.roster, e.addr ≠ c.entry.addr) →
        ∃ t, exec (.announceFlit p (some n) f) s = .next t ∧ t.fabric.announced = recNat b 0 4
          ∧ (∀ e, e ∈ t.fabric.roster ↔ e = c.entry ∨ e ∈ s.fabric.roster)
          ∧ pf t Reg.FAB_ROSTER_GEN 31 0 = (pf s Reg.FAB_ROSTER_GEN 31 0 + 1) % 2 ^ 32)
      ∧ (1 < d → d < 2 ^ 31 → ∃ t, exec (.announceFlit p (some n) f) s = .next t ∧ t.fabric.gap = true
        ∧ t.fabric.news = s.fabric.news ++ [b] ∧ t.fabric.roster = s.fabric.roster ∧ t.fabric.announced = s.fabric.announced
        ∧ portState t p = ptActive))
    ∧ (receives flitBeat p f [ptActive] s = true → isMaster s = false → beatPort s = some p → recNat b 0 2 = posEpoch s.pos →
      let d := 10 * (posTick s.pos : Int) - (10 * (recNat b 2 6 : Int) + (portF s p Reg.PORT_STATUS 47 32 : Int))
      ∃ t, exec (.beat p (some n) f) s = .next t ∧ pf t Reg.STAIR_SYNC 16 16 = 0 ∧ pf t Reg.STAIR_SYNC 15 0 = wrapInt 16 d ∧ t.missed = 0
        ∧ porchCounted Reg.STAIR_BEAT_COUNT 1 s t
        ∧ sameButTick t.pos s.pos ∧ t.mem = s.mem ∧ t.queues = s.queues ∧ t.faults = s.faults
        ∧ (d < -160 → posTick t.pos = min (recNat b 2 6 + portF s p Reg.PORT_STATUS 47 32 / 10) (2 ^ 48 - 1)
          ∧ posTick s.pos ≤ posTick t.pos)
        ∧ (-160 ≤ d → t.pos = s.pos ∧ t.slew = Int.tdiv d 10))

/-- IEEE 802.3 frames (R9, R328, R329): a posted frame of 60 to 9,212 bytes leaves with its FCS and its descriptor says so; one that is too
short, too long or not in memory that answers, or whose descriptor has a reserved bit set, is refused and counted, a MAC Control frame
counted apart; a received frame goes into the posted buffer with its length, and of memory only the buffer and the descriptor change;
without a posted buffer, with a wrong length or a wrong FCS, it is dropped and counted. -/
def Obligations.FramesSentAndReceived : Prop :=
  ∀ (s : State) (p : PortRef), Sound s → framesOn s p = true →
    (∀ (v : Word) (d : Nat), s.boot.firmware = true →
      sub32 (v.toNat % 2 ^ 32) (portF s p Reg.FRAME_TX_HEAD 31 0) = 1 →
      frameDesc s p Reg.FRAME_TX_RING (portF s p Reg.FRAME_TX_HEAD 31 0) = some d →
      let a := readNat s d 8 % 2 ^ 44
      let n := readNat s (d + 8) 2
      let flaw := descBad s d = true ∨ n < 60 ∨ 9212 < n ∨ memMapped s a n = false ∨ needsDown s a n = true
      ∃ t, exec (.frameTxTail p v) s = .next t ∧ portF t p Reg.FRAME_TX_HEAD 31 0 = v.toNat % 2 ^ 32
        ∧ portF t p Reg.FRAME_TX_TAIL 31 0 = v.toNat % 2 ^ 32 ∧ (∀ b, b ≠ d + 10 → getByte t b = getByte s b) ∧ t.units = s.units
        ∧ (¬flaw → macControl (readMem s a n) = false →
          (s.out ++ [.frame p (readMem s a n ++ fcs (readMem s a n))]) <+: t.out ∧ readNat t (d + 10) 1 = 1)
        ∧ (¬flaw → macControl (readMem s a n) = true → t.out = s.out ∧ readNat t (d + 10) 1 = 3
          ∧ portCounted p Reg.FRAME_CTRL_DROP_COUNT 1 s t)
        ∧ (flaw → t.out = s.out ∧ readNat t (d + 10) 1 = 3 ∧ portCounted p Reg.FRAME_DROP_COUNT 1 s t))
    ∧ (∀ v : Word, s.boot.firmware = true → ∃ t, exec (.frameRxTail p v) s = .next t
      ∧ portF t p Reg.FRAME_RX_TAIL 31 0 = v.toNat % 2 ^ 32 ∧ t.mem = s.mem ∧ t.ports = s.ports ∧ t.units = s.units)
    ∧ ∀ (f : List Byte) (d : Nat),
      let n := f.length - 4
      let head := portF s p Reg.FRAME_RX_HEAD 31 0
      let a := readNat s d 8 % 2 ^ 44
      let whole := 64 ≤ f.length ∧ f.length ≤ 9216 ∧ fcs (f.take n) = f.drop n
      (whole → macControl f = false → head ≠ portF s p Reg.FRAME_RX_TAIL 31 0 →
        frameDesc s p Reg.FRAME_RX_RING head = some d → descBad s d = false → n ≤ readNat s (d + 8) 2 → memMapped s a n = true →
        needsDown s a n = false → a + n ≤ d + 8 ∨ d + 11 ≤ a →
        ∃ t, exec (.frameReceive p f) s = .next t ∧ readMem t a n = f.take n ∧ readNat t (d + 8) 2 = n ∧ readNat t (d + 10) 1 = 1
          ∧ portF t p Reg.FRAME_RX_HEAD 31 0 = (head + 1) % 2 ^ 32
          ∧ (∀ b, (b < a ∨ a + n ≤ b) → (b < d + 8 ∨ d + 11 ≤ b) → getByte t b = getByte s b))
      ∧ (whole → macControl f = true → ∃ t, exec (.frameReceive p f) s = .next t ∧ t.mem = s.mem
        ∧ portCounted p Reg.FRAME_CTRL_DROP_COUNT 1 s t)
      ∧ (¬whole ∨ (macControl f = false ∧ head = portF s p Reg.FRAME_RX_TAIL 31 0) →
        ∃ t, exec (.frameReceive p f) s = .next t ∧ t.mem = s.mem ∧ portCounted p Reg.FRAME_DROP_COUNT 1 s t)

/-! Fabric packets, jobs, restarts and votes, the Annex and restore (R311 to R327, R346 to R359, R383 to R385). -/

/-- The packet passes what the fabric asks of every packet (R11, R306, R311, R312): it is addressed to this module, whole and without reserved
values (packetFlaw says so), of this module's epoch, and no duplicate. -/
def arrivesHere (pk : List Byte) (s : State) : Bool :=
  s.boot.firmware && !packetFlaw s pk && decide (pkEpoch pk = posEpoch s.pos)
    && (s.fabric.received.contains pk || !s.fabric.seen.contains (pkSrc pk, pkPseq pk))

/-- The state with the packet taken out of the ports' hands and its number noted. -/
def withPacket (pk : List Byte) (s : State) : State :=
  let seen := if s.fabric.received.contains pk then s.fabric.seen else s.fabric.seen ++ [(pkSrc pk, pkPseq pk)]
  { s with fabric := { s.fabric with received := s.fabric.received.erase pk, seen := seen } }

/-- A packet of the restart protocol of one kind and of this module's job (R332). -/
def restartPacketOf (kind : Nat) (pk : List Byte) (s : State) : Bool :=
  arrivesHere pk s && decide (pkKind pk = 3) && decide (recNat (pkPayload pk) 0 1 = kind) && decide (recNat (pkPayload pk) 4 4 = jobId s)

/-- A packet has left toward an address: it is the first that the module hands to the fabric since s (R311). -/
def packetLeft (tc kind dst : Nat) (payload : List Byte) (s t : State) : Prop :=
  (s.out ++ [.packet tc (packetBytes s (posEpoch s.pos) kind dst payload)]) <+: t.out

/-- The commands that bring a fabric packet. -/
def packetCommands (pk : List Byte) : List Instr :=
  [.collPacket pk, .boundaryPacket pk, .slowNoticeReceive pk, .restartPacket pk, .votePacket pk, .membershipPacket pk, .stopPacket pk,
   .agreePacket pk, .annexSumsPacket pk, .anchorPacket pk, .annexPiece pk, .annexAck pk, .annexConfig pk, .fetchReq pk, .fetchData pk,
   .fetchRefused pk]

/-- R306 and R312 for every packet command: a packet with a reserved value, of another address or length is counted and has no other effect
(R11); a duplicate by (SRC, PSEQ) is counted and has no other effect; one of an older epoch is counted and has no other effect, but that a
request is answered with STALE_EPOCH. A coordinator that has already sent the membership is left out of the last clause (R326). -/
def Obligations.StalePacketsAreDiscarded : Prop :=
  ∀ (s : State) (pk : List Byte) (c : Instr), c ∈ packetCommands pk → s.boot.firmware = true → s.fabric.coordinator = none →
    let taken : State := { s with fabric := { s.fabric with received := s.fabric.received.erase pk } }
    (packetFlaw s pk = true → exec c s = .next (bump taken porchDom Reg.FAB_STALE_COUNT 1))
    ∧ (packetFlaw s pk = false → s.fabric.received.contains pk = false → s.fabric.seen.contains (pkSrc pk, pkPseq pk) = true →
      exec c s = .next (bump s porchDom Reg.FAB_DUP_COUNT 1))
    ∧ (packetFlaw s pk = false → (s.fabric.received.contains pk = true ∨ s.fabric.seen.contains (pkSrc pk, pkPseq pk) = false) →
      pkEpoch pk < posEpoch s.pos →
      let t := bump (withPacket pk s) porchDom Reg.FAB_STALE_COUNT 1
      exec c s = .next (if isRequest pk then { t with out := t.out ++ [.staleAnswer (pkSrc pk) (pkPseq pk)] } else t))

/-- FAB_JOB and formation (R313, R314, R197): a write with START 0 sets the job, and a module that was in one leaves it, with FAB_MEMBERS and
the keystone zero; START with a valid expectation enters FORMING, an invalid one sets START_REFUSED; once the roster holds every expected
member with distinct ranks the job is RUNNING at position (1, 0, 0, 0, 0) with its members in rank order, its keystone the lowest rank,
and the job's CG key in force.
What the roster cannot show is the sender's to know (log entry 47). -/
def Obligations.JobFormsFromRoster : Prop :=
  ∀ (s : State) (v : Word), Sound s → s.boot.firmware = true → isDown s porchDom = false →
    (∃ t, exec (.fabJobWrite v) s = .next t ∧ pf t Reg.FAB_JOB 47 0 = fld v.toNat 47 0 ∧ pf t Reg.FAB_JOB 48 48 = 0
      ∧ (fabState s ≤ fabForming → fabState t = fabState s) ∧ (fabForming < fabState s → fabState s ≤ fabStopped → fabState t = fabNoJob ∧ pf t Reg.FAB_MEMBERS 16 0 = 0
        ∧ pf t Reg.FAB_STATE 47 32 = 0 ∧ t.fabric.members = [] ∧ t.boundary = none)
      ∧ t.pos = s.pos ∧ t.mem = s.mem ∧ t.queues = s.queues)
    ∧ (s.boot.updating = false → fabState s = fabNoJob →
      let ok := fld v.toNat 31 0 ≠ 0 ∧ 1 ≤ pf s Reg.FAB_EXPECT 16 0 ∧ pf s Reg.FAB_EXPECT 16 0 ≤ 65536
      ∃ t, exec (.fabJobStart v) s = .next t ∧ pf t Reg.FAB_JOB 47 0 = fld v.toNat 47 0 ∧ t.pos = s.pos ∧ t.mem = s.mem
        ∧ (ok → fabState t = fabForming) ∧ (¬ok → fabState t = fabNoJob ∧ pf t Reg.FAB_STATE 4 4 = 1))
    ∧ (mayForm s = true → ∃ t, exec .jobFormed s = .next t ∧ fabState t = fabRunning
      ∧ posEpoch t.pos = 1 ∧ posStep t.pos = 0 ∧ posMb t.pos = 0 ∧ posPhase t.pos = 0 ∧ posTick t.pos = 0
      ∧ t.fabric.members = ascending ((jobEntries s).map (·.rank)) ∧ pf t Reg.FAB_MEMBERS 16 0 = (jobEntries s).length
      ∧ (∀ e ∈ jobEntries s, pf t Reg.FAB_STATE 47 32 ≤ e.rank)
      ∧ getReg t porchDom Reg.CG_KEY_IN_FORCE = getReg s porchDom Reg.CG_JOB_KEY ∧ t.mem = s.mem ∧ t.queues = s.queues)

/-- The restart protocol (R324 to R327): a RESTART packet of a member takes a RUNNING module into RESTARTING, counts the restart and ends its
work; the module votes for the lowest rank present, itself or by a VOTE packet; votes of members are gathered; the coordinator continues with the
voters under the next epoch when decide says so, and else stops; a MEMBERSHIP packet brings the new epoch to a voter it names (both said where no GO waits for the restore step); a STOP
packet, or 1 ms without an answer, stops the module with a CLASS 5 record.
FAB_STATE is RUNNING from the membership on: deduced (log entry 48). -/
def Obligations.RestartVotesAndMembership : Prop :=
  ∀ (s : State) (pk : List Byte), Sound s →
    let b := pkPayload pk
    let stopped := fun (voters : Nat) => faultBytes (nextLogSeq s) s.pos
      ⟨stMinority, 5, porchDom, none, none, some (posEpoch s.pos, voters, pf s Reg.FAB_MEMBERS 16 0), 0⟩
    let noGo := pf s Reg.RST_STATUS 1 0 ≠ 1 ∧ s.restore.waiting = false
    (restartPacketOf 1 pk s = true → fabState s = fabRunning → fromMember pk s = true → ∃ t, exec (.restartPacket pk) s = .next t
      ∧ fabState t = fabRestarting ∧ porchCounted Reg.FAB_RESTART_COUNT 1 s t ∧ t.fabric.cause = recNat b 16 4
      ∧ (∀ u, isDown s u.dom = false → (getUnit t u).running = false) ∧ t.boundary = none ∧ t.colls = [] ∧ t.pos = s.pos)
    ∧ (restartPacketOf 1 pk s = true → fromMember pk s = false → exec (.restartPacket pk) s = .next (withPacket pk s))
    ∧ (∀ c, fabState s = fabRestarting → lowestPresent s = some c → s.fabric.voted = none → ∃ t, exec .voteSend s = .next t
      ∧ t.fabric.voted = some c ∧ t.pos = s.pos ∧ t.mem = s.mem
      ∧ (let key := decide (jobRank s = pf s Reg.FAB_STATE 47 32)
        (c = jobRank s → (⟨jobRank s, posEpoch s.pos, key⟩ : Vote) ∈ t.fabric.votes)
        ∧ (c ≠ jobRank s → ∃ r, partnerOf s c = some r ∧ packetLeft 1 3 r.addr
          (restartPayload s 2 (leBytes 2 c ++ leBytes 1 (b2n key) ++ List.replicate 13 0)) s t)))
    ∧ (restartPacketOf 2 pk s = true → fabState s = fabRestarting → recNat b 16 2 = jobRank s → fromMember pk s = true →
      ∃ t, exec (.votePacket pk) s = .next t ∧ (⟨recNat b 8 2, recNat b 10 2, bitAt (recNat b 18 1) 0⟩ : Vote) ∈ t.fabric.votes
        ∧ { t with fabric := s.fabric } = s)
    ∧ (fabState s = fabRestarting → s.fabric.voted = some (jobRank s) → s.fabric.settled = false →
      let vs := s.fabric.votes
      let go := decideContinue vs.length (pf s Reg.FAB_MEMBERS 16 0) (vs.any (·.keystone))
      ∃ t, exec .voteTally s = .next t
        ∧ (go = true → noGo → fabState t = fabRunning ∧ t.fabric.settled = true ∧ t.fabric.members = ascending (vs.map (·.rank))
          ∧ posEpoch t.pos = ((vs.map (·.epoch)).foldl max 0 + 1) % 65536 ∧ posMb t.pos = 0 ∧ posPhase t.pos = 0)
        ∧ (go = false → fabState t = fabStopped ∧ t.pos = s.pos))
    ∧ (restartPacketOf 3 pk s = true → fabState s = fabRestarting → (ranksOfMap (b.drop 32)).contains (jobRank s) = true → noGo →
      ∃ t, exec (.membershipPacket pk) s = .next t ∧ fabState t = fabRunning ∧ t.fabric.members = ranksOfMap (b.drop 32) ∧ t.fabric.coordinator = some (recNat b 26 2)
        ∧ posEpoch t.pos = recNat b 16 2)
    ∧ (restartPacketOf 4 pk s = true → fabState s = fabRestarting → s.faults.length < 4096 → ∃ t, exec (.stopPacket pk) s = .next t
      ∧ fabState t = fabStopped ∧ t.pos = s.pos ∧ t.units = s.units ∧ t.faults = s.faults ++ [stopped (recNat b 20 4)])
    ∧ ∀ c, s.fabric.voted = some c → fabState s = fabRestarting → (presentRanks s).all (fun r => decide (c ≤ r)) = true →
      s.faults.length < 4096 → ∃ t, exec .voteTimeout s = .next t ∧ fabState t = fabStopped ∧ t.fabric.voted = none ∧ t.pos = s.pos
        ∧ t.units = s.units ∧ t.faults = s.faults ++ [stopped s.fabric.votes.length]

/-- The part of the boundary that a packet carries (R332): items of 16 bytes for ledgers, of 8 for layers. -/
def partIn (b : List Byte) : BoundaryPart :=
  let layers := bitAt (recNat b 1 1) 2
  ⟨bitAt (recNat b 1 1) 1, b2n layers, recNat b 2 2, recNat b 24 4, bitAt (recNat b 1 1) 0, (List.range (recNat b 28 4)).map fun i =>
    if layers then (recNat b (32 + 8 * i) 8, 0) else (recNat b (32 + 16 * i) 4, recNat b (40 + 16 * i) 8)⟩

/-- Packets of a running job (R319, R323, R346, R383 to R385): a boundary packet of a step that this module has not closed yet waits for it, one
of a step already committed goes; one that agrees with the open boundary adds its part, one that disagrees restarts the job; a collective packet
without its COLL waits for it, one of a sender that the roster lacks goes; the agreed restore step sets STEP to one more; a slow notice is
counted and shown and, with LP notices on, moves the hint of every die when it speaks of the next step; one is sent when throttling begins. -/
def Obligations.RunningJobPackets : Prop :=
  ∀ (s : State) (pk : List Byte), Sound s →
    let b := pkPayload pk
    let step := recNat b 4 4
    let early : EarlyPart := ⟨posEpoch s.pos, step, recNat b 8 2, recNat b 10 2, recNat b 16 8, partIn b⟩
    (arrivesHere pk s = true → pkKind pk = 2 → recNat b 0 1 = 1 → fabState s = fabRunning →
      let waits := exec (.boundaryPacket pk) s = .next { withPacket pk s with early := s.early ++ [early] }
      (s.boundary = none → (posStep s.pos ≤ step → waits)
        ∧ (step < posStep s.pos → exec (.boundaryPacket pk) s = .next (withPacket pk s)))
      ∧ ∀ y : Boundary, s.boundary = some y → (y.step < step → waits)
        ∧ (step < y.step → exec (.boundaryPacket pk) s = .next (withPacket pk s))
        ∧ (step = y.step →
          let agrees := recNat b 8 2 = y.ledgers.length ∧ recNat b 10 2 = y.layers.length ∧ recNat b 16 8 = y.sig
          (agrees → y.sent = false →
            exec (.boundaryPacket pk) s = .next { withPacket pk s with boundary := some { y with parts := y.parts ++ [partIn b] } })
          ∧ (¬agrees → ∃ t, exec (.boundaryPacket pk) s = .next t ∧ fabState t = fabRestarting ∧ t.boundary = none ∧ t.pos = s.pos)))
    ∧ (arrivesHere pk s = true → pkKind pk = 1 → fabState s = fabRunning →
      (recNat b 8 1 ≠ 3 ∨ hdUnits b = 0 ∨ b.length ≤ 32 + hdUnits b) →
      (s.fabric.roster.any (fun p => p.addr = pkSrc pk) = false → exec (.collPacket pk) s = .next (withPacket pk s))
      ∧ (s.fabric.roster.any (fun p => p.addr = pkSrc pk) = true → s.colls = [] →
        let w := withPacket pk s
        exec (.collPacket pk) s
          = .next { w with fabric := { w.fabric with earlyColl := s.fabric.earlyColl ++ [⟨posEpoch s.pos, pkSrc pk, b⟩] } }))
    ∧ (restartPacketOf 5 pk s = true → bitAt (recNat b 24 1) 1 = true → s.fabric.agreeing = true → s.fabric.restoreTo = none →
      s.restore.waiting = false → pf s Reg.RST_STATUS 1 0 ≠ 1 → recNat b 16 4 < 2 ^ 32 - 1 → ∃ t, exec (.agreePacket pk) s = .next t
        ∧ t.fabric.restoreTo = some (recNat b 16 4) ∧ t.fabric.agreeing = false ∧ posStep t.pos = recNat b 16 4 + 1 ∧ posMb t.pos = 0
        ∧ posPhase t.pos = 0 ∧ posTick t.pos = posTick s.pos ∧ posEpoch t.pos = posEpoch s.pos ∧ t.mem = s.mem)
    ∧ (arrivesHere pk s = true → pkKind pk = 2 → recNat b 0 1 = 2 → ∃ t, exec (.slowNoticeReceive pk) s = .next t
      ∧ porchCounted Reg.PWR_SLOW_RECV_COUNT 1 s t
      ∧ pf t Reg.PWR_SLOW_LAST 15 0 = recNat b 4 2 ∧ pf t Reg.PWR_SLOW_LAST_TICK 47 0 = recNat b 6 6 ∧ t.pos = s.pos ∧ t.mem = s.mem
      ∧ (∀ d ∈ dies s, rf t d Reg.LP_HINT 47 0
        = if pf s Reg.PWR_CTRL 2 2 = 1 ∧ recNat b 19 2 = posEpoch s.pos ∧ recNat b 15 4 = posStep s.pos + 1 then
            max (rf s d Reg.LP_HINT 47 0) (recNat b 6 6)
          else rf s d Reg.LP_HINT 47 0))
    ∧ (s.boot.firmware = true → fabState s = fabRunning → pf s Reg.PWR_CTRL 1 1 = 1 → pf s Reg.PWR_SLOW_BASIS 47 0 ≠ 0 →
      throttled s = true → s.power.lastNotice = none → s.power.notified = false → ∃ t, exec .slowNoticeSend s = .next t
      ∧ porchCounted Reg.PWR_SLOW_SENT_COUNT 1 s t
      ∧ t.power.notified = true ∧ t.power.lastNotice = some s.power.clock ∧ t.mem = s.mem ∧ t.units = s.units
      ∧ (∀ (m : Nat) (r : Partner), s.fabric.members = [m] → m ≠ jobRank s → partnerOf s m = some r →
        packetLeft 1 2 r.addr (notice s (arrivalTick s)) s t))

/-- The Annex (R347, R349, R352 to R354): an enable whose configuration fails the checks leaves it off with the status; on a module alone one that
passes shows what it needs, and turns on where the region suffices; a CONFIG packet becomes its sender's offer; a piece is
stored under its owner's rank and acknowledged; an acknowledgement settles the debt it answers; sums and anchor contributions are kept until
every member's are there; a debt unpaid for 10 ms restarts the job.
Pieces stand in State.annex: the model's choice (log entries 41, 42, 97). -/
def Obligations.AnnexKeepsPieces : Prop :=
  ∀ (s : State) (pk : List Byte), Sound s →
    let b := pkPayload pk
    let w := withPacket pk s
    (∀ v : Word, s.boot.firmware = true → isDown s porchDom = false → s.annex.active = false → s.annex.asking = false →
      let flaw := if fabState s = fabStopped then stMinority else cfgFlaw s
      (flaw ≠ 0 → ∃ t, exec (.annexEnable v) s = .next t ∧ pf t Reg.ANNEX_CTRL 0 0 = 0 ∧ pf t Reg.ANNEX_CTRL 31 16 = flaw
        ∧ pf t Reg.ANNEX_CTRL 1 1 = 1 ∧ t.annex.active = false ∧ t.mem = s.mem)
      ∧ (cfgFlaw s = 0 → inJob s = false → s.annex.offers = [] →
        let items := itemsOf 0 (cfgTable s)
        let need := annexNeed { s with annex := { s.annex with items := items } }
        need < 2 ^ 44 →
        ∃ t, exec (.annexEnable v) s = .next t ∧ pf t Reg.ANNEX_NEED 43 0 = need ∧ t.annex.items = items ∧ t.mem = s.mem
          ∧ (need ≤ cfgSize s → t.annex.active = true ∧ pf t Reg.ANNEX_CTRL 0 0 = 1)
          ∧ (cfgSize s < need → t.annex.active = false ∧ pf t Reg.ANNEX_CTRL 0 0 = 0 ∧ pf t Reg.ANNEX_CTRL 31 16 = stLength)))
    ∧ (arrivesHere pk s = true → pkKind pk = 6 →
      (phKind b = 3 → s.annex.asking = false → s.annex.offers = [] →
        let r := rankAt s (phOwner b)
        exec (.annexConfig pk) s = .next { w with annex := { s.annex with
          offers := [⟨r, phKcv b, itemsOf r (phData b), decide (phLen b < pieceMax)⟩] } })
      ∧ (phKind b = 1 → s.annex.active = true → ∃ t, exec (.annexPiece pk) s = .next t
        ∧ Machine.pieceOf s b ∈ t.annex.pieces ∧ t.mem = s.mem ∧ t.units = s.units
        ∧ packetLeft 0 6 (pkSrc pk) (pieceHeader 2 (phFlags b) (phOwner b) (phItem b) (phStep b) 0 (phOffset b) 0) s t)
      ∧ (phKind b = 1 → s.annex.active = false → exec (.annexPiece pk) s = .next w)
      ∧ (∀ (o : AnnexOwed) (rest : List AnnexOwed), phKind b = 2 → s.annex.owed = o :: rest → o.holder = pkSrc pk →
        sameHeader o.header b = true → s.boundary = none → s.annex.anchorLanding = none →
        exec (.annexAck pk) s = .next { w with annex := { s.annex with owed := rest } }))
    ∧ (arrivesHere pk s = true → pkKind pk = 3 → recNat b 4 4 = jobId s → s.annex.active = true →
      (recNat b 0 1 = 6 → bitAt (recNat b 40 1) 0 = false → (∃ r ∈ memberRanks s, r ≠ recNat b 8 2) → s.annex.sums = [] →
        exec (.annexSumsPacket pk) s = .next { w with annex := { s.annex with
          sums := [⟨recNat b 8 2, recNat b 16 4, recNat b 20 4, recNat b 24 8, recNat b 32 8⟩] } })
      ∧ (recNat b 0 1 = 7 → recNat b 20 1 ≠ 0 → s.annex.anchorLanding = none → s.annex.anchors = [] →
        exec (.anchorPacket pk) s = .next { w with annex := { s.annex with anchors := [(posOfRank s (recNat b 8 2), recNat b 16 4, true)] } }))
    ∧ (s.annex.owed ≠ [] → fabState s = fabRunning → ∃ t, exec .annexAckTimeout s = .next t ∧ fabState t = fabRestarting
      ∧ t.annex.owed = [] ∧ t.pos = s.pos)

/-- Restore, export, import (R327, R345, R355 to R359): in STOPPED_MINORITY a restore and an export are refused; one with a domain in reset waits;
a plan that fails its checks, or that a lost domain serves, ends with the status; a restore waits for the job's agreement when there is none; with an
empty plan an export and an import end DONE; a fetch that this module cannot serve is refused; data that does not complete a block is
kept; an export whose last source refuses fails; the end of a restore whose plan is written sets STEP to one more
and takes the CG keys of the module's own item.
(Log entry 43.) -/
def Obligations.RestoreStages : Prop :=
  ∀ (s : State) (pk : List Byte), Sound s →
    let b := pkPayload pk
    let w := withPacket pk s
    (∀ v : Word, s.boot.firmware = true → isDown s porchDom = false → pf s Reg.RST_STATUS 1 0 ≠ 1 → pf s Reg.RST_STATUS 1 0 ≠ 2 →
      s.fabric.agreeing = false → s.restore.waiting = false →
      let ended := fun (c : Instr) (status : Nat) => ∃ t, exec c s = .next t ∧ pf t Reg.RST_STATUS 1 0 = 3
        ∧ pf t Reg.RST_STATUS 31 16 = status ∧ t.mem = s.mem ∧ t.pos = s.pos ∧ t.units = s.units
      let waits := fun (c : Instr) => ∃ t, exec c s = .next t ∧ pf t Reg.RST_STATUS 1 0 = 1 ∧ pf t Reg.RST_STATUS 31 16 = 0
        ∧ t.mem = s.mem ∧ t.pos = s.pos ∧ t.units = s.units
      (fabState s = fabStopped → ended (.restoreGo v) stMinority ∧ ended (.exportGo v) stMinority)
      ∧ (fabState s ≠ fabStopped → s.fabric.restoreTo = none → waits (.restoreGo v))
      ∧ ∀ (c : Instr) (mode : Nat), (c, mode) ∈ [(Instr.exportGo v, 1), (.importGo v, 2)] → (fabState s ≠ fabStopped ∨ mode = 2) →
        let r : Restore := { Restore.initial with mode := mode, step := s.fabric.restoreTo.getD (pf s Reg.ANNEX_STATE 31 0) }
        (getReg s porchDom Reg.DOM_IN_RESET ≠ 0 → waits c)
        ∧ (getReg s porchDom Reg.DOM_IN_RESET = 0 →
          (planFlaw s r ≠ 0 → ended c (planFlaw s r)) ∧ (planFlaw s r = 0 → planLost s r = true → ended c stLost)
          ∧ (planCount s = 0 → ended c stDone)))
    ∧ (arrivesHere pk s = true → pkKind pk = 6 →
      (phKind b = 4 → phFlags b = 0 → s.annex.pieces = [] → phLen b ≠ 0 → exec (.fetchReq pk) s
        = .next (sendPacket 0 6 (pkSrc pk) (pieceHeader 6 0 (phOwner b) (phItem b) (phStep b) 0 (phOffset b) 0) w))
      ∧ (∀ (g : BlockGoal) (src : List FetchNeed), phKind b = 5 → fetching s = true → s.fabric.agreeing = false →
        let r := { s.restore with fetched := s.restore.fetched ++ [Machine.pieceOf s b] }
        blockGoal s s.restore = some g → g.want ≠ 0 → importedBytes s s.restore g = none →
        (sourcesOf s s.restore g)[s.restore.source]? = some src →
        blockFrom s r g src = none → src.any (needLost s r g.item.itemId) = false →
        exec (.fetchData pk) s = .next { w with restore := r })
      ∧ (∀ g : BlockGoal, phKind b = 6 → fetching s = true → refusesGoal s b = true → s.restore.mode = 1 → s.fabric.agreeing = false →
        blockGoal s s.restore = some g → g.want ≠ 0 → importedBytes s s.restore g = none → s.restore.index < planCount s →
        (sourcesOf s s.restore g)[s.restore.source + 1]? = none →
        ∃ t, exec (.fetchRefused pk) s = .next t ∧ pf t Reg.RST_STATUS 1 0 = 3
          ∧ pf t Reg.RST_STATUS 31 16 = (if s.restore.refused.isSome then stDigest else stLost) ∧ t.mem = s.mem))
    ∧ (pf s Reg.RST_STATUS 1 0 = 2 → s.restore.written = true → planCount s = 0 → s.restore.step < 2 ^ 32 - 1 →
      ∃ t, exec .restoreDone s = .next t ∧ pf t Reg.RST_STATUS 1 0 = 3 ∧ pf t Reg.RST_STATUS 31 16 = stDone
        ∧ pf t Reg.RST_STATUS 63 32 = s.restore.step ∧ posStep t.pos = s.restore.step + 1 ∧ posMb t.pos = 0 ∧ posPhase t.pos = 0
        ∧ posTick t.pos = posTick s.pos ∧ t.train.committed = s.restore.step
        ∧ (s.restore.own.length = 64 → getReg t porchDom Reg.CG_JOB_KEY = BitVec.ofNat 64 (recNat s.restore.own 0 8)
          ∧ getReg t porchDom Reg.CG_KEY_IN_FORCE = BitVec.ofNat 64 (recNat s.restore.own 8 8)))

/-! Letterboxes and the Hall (R394, R400 to R408). -/

/-- Every slot of a box but slot n holds what it held. -/
def otherSlots (box n : Nat) (s t : State) : Prop := ∀ m i, m < 16 → m ≠ n → i < 256 → slotRead t box m i 1 = slotRead s box m i 1

/-- The life of a letterbox slot (R403 to R406): a claim takes the lowest FREE slot for its sender and says which, or says NONE; a ring
posts a slot that the sender holds, with SRC, and sets the sender's doorbell bit; an acknowledgement of a POSTED slot by its SEQ leaves
its code and sets the ACKED bit; a release frees a CLAIMED or ACKED slot of its sender and zeroes it; each is otherwise refused with
its own bit of LB_STATUS and no other effect. FABRIC_IN takes no release (R408). A box whose receiver is lost gives no claim and answers a
ring at once (R409). A store to a box of a die that sleeps wakes it first (R298): w is the module then.
FabricLetters has what is the fabric boxes' own. -/
def Obligations.LetterboxSlotLife : Prop :=
  ∀ (s : State) (g : Agent) (addr o b off : Nat) (v : Word), Sound s → s.boot.firmware = true → isDown s g.dom = false →
    boxAt s addr = some (o, b, off) →
    let box := boxId o b
    let sender := v.toNat % 32
    let n := fld v.toNat 11 8
    let w := wakeBox box s
    let lost := bitAt (getBox s box Reg.LB_STATUS).toNat 3
    (isDieDom s (boxOwner box) = false ∨ (getLp s (boxOwner box)).state = 0 → w = s)
    ∧ (∀ k, box ≠ fabricIn → freeSlot? s box = some k → lost = false → ∃ t, exec (.lbClaim g addr v) s = .next t
      ∧ slotState t box k = 1 ∧ slotSender t box k = sender ∧ (getBox t box (Reg.LB_GRANT0 + 8 * sender)).toNat = k + 16
      ∧ otherSlots box k s t ∧ t.mem = s.mem ∧ t.regs = w.regs)
    ∧ (freeSlot? s box = none ∨ lost = true ∨ box = fabricIn → ∃ t, exec (.lbClaim g addr v) s = .next t ∧ t.boxMem = s.boxMem
      ∧ (getBox t box (Reg.LB_GRANT0 + 8 * sender)).toNat = 32)
    ∧ (slotState s box n = 1 → slotSender s box n = sender → slotLength s box n ≤ 224 → box ≠ fabricOut → box ≠ fabricIn →
      lost = false → ∃ t, exec (.lbRing g addr v) s = .next t
        ∧ slotState t box n = 2 ∧ slotNat t box n 8 2 = srcOf g % 65536 ∧ bitAt (getBox t box Reg.LB_DOORBELL).toNat sender = true
        ∧ otherSlots box n s t ∧ t.mem = s.mem)
    ∧ (slotState s box n = 1 → slotSender s box n = sender → slotLength s box n ≤ 224 → box ≠ fabricOut → box ≠ fabricIn →
      lost = true → ∃ t, exec (.lbRing g addr v) s = .next t ∧ slotState t box n = 3 ∧ slotNat t box n 10 2 = stAbortedReset
        ∧ otherSlots box n s t ∧ t.mem = s.mem)
    ∧ (slotState s box n ≠ 1 ∨ slotSender s box n ≠ sender ∨ 224 < slotLength s box n → ∃ t, exec (.lbRing g addr v) s = .next t
      ∧ t.boxMem = s.boxMem ∧ bitAt (getBox t box Reg.LB_STATUS).toNat 0 = true ∧ t.regs = w.regs ∧ t.out = w.out)
    ∧ (let m := fld v.toNat 51 48
      (box ≠ fabricIn → slotState s box m = 2 → slotSeq s box m = v.toNat % 2 ^ 32 → ∃ t, exec (.lbAck g addr v) s = .next t
        ∧ slotState t box m = 3 ∧ slotNat t box m 10 2 = fld v.toNat 47 32 ∧ bitAt (getBox t box Reg.LB_ACKED).toNat m = true
        ∧ otherSlots box m s t ∧ t.mem = s.mem)
      ∧ (slotState s box m ≠ 2 ∨ slotSeq s box m ≠ v.toNat % 2 ^ 32 → ∃ t, exec (.lbAck g addr v) s = .next t
        ∧ t.boxMem = s.boxMem ∧ bitAt (getBox t box Reg.LB_STATUS).toNat 1 = true ∧ t.regs = w.regs ∧ t.out = w.out))
    ∧ (box ≠ fabricIn → slotState s box n = 1 ∨ slotState s box n = 3 → slotSender s box n = sender → ∃ t, exec (.lbRelease g addr v) s = .next t
      ∧ slotState t box n = 0 ∧ (∀ i, i < 256 → slotNat t box n i 1 = 0) ∧ otherSlots box n s t ∧ t.regs = w.regs ∧ t.out = w.out)
    ∧ ((slotState s box n ≠ 1 ∧ slotState s box n ≠ 3) ∨ slotSender s box n ≠ sender ∨ box = fabricIn → ∃ t, exec (.lbRelease g addr v) s = .next t
      ∧ t.boxMem = s.boxMem ∧ bitAt (getBox t box Reg.LB_STATUS).toNat 2 = true ∧ t.regs = w.regs ∧ t.out = w.out)
    ∧ (∃ t, exec (.lbMaskWrite g addr v) s = .next t ∧ (getBox t box Reg.LB_MASK).toNat = v.toNat % 2 ^ 32 ∧ t.boxMem = s.boxMem)

/-- Letters of the fabric (R408): a message takes the lowest FREE slot of FABRIC_IN, POSTED with its source, SEQ, length and payload, or
waits at its IOD when none is free; while the Hall is lost it is answered at once (R409). A ring on FABRIC_OUT sends the message to its peer, as a
packet of TC2; one that no roster entry takes is answered ABORTED_DOMAIN_RESET. A returned code acknowledges the FABRIC_OUT slot that waits for it; an
acknowledgement on FABRIC_IN goes back to the source and frees the slot at once. A claim on FABRIC_IN reads NONE and a ring there is
refused (log entry 67), and a stopped module answers PARTITIONED_MINORITY (log entry 125): the model's readings. -/
def Obligations.FabricLetters : Prop :=
  ∀ (s : State) (pk : List Byte) (seq : Nat) (payload : List Byte), Sound s →
    (arrivesHere pk s = true → pkKind pk = 5 → payload.length ≤ 224 →
      let lost := bitAt (getBox s fabricIn Reg.LB_STATUS).toNat 3
      (∀ n, lost = false → s.fabric.held = [] → freeSlot? s fabricIn = some n →
        ∃ t, exec (.fabricLbMessage pk seq payload) s = .next t ∧ slotState t fabricIn n = 2
          ∧ slotLength t fabricIn n = payload.length ∧ slotSeq t fabricIn n = seq % 2 ^ 32 ∧ slotPeer t fabricIn n = pkSrc pk
          ∧ slotRead t fabricIn n 32 payload.length = payload ∧ otherSlots fabricIn n s t ∧ t.mem = s.mem ∧ t.units = s.units)
      ∧ (lost = false → freeSlot? s fabricIn = none ∨ s.fabric.held ≠ [] → exec (.fabricLbMessage pk seq payload) s
        = .next (let w := withPacket pk s; { w with fabric := { w.fabric with held := s.fabric.held ++ [(pkSrc pk, seq, payload)] } }))
      ∧ (lost = true → ∃ t, exec (.fabricLbMessage pk seq payload) s = .next t ∧ t.boxMem = s.boxMem ∧ t.mem = s.mem
        ∧ (s.out ++ [.letterAck (pkSrc pk) seq stAbortedReset]) <+: t.out))
    ∧ (∀ (n code : Nat), arrivesHere pk s = true → pkKind pk = 5 → sentSlot s (pkSrc pk) seq = some n →
      ∃ t, exec (.fabricLbAckReturn pk seq code) s = .next t
        ∧ slotState t fabricOut n = 3 ∧ slotNat t fabricOut n 10 2 = code % 65536 ∧ otherSlots fabricOut n s t ∧ t.mem = s.mem)
    ∧ ∀ (g : Agent) (addr off : Nat) (v : Word), s.boot.firmware = true → isDown s g.dom = false →
      (boxAt s addr = some (0, 0x41, off) →
        let n := fld v.toNat 11 8
        let known := s.fabric.roster.find? fun p => p.addr = slotPeer s fabricOut n
        slotState s fabricOut n = 1 → slotSender s fabricOut n = v.toNat % 32 → slotLength s fabricOut n ≤ 224 →
        (∀ p : Partner, fabState s ≠ fabStopped → known = some p → ∃ t, exec (.lbRing g addr v) s = .next t
          ∧ slotState t fabricOut n = 2 ∧ otherSlots fabricOut n s t ∧ t.mem = s.mem
          ∧ (let message := slotRead s fabricOut n 32 (slotLength s fabricOut n)
            let payload := (Config.letterPayload (slotSeq s fabricOut n) message).take 8576
            (s.out ++ [.letter p.addr p.epoch (slotSeq s fabricOut n) message, .packet 2 (packetBytes s (posEpoch s.pos) 5 p.addr payload)])
              <+: t.out))
        ∧ (fabState s = fabStopped ∨ known = none → ∃ t, exec (.lbRing g addr v) s = .next t ∧ slotState t fabricOut n = 3
          ∧ slotNat t fabricOut n 10 2 = (if fabState s = fabStopped then stMinority else stAbortedReset) ∧ otherSlots fabricOut n s t
          ∧ t.mem = s.mem))
      ∧ (boxAt s addr = some (0, 0x40, off) →
        (∃ t, exec (.lbClaim g addr v) s = .next t ∧ t.boxMem = s.boxMem
          ∧ (getBox t fabricIn (Reg.LB_GRANT0 + 8 * (v.toNat % 32))).toNat = 32)
        ∧ (∃ t, exec (.lbRing g addr v) s = .next t ∧ t.boxMem = s.boxMem ∧ bitAt (getBox t fabricIn Reg.LB_STATUS).toNat 0 = true
          ∧ t.regs = s.regs ∧ t.out = s.out)
        ∧ (let m := fld v.toNat 51 48
          s.fabric.held = [] → slotState s fabricIn m = 2 → slotSeq s fabricIn m = v.toNat % 2 ^ 32 →
          ∃ t, exec (.lbAck g addr v) s = .next t ∧ slotState t fabricIn m = 0 ∧ otherSlots fabricIn m s t
            ∧ (s.out ++ [.letterAck (slotPeer s fabricIn m) (v.toNat % 2 ^ 32) (fld v.toNat 47 32)]) <+: t.out))

/-- A Hall access that R37 does not serve, at some size (R391, R394): a CLASS 1 record with the address, the last address, its hart and whether it
was a store, and the count; units, queues, letterboxes and the position stay. -/
def Obligations.HallAccessFaultIsRecorded : Prop :=
  ∀ (s : State) (hart addr : Nat) (store : Bool), Sound s → s.boot.firmware = true → isDown s 0 = false →
    unserved s (addr % 2 ^ 44) = true → s.faults.length < 4096 →
    let a := addr % 2 ^ 44
    ∃ t, exec (.hallAccessFault hart addr store) s = .next t
      ∧ t.faults = s.faults ++ [faultBytes (nextLogSeq s) s.pos { status := stLength, cls := 1, dom := 0, addr := some a }]
      ∧ rf t 0 Reg.HALL_ACCESS_LAST 43 0 = a ∧ rf t 0 Reg.HALL_ACCESS_LAST 49 44 = hart % 64
      ∧ rf t 0 Reg.HALL_ACCESS_LAST 50 50 = b2n store
      ∧ (getReg t 0 Reg.HALL_ACCESS_COUNT).toNat = min ((getReg s 0 Reg.HALL_ACCESS_COUNT).toNat + 1) (2 ^ 64 - 1)
      ∧ t.units = s.units ∧ t.queues = s.queues ∧ t.boxMem = s.boxMem ∧ t.pos = s.pos

/-- A store by an agent (R437, R439, R110): an 8-byte store to a register whose every bit is RW, an engine's saturation counter, leaves
the value there; every other register and all of memory stay. A store to
memory leaves its bytes, little-endian (R8), and every other byte stays. A store to a domain that is down has no effect (R44). A counter's
rise stops at all ones, and changes no other register. -/
def Obligations.AgentStoresAndCounters : Prop :=
  ∀ (s : State) (g : Agent) (v : Word), Sound s → s.boot.firmware = true → isDown s g.dom = false →
    (∀ (addr size : Nat), 0 < size → size ≤ 8 → memMapped s addr size = true → needsDown s addr size = false →
      ∃ t, exec (.registerWrite g addr size v) s = .next t ∧ readNat t addr size = v.toNat % 256 ^ size
        ∧ (∀ a, (a < addr ∨ addr + size ≤ a) → getByte t a = getByte s a) ∧ { t with mem := s.mem } = s)
    ∧ (∀ (addr size : Nat), 0 < size → memMapped s addr size = true → needsDown s addr size = true →
      exec (.registerWrite g addr size v) s = .next s)
    ∧ (∀ d, isDown s 0x10 = false → isFitted s 0x10 = true → (getLp s 0x10).state = 0 → d < 16 →
      let off := 0x200000 + 0x40 * d
      ∃ t, exec (.registerWrite g (controlBase + 0x10 * 0x10000000 + off) 8 v) s = .next t ∧ getReg t 0x10 off = v
        ∧ (∀ dom o, regKey dom o ≠ regKey 0x10 off → getReg t dom o = getReg s dom o) ∧ { t with regs := s.regs } = s)
    ∧ ∀ dom off n : Nat, (getReg (bump s dom off n) dom off).toNat = min ((getReg s dom off).toNat + n) (2 ^ 64 - 1)
      ∧ ∀ d o, regKey d o ≠ regKey dom off → getReg (bump s dom off n) d o = getReg s d o

/-! Faults, domain resets and losses (R43, R337 to R344), and the registers whose writes act (R171, R191, R197, R339). -/

/-- What every domain reset does at its start (R341): the domain answers nothing more, the reset is counted, its units run nothing, a
CLASS 3 record stands in the log with the cause, and a running job restarts. -/
def resetBegins (dom cause causeRec : Nat) (s t : State) : Prop :=
  inReset t dom = true
    ∧ (getReg t porchDom Reg.DOM_RESET_COUNT).toNat = min ((getReg s porchDom Reg.DOM_RESET_COUNT).toNat + 1) (2 ^ 64 - 1)
    ∧ (∀ u : UnitRef, u.dom = dom → (getUnit t u).running = false ∧ (getUnit t u).inFlight = [])
    ∧ (fabState s = fabRunning → fabState t = fabRestarting)
    ∧ (fabState s ≤ fabForming → s.faults.length < 4096 → fabState t = fabState s ∧ ∃ pos : Pos,
        faultBytes (nextLogSeq s) pos { status := stLost, cls := 3, dom := dom, detail := some (cause, causeRec, 0) } ∈ t.faults)

/-- A domain reset, requested or by the module itself (R340): DOM_RESET.GO for a domain that may be reset (cause 1), the fifth missed poll
(cause 2), an uncorrectable error in firmware state (cause 3). A GO for the Porch, an unfitted domain or one in reset is refused. -/
def Obligations.DomainResetBegins : Prop :=
  ∀ (s : State), Sound s → s.boot.firmware = true →
    (∀ v : Word, isDown s porchDom = false → resettable s (fld v.toNat 7 0) = true →
      ∃ t, exec (.domResetGo v) s = .next t ∧ resetBegins (fld v.toNat 7 0) 1 0 s t)
    ∧ (∀ v : Word, isDown s porchDom = false → resettable s (fld v.toNat 7 0) = false → ∃ t, exec (.domResetGo v) s = .next t
      ∧ pf t Reg.DOM_RESET 9 9 = 1 ∧ t.units = s.units ∧ t.mem = s.mem ∧ t.faults = s.faults ∧ ∀ d, inReset t d = inReset s d)
    ∧ (∀ dom, 0x10 ≤ dom → resettable s dom = true → isLost s dom = false →
      ∃ t, exec (.pollMiss dom) s = .next t ∧ resetBegins dom 2 0 s t)
    ∧ ∀ (u : UnitRef) (op addr : Nat), readerIsOp s u op = false → resettable s u.dom = true → isLost s u.dom = false →
      ∃ t, exec (.eccUncorrectable addr u op) s = .next t ∧ resetBegins u.dom 3 0 s t

/-- The end of a domain's reset (R341 to R343, R422), where no command, landing, ramp, update or restore waits for it: with its self-test passed it answers
again, not lost; its SRAM reads zero and every other byte stays, and the Cellar banks of a CD are empty; the Hall starts its boot payload, or
records why not. With the self-test failed it is lost. -/
def Obligations.DomainResetEnds : Prop :=
  ∀ (s : State) (dom : Nat) (failed : List Nat), Sound s → inReset s dom = true → s.boot.updating = false → dom < 0x40 →
    s.fabric.agreeing = false → s.restore.waiting = false → pf s Reg.RST_STATUS 1 0 ≠ 1 →
    (selfTestOk s dom true failed = true → (getDomain s dom).aborted = [] → (getDomain s dom).records = [] →
      (s.power.rampLandings.any fun r => decide (r.1 = dom)) = false → s.faults.length < 4096 →
      ∃ t, exec (.domainResetEnd dom true failed) s = .next t ∧ inReset t dom = false ∧ isLost t dom = false ∧ t.pos = s.pos
        ∧ (0x10 ≤ dom → t.faults = s.faults
          ∧ (∀ a, slotBase dom ≤ a → a < slotBase dom + sramSize dom → getByte t a = 0)
          ∧ (∀ a, (a < slotBase dom ∨ slotBase dom + sramSize dom ≤ a) → getByte t a = getByte s a))
        ∧ (domType dom = some .cd → ∀ b, b < 32 → let bank := (dom - 0x10) * 32 + b
          bankKind t bank = .empty ∧ (∀ n, n < 256 → getTile t bank n = tileDefault 0)
            ∧ ∀ i j, i < 256 → j < 256 → getEntry t bank i j = entryDefault 0)
        ∧ (dom = 0 → let b := storeRead s 0 64
          let flaw := payloadFlaw s (recNat b 8 8) b
          (flaw = 0 → ∃ tree, .hallStart (recNat b 16 8 + recNat b 24 8) 0 tree ∈ t.out)
          ∧ (flaw ≠ 0 → t.faults = s.faults ++ [faultBytes (nextLogSeq s) s.pos { status := flaw, cls := statusClass flaw, dom := 0 }])))
    ∧ ∃ t, exec (.domainResetEnd dom false failed) s = .next t ∧ inReset t dom = false ∧ isLost t dom = true

/-- Faults that reach an operation (R40, R43, R344): a Corridor transfer that fails its CRC in every attempt, at an edge of its route, leaves a CLASS 2
record, ends its operation DOMAIN_LOST and resets its destination; an uncorrectable word that an operation reads, in SRAM, leaves a CLASS 4
record and restarts the job. The fifth kind, a Porch fault, takes the whole module through a power-on (R340).
Deduced: log entries 28, 37. -/
def Obligations.CorridorAndEccFaults : Prop :=
  ∀ (s : State) (u : UnitRef) (op : Nat), Sound s → s.boot.firmware = true →
    (∀ (src dst siteA siteB : Nat), isFitted s src = true → isFitted s dst = true → onRoute src dst siteA siteB = true →
      s.faults.length < 4096 →
      let found := if u.dom = src then (getUnit s u).inFlight.find? (fun o => o.id = op) else none
      let record := fun (cmd : Option (Nat × Nat)) (unit : Nat) => faultBytes (nextLogSeq s) s.pos
        ⟨stLost, 2, src, cmd, none, some (src + 256 * dst, siteA + 256 * siteB, 4), unit⟩
      (∀ o : Op, resettable s dst = false ∨ isLost s dst = true → found = some o → o.status = 0 →
        ∃ t, exec (.corridorCrcFail src dst siteA siteB u op) s = .next t
          ∧ (∃ o' ∈ (getUnit t u).inFlight, o'.id = op ∧ o'.status = stLost ∧ o'.logged = true)
          ∧ t.faults = s.faults ++ [record (ownerCmd (getUnit s u).owner) (unitCode u.kind)])
      ∧ (resettable s dst = false ∨ isLost s dst = true → found = none →
        ∃ t, exec (.corridorCrcFail src dst siteA siteB u op) s = .next t ∧ t.units = s.units ∧ t.faults = s.faults ++ [record none 0])
      ∧ (resettable s dst = true → isLost s dst = false → ∃ t, exec (.corridorCrcFail src dst siteA siteB u op) s = .next t
        ∧ inReset t dst = true))
    ∧ (∀ (addr d : Nat), readerIsOp s u op = true → inHbm s addr 1 = false → memMapped s addr 1 = true → sramDom addr = some d →
      fabState s = fabRunning → ∃ t, exec (.eccUncorrectable addr u op) s = .next t ∧ fabState t = fabRestarting
        ∧ (isDown s u.dom = false → (getUnit t u).running = false))
    ∧ ∀ b : BootInputs, b.porchOk = false → ∃ t, exec (.porchFault b) s = .next t ∧ pf t Reg.BOOT_STATUS 7 7 = 1 ∧ t.boot.firmware = false
      ∧ t.mram = s.mram ∧ t.store = s.store ∧ t.mem = [] ∧ t.units = [] ∧ t.queues = []

/-- Registers whose writes act (R171, R191, R197, R339): a skip request counts while the module's header has not left, and is refused after;
the job key is in force at once while no job exists, and from the next step otherwise; the stash share is taken while no stash is
open; FLOG_COPY copies the record with that LOG_SEQ, or 64 zero bytes, and no other byte of memory changes. -/
def Obligations.ActingRegisterWrites : Prop :=
  ∀ (s : State) (v : Word), Sound s → s.boot.firmware = true → isDown s porchDom = false →
    (isDown s 0x10 = false → isFitted s 0x10 = true → bitAt v.toNat 0 = true → ∃ t, exec (.trainSkipRequest v) s = .next t
      ∧ (s.train.left = false → t.train = { s.train with request := true })
      ∧ (s.train.left = true → t.train = s.train ∧ rf t 0x10 Reg.TRAIN_SKIP_REQUEST 1 1 = 1) ∧ t.mem = s.mem ∧ t.units = s.units)
    ∧ (∃ t, exec (.cgJobKeyWrite v) s = .next t ∧ getReg t porchDom Reg.CG_JOB_KEY = v
      ∧ (fabState s = fabNoJob → getReg t porchDom Reg.CG_KEY_IN_FORCE = v)
      ∧ (fabState s ≠ fabNoJob → getReg t porchDom Reg.CG_KEY_IN_FORCE = getReg s porchDom Reg.CG_KEY_IN_FORCE)
      ∧ { t with regs := s.regs } = s)
    ∧ (isDown s 0x20 = false → isFitted s 0x20 = true → ∃ t, exec (.stashLarderShareWrite v) s = .next t
      ∧ rf t 0x20 Reg.STASH_LARDER_SHARE 14 0 = v.toNat % 2 ^ 15
      ∧ (s.stash.stashes = [] → t.stash.share = v.toNat % 2 ^ 15) ∧ (s.stash.stashes ≠ [] → t.stash = s.stash) ∧ t.mem = s.mem)
    ∧ (let a := pf s Reg.FLOG_COPY_DEST 43 0
      a % 64 = 0 → memMapped s a 64 = true → needsDown s a 64 = false → ∃ t, exec (.flogCopy v) s = .next t
        ∧ (∀ b, s.faults.find? (fun b => recNat b 0 4 = v.toNat % 2 ^ 32) = some b → readMem t a 64 = b)
        ∧ ((∀ b ∈ s.faults, recNat b 0 4 ≠ v.toNat % 2 ^ 32) → readMem t a 64 = List.replicate 64 0)
        ∧ (∀ c, (c < a ∨ a + 64 ≤ c) → getByte t c = getByte s c) ∧ t.faults = s.faults)

/-- A fault record (R338, R339): it takes the next LOG_SEQ, the log keeps at most the last 4,096, the newest last, and its bytes hold
LOG_SEQ, status, class, domain, command, flags, position, address and detail at their places. -/
def Obligations.FaultRecordsAreKept : Prop :=
  (∀ (s : State) (f : FaultInfo), Sound s →
    (logFault f s).faults.getLast? = some (faultBytes (nextLogSeq s) s.pos f)
      ∧ (logFault f s).faults.length = min (s.faults.length + 1) 4096
      ∧ nextLogSeq (logFault f s) = (nextLogSeq s + 1) % 2 ^ 32
      ∧ (flogOn s = false → (logFault f s).mem = s.mem))
    ∧ ∀ (seq : Nat) (p : Pos) (f : FaultInfo), let b := faultBytes seq p f
      b.length = 64 ∧ recNat b 0 4 = seq % 2 ^ 32 ∧ recNat b 4 2 = f.status % 65536 ∧ recNat b 6 1 = f.cls % 256 ∧ recNat b 7 1 = f.dom % 256
        ∧ recNat b 8 2 = (f.cmd.getD (0, 0)).1 % 65536 ∧ bitAt (recNat b 10 1) 0 = f.cmd.isSome ∧ bitAt (recNat b 10 1) 1 = f.addr.isSome
        ∧ bitAt (recNat b 10 1) 2 = f.detail.isSome ∧ recNat b 11 1 = f.unit % 4 ∧ recNat b 12 4 = (f.cmd.getD (0, 0)).2 % 2 ^ 32
        ∧ recNat b 16 15 = p.toNat ∧ recNat b 32 8 = f.addr.getD 0 % 2 ^ 44 ∧ recNat b 40 8 = (f.detail.getD (0, 0, 0)).1 % 2 ^ 64
        ∧ recNat b 48 8 = (f.detail.getD (0, 0, 0)).2.1 % 2 ^ 64 ∧ recNat b 56 8 = (f.detail.getD (0, 0, 0)).2.2 % 2 ^ 64

/-! Power, operating points and temperatures (R364 to R382, R386). -/

/-- A sample and a limiter step (R364, R366, R372, R386): POWER_SAMPLE keeps the newest million samples, adds 10 nJ for each milliwatt to
the module's energy, and above 3,400 W over 100 µs sets CEILING_HOLD, lowers the issue rate by 4, not below 1, and counts; at 3,300 W or
below it clears CEILING_HOLD. LIMITER_STEP lowers the rate by 1 above the room, raises it by 1 when 64 W below it, and else keeps it; a whole
window at rate 1 above the room lowers every CD by one point, down to point 5, one at rate 16 with M_100 5 % below the limit raises every lowered
CD by one, and OP_FALLBACK then says whether a CD runs lowered (R367).
Missing samples of the first 100 µs count as 0 (log entry 35). -/
def Obligations.SamplesAndLimiter : Prop :=
  ∀ (s : State), Sound s → s.boot.firmware = true →
    let r := pf s Reg.PWR_STATUS 4 0
    (∀ mw : Nat, ∃ t, exec (.powerSample mw) s = .next t
      ∧ t.power.samples = (s.power.samples ++ [mw]).drop (s.power.samples.length + 1 - 1000000)
      ∧ (getReg t porchDom Reg.ENERGY_TOTAL).toNat
        = min ((getReg s porchDom Reg.ENERGY_TOTAL).toNat + (s.power.totalNj + 10 * mw) / 1000) (2 ^ 64 - 1)
      ∧ t.power.totalNj = (s.power.totalNj + 10 * mw) % 1000
      ∧ (34000000 < lastTen t → pf t Reg.PWR_STATUS 8 8 = 1 ∧ pf t Reg.PWR_STATUS 4 0 = max 1 (r - 4)
        ∧ (getReg t porchDom Reg.PWR_CEILING_TRIP_COUNT).toNat
          = min ((getReg s porchDom Reg.PWR_CEILING_TRIP_COUNT).toNat + 1) (2 ^ 64 - 1))
      ∧ (lastTen t ≤ 33000000 → pf t Reg.PWR_STATUS 8 8 = 0)
      ∧ (lastTen t ≤ 34000000 → pf t Reg.PWR_STATUS 4 0 = r)
      ∧ t.mem = s.mem ∧ t.units = s.units)
    ∧ ∃ t, exec .limiterStep s = .next t
      ∧ pf t Reg.PWR_STATUS 4 0 = (if room s < (lastTen s : Int) then max 1 (r - 1)
        else if (lastTen s : Int) + 640000 < room s ∧ r < 16 then r + 1 else r)
      ∧ t.mem = s.mem ∧ t.units = s.units ∧ t.power.grants = s.power.grants
      ∧ (let steps := windowSecs s * 10000
        let cds := fittedOf s .cd
        let fallback := pf t Reg.PWR_STATUS 5 5 = b2n (cds.any fun d => decide (0 < loweredBy t d))
        (r = 1 → room s < (lastTen s : Int) → steps ≤ s.power.lowWindow + 1 → fallback
          ∧ ∀ d ∈ cds, lookup 0 t.power.lowered d = min (loweredBy s d + 1) (5 - targetPoint s d))
        ∧ (r = 16 → (lastTen s : Int) ≤ room s → 20 * lastTen s ≤ 19 * (limitWatts s * 10000) → steps ≤ s.power.highWindow + 1 → fallback
          ∧ ∀ d ∈ cds, lookup 0 t.power.lowered d = loweredBy s d - 1))

/-- Grants and points (R369 to R371, R373, R375, R376, R378, R379): an admitted grant comes into force and what waited for it goes on; an
automatic grant gives back whole steps of 16 W; a withdrawal leaves no grant and ends with GRANT_WITHDRAWN what waits for power; a
target, a ramp's end, a droop window and an ageing step do what their rules say to the registers of their die.
Elapsed time is the sender's (log entry 11); withdrawal of a scheduled PGRANT is deduced (log entry 32). -/
def Obligations.GrantsAndPoints : Prop :=
  ∀ (s : State), Sound s → s.boot.firmware = true →
    (∀ (n : Nat) (g : Grant), s.power.grants.find? (fun g => g.n = n && g.stage = .admitted) = some g →
      ∃ t, exec (.grantInForce n) s = .next t
        ∧ t.power.grants = s.power.grants.map (fun y => if y.n = n then { y with stage := .inForce } else y)
        ∧ (∀ u, (getUnit t u).inFlight = (getUnit s u).inFlight.map fun o => if o.need = .grant n then { o with need := .work } else o))
    ∧ (∀ u : UnitRef, u.kind = .sequencer →
      let held := fun (s : State) => grantsWhere s fun g => g.holder = u && g.source = .auto && g.stage = .inForce
      let spare := held s * 1000000 - unitDraw (getUnit s u)
      80000000 ≤ spare → ∃ t, exec (.autoGrantRelease u) s = .next t ∧ held t = held s - 16 * (spare / 16000000)
        ∧ t.units = s.units ∧ t.mem = s.mem)
    ∧ (isDown s porchDom = false → ∀ v : Word, ∃ t, exec (.pwrWithdraw v) s = .next t ∧ t.power.grants = []
      ∧ (getReg t porchDom Reg.PWR_WITHDRAW_COUNT).toNat = min ((getReg s porchDom Reg.PWR_WITHDRAW_COUNT).toNat + 1) (2 ^ 64 - 1)
      ∧ ∃ w, { w with regs := s.regs } = s ∧ (∀ d o, regKey d o ≠ regKey porchDom Reg.PWR_CTRL → getReg w d o = getReg s d o)
        ∧ ∀ u, waitsForPower w (getUnit w u) = true → (getUnit t u).stopped = true
          ∧ ((getUnit s u).status = 0 → (getUnit t u).status = stGrant)
      ∧ ∀ (u : UnitRef) (o : Op) (n : Nat), o ∈ (getUnit s u).inFlight → o.need = .grant n →
        (∃ g ∈ s.power.grants, g.n = n ∧ g.stage ≠ .inForce) → { o with need := .work, status := stGrant } ∈ (getUnit t u).inFlight)
    ∧ ∀ dom, dom ∈ powered s → isDown s dom = false →
      (∀ v : Word, (getLp s dom).state = 0 → ∃ t, exec (.pwrOppointTarget dom v) s = .next t
        ∧ rf t dom Reg.PWR_OPPOINT 10 8 = fld v.toNat 10 8 ∧ rf t dom Reg.PWR_OPPOINT 2 0 = rf s dom Reg.PWR_OPPOINT 2 0
        ∧ t.mem = s.mem ∧ t.units = s.units)
      ∧ (∀ p, s.power.ramps.find? (fun r => r.1 = dom) = some (dom, p) → rf s dom Reg.PWR_OPPOINT 24 24 = 1 →
        rf s dom Reg.PWR_OPPOINT 25 25 = 0 → ∃ t, exec (.oppointRampDone dom) s = .next t
          ∧ rf t dom Reg.PWR_OPPOINT 2 0 = p % 8 ∧ rf t dom Reg.PWR_OPPOINT 24 24 = 0
          ∧ rf t dom Reg.PWR_SENSE 27 16 = supply s dom (p % 8) % 4096 ∧ (∀ r ∈ t.power.ramps, r.1 ≠ dom) ∧ t.units = s.units)
      ∧ (s.power.droop.contains dom = false → ∃ t, exec (.droopTrip dom) s = .next t ∧ t.power.droop.contains dom = true
        ∧ (getReg t dom Reg.PWR_DROOP_COUNT).toNat = min ((getReg s dom Reg.PWR_DROOP_COUNT).toNat + 1) (2 ^ 64 - 1)
        ∧ (rf s dom Reg.PWR_OPPOINT 24 24 = 1 → rf t dom Reg.PWR_OPPOINT 25 25 = 1)
        ∧ (domType dom = some .cd → rf t dom Reg.PWR_SENSE 36 32 = max 1 (cdRate s dom false / 2)) ∧ t.mem = s.mem)
      ∧ (∃ t, exec (.droopWindowClose dom) s = .next t ∧ t.power.droop.contains dom = false
        ∧ (domType dom = some .cd → rf t dom Reg.PWR_SENSE 36 32 = cdRate s dom false) ∧ t.mem = s.mem)
      ∧ (s.power.droop.contains dom = false → ∃ t, exec (.frozenRampResume dom) s = .next t ∧ rf t dom Reg.PWR_OPPOINT 25 25 = 0
        ∧ (s.power.rampHeld.contains dom = true → rf t dom Reg.PWR_OPPOINT 24 24 = 1) ∧ t.power.rampHeld.contains dom = false
        ∧ t.mem = s.mem)
      ∧ ∀ margin, let least := fld (getReg s dom (Reg.VTABLE0 + 8 * rf s dom Reg.PWR_OPPOINT 2 0)).toNat 39 32
        (least ≤ margin → exec (.ageingCheck dom margin) s = .next s)
        ∧ (margin < least → ∃ t, exec (.ageingCheck dom margin) s = .next t
          ∧ rf t dom Reg.PWR_AGE 7 0 = min (rf s dom Reg.PWR_AGE 7 0 + 1) 255
          ∧ lookup 0 t.mram.ageing dom = rf t dom Reg.PWR_AGE 8 0 + 65536 * rf t dom Reg.PWR_OPPOINT 18 16
          ∧ rf t dom Reg.PWR_SENSE 27 16 = supply t dom (rf t dom Reg.PWR_OPPOINT 2 0) % 4096 ∧ t.mem = s.mem)

/-- Temperatures (R365, R381, R382): a convergence step and a thermal step move each CD's cap by one, within 1 to 16, and the issue rate shows
it; an emergency sets EMERGENCY, takes every grant, puts every CD at rate 1 and raises an in-band interrupt; it ends once every die is
below 95 °C; a trip switches the module off, MRAM and the carrier store apart, and leaves its die in MRAM.
During an emergency caps follow their bands: deduced (log entry 33). -/
def Obligations.TemperatureCaps : Prop :=
  ∀ (s : State), Sound s → s.boot.firmware = true →
    (∀ temps, ∃ t, exec (.convergenceStep temps) s = .next t ∧ ∀ d ∈ fittedOf s .cd,
      let acts := (hotPairs t).filter fun p => decide (35 < p.2.2) || (decide (30 < p.2.2) && s.power.hotSides.contains (p.1, p.2.1))
      let c := lookup 16 s.power.converge d
      lookup 16 t.power.converge d = (if (acts.flatMap fun p => cdsFor s p.1).contains d then max 1 (c - 1) else min 16 (c + 1))
        ∧ rf t d Reg.PWR_SENSE 36 32 = cdRate t d true % 32)
    ∧ (∀ temps, ∃ t, exec (.thermalCapStep temps) s = .next t ∧ ∀ d ∈ fittedOf s .cd,
      let past := fun (limit : Nat) => t.power.temps.any fun e => decide (limit ≤ e.2) && (cdsFor s e.1).contains d
      let c := lookup 16 s.power.thermal d
      lookup 16 t.power.thermal d = (if past 95 then max 1 (c - 1) else if past 92 then c else min 16 (c + 1))
        ∧ rf t d Reg.PWR_SENSE 36 32 = cdRate t d true % 32)
    ∧ (∀ dom temp, isFitted s dom = true → 105 ≤ temp → pf s Reg.PWR_STATUS 7 7 = 0 →
      ∃ t, exec (.thermalEmergency dom temp) s = .next t ∧ pf t Reg.PWR_STATUS 7 7 = 1 ∧ t.power.grants = [] ∧ .ibi 1 ∈ t.out
        ∧ ∀ d ∈ fittedOf s .cd, rf t d Reg.PWR_SENSE 36 32 = 1)
    ∧ (∀ temps, pf s Reg.PWR_STATUS 7 7 = 1 → ∃ t, exec (.emergencyEnd temps) s = .next t
      ∧ pf t Reg.PWR_STATUS 7 7 = (if t.power.temps.all fun e => decide (e.2 < 95) then 0 else 1) ∧ t.mem = s.mem)
    ∧ ∀ dom temp, isFitted s dom = true → 110 ≤ temp → ∃ t, exec (.thermalTrip dom temp) s = .next t
      ∧ t.boot.firmware = false ∧ t.mem = [] ∧ t.units = [] ∧ t.queues = [] ∧ t.store = s.store ∧ t.mram.lastTrip = some dom
      ∧ t.mram.minSvn = s.mram.minSvn ∧ t.mram.factory = s.mram.factory ∧ t.out = s.out

/-! Start-up, recovery, services and pins (R413 to R432, R447 to R458). -/

/-- A frame of the management port (R423, R425): Ethernet header with EtherType 0x88B5, then the payload. -/
def mgmtFrame (dst : List Byte) (kind : Nat) (frame : List Byte) : Prop :=
  frame.take 6 = dst ∧ cut frame 12 2 = [0x88, 0xB5] ∧ recNat frame 14 2 = kind

/-- What a power-on leaves (R420, R421, R423): a Porch that fails its self-test stops; without a factory record the module stays in NO_FACTORY;
without a good image set it is in RECOVERY and has asked for byte 0 of one by broadcast; with a good set it is READY, and a domain that failed is lost.
MRAM keeps what Falnu wrote, MIN_SVN and the set; nothing of an earlier run is left. -/
def poweredOn (b : BootInputs) (s t : State) : Prop :=
  t.units = [] ∧ t.queues = [] ∧ t.pos = 0 ∧ t.store = s.store ∧ t.mram.minSvn = s.mram.minSvn ∧ t.mram.set = s.mram.set
    ∧ t.mram.factory = s.mram.factory
    ∧ (b.porchOk = false → pf t Reg.BOOT_STATUS 7 7 = 1 ∧ t.boot.firmware = false)
    ∧ (b.porchOk = true → b.factoryA = false → b.factoryB = false → bootState t = bootNoFactory ∧ t.boot.firmware = false)
    ∧ (b.porchOk = true → b.factoryA = true ∨ b.factoryB = true →
      t.mram.bootCount = (s.mram.bootCount + 1) % 2 ^ 32
      ∧ (setGood s.variant s.mram.minSvn s.mram.set = false → bootState t = bootRecovery ∧ t.boot.firmware = false
        ∧ t.boot.recovery = some 0 ∧ ∃ frame, Out.mgmt 0 frame ∈ t.out ∧ mgmtFrame broadcastMac 0x10 frame ∧ recNat frame 26 4 = 0)
      ∧ (setGood s.variant s.mram.minSvn s.mram.set = true → bootState t = bootReady ∧ t.boot.firmware = true
        ∧ pf t Reg.BOOT_STATUS 6 6 = b2n (!b.factoryA)
        ∧ ∀ d ∈ domainIds s.variant, d ≠ porchDom → isLost t d = bootFailed t b d))

/-- What power-off leaves (R453): MRAM and the carrier store, and what has left the module. -/
def poweredOff (s t : State) : Prop :=
  t.boot.firmware = false ∧ t.mem = [] ∧ t.regs = [] ∧ t.units = [] ∧ t.queues = [] ∧ t.entries = [] ∧ t.faults = [] ∧ t.pos = 0
    ∧ t.store = s.store ∧ t.out = s.out

/-- Power and reset (R420 to R424, R447, R448, R453 to R455): the feed's rise, RESET_N's rise and the module reset's timer power the module
on; the feed's fall, RESET_N low and an input shutdown switch it off; recovery takes the blocks of frames sent to it in order, asks again on the other
lane, and starts the module once the set is good.
A power-on runs to READY within its command: the model's choice (log entry 3). -/
def Obligations.PowerOnAndRecovery : Prop :=
  ∀ (s : State) (b : BootInputs), Sound s →
    (s.pins.pwrGood = false → s.pins.resetN = true → ∃ t, exec (.pwrGoodRise b) s = .next t ∧ t.pins.pwrGood = true ∧ poweredOn b s t)
    ∧ (s.pins.pwrGood = true → s.pins.resetN = false → s.boot.resetIn = false →
      ∃ t, exec (.resetN true b) s = .next t ∧ t.pins.resetN = true ∧ poweredOn b s t)
    ∧ (s.pins.pwrGood = true → s.pins.resetN = true → s.boot.resetIn = true →
      ∃ t, exec (.moduleResetTimer b) s = .next t ∧ t.boot.resetIn = false ∧ poweredOn b s t)
    ∧ (s.pins.pwrGood = true → ∃ t, exec .pwrGoodFall s = .next t ∧ t.pins.pwrGood = false ∧ poweredOff s t ∧ t.mram = s.mram)
    ∧ (s.pins.pwrGood = true → s.pins.resetN = true →
      ∃ t, exec (.resetN false b) s = .next t ∧ t.pins.resetN = false ∧ poweredOff s t ∧ t.mram = s.mram)
    ∧ (∀ cause, s.pins.pwrGood = true → cause < 2 → ∃ t, exec (.vinShutdown cause) s = .next t ∧ poweredOff s t
      ∧ t.mram = { s.mram with shutdown := some cause, unlogged := s.mram.unlogged ++ [porchDom] })
    ∧ (∀ (off total : Nat) (frame f : List Byte), s.boot.recovery = some off → mgmtPayload s frame = some f → recNat f 0 2 = 0x11 →
      recNat f 2 2 = 0 → recNat f 4 8 = (factory s).serial.toNat → recNat f 12 4 = off → recNat f 16 4 = total → total ≤ setMax →
      (off = 0 ∨ total = s.boot.recTotal) → off ≤ s.mram.set.length → 20 + min 1024 (total - off) ≤ f.length →
      (off + 1024 < total → ∃ t, exec (.recoveryData b frame) s = .next t ∧ t.boot.recovery = some (off + 1024)
        ∧ t.boot.recTotal = total ∧ t.mram.set.take (off + 1024) = s.mram.set.take off ++ cut f 20 1024
        ∧ t.mram.minSvn = s.mram.minSvn ∧ t.boot.firmware = s.boot.firmware)
      ∧ (total ≤ off + 1024 → off ≤ total →
        let set := s.mram.set.take off ++ cut f 20 (total - off)
        ∃ t, exec (.recoveryData b frame) s = .next t
          ∧ (setGood s.variant s.mram.minSvn set = true → bootState t = bootReady ∧ pf t Reg.BOOT_STATUS 4 4 = 1 ∧ t.mram.set = set
            ∧ t.mram.minSvn = max s.mram.minSvn (setSvn set))
          ∧ (setGood s.variant s.mram.minSvn set = false → t.boot.recovery = none ∧ t.boot.retry = true ∧ t.mram.minSvn = s.mram.minSvn)))
    ∧ (∀ off, s.boot.recovery = some off → s.boot.recLane ≤ 1 → ∃ t frame, exec .recoveryReqTimeout s = .next t
      ∧ t.boot.recLane = 1 - s.boot.recLane ∧ t.out = s.out ++ [Out.mgmt (1 - s.boot.recLane) frame]
      ∧ mgmtFrame broadcastMac 0x10 frame ∧ recNat frame 26 4 = off % 2 ^ 32)
    ∧ (s.boot.retry = true → ∃ t, exec .recoveryRetry s = .next t ∧ t.boot.recovery = some 0 ∧ t.boot.retry = false
      ∧ t.mram = s.mram ∧ t.mem = s.mem)

/-- The message in a slot of the Porch INBOX stands POSTED, can be decoded and asks for an operation (R425). -/
def asks (s : State) (slot op : Nat) : Bool :=
  s.boot.firmware && decide (slot < 16) && decide (slotState s porchBox slot = 2) && decodable (messageAt s slot)
    && decide (recNat (messageAt s slot) 0 2 = op) && !s.boot.updating

/-- The slot is ACKED with a code, and no other slot of the box changed. -/
def answered (slot code : Nat) (s t : State) : Prop :=
  slotState t porchBox slot = 3 ∧ slotNat t porchBox slot 10 2 = code ∧ otherSlots porchBox slot s t

/-- Services (R425, R426, R431): ATTEST writes a report of this module and its nonce; CERT_READ writes the chain; STORE_WRITE and STORE_READ move
bytes between memory and the carrier store; UPDATE refuses a mode above 2, a MODE 2 in a job and a bundle that is not good, verifies a good one, and in
MODE 1 commits it; MODULE_RESET is DONE at once; each answers its slot, and a service that is refused writes nothing. Over the management port
the same three services answer with frames to the address that asked, the last with the status; the others are refused there.
ML-DSA-87 is as FIPS 204 has it: presumed (log entry 12); the frames' layout is deduced (log entry 65). -/
def Obligations.ServicesAnswer : Prop :=
  ∀ (s : State) (slot : Nat), Sound s →
    let m := serviceOf (messageAt s slot)
    (asks s slot 1 = true → ∃ t, exec (.attest slot) s = .next t ∧ answered slot (attestStatus s m) s t
      ∧ (attestStatus s m = 0 → readMem t m.arg0 (report s m.nonce).length = report s m.nonce
        ∧ ∀ c, outside [(m.arg0, (report s m.nonce).length)] c → getByte t c = getByte s c)
      ∧ (attestStatus s m ≠ 0 → t.mem = s.mem))
    ∧ (asks s slot 2 = true → let n := (chainBytes s).length
      (n ≤ m.arg1 → memMapped s m.arg0 n = true → needsDown s m.arg0 n = false → ∃ t, exec (.certRead slot) s = .next t
        ∧ answered slot stDone s t ∧ readMem t m.arg0 n = chainBytes s ∧ ∀ c, outside [(m.arg0, n)] c → getByte t c = getByte s c)
      ∧ (m.arg1 < n → ∃ t, exec (.certRead slot) s = .next t ∧ answered slot stLength s t ∧ t.mem = s.mem))
    ∧ (asks s slot 3 = true →
      (2 < m.arg2 → ∃ t, exec (.update slot) s = .next t ∧ answered slot stReserved s t ∧ t.mem = s.mem ∧ t.mram = s.mram)
      ∧ (m.arg2 = 0 → m.arg0 % 64 = 0 → memMapped s m.arg0 m.arg1 = true → needsDown s m.arg0 m.arg1 = false →
        let b := readMem s m.arg0 m.arg1
        setLength b ≤ m.arg1 → ∃ t, exec (.update slot) s = .next t ∧ t.mram = s.mram
          ∧ answered slot (if setGood s.variant s.mram.minSvn b then stDone else stSignature) s t
          ∧ pf t Reg.UPD_STATUS 31 16 = (if setGood s.variant s.mram.minSvn b then stDone else stSignature))
      ∧ (m.arg2 = 2 → fabForming ≤ fabState s → fabState s ≤ fabRestarting →
        ∃ t, exec (.update slot) s = .next t ∧ answered slot stReserved s t ∧ t.mem = s.mem ∧ t.mram = s.mram)
      ∧ (m.arg2 = 1 → m.arg0 % 64 = 0 → memMapped s m.arg0 m.arg1 = true → needsDown s m.arg0 m.arg1 = false →
        let b := readMem s m.arg0 m.arg1
        let set := b.take (setLength b)
        setLength b ≤ m.arg1 → setGood s.variant s.mram.minSvn b = true → ((copiesOf set).all fun im => !im.isEmpty) = true →
        ∃ t, exec (.update slot) s = .next t ∧ answered slot stDone s t
          ∧ t.mram = { s.mram with set := set, minSvn := max s.mram.minSvn (setSvn set) } ∧ t.boot.copies = copiesOf set
          ∧ t.boot.staged = [] ∧ pf t Reg.UPD_STATUS 31 16 = stDone ∧ pf t Reg.UPD_STATUS 2 0 = 0 ∧ t.mem = s.mem))
    ∧ (asks s slot 4 = true → m.arg1 % 4096 = 0 → m.arg1 + m.arg2 ≤ storeSize → memMapped s m.arg0 m.arg2 = true →
      needsDown s m.arg0 m.arg2 = false → ∃ t, exec (.storeWrite slot) s = .next t ∧ answered slot stDone s t ∧ t.mem = s.mem
        ∧ (∀ i, i < m.arg2 → storeByte t (m.arg1 + i) = getByte s (m.arg0 + i))
        ∧ ∀ c, outside [(m.arg1, m.arg2)] c → storeByte t c = storeByte s c)
    ∧ (asks s slot 5 = true → m.arg1 + m.arg2 ≤ storeSize → memMapped s m.arg0 m.arg2 = true → needsDown s m.arg0 m.arg2 = false →
      ∃ t, exec (.storeRead slot) s = .next t ∧ answered slot stDone s t ∧ t.store = s.store
        ∧ (∀ i, i < m.arg2 → getByte t (m.arg0 + i) = storeByte s (m.arg1 + i))
        ∧ ∀ c, outside [(m.arg0, m.arg2)] c → getByte t c = getByte s c)
    ∧ (asks s slot 6 = true → ∃ t, exec (.moduleReset slot) s = .next t ∧ answered slot stDone s t ∧ t.boot.resetIn = true
      ∧ t.mem = s.mem ∧ t.units = s.units)
    ∧ ∀ frame f : List Byte, s.boot.firmware = true → mgmtPayload s frame = some f → recNat f 0 2 = 1 → recNat f 2 2 = 0 →
      decodable (cut f 4 64) = true →
      let op := recNat f 4 2
      let status := mgmtStatus s (serviceOf (cut f 4 64))
      (3 ≤ op ∧ op ≤ 5 → status = stReserved)
      ∧ ∃ t others last, exec (.mgmtServiceFrame frame) s = .next t ∧ t.out = s.out ++ others ++ [.mgmt 0 last]
        ∧ mgmtFrame (cut frame 6 6) 2 last ∧ recNat last 34 2 = status ∧ t.mem = s.mem ∧ t.mram = s.mram
        ∧ t.boot = (if op = 6 then { s.boot with resetIn := true } else s.boot)

/-- Pins (R457, R458): a private read gives BOOT_STATUS, the power status and measure, the hottest temperature, the two coolant bytes, the
ordering item and the serial number; the TAP gives the item's identification code, the levels, and the boundary-scan register, which
EXTEST uses only before the module leaves ROM.
BYPASS captures 0: presumed (log entry 30). -/
def Obligations.PinsAnswer : Prop :=
  ∀ (s : State), Sound s → s.pins.pwrGood = true →
    (∀ inlet outlet : BitVec 8, ∃ t bs, exec (.i3cPrivateRead inlet outlet) s = .next t ∧ t.out = s.out ++ [.i3c bs]
      ∧ { t with out := s.out } = s ∧ bs.length = 16 ∧ recNat bs 0 1 = pf s Reg.BOOT_STATUS 7 0
      ∧ (s.boot.firmware = true → recNat bs 1 1 = pf s Reg.PWR_STATUS 7 0 ∧ recNat bs 2 2 = pf s Reg.PWR_MEASURE 15 0)
      ∧ (s.boot.firmware = false → recNat bs 1 4 = 0) ∧ recNat bs 5 1 = inlet.toNat ∧ recNat bs 6 1 = outlet.toNat
      ∧ recNat bs 7 1 = s.variant % 256 ∧ recNat bs 8 8 = (factory s).serial.toNat)
    ∧ (∀ a : BitVec 7, ∃ t, exec (.i3cDynamicAddress a) s = .next t ∧ t.pins.i3cAddr = some a ∧ { t with pins := s.pins } = s)
    ∧ (∃ t, exec .jtagBypass s = .next t ∧ t.out = s.out ++ [.jtag 0] ∧ t.pins.scan = s.pins.scan
      ∧ { t with out := s.out, pins := s.pins } = s)
    ∧ (∃ t, exec .jtagIdcode s = .next t ∧ t.out = s.out ++ [.jtag (0x0B020C4F + s.variant * 2 ^ 28)]
      ∧ { t with out := s.out, pins := s.pins } = s)
    ∧ (∀ pins preload : BitVec 22, ∃ t, exec (.jtagSamplePreload pins preload) s = .next t ∧ t.out = s.out ++ [.jtag pins.toNat]
      ∧ t.pins.scan = preload ∧ { t with out := s.out, pins := s.pins } = s)
    ∧ ∀ pins : BitVec 22, ∃ t, exec (.jtagExtest pins) s = .next t
      ∧ (bootState s = bootRom → t.out = s.out ++ [.jtag pins.toNat]) ∧ (bootState s ≠ bootRom → t.out = s.out ++ [.jtag 0])
      ∧ { t with out := s.out, pins := s.pins } = s

end
end

