-- ==== Sys2Proof/Laws/Tables.lean ====
section
/-! SUPPORT. The laws of the sparse tables: every operation keeps the canonical form, a read after a write to the same key gives the value
written, a write leaves every other key alone, and two canonical tables that read alike are one table. -/
namespace Sys2Proof

variable {α : Type} [DecidableEq α] {d : Nat → α}

theorem tblWfFrom_mono {t : List (Nat × α)} {b b' : Nat} (hb : b' ≤ b) (h : tblWfFrom d b t = true) : tblWfFrom d b' t = true := by
  cases t with
  | nil => rfl
  | cons e t =>
    obtain ⟨k, v⟩ := e
    simp only [tblWfFrom, Bool.and_eq_true, decide_eq_true_eq] at h ⊢
    exact ⟨⟨by omega, h.1.2⟩, h.2⟩

theorem tblWfFrom_set {t : List (Nat × α)} {b i : Nat} {x : α} (hi : b ≤ i) (h : tblWfFrom d b t = true) :
    tblWfFrom d b (tblSet d t i x) = true := by
  induction t generalizing b with
  | nil =>
    simp only [tblSet]
    split
    · rfl
    · simp_all [tblWfFrom]
  | cons e t ih =>
    obtain ⟨k, v⟩ := e
    simp only [tblWfFrom, Bool.and_eq_true, decide_eq_true_eq] at h
    obtain ⟨⟨h1, h2⟩, h3⟩ := h
    simp only [tblSet]
    split
    · split
      · simp_all [tblWfFrom]
      · simp only [tblWfFrom, Bool.and_eq_true, decide_eq_true_eq]
        exact ⟨⟨hi, by assumption⟩, ⟨by omega, h2⟩, h3⟩
    · split
      · subst k
        split
        · exact tblWfFrom_mono (by omega) h3
        · simp only [tblWfFrom, Bool.and_eq_true, decide_eq_true_eq]
          exact ⟨⟨hi, by assumption⟩, h3⟩
      · simp only [tblWfFrom, Bool.and_eq_true, decide_eq_true_eq]
        exact ⟨⟨h1, h2⟩, ih (by omega) h3⟩

theorem tblWf_nil : tblWf d [] = true := rfl

theorem tblWf_set {t : List (Nat × α)} (i : Nat) (x : α) (h : tblWf d t = true) : tblWf d (tblSet d t i x) = true :=
  tblWfFrom_set (Nat.zero_le i) h

theorem tblWf_setRun {t : List (Nat × α)} (i : Nat) (xs : List α) (h : tblWf d t = true) : tblWf d (tblSetRun d t i xs) = true := by
  induction xs generalizing t i with
  | nil => exact h
  | cons x xs ih => exact ih (i + 1) (tblWf_set i x h)

theorem tblWfFrom_filter {t : List (Nat × α)} {b : Nat} (p : Nat × α → Bool) (h : tblWfFrom d b t = true) :
    tblWfFrom d b (t.filter p) = true := by
  induction t generalizing b with
  | nil => rfl
  | cons e t ih =>
    obtain ⟨k, v⟩ := e
    simp only [tblWfFrom, Bool.and_eq_true, decide_eq_true_eq] at h
    obtain ⟨⟨h1, h2⟩, h3⟩ := h
    rw [List.filter_cons]
    split
    · simp only [tblWfFrom, Bool.and_eq_true, decide_eq_true_eq]
      exact ⟨⟨h1, h2⟩, ih h3⟩
    · exact tblWfFrom_mono (by omega) (ih h3)

theorem tblWf_filter {t : List (Nat × α)} (p : Nat × α → Bool) (h : tblWf d t = true) : tblWf d (t.filter p) = true :=
  tblWfFrom_filter p h

theorem tblWf_clear {t : List (Nat × α)} (lo len : Nat) (h : tblWf d t = true) : tblWf d (tblClear t lo len) = true :=
  tblWf_filter _ h

/-- Below its first key a canonical table holds nothing. -/
theorem tblGet_below {t : List (Nat × α)} {b i : Nat} (hi : i < b) (h : tblWfFrom d b t = true) : tblGet d t i = d i := by
  cases t with
  | nil => rfl
  | cons e t =>
    obtain ⟨k, v⟩ := e
    simp only [tblWfFrom, Bool.and_eq_true, decide_eq_true_eq] at h
    simp only [tblGet]
    rw [if_neg (by omega), if_pos (by omega)]

theorem tblGet_setFrom {t : List (Nat × α)} {b : Nat} (i j : Nat) (x : α) (h : tblWfFrom d b t = true) :
    tblGet d (tblSet d t i x) j = if j = i then x else tblGet d t j := by
  induction t generalizing b with
  | nil =>
    simp only [tblSet]
    split
    · next hx => by_cases hj : j = i <;> simp [tblGet, hj, hx]
    · by_cases hj : j = i <;> simp [tblGet, hj]
  | cons e t ih =>
    obtain ⟨k, v⟩ := e
    simp only [tblWfFrom, Bool.and_eq_true, decide_eq_true_eq] at h
    obtain ⟨⟨-, -⟩, h3⟩ := h
    simp only [tblSet]
    split
    · next hk =>
      split
      · next hx =>
        by_cases hj : j = i
        · subst hj
          simp only [tblGet, if_true]
          rw [if_neg (by omega), if_pos hk, hx]
        · simp [hj]
      · by_cases hj : j = i
        · simp [tblGet, hj]
        · simp only [tblGet, if_neg hj]
          split
          · rw [if_neg (by omega), if_pos (by omega)]
          · rfl
    · split
      · next hk =>
        subst hk
        split
        · next hx =>
          by_cases hj : j = i
          · subst hj
            rw [tblGet_below (by omega) h3, if_pos rfl, hx]
          · simp only [tblGet, if_neg hj]
            split
            · rw [tblGet_below (by omega) h3]
            · rfl
        · by_cases hj : j = i <;> simp [tblGet, hj]
      · by_cases hj : j = i
        · subst hj
          simp only [tblGet, if_true]
          rw [if_neg (by omega), if_neg (by omega), ih h3, if_pos rfl]
        · simp only [tblGet, if_neg hj]
          rw [ih h3, if_neg hj]

/-- A read after a write: the value written at its key, and what stood there at every other. -/
theorem tblGet_set {t : List (Nat × α)} (i j : Nat) (x : α) (h : tblWf d t = true) :
    tblGet d (tblSet d t i x) j = if j = i then x else tblGet d t j := tblGet_setFrom i j x h

theorem tblGet_set_self {t : List (Nat × α)} (i : Nat) (x : α) (h : tblWf d t = true) : tblGet d (tblSet d t i x) i = x := by
  rw [tblGet_set i i x h, if_pos rfl]

theorem tblGet_set_ne {t : List (Nat × α)} {i j : Nat} (x : α) (h : tblWf d t = true) (hj : j ≠ i) :
    tblGet d (tblSet d t i x) j = tblGet d t j := by
  rw [tblGet_set i j x h, if_neg hj]

/-- A run of values written from i upward is read back inside it, and nothing outside it changes. -/
theorem tblGet_setRun {t : List (Nat × α)} (i j : Nat) (xs : List α) (h : tblWf d t = true) :
    tblGet d (tblSetRun d t i xs) j = if i ≤ j ∧ j < i + xs.length then xs.getD (j - i) (d j) else tblGet d t j := by
  induction xs generalizing t i with
  | nil =>
    rw [if_neg (by simp)]
    rfl
  | cons x xs ih =>
    simp only [tblSetRun]
    rw [ih (i + 1) (tblWf_set i x h), List.length_cons]
    by_cases hlt : i + 1 ≤ j ∧ j < i + 1 + xs.length
    · rw [if_pos hlt, if_pos (by omega)]
      obtain ⟨m, rfl⟩ : ∃ m, j = i + 1 + m := ⟨j - (i + 1), by omega⟩
      rw [show i + 1 + m - (i + 1) = m by omega, show i + 1 + m - i = m + 1 by omega]
      rfl
    · rw [if_neg hlt, tblGet_set i j x h]
      by_cases hj : j = i
      · subst hj
        rw [if_pos rfl, if_pos (by omega)]
        simp
      · rw [if_neg hj, if_neg (by omega)]

theorem tblGet_filter_from {t : List (Nat × α)} {b j : Nat} (p : Nat → Bool) (h : tblWfFrom d b t = true) :
    tblGet d (t.filter fun e => p e.1) j = if p j then tblGet d t j else d j := by
  induction t generalizing b with
  | nil => simp [tblGet]
  | cons e t ih =>
    obtain ⟨k, v⟩ := e
    simp only [tblWfFrom, Bool.and_eq_true, decide_eq_true_eq] at h
    obtain ⟨⟨-, -⟩, h3⟩ := h
    rw [List.filter_cons]
    by_cases hk : p k = true
    · simp only [hk, if_true, tblGet]
      split
      · next e => subst e; simp [hk]
      · split
        · simp
        · exact ih h3
    · simp only [hk, tblGet]
      rw [if_neg (by simp), ih h3]
      split
      · next hp =>
        rw [if_neg (show ¬j = k from fun hjk => hk (hjk ▸ hp))]
        split
        · rw [tblGet_below (by omega) h3]
        · rfl
      · rfl

/-- A cleared range reads as unlisted; every other key keeps its value. -/
theorem tblGet_clear {t : List (Nat × α)} (lo len j : Nat) (h : tblWf d t = true) :
    tblGet d (tblClear t lo len) j = if lo ≤ j ∧ j < lo + len then d j else tblGet d t j := by
  have := tblGet_filter_from (d := d) (j := j) (fun k => !(decide (lo ≤ k) && decide (k < lo + len))) h
  rw [tblClear, this]
  by_cases h1 : lo ≤ j <;> by_cases h2 : j < lo + len <;> simp [h1, h2]

end Sys2Proof
end

