-- ==== Sys2Proof/Laws/Keeps.lean ====
section
/-! SUPPORT. Keeps is a preorder that every elementary update of the state respects; the lemmas of Laws/Keeps*.lean carry it through every
operation of the model, one lemma for each. -/
namespace Sys2Proof.Machine

theorem keeps_refl (s : State) : Keeps s s :=
  ⟨id, rfl, rfl, Nat.le_refl _, rfl, Nat.le_refl _, List.prefix_refl _⟩

theorem keeps_trans {r s t : State} (h : Keeps r s) (h' : Keeps s t) : Keeps r t :=
  ⟨fun a => h'.sound (h.sound a), h'.pending.trans h.pending, h'.variant.trans h.variant, Nat.le_trans h.minSvn h'.minSvn,
    h'.factory.trans h.factory, Nat.le_trans h.freeCtr h'.freeCtr, h.out.trans h'.out⟩

theorem keeps_ite {r a b : State} {c : Prop} [Decidable c] (ha : Keeps r a) (hb : Keeps r b) : Keeps r (if c then a else b) := by
  split <;> assumption

theorem keeps_foldl {r s : State} {α : Type} {f : State → α → State} (l : List α) (hf : ∀ s x, Keeps r s → Keeps r (f s x))
    (h : Keeps r s) : Keeps r (l.foldl f s) := by
  induction l generalizing s with
  | nil => exact h
  | cons x l ih => exact ih (hf s x h)

/-- An update of fields that Keeps does not name. -/
theorem keeps_free {r s : State} (pos : Pos) (stepTick : Nat) (slew : Int) (sinceSlew missed : Nat) (boundary : Option Boundary)
    (early : List EarlyPart) (train : TrainState) (hearth : List (Nat × List Word)) (stash : StashState) (landings : List Landing)
    (nextLanding : Nat) (power : PowerState) (lps : List LowPower) (walks : List Walk) (domains : List Domain) (ports : List Port)
    (fabric : Fabric) (colls : List Coll) (nextColl : Nat) (annex : Annex) (restore : Restore) (imsic : List (Nat × Nat)) (boot : Boot)
    (pins : Pins) (h : Keeps r s) :
    Keeps r (State.mk s.pending s.freeCtr s.variant s.mem s.regs s.boxRegs s.boxMem pos stepTick slew sinceSlew missed boundary early
      train s.units s.queues s.entries s.tiles s.bankKinds s.lanes hearth stash landings nextLanding power lps walks domains ports
      fabric colls nextColl annex restore s.faults imsic s.mram s.store boot pins s.out) :=
  ⟨fun a => let b := h.sound a; ⟨b.mem, b.store, b.boxMem, b.boxRegs, b.regs, b.entries, b.tiles, b.kinds, b.lanes, b.logLength,
      b.logRecords, b.units, b.queues⟩, h.pending, h.variant, h.minSvn, h.factory, h.freeCtr, h.out⟩

theorem keeps_mem {r s : State} (m : List Host.Cell) (hm : memWf s.mem = true → memWf m = true) (h : Keeps r s) :
    Keeps r { s with mem := m } :=
  ⟨fun a => let b := h.sound a; { b with mem := hm b.mem }, h.pending, h.variant, h.minSvn, h.factory, h.freeCtr, h.out⟩

theorem keeps_store {r s : State} (m : List Host.Cell) (hm : memWf s.store = true → memWf m = true) (h : Keeps r s) :
    Keeps r { s with store := m } :=
  ⟨fun a => let b := h.sound a; { b with store := hm b.store }, h.pending, h.variant, h.minSvn, h.factory, h.freeCtr, h.out⟩

theorem keeps_boxMem {r s : State} (m : List Host.Cell) (hm : memWf s.boxMem = true → memWf m = true) (h : Keeps r s) :
    Keeps r { s with boxMem := m } :=
  ⟨fun a => let b := h.sound a; { b with boxMem := hm b.boxMem }, h.pending, h.variant, h.minSvn, h.factory, h.freeCtr, h.out⟩

theorem keeps_boxRegs {r s : State} (m : List (Nat × Word)) (hm : tblWf zeroWord s.boxRegs = true → tblWf zeroWord m = true)
    (h : Keeps r s) : Keeps r { s with boxRegs := m } :=
  ⟨fun a => let b := h.sound a; { b with boxRegs := hm b.boxRegs }, h.pending, h.variant, h.minSvn, h.factory, h.freeCtr, h.out⟩

theorem keeps_regs {r s : State} (m : List (Nat × Word))
    (hm : tblWf (regDefault s.variant) s.regs = true → tblWf (regDefault s.variant) m = true) (h : Keeps r s) :
    Keeps r { s with regs := m } :=
  ⟨fun a => let b := h.sound a; { b with regs := hm b.regs }, h.pending, h.variant, h.minSvn, h.factory, h.freeCtr, h.out⟩

theorem keeps_entries {r s : State} (m : List (Nat × CellarEntry))
    (hm : tblWf entryDefault s.entries = true → tblWf entryDefault m = true) (h : Keeps r s) : Keeps r { s with entries := m } :=
  ⟨fun a => let b := h.sound a; { b with entries := hm b.entries }, h.pending, h.variant, h.minSvn, h.factory, h.freeCtr, h.out⟩

theorem keeps_tiles {r s : State} (m : List (Nat × CellarTile))
    (hm : tblWf tileDefault s.tiles = true → tblWf tileDefault m = true) (h : Keeps r s) : Keeps r { s with tiles := m } :=
  ⟨fun a => let b := h.sound a; { b with tiles := hm b.tiles }, h.pending, h.variant, h.minSvn, h.factory, h.freeCtr, h.out⟩

theorem keeps_kinds {r s : State} (m : List (Nat × BankKind))
    (hm : tblWf kindDefault s.bankKinds = true → tblWf kindDefault m = true) (h : Keeps r s) : Keeps r { s with bankKinds := m } :=
  ⟨fun a => let b := h.sound a; { b with kinds := hm b.kinds }, h.pending, h.variant, h.minSvn, h.factory, h.freeCtr, h.out⟩

theorem keeps_lanes {r s : State} (m : List (Nat × Lane))
    (hm : tblWf laneDefault s.lanes = true → tblWf laneDefault m = true) (h : Keeps r s) : Keeps r { s with lanes := m } :=
  ⟨fun a => let b := h.sound a; { b with lanes := hm b.lanes }, h.pending, h.variant, h.minSvn, h.factory, h.freeCtr, h.out⟩

theorem keeps_tick {r s : State} (h : Keeps r s) : Keeps r (tick s) :=
  ⟨fun a => let b := h.sound a; { b with }, h.pending, h.variant, h.minSvn, h.factory, Nat.le_succ_of_le h.freeCtr, h.out⟩

theorem keeps_emit {r s : State} (o : Out) (h : Keeps r s) : Keeps r (emit o s) :=
  ⟨fun a => let b := h.sound a; { b with }, h.pending, h.variant, h.minSvn, h.factory, h.freeCtr,
    h.out.trans (List.prefix_append _ _)⟩

/-! Units. -/

/-- A unit that is sound whenever the state r is. -/
def UnitOk (r : State) (x : ProgUnit) : Prop := Sound r → UnitSound x

theorem upsert_forall {α : Type} {P : α → Prop} {p : α → Bool} {x : α} {l : List α} (hx : P x) (hl : ∀ y ∈ l, P y) :
    ∀ y ∈ upsert p x l, P y := by
  induction l with
  | nil => intro y hy; simp only [upsert, List.mem_singleton] at hy; exact hy ▸ hx
  | cons z l ih =>
    intro y hy
    simp only [upsert] at hy
    split at hy
    · rcases List.mem_cons.mp hy with rfl | hy
      · exact hx
      · exact hl y (List.mem_cons_of_mem _ hy)
    · rcases List.mem_cons.mp hy with rfl | hy
      · exact hl _ List.mem_cons_self
      · exact ih (fun w hw => hl w (List.mem_cons_of_mem _ hw)) y hy

theorem keeps_units {r s : State} (l : List ProgUnit) (hl : Sound s → ∀ x ∈ l, UnitSound x) (h : Keeps r s) :
    Keeps r { s with units := l } :=
  ⟨fun a => let b := h.sound a; { b with units := hl b }, h.pending, h.variant, h.minSvn, h.factory, h.freeCtr, h.out⟩

theorem keeps_units_map {r s : State} {f : ProgUnit → ProgUnit} (hf : ∀ x, UnitOk r x → UnitOk r (f x)) (h : Keeps r s) :
    Keeps r { s with units := s.units.map f } :=
  ⟨fun a => let b := h.sound a; { b with
      units := fun x hx => by
        obtain ⟨y, hy, rfl⟩ := List.mem_map.mp hx
        exact hf y (fun _ => b.units y hy) a }, h.pending, h.variant, h.minSvn, h.factory, h.freeCtr, h.out⟩

theorem keeps_setUnit {r s : State} {x : ProgUnit} (hx : UnitOk r x) (h : Keeps r s) : Keeps r (setUnit s x) :=
  ⟨fun a => let b := h.sound a; { b with units := upsert_forall (hx a) b.units }, h.pending, h.variant, h.minSvn, h.factory,
    h.freeCtr, h.out⟩

theorem unitSound_idle (u : UnitRef) : UnitSound (idleUnit u) :=
  ⟨rfl, rfl, rfl, rfl, rfl, Nat.zero_le _⟩

theorem find_getD {α : Type} {P : α → Prop} {p : α → Bool} {x : α} {l : List α} (hx : P x) (hl : ∀ y ∈ l, P y) :
    P ((l.find? p).getD x) := by
  cases hf : l.find? p with
  | none => exact hx
  | some y => exact hl y (List.mem_of_find?_eq_some hf)

theorem unitOk_getUnit {r s : State} (u : UnitRef) (h : Keeps r s) : UnitOk r (getUnit s u) := fun a =>
  find_getD (unitSound_idle u) (h.sound a).units

theorem unitOk_idle {r : State} (u : UnitRef) : UnitOk r (idleUnit u) := fun _ => unitSound_idle u

theorem unitOk_ite {r : State} {a b : ProgUnit} {c : Prop} [Decidable c] (ha : UnitOk r a) (hb : UnitOk r b) :
    UnitOk r (if c then a else b) := by
  split <;> assumption

/-- An update of fields that UnitSound does not name. -/
theorem unitOk_free {r : State} {x : ProgUnit} (ref : UnitRef) (owner : Owner) (running ended stopped paused : Bool) (pc : Nat)
    (store : List Word) (p : BitVec 8) (waiting : Option Instr) (nextOp status statusOp flags : Nat) (h : UnitOk r x) :
    UnitOk r (ProgUnit.mk ref owner running ended stopped paused pc store x.g x.t x.k x.c p x.st waiting x.inFlight nextOp status
      statusOp flags) := fun a => let b := h a; ⟨b.g, b.t, b.k, b.c, b.st, b.inFlight⟩

theorem unitOk_fewer {r : State} {x : ProgUnit} (ref : UnitRef) (owner : Owner) (running ended stopped paused : Bool) (pc : Nat)
    (store : List Word) (p : BitVec 8) (waiting : Option Instr) (nextOp status statusOp flags : Nat) (f : Op → Bool) (h : UnitOk r x) :
    UnitOk r (ProgUnit.mk ref owner running ended stopped paused pc store x.g x.t x.k x.c p x.st waiting (x.inFlight.filter f) nextOp
      status statusOp flags) := fun a =>
  let b := h a; ⟨b.g, b.t, b.k, b.c, b.st, Nat.le_trans (List.length_filter_le _ _) b.inFlight⟩

theorem unitOk_mapped {r : State} {x : ProgUnit} (ref : UnitRef) (owner : Owner) (running ended stopped paused : Bool) (pc : Nat)
    (store : List Word) (p : BitVec 8) (waiting : Option Instr) (nextOp status statusOp flags : Nat) (f : Op → Op) (h : UnitOk r x) :
    UnitOk r (ProgUnit.mk ref owner running ended stopped paused pc store x.g x.t x.k x.c p x.st waiting (x.inFlight.map f) nextOp
      status statusOp flags) := fun a =>
  let b := h a; ⟨b.g, b.t, b.k, b.c, b.st, by rw [List.length_map]; exact b.inFlight⟩

theorem unitOk_emptied {r : State} {x : ProgUnit} (ref : UnitRef) (owner : Owner) (running ended stopped paused : Bool) (pc : Nat)
    (store : List Word) (p : BitVec 8) (waiting : Option Instr) (nextOp status statusOp flags : Nat) (h : UnitOk r x) :
    UnitOk r (ProgUnit.mk ref owner running ended stopped paused pc store x.g x.t x.k x.c p x.st waiting [] nextOp
      status statusOp flags) := fun a => let b := h a; ⟨b.g, b.t, b.k, b.c, b.st, Nat.zero_le _⟩

theorem unitOk_setG {r : State} {x : ProgUnit} (n v : Nat) (h : UnitOk r x) : UnitOk r (setG x n v) := by
  unfold setG
  split
  · exact h
  · exact fun a => let b := h a; ⟨by simpa using b.g, b.t, b.k, b.c, b.st, b.inFlight⟩

theorem unitOk_setT {r : State} {x : ProgUnit} (n v : Nat) (h : UnitOk r x) : UnitOk r (setT x n v) := fun a =>
  let b := h a; ⟨b.g, by simpa [setT] using b.t, b.k, b.c, b.st, b.inFlight⟩

theorem unitOk_setK {r : State} {x : ProgUnit} (n v : Nat) (h : UnitOk r x) : UnitOk r (setK x n v) := fun a =>
  let b := h a; ⟨b.g, b.t, by simpa [setK] using b.k, b.c, b.st, b.inFlight⟩

theorem unitOk_setC {r : State} {x : ProgUnit} (n v : Nat) (h : UnitOk r x) : UnitOk r (setC x n v) := fun a =>
  let b := h a; ⟨b.g, b.t, b.k, by simpa [setC] using b.c, b.st, b.inFlight⟩

theorem unitOk_setSt {r : State} {x : ProgUnit} (n : Nat) (v : Pos) (h : UnitOk r x) : UnitOk r (setSt x n v) := fun a =>
  let b := h a; ⟨b.g, b.t, b.k, b.c, by simpa [setSt] using b.st, b.inFlight⟩

theorem unitOk_setP {r : State} {x : ProgUnit} (n : Nat) (v : Bool) (h : UnitOk r x) : UnitOk r (setP x n v) := by
  unfold setP
  exact unitOk_ite h (unitOk_free _ _ _ _ _ _ _ _ _ _ _ _ _ _ h)

theorem unitOk_advance {r : State} {x : ProgUnit} (n : Nat) (h : UnitOk r x) : UnitOk r (advance x n) :=
  unitOk_free _ _ _ _ _ _ _ _ _ _ _ _ _ _ h

/-! Queues. -/

/-- A queue within its bound whenever the state r is sound. -/
def QueueOk (r : State) (q : Queue) : Prop := Sound r → q.cmds.length ≤ 64

theorem keeps_setQueue {r s : State} {q : Queue} (hq : QueueOk r q) (h : Keeps r s) : Keeps r (setQueue s q) :=
  ⟨fun a => let b := h.sound a; { b with queues := upsert_forall (P := fun q : Queue => q.cmds.length ≤ 64) (hq a) b.queues }, h.pending,
    h.variant, h.minSvn, h.factory, h.freeCtr, h.out⟩

theorem queueOk_getQueue {r s : State} (q : Nat) (h : Keeps r s) : QueueOk r (getQueue s q) := fun a =>
  find_getD (P := fun q : Queue => q.cmds.length ≤ 64) (Nat.zero_le _) (h.sound a).queues

theorem queueOk_free {r : State} {q : Queue} (id tail : Nat) (failed : Bool) (h : QueueOk r q) :
    QueueOk r (Queue.mk id tail q.cmds failed) := h

theorem queueOk_map {r : State} {q : Queue} (id tail : Nat) (failed : Bool) (f : Cmd → Cmd) (h : QueueOk r q) :
    QueueOk r (Queue.mk id tail (q.cmds.map f) failed) := fun a => by
  have := h a
  simpa using this

/-! Registers, memory, boxes, Cellar and lanes. -/

theorem keeps_setReg {r s : State} (dom off : Nat) (w : Word) (h : Keeps r s) : Keeps r (setReg s dom off w) :=
  keeps_regs _ (fun b => tblWf_set _ _ b) h

theorem keeps_writeMem {r s : State} (a : Nat) (bs : List Byte) (h : Keeps r s) : Keeps r (writeMem s a bs) :=
  keeps_mem _ (fun b => tblWf_setRun _ _ b) h

theorem keeps_setBox {r s : State} (box off : Nat) (w : Word) (h : Keeps r s) : Keeps r (setBox s box off w) :=
  keeps_boxRegs _ (fun b => tblWf_set _ _ b) h

theorem keeps_slotWrite {r s : State} (box n off : Nat) (bs : List Byte) (h : Keeps r s) : Keeps r (slotWrite s box n off bs) :=
  keeps_boxMem _ (fun b => tblWf_setRun _ _ b) h

theorem keeps_putEntry {r s : State} (bank i j : Nat) (e : CellarEntry) (h : Keeps r s) : Keeps r (putEntry bank i j e s) :=
  keeps_entries _ (fun b => tblWf_set _ _ b) h

theorem keeps_putTileRec {r s : State} (bank n : Nat) (t : CellarTile) (h : Keeps r s) : Keeps r (putTileRec bank n t s) :=
  keeps_tiles _ (fun b => tblWf_set _ _ b) h

theorem keeps_putKind {r s : State} (bank : Nat) (k : BankKind) (h : Keeps r s) : Keeps r (putKind bank k s) :=
  keeps_kinds _ (fun b => tblWf_set _ _ b) h

theorem keeps_zeroBank {r s : State} (bank : Nat) (h : Keeps r s) : Keeps r (zeroBank bank s) := by
  unfold zeroBank
  exact keeps_putKind _ _ (keeps_tiles _ (fun b => tblWf_clear _ _ b) (keeps_entries _ (fun b => tblWf_clear _ _ b) h))

theorem keeps_setLane {r s : State} (dom l : Nat) (x : Lane) (h : Keeps r s) : Keeps r (setLane s dom l x) :=
  keeps_lanes _ (fun b => tblWf_set _ _ b) h

/-! MRAM. -/

/-- An update of what the Porch keeps in MRAM beside MIN_SVN. -/
theorem keeps_mram {r s : State} (minSvn bootCount : Nat) (ageing : List (Nat × Nat)) (lastTrip shutdown : Option Nat)
    (unlogged : List Nat) (image : List Byte) (hm : s.mram.minSvn ≤ minSvn) (h : Keeps r s) :
    Keeps r { s with mram := (Mram.mk minSvn bootCount ageing lastTrip shutdown unlogged s.mram.copyA s.mram.copyB s.mram.puf
      s.mram.certRoot s.mram.certCa s.mram.certDevice image) } :=
  ⟨fun a => let b := h.sound a; { b with }, h.pending, h.variant, Nat.le_trans h.minSvn hm, h.factory, h.freeCtr, h.out⟩

/-! Fault records. -/

theorem leBytes_length (len n : Nat) : (leBytes len n).length = len := by simp [leBytes]

theorem faultBytes_length (seq : Nat) (p : Pos) (f : FaultInfo) : (faultBytes seq p f).length = 64 := by
  simp only [faultBytes, posBytes, List.length_append, leBytes_length, List.length_cons, List.length_nil]

theorem keeps_faults {r s : State} (l : List (List Byte)) (hl : Sound s → l.length ≤ 4096 ∧ ∀ b ∈ l, b.length = 64) (h : Keeps r s) :
    Keeps r { s with faults := l } :=
  ⟨fun a => let c := h.sound a; { c with logLength := (hl c).1, logRecords := (hl c).2 }, h.pending, h.variant, h.minSvn, h.factory,
    h.freeCtr, h.out⟩

/-- The log with one more record, its oldest dropped past a bound (R339). -/
theorem log_bounded {l : List (List Byte)} {b : List Byte} (n : Nat) (hb : b.length = 64) (hl : ∀ x ∈ l, x.length = 64) :
    ((l ++ [b]).drop ((l ++ [b]).length - n)).length ≤ n ∧ ∀ x ∈ (l ++ [b]).drop ((l ++ [b]).length - n), x.length = 64 := by
  refine ⟨by rw [List.length_drop]; omega, fun x hx => ?_⟩
  rcases List.mem_append.mp (List.mem_of_mem_drop hx) with hx | hx
  · exact hl x hx
  · rw [List.mem_singleton.mp hx]
    exact hb

theorem keeps_logged {r s : State} {b : List Byte} (n : Nat) (hn : n = 4096) (hb : b.length = 64) (h : Keeps r s) :
    Keeps r { s with faults := (s.faults ++ [b]).drop ((s.faults ++ [b]).length - n) } :=
  keeps_faults _ (fun a => let c := log_bounded n hb a.logRecords; ⟨hn ▸ c.1, c.2⟩) h

/-! What an instruction's plan, a control outcome and an arrived packet keep, and folds over records that carry a state. -/

/-- A control instruction's outcome keeps. -/
def CtlKeeps (r : State) : Ctl → Prop
  | .done s => Keeps r s
  | .refuse _ => True
  | .wait s => Keeps r s
def ArrKeeps (r : State) : Arrival → Prop
  | .gone s => Keeps r s
  | .later s => Keeps r s
  | .here s => Keeps r s
def PlanKeeps (p : Plan) : Prop := ∀ r id s, Keeps r s → Keeps r (p.run id s).s
def BodyKeeps : Body → Prop
  | .control g => ∀ r s x f, Keeps r s → UnitOk r x → CtlKeeps r (g s x f)
  | .op g => ∀ s x f, PlanKeeps (g s x f)
def DefKeeps (d : OpDef) : Prop := BodyKeeps d.body
theorem ctlKeeps_done {r s : State} (h : Keeps r s) : CtlKeeps r (.done s) := h
theorem ctlKeeps_wait {r s : State} (h : Keeps r s) : CtlKeeps r (.wait s) := h
theorem ctlKeeps_refuse {r : State} (n : Nat) : CtlKeeps r (.refuse n) := trivial
theorem ctlKeeps_ite {r : State} {a b : Ctl} {c : Prop} [Decidable c] (ha : CtlKeeps r a) (hb : CtlKeeps r b) : CtlKeeps r
    (if c then a else b) := by
  split <;> assumption
theorem arrKeeps_gone {r s : State} (h : Keeps r s) : ArrKeeps r (.gone s) := h
theorem arrKeeps_later {r s : State} (h : Keeps r s) : ArrKeeps r (.later s) := h
theorem arrKeeps_here {r s : State} (h : Keeps r s) : ArrKeeps r (.here s) := h
theorem arrKeeps_ite {r : State} {a b : Arrival} {c : Prop} [Decidable c] (ha : ArrKeeps r a) (hb : ArrKeeps r b) : ArrKeeps r
    (if c then a else b) := by
  split <;> assumption
theorem keeps_gone {r s : State} {a : Arrival} (h : ArrKeeps r a) (e : a = .gone s) : Keeps r s := by rw [e] at h; exact h
theorem keeps_later {r s : State} {a : Arrival} (h : ArrKeeps r a) (e : a = .later s) : Keeps r s := by rw [e] at h; exact h
theorem keeps_here {r s : State} {a : Arrival} (h : ArrKeeps r a) (e : a = .here s) : Keeps r s := by rw [e] at h; exact h
theorem keeps_foldl_fst {r : State} {α β : Type} {f : State × β → α → State × β} {b : State × β} (l : List α)
    (hf : ∀ t x, Keeps r t.1 → Keeps r (f t x).1) (h : Keeps r b.1) : Keeps r (l.foldl f b).1 := by
  induction l generalizing b with
  | nil => exact h
  | cons x l ih => exact ih (hf b x h)
theorem keeps_foldl_snd {r : State} {α β : Type} {f : β × State → α → β × State} {b : β × State} (l : List α)
    (hf : ∀ t x, Keeps r t.2 → Keeps r (f t x).2) (h : Keeps r b.2) : Keeps r (l.foldl f b).2 := by
  induction l generalizing b with
  | nil => exact h
  | cons x l ih => exact ih (hf b x h)
theorem unitOk_foldl {r : State} {α : Type} {f : ProgUnit → α → ProgUnit} {b : ProgUnit} (l : List α)
    (hf : ∀ t x, UnitOk r t → UnitOk r (f t x)) (h : UnitOk r b) : UnitOk r (l.foldl f b) := by
  induction l generalizing b with
  | nil => exact h
  | cons x l ih => exact ih (hf b x h)
theorem keeps_foldl_Effect {r : State} {α : Type} {f : Effect → α → Effect} {b : Effect} (l : List α)
    (hf : ∀ t x, Keeps r t.s → Keeps r (f t x).s) (h : Keeps r b.s) : Keeps r (l.foldl f b).s := by
  induction l generalizing b with
  | nil => exact h
  | cons x l ih => exact ih (hf b x h)
theorem keeps_ite_Effect {r : State} {a b : Effect} {c : Prop} [Decidable c] (ha : Keeps r a.s) (hb : Keeps r b.s) :
    Keeps r (if c then a else b).s := by
  split <;> assumption
theorem keeps_foldl_CollEnd {r : State} {α : Type} {f : CollEnd → α → CollEnd} {b : CollEnd} (l : List α)
    (hf : ∀ t x, Keeps r t.s → Keeps r (f t x).s) (h : Keeps r b.s) : Keeps r (l.foldl f b).s := by
  induction l generalizing b with
  | nil => exact h
  | cons x l ih => exact ih (hf b x h)
theorem keeps_ite_CollEnd {r : State} {a b : CollEnd} {c : Prop} [Decidable c] (ha : Keeps r a.s) (hb : Keeps r b.s) :
    Keeps r (if c then a else b).s := by
  split <;> assumption
theorem keeps_foldl_Commit {r : State} {α : Type} {f : Commit → α → Commit} {b : Commit} (l : List α)
    (hf : ∀ t x, Keeps r t.s → Keeps r (f t x).s) (h : Keeps r b.s) : Keeps r (l.foldl f b).s := by
  induction l generalizing b with
  | nil => exact h
  | cons x l ih => exact ih (hf b x h)
theorem keeps_ite_Commit {r : State} {a b : Commit} {c : Prop} [Decidable c] (ha : Keeps r a.s) (hb : Keeps r b.s) :
    Keeps r (if c then a else b).s := by
  split <;> assumption
theorem keeps_foldl_DrainSum {r : State} {α : Type} {f : DrainSum → α → DrainSum} {b : DrainSum} (l : List α)
    (hf : ∀ t x, Keeps r t.s → Keeps r (f t x).s) (h : Keeps r b.s) : Keeps r (l.foldl f b).s := by
  induction l generalizing b with
  | nil => exact h
  | cons x l ih => exact ih (hf b x h)
theorem keeps_ite_DrainSum {r : State} {a b : DrainSum} {c : Prop} [Decidable c] (ha : Keeps r a.s) (hb : Keeps r b.s) :
    Keeps r (if c then a else b).s := by
  split <;> assumption
theorem keeps_foldl_LayerDecision {r : State} {α : Type} {f : LayerDecision → α → LayerDecision} {b : LayerDecision} (l : List α)
    (hf : ∀ t x, Keeps r t.s → Keeps r (f t x).s) (h : Keeps r b.s) : Keeps r (l.foldl f b).s := by
  induction l generalizing b with
  | nil => exact h
  | cons x l ih => exact ih (hf b x h)
theorem keeps_ite_LayerDecision {r : State} {a b : LayerDecision} {c : Prop} [Decidable c] (ha : Keeps r a.s) (hb : Keeps r b.s) :
    Keeps r (if c then a else b).s := by
  split <;> assumption
theorem keeps_foldl_MmaSum {r : State} {α : Type} {f : MmaSum → α → MmaSum} {b : MmaSum} (l : List α)
    (hf : ∀ t x, Keeps r t.s → Keeps r (f t x).s) (h : Keeps r b.s) : Keeps r (l.foldl f b).s := by
  induction l generalizing b with
  | nil => exact h
  | cons x l ih => exact ih (hf b x h)
theorem keeps_ite_MmaSum {r : State} {a b : MmaSum} {c : Prop} [Decidable c] (ha : Keeps r a.s) (hb : Keeps r b.s) :
    Keeps r (if c then a else b).s := by
  split <;> assumption
theorem keeps_foldl_QSum {r : State} {α : Type} {f : QSum → α → QSum} {b : QSum} (l : List α)
    (hf : ∀ t x, Keeps r t.s → Keeps r (f t x).s) (h : Keeps r b.s) : Keeps r (l.foldl f b).s := by
  induction l generalizing b with
  | nil => exact h
  | cons x l ih => exact ih (hf b x h)
theorem keeps_ite_QSum {r : State} {a b : QSum} {c : Prop} [Decidable c] (ha : Keeps r a.s) (hb : Keeps r b.s) :
    Keeps r (if c then a else b).s := by
  split <;> assumption
theorem keeps_foldl_QTile {r : State} {α : Type} {f : QTile → α → QTile} {b : QTile} (l : List α)
    (hf : ∀ t x, Keeps r t.s → Keeps r (f t x).s) (h : Keeps r b.s) : Keeps r (l.foldl f b).s := by
  induction l generalizing b with
  | nil => exact h
  | cons x l ih => exact ih (hf b x h)
theorem keeps_ite_QTile {r : State} {a b : QTile} {c : Prop} [Decidable c] (ha : Keeps r a.s) (hb : Keeps r b.s) :
    Keeps r (if c then a else b).s := by
  split <;> assumption
theorem keeps_foldl_UpdSum {r : State} {α : Type} {f : UpdSum → α → UpdSum} {b : UpdSum} (l : List α)
    (hf : ∀ t x, Keeps r t.s → Keeps r (f t x).s) (h : Keeps r b.s) : Keeps r (l.foldl f b).s := by
  induction l generalizing b with
  | nil => exact h
  | cons x l ih => exact ih (hf b x h)
theorem keeps_ite_UpdSum {r : State} {a b : UpdSum} {c : Prop} [Decidable c] (ha : Keeps r a.s) (hb : Keeps r b.s) :
    Keeps r (if c then a else b).s := by
  split <;> assumption
theorem keeps_foldl_VecSum {r : State} {α : Type} {f : VecSum → α → VecSum} {b : VecSum} (l : List α)
    (hf : ∀ t x, Keeps r t.s → Keeps r (f t x).s) (h : Keeps r b.s) : Keeps r (l.foldl f b).s := by
  induction l generalizing b with
  | nil => exact h
  | cons x l ih => exact ih (hf b x h)
theorem keeps_ite_VecSum {r : State} {a b : VecSum} {c : Prop} [Decidable c] (ha : Keeps r a.s) (hb : Keeps r b.s) :
    Keeps r (if c then a else b).s := by
  split <;> assumption
theorem keeps_commit {r : State} {d : LayerDecision} {n : LayerDecision → Nat} (h : Keeps r d.s) :
    Keeps r (have e := d; Commit.mk e.s (n e)).s := h

end Sys2Proof.Machine
end

