-- ==== Sys2Proof/Laws/State.lean ====
section
/-! SUPPORT. Every named update of the state, field by field: the fields it leaves alone, each true by rfl. -/
namespace Sys2Proof.Machine

@[simp] theorem setReg_pending (s : State) (dom off : Nat) (w : Word) : (setReg s dom off w).pending = s.pending := rfl
@[simp] theorem setReg_freeCtr (s : State) (dom off : Nat) (w : Word) : (setReg s dom off w).freeCtr = s.freeCtr := rfl
@[simp] theorem setReg_variant (s : State) (dom off : Nat) (w : Word) : (setReg s dom off w).variant = s.variant := rfl
@[simp] theorem setReg_mem (s : State) (dom off : Nat) (w : Word) : (setReg s dom off w).mem = s.mem := rfl
@[simp] theorem setReg_boxRegs (s : State) (dom off : Nat) (w : Word) : (setReg s dom off w).boxRegs = s.boxRegs := rfl
@[simp] theorem setReg_boxMem (s : State) (dom off : Nat) (w : Word) : (setReg s dom off w).boxMem = s.boxMem := rfl
@[simp] theorem setReg_pos (s : State) (dom off : Nat) (w : Word) : (setReg s dom off w).pos = s.pos := rfl
@[simp] theorem setReg_stepTick (s : State) (dom off : Nat) (w : Word) : (setReg s dom off w).stepTick = s.stepTick := rfl
@[simp] theorem setReg_slew (s : State) (dom off : Nat) (w : Word) : (setReg s dom off w).slew = s.slew := rfl
@[simp] theorem setReg_sinceSlew (s : State) (dom off : Nat) (w : Word) : (setReg s dom off w).sinceSlew = s.sinceSlew := rfl
@[simp] theorem setReg_missed (s : State) (dom off : Nat) (w : Word) : (setReg s dom off w).missed = s.missed := rfl
@[simp] theorem setReg_boundary (s : State) (dom off : Nat) (w : Word) : (setReg s dom off w).boundary = s.boundary := rfl
@[simp] theorem setReg_early (s : State) (dom off : Nat) (w : Word) : (setReg s dom off w).early = s.early := rfl
@[simp] theorem setReg_train (s : State) (dom off : Nat) (w : Word) : (setReg s dom off w).train = s.train := rfl
@[simp] theorem setReg_units (s : State) (dom off : Nat) (w : Word) : (setReg s dom off w).units = s.units := rfl
@[simp] theorem setReg_queues (s : State) (dom off : Nat) (w : Word) : (setReg s dom off w).queues = s.queues := rfl
@[simp] theorem setReg_entries (s : State) (dom off : Nat) (w : Word) : (setReg s dom off w).entries = s.entries := rfl
@[simp] theorem setReg_tiles (s : State) (dom off : Nat) (w : Word) : (setReg s dom off w).tiles = s.tiles := rfl
@[simp] theorem setReg_bankKinds (s : State) (dom off : Nat) (w : Word) : (setReg s dom off w).bankKinds = s.bankKinds := rfl
@[simp] theorem setReg_lanes (s : State) (dom off : Nat) (w : Word) : (setReg s dom off w).lanes = s.lanes := rfl
@[simp] theorem setReg_hearth (s : State) (dom off : Nat) (w : Word) : (setReg s dom off w).hearth = s.hearth := rfl
@[simp] theorem setReg_stash (s : State) (dom off : Nat) (w : Word) : (setReg s dom off w).stash = s.stash := rfl
@[simp] theorem setReg_landings (s : State) (dom off : Nat) (w : Word) : (setReg s dom off w).landings = s.landings := rfl
@[simp] theorem setReg_nextLanding (s : State) (dom off : Nat) (w : Word) : (setReg s dom off w).nextLanding = s.nextLanding := rfl
@[simp] theorem setReg_power (s : State) (dom off : Nat) (w : Word) : (setReg s dom off w).power = s.power := rfl
@[simp] theorem setReg_lps (s : State) (dom off : Nat) (w : Word) : (setReg s dom off w).lps = s.lps := rfl
@[simp] theorem setReg_walks (s : State) (dom off : Nat) (w : Word) : (setReg s dom off w).walks = s.walks := rfl
@[simp] theorem setReg_domains (s : State) (dom off : Nat) (w : Word) : (setReg s dom off w).domains = s.domains := rfl
@[simp] theorem setReg_ports (s : State) (dom off : Nat) (w : Word) : (setReg s dom off w).ports = s.ports := rfl
@[simp] theorem setReg_fabric (s : State) (dom off : Nat) (w : Word) : (setReg s dom off w).fabric = s.fabric := rfl
@[simp] theorem setReg_colls (s : State) (dom off : Nat) (w : Word) : (setReg s dom off w).colls = s.colls := rfl
@[simp] theorem setReg_nextColl (s : State) (dom off : Nat) (w : Word) : (setReg s dom off w).nextColl = s.nextColl := rfl
@[simp] theorem setReg_annex (s : State) (dom off : Nat) (w : Word) : (setReg s dom off w).annex = s.annex := rfl
@[simp] theorem setReg_restore (s : State) (dom off : Nat) (w : Word) : (setReg s dom off w).restore = s.restore := rfl
@[simp] theorem setReg_faults (s : State) (dom off : Nat) (w : Word) : (setReg s dom off w).faults = s.faults := rfl
@[simp] theorem setReg_imsic (s : State) (dom off : Nat) (w : Word) : (setReg s dom off w).imsic = s.imsic := rfl
@[simp] theorem setReg_mram (s : State) (dom off : Nat) (w : Word) : (setReg s dom off w).mram = s.mram := rfl
@[simp] theorem setReg_store (s : State) (dom off : Nat) (w : Word) : (setReg s dom off w).store = s.store := rfl
@[simp] theorem setReg_boot (s : State) (dom off : Nat) (w : Word) : (setReg s dom off w).boot = s.boot := rfl
@[simp] theorem setReg_pins (s : State) (dom off : Nat) (w : Word) : (setReg s dom off w).pins = s.pins := rfl
@[simp] theorem setReg_out (s : State) (dom off : Nat) (w : Word) : (setReg s dom off w).out = s.out := rfl

@[simp] theorem setRf_pending (s : State) (dom off hi lo v : Nat) : (setRf s dom off hi lo v).pending = s.pending := rfl
@[simp] theorem setRf_freeCtr (s : State) (dom off hi lo v : Nat) : (setRf s dom off hi lo v).freeCtr = s.freeCtr := rfl
@[simp] theorem setRf_variant (s : State) (dom off hi lo v : Nat) : (setRf s dom off hi lo v).variant = s.variant := rfl
@[simp] theorem setRf_mem (s : State) (dom off hi lo v : Nat) : (setRf s dom off hi lo v).mem = s.mem := rfl
@[simp] theorem setRf_boxRegs (s : State) (dom off hi lo v : Nat) : (setRf s dom off hi lo v).boxRegs = s.boxRegs := rfl
@[simp] theorem setRf_boxMem (s : State) (dom off hi lo v : Nat) : (setRf s dom off hi lo v).boxMem = s.boxMem := rfl
@[simp] theorem setRf_pos (s : State) (dom off hi lo v : Nat) : (setRf s dom off hi lo v).pos = s.pos := rfl
@[simp] theorem setRf_stepTick (s : State) (dom off hi lo v : Nat) : (setRf s dom off hi lo v).stepTick = s.stepTick := rfl
@[simp] theorem setRf_slew (s : State) (dom off hi lo v : Nat) : (setRf s dom off hi lo v).slew = s.slew := rfl
@[simp] theorem setRf_sinceSlew (s : State) (dom off hi lo v : Nat) : (setRf s dom off hi lo v).sinceSlew = s.sinceSlew := rfl
@[simp] theorem setRf_missed (s : State) (dom off hi lo v : Nat) : (setRf s dom off hi lo v).missed = s.missed := rfl
@[simp] theorem setRf_boundary (s : State) (dom off hi lo v : Nat) : (setRf s dom off hi lo v).boundary = s.boundary := rfl
@[simp] theorem setRf_early (s : State) (dom off hi lo v : Nat) : (setRf s dom off hi lo v).early = s.early := rfl
@[simp] theorem setRf_train (s : State) (dom off hi lo v : Nat) : (setRf s dom off hi lo v).train = s.train := rfl
@[simp] theorem setRf_units (s : State) (dom off hi lo v : Nat) : (setRf s dom off hi lo v).units = s.units := rfl
@[simp] theorem setRf_queues (s : State) (dom off hi lo v : Nat) : (setRf s dom off hi lo v).queues = s.queues := rfl
@[simp] theorem setRf_entries (s : State) (dom off hi lo v : Nat) : (setRf s dom off hi lo v).entries = s.entries := rfl
@[simp] theorem setRf_tiles (s : State) (dom off hi lo v : Nat) : (setRf s dom off hi lo v).tiles = s.tiles := rfl
@[simp] theorem setRf_bankKinds (s : State) (dom off hi lo v : Nat) : (setRf s dom off hi lo v).bankKinds = s.bankKinds := rfl
@[simp] theorem setRf_lanes (s : State) (dom off hi lo v : Nat) : (setRf s dom off hi lo v).lanes = s.lanes := rfl
@[simp] theorem setRf_hearth (s : State) (dom off hi lo v : Nat) : (setRf s dom off hi lo v).hearth = s.hearth := rfl
@[simp] theorem setRf_stash (s : State) (dom off hi lo v : Nat) : (setRf s dom off hi lo v).stash = s.stash := rfl
@[simp] theorem setRf_landings (s : State) (dom off hi lo v : Nat) : (setRf s dom off hi lo v).landings = s.landings := rfl
@[simp] theorem setRf_nextLanding (s : State) (dom off hi lo v : Nat) : (setRf s dom off hi lo v).nextLanding = s.nextLanding := rfl
@[simp] theorem setRf_power (s : State) (dom off hi lo v : Nat) : (setRf s dom off hi lo v).power = s.power := rfl
@[simp] theorem setRf_lps (s : State) (dom off hi lo v : Nat) : (setRf s dom off hi lo v).lps = s.lps := rfl
@[simp] theorem setRf_walks (s : State) (dom off hi lo v : Nat) : (setRf s dom off hi lo v).walks = s.walks := rfl
@[simp] theorem setRf_domains (s : State) (dom off hi lo v : Nat) : (setRf s dom off hi lo v).domains = s.domains := rfl
@[simp] theorem setRf_ports (s : State) (dom off hi lo v : Nat) : (setRf s dom off hi lo v).ports = s.ports := rfl
@[simp] theorem setRf_fabric (s : State) (dom off hi lo v : Nat) : (setRf s dom off hi lo v).fabric = s.fabric := rfl
@[simp] theorem setRf_colls (s : State) (dom off hi lo v : Nat) : (setRf s dom off hi lo v).colls = s.colls := rfl
@[simp] theorem setRf_nextColl (s : State) (dom off hi lo v : Nat) : (setRf s dom off hi lo v).nextColl = s.nextColl := rfl
@[simp] theorem setRf_annex (s : State) (dom off hi lo v : Nat) : (setRf s dom off hi lo v).annex = s.annex := rfl
@[simp] theorem setRf_restore (s : State) (dom off hi lo v : Nat) : (setRf s dom off hi lo v).restore = s.restore := rfl
@[simp] theorem setRf_faults (s : State) (dom off hi lo v : Nat) : (setRf s dom off hi lo v).faults = s.faults := rfl
@[simp] theorem setRf_imsic (s : State) (dom off hi lo v : Nat) : (setRf s dom off hi lo v).imsic = s.imsic := rfl
@[simp] theorem setRf_mram (s : State) (dom off hi lo v : Nat) : (setRf s dom off hi lo v).mram = s.mram := rfl
@[simp] theorem setRf_store (s : State) (dom off hi lo v : Nat) : (setRf s dom off hi lo v).store = s.store := rfl
@[simp] theorem setRf_boot (s : State) (dom off hi lo v : Nat) : (setRf s dom off hi lo v).boot = s.boot := rfl
@[simp] theorem setRf_pins (s : State) (dom off hi lo v : Nat) : (setRf s dom off hi lo v).pins = s.pins := rfl
@[simp] theorem setRf_out (s : State) (dom off hi lo v : Nat) : (setRf s dom off hi lo v).out = s.out := rfl

@[simp] theorem setPf_pending (s : State) (off hi lo v : Nat) : (setPf s off hi lo v).pending = s.pending := rfl
@[simp] theorem setPf_freeCtr (s : State) (off hi lo v : Nat) : (setPf s off hi lo v).freeCtr = s.freeCtr := rfl
@[simp] theorem setPf_variant (s : State) (off hi lo v : Nat) : (setPf s off hi lo v).variant = s.variant := rfl
@[simp] theorem setPf_mem (s : State) (off hi lo v : Nat) : (setPf s off hi lo v).mem = s.mem := rfl
@[simp] theorem setPf_boxRegs (s : State) (off hi lo v : Nat) : (setPf s off hi lo v).boxRegs = s.boxRegs := rfl
@[simp] theorem setPf_boxMem (s : State) (off hi lo v : Nat) : (setPf s off hi lo v).boxMem = s.boxMem := rfl
@[simp] theorem setPf_pos (s : State) (off hi lo v : Nat) : (setPf s off hi lo v).pos = s.pos := rfl
@[simp] theorem setPf_stepTick (s : State) (off hi lo v : Nat) : (setPf s off hi lo v).stepTick = s.stepTick := rfl
@[simp] theorem setPf_slew (s : State) (off hi lo v : Nat) : (setPf s off hi lo v).slew = s.slew := rfl
@[simp] theorem setPf_sinceSlew (s : State) (off hi lo v : Nat) : (setPf s off hi lo v).sinceSlew = s.sinceSlew := rfl
@[simp] theorem setPf_missed (s : State) (off hi lo v : Nat) : (setPf s off hi lo v).missed = s.missed := rfl
@[simp] theorem setPf_boundary (s : State) (off hi lo v : Nat) : (setPf s off hi lo v).boundary = s.boundary := rfl
@[simp] theorem setPf_early (s : State) (off hi lo v : Nat) : (setPf s off hi lo v).early = s.early := rfl
@[simp] theorem setPf_train (s : State) (off hi lo v : Nat) : (setPf s off hi lo v).train = s.train := rfl
@[simp] theorem setPf_units (s : State) (off hi lo v : Nat) : (setPf s off hi lo v).units = s.units := rfl
@[simp] theorem setPf_queues (s : State) (off hi lo v : Nat) : (setPf s off hi lo v).queues = s.queues := rfl
@[simp] theorem setPf_entries (s : State) (off hi lo v : Nat) : (setPf s off hi lo v).entries = s.entries := rfl
@[simp] theorem setPf_tiles (s : State) (off hi lo v : Nat) : (setPf s off hi lo v).tiles = s.tiles := rfl
@[simp] theorem setPf_bankKinds (s : State) (off hi lo v : Nat) : (setPf s off hi lo v).bankKinds = s.bankKinds := rfl
@[simp] theorem setPf_lanes (s : State) (off hi lo v : Nat) : (setPf s off hi lo v).lanes = s.lanes := rfl
@[simp] theorem setPf_hearth (s : State) (off hi lo v : Nat) : (setPf s off hi lo v).hearth = s.hearth := rfl
@[simp] theorem setPf_stash (s : State) (off hi lo v : Nat) : (setPf s off hi lo v).stash = s.stash := rfl
@[simp] theorem setPf_landings (s : State) (off hi lo v : Nat) : (setPf s off hi lo v).landings = s.landings := rfl
@[simp] theorem setPf_nextLanding (s : State) (off hi lo v : Nat) : (setPf s off hi lo v).nextLanding = s.nextLanding := rfl
@[simp] theorem setPf_power (s : State) (off hi lo v : Nat) : (setPf s off hi lo v).power = s.power := rfl
@[simp] theorem setPf_lps (s : State) (off hi lo v : Nat) : (setPf s off hi lo v).lps = s.lps := rfl
@[simp] theorem setPf_walks (s : State) (off hi lo v : Nat) : (setPf s off hi lo v).walks = s.walks := rfl
@[simp] theorem setPf_domains (s : State) (off hi lo v : Nat) : (setPf s off hi lo v).domains = s.domains := rfl
@[simp] theorem setPf_ports (s : State) (off hi lo v : Nat) : (setPf s off hi lo v).ports = s.ports := rfl
@[simp] theorem setPf_fabric (s : State) (off hi lo v : Nat) : (setPf s off hi lo v).fabric = s.fabric := rfl
@[simp] theorem setPf_colls (s : State) (off hi lo v : Nat) : (setPf s off hi lo v).colls = s.colls := rfl
@[simp] theorem setPf_nextColl (s : State) (off hi lo v : Nat) : (setPf s off hi lo v).nextColl = s.nextColl := rfl
@[simp] theorem setPf_annex (s : State) (off hi lo v : Nat) : (setPf s off hi lo v).annex = s.annex := rfl
@[simp] theorem setPf_restore (s : State) (off hi lo v : Nat) : (setPf s off hi lo v).restore = s.restore := rfl
@[simp] theorem setPf_faults (s : State) (off hi lo v : Nat) : (setPf s off hi lo v).faults = s.faults := rfl
@[simp] theorem setPf_imsic (s : State) (off hi lo v : Nat) : (setPf s off hi lo v).imsic = s.imsic := rfl
@[simp] theorem setPf_mram (s : State) (off hi lo v : Nat) : (setPf s off hi lo v).mram = s.mram := rfl
@[simp] theorem setPf_store (s : State) (off hi lo v : Nat) : (setPf s off hi lo v).store = s.store := rfl
@[simp] theorem setPf_boot (s : State) (off hi lo v : Nat) : (setPf s off hi lo v).boot = s.boot := rfl
@[simp] theorem setPf_pins (s : State) (off hi lo v : Nat) : (setPf s off hi lo v).pins = s.pins := rfl
@[simp] theorem setPf_out (s : State) (off hi lo v : Nat) : (setPf s off hi lo v).out = s.out := rfl

@[simp] theorem bump_pending (s : State) (dom off n : Nat) : (bump s dom off n).pending = s.pending := rfl
@[simp] theorem bump_freeCtr (s : State) (dom off n : Nat) : (bump s dom off n).freeCtr = s.freeCtr := rfl
@[simp] theorem bump_variant (s : State) (dom off n : Nat) : (bump s dom off n).variant = s.variant := rfl
@[simp] theorem bump_mem (s : State) (dom off n : Nat) : (bump s dom off n).mem = s.mem := rfl
@[simp] theorem bump_boxRegs (s : State) (dom off n : Nat) : (bump s dom off n).boxRegs = s.boxRegs := rfl
@[simp] theorem bump_boxMem (s : State) (dom off n : Nat) : (bump s dom off n).boxMem = s.boxMem := rfl
@[simp] theorem bump_pos (s : State) (dom off n : Nat) : (bump s dom off n).pos = s.pos := rfl
@[simp] theorem bump_stepTick (s : State) (dom off n : Nat) : (bump s dom off n).stepTick = s.stepTick := rfl
@[simp] theorem bump_slew (s : State) (dom off n : Nat) : (bump s dom off n).slew = s.slew := rfl
@[simp] theorem bump_sinceSlew (s : State) (dom off n : Nat) : (bump s dom off n).sinceSlew = s.sinceSlew := rfl
@[simp] theorem bump_missed (s : State) (dom off n : Nat) : (bump s dom off n).missed = s.missed := rfl
@[simp] theorem bump_boundary (s : State) (dom off n : Nat) : (bump s dom off n).boundary = s.boundary := rfl
@[simp] theorem bump_early (s : State) (dom off n : Nat) : (bump s dom off n).early = s.early := rfl
@[simp] theorem bump_train (s : State) (dom off n : Nat) : (bump s dom off n).train = s.train := rfl
@[simp] theorem bump_units (s : State) (dom off n : Nat) : (bump s dom off n).units = s.units := rfl
@[simp] theorem bump_queues (s : State) (dom off n : Nat) : (bump s dom off n).queues = s.queues := rfl
@[simp] theorem bump_entries (s : State) (dom off n : Nat) : (bump s dom off n).entries = s.entries := rfl
@[simp] theorem bump_tiles (s : State) (dom off n : Nat) : (bump s dom off n).tiles = s.tiles := rfl
@[simp] theorem bump_bankKinds (s : State) (dom off n : Nat) : (bump s dom off n).bankKinds = s.bankKinds := rfl
@[simp] theorem bump_lanes (s : State) (dom off n : Nat) : (bump s dom off n).lanes = s.lanes := rfl
@[simp] theorem bump_hearth (s : State) (dom off n : Nat) : (bump s dom off n).hearth = s.hearth := rfl
@[simp] theorem bump_stash (s : State) (dom off n : Nat) : (bump s dom off n).stash = s.stash := rfl
@[simp] theorem bump_landings (s : State) (dom off n : Nat) : (bump s dom off n).landings = s.landings := rfl
@[simp] theorem bump_nextLanding (s : State) (dom off n : Nat) : (bump s dom off n).nextLanding = s.nextLanding := rfl
@[simp] theorem bump_power (s : State) (dom off n : Nat) : (bump s dom off n).power = s.power := rfl
@[simp] theorem bump_lps (s : State) (dom off n : Nat) : (bump s dom off n).lps = s.lps := rfl
@[simp] theorem bump_walks (s : State) (dom off n : Nat) : (bump s dom off n).walks = s.walks := rfl
@[simp] theorem bump_domains (s : State) (dom off n : Nat) : (bump s dom off n).domains = s.domains := rfl
@[simp] theorem bump_ports (s : State) (dom off n : Nat) : (bump s dom off n).ports = s.ports := rfl
@[simp] theorem bump_fabric (s : State) (dom off n : Nat) : (bump s dom off n).fabric = s.fabric := rfl
@[simp] theorem bump_colls (s : State) (dom off n : Nat) : (bump s dom off n).colls = s.colls := rfl
@[simp] theorem bump_nextColl (s : State) (dom off n : Nat) : (bump s dom off n).nextColl = s.nextColl := rfl
@[simp] theorem bump_annex (s : State) (dom off n : Nat) : (bump s dom off n).annex = s.annex := rfl
@[simp] theorem bump_restore (s : State) (dom off n : Nat) : (bump s dom off n).restore = s.restore := rfl
@[simp] theorem bump_faults (s : State) (dom off n : Nat) : (bump s dom off n).faults = s.faults := rfl
@[simp] theorem bump_imsic (s : State) (dom off n : Nat) : (bump s dom off n).imsic = s.imsic := rfl
@[simp] theorem bump_mram (s : State) (dom off n : Nat) : (bump s dom off n).mram = s.mram := rfl
@[simp] theorem bump_store (s : State) (dom off n : Nat) : (bump s dom off n).store = s.store := rfl
@[simp] theorem bump_boot (s : State) (dom off n : Nat) : (bump s dom off n).boot = s.boot := rfl
@[simp] theorem bump_pins (s : State) (dom off n : Nat) : (bump s dom off n).pins = s.pins := rfl
@[simp] theorem bump_out (s : State) (dom off n : Nat) : (bump s dom off n).out = s.out := rfl

@[simp] theorem setQf_pending (s : State) (q off hi lo v : Nat) : (setQf s q off hi lo v).pending = s.pending := rfl
@[simp] theorem setQf_freeCtr (s : State) (q off hi lo v : Nat) : (setQf s q off hi lo v).freeCtr = s.freeCtr := rfl
@[simp] theorem setQf_variant (s : State) (q off hi lo v : Nat) : (setQf s q off hi lo v).variant = s.variant := rfl
@[simp] theorem setQf_mem (s : State) (q off hi lo v : Nat) : (setQf s q off hi lo v).mem = s.mem := rfl
@[simp] theorem setQf_boxRegs (s : State) (q off hi lo v : Nat) : (setQf s q off hi lo v).boxRegs = s.boxRegs := rfl
@[simp] theorem setQf_boxMem (s : State) (q off hi lo v : Nat) : (setQf s q off hi lo v).boxMem = s.boxMem := rfl
@[simp] theorem setQf_pos (s : State) (q off hi lo v : Nat) : (setQf s q off hi lo v).pos = s.pos := rfl
@[simp] theorem setQf_stepTick (s : State) (q off hi lo v : Nat) : (setQf s q off hi lo v).stepTick = s.stepTick := rfl
@[simp] theorem setQf_slew (s : State) (q off hi lo v : Nat) : (setQf s q off hi lo v).slew = s.slew := rfl
@[simp] theorem setQf_sinceSlew (s : State) (q off hi lo v : Nat) : (setQf s q off hi lo v).sinceSlew = s.sinceSlew := rfl
@[simp] theorem setQf_missed (s : State) (q off hi lo v : Nat) : (setQf s q off hi lo v).missed = s.missed := rfl
@[simp] theorem setQf_boundary (s : State) (q off hi lo v : Nat) : (setQf s q off hi lo v).boundary = s.boundary := rfl
@[simp] theorem setQf_early (s : State) (q off hi lo v : Nat) : (setQf s q off hi lo v).early = s.early := rfl
@[simp] theorem setQf_train (s : State) (q off hi lo v : Nat) : (setQf s q off hi lo v).train = s.train := rfl
@[simp] theorem setQf_units (s : State) (q off hi lo v : Nat) : (setQf s q off hi lo v).units = s.units := rfl
@[simp] theorem setQf_queues (s : State) (q off hi lo v : Nat) : (setQf s q off hi lo v).queues = s.queues := rfl
@[simp] theorem setQf_entries (s : State) (q off hi lo v : Nat) : (setQf s q off hi lo v).entries = s.entries := rfl
@[simp] theorem setQf_tiles (s : State) (q off hi lo v : Nat) : (setQf s q off hi lo v).tiles = s.tiles := rfl
@[simp] theorem setQf_bankKinds (s : State) (q off hi lo v : Nat) : (setQf s q off hi lo v).bankKinds = s.bankKinds := rfl
@[simp] theorem setQf_lanes (s : State) (q off hi lo v : Nat) : (setQf s q off hi lo v).lanes = s.lanes := rfl
@[simp] theorem setQf_hearth (s : State) (q off hi lo v : Nat) : (setQf s q off hi lo v).hearth = s.hearth := rfl
@[simp] theorem setQf_stash (s : State) (q off hi lo v : Nat) : (setQf s q off hi lo v).stash = s.stash := rfl
@[simp] theorem setQf_landings (s : State) (q off hi lo v : Nat) : (setQf s q off hi lo v).landings = s.landings := rfl
@[simp] theorem setQf_nextLanding (s : State) (q off hi lo v : Nat) : (setQf s q off hi lo v).nextLanding = s.nextLanding := rfl
@[simp] theorem setQf_power (s : State) (q off hi lo v : Nat) : (setQf s q off hi lo v).power = s.power := rfl
@[simp] theorem setQf_lps (s : State) (q off hi lo v : Nat) : (setQf s q off hi lo v).lps = s.lps := rfl
@[simp] theorem setQf_walks (s : State) (q off hi lo v : Nat) : (setQf s q off hi lo v).walks = s.walks := rfl
@[simp] theorem setQf_domains (s : State) (q off hi lo v : Nat) : (setQf s q off hi lo v).domains = s.domains := rfl
@[simp] theorem setQf_ports (s : State) (q off hi lo v : Nat) : (setQf s q off hi lo v).ports = s.ports := rfl
@[simp] theorem setQf_fabric (s : State) (q off hi lo v : Nat) : (setQf s q off hi lo v).fabric = s.fabric := rfl
@[simp] theorem setQf_colls (s : State) (q off hi lo v : Nat) : (setQf s q off hi lo v).colls = s.colls := rfl
@[simp] theorem setQf_nextColl (s : State) (q off hi lo v : Nat) : (setQf s q off hi lo v).nextColl = s.nextColl := rfl
@[simp] theorem setQf_annex (s : State) (q off hi lo v : Nat) : (setQf s q off hi lo v).annex = s.annex := rfl
@[simp] theorem setQf_restore (s : State) (q off hi lo v : Nat) : (setQf s q off hi lo v).restore = s.restore := rfl
@[simp] theorem setQf_faults (s : State) (q off hi lo v : Nat) : (setQf s q off hi lo v).faults = s.faults := rfl
@[simp] theorem setQf_imsic (s : State) (q off hi lo v : Nat) : (setQf s q off hi lo v).imsic = s.imsic := rfl
@[simp] theorem setQf_mram (s : State) (q off hi lo v : Nat) : (setQf s q off hi lo v).mram = s.mram := rfl
@[simp] theorem setQf_store (s : State) (q off hi lo v : Nat) : (setQf s q off hi lo v).store = s.store := rfl
@[simp] theorem setQf_boot (s : State) (q off hi lo v : Nat) : (setQf s q off hi lo v).boot = s.boot := rfl
@[simp] theorem setQf_pins (s : State) (q off hi lo v : Nat) : (setQf s q off hi lo v).pins = s.pins := rfl
@[simp] theorem setQf_out (s : State) (q off hi lo v : Nat) : (setQf s q off hi lo v).out = s.out := rfl

@[simp] theorem writeMem_pending (s : State) (a : Nat) (bs : List Byte) : (writeMem s a bs).pending = s.pending := rfl
@[simp] theorem writeMem_freeCtr (s : State) (a : Nat) (bs : List Byte) : (writeMem s a bs).freeCtr = s.freeCtr := rfl
@[simp] theorem writeMem_variant (s : State) (a : Nat) (bs : List Byte) : (writeMem s a bs).variant = s.variant := rfl
@[simp] theorem writeMem_regs (s : State) (a : Nat) (bs : List Byte) : (writeMem s a bs).regs = s.regs := rfl
@[simp] theorem writeMem_boxRegs (s : State) (a : Nat) (bs : List Byte) : (writeMem s a bs).boxRegs = s.boxRegs := rfl
@[simp] theorem writeMem_boxMem (s : State) (a : Nat) (bs : List Byte) : (writeMem s a bs).boxMem = s.boxMem := rfl
@[simp] theorem writeMem_pos (s : State) (a : Nat) (bs : List Byte) : (writeMem s a bs).pos = s.pos := rfl
@[simp] theorem writeMem_stepTick (s : State) (a : Nat) (bs : List Byte) : (writeMem s a bs).stepTick = s.stepTick := rfl
@[simp] theorem writeMem_slew (s : State) (a : Nat) (bs : List Byte) : (writeMem s a bs).slew = s.slew := rfl
@[simp] theorem writeMem_sinceSlew (s : State) (a : Nat) (bs : List Byte) : (writeMem s a bs).sinceSlew = s.sinceSlew := rfl
@[simp] theorem writeMem_missed (s : State) (a : Nat) (bs : List Byte) : (writeMem s a bs).missed = s.missed := rfl
@[simp] theorem writeMem_boundary (s : State) (a : Nat) (bs : List Byte) : (writeMem s a bs).boundary = s.boundary := rfl
@[simp] theorem writeMem_early (s : State) (a : Nat) (bs : List Byte) : (writeMem s a bs).early = s.early := rfl
@[simp] theorem writeMem_train (s : State) (a : Nat) (bs : List Byte) : (writeMem s a bs).train = s.train := rfl
@[simp] theorem writeMem_units (s : State) (a : Nat) (bs : List Byte) : (writeMem s a bs).units = s.units := rfl
@[simp] theorem writeMem_queues (s : State) (a : Nat) (bs : List Byte) : (writeMem s a bs).queues = s.queues := rfl
@[simp] theorem writeMem_entries (s : State) (a : Nat) (bs : List Byte) : (writeMem s a bs).entries = s.entries := rfl
@[simp] theorem writeMem_tiles (s : State) (a : Nat) (bs : List Byte) : (writeMem s a bs).tiles = s.tiles := rfl
@[simp] theorem writeMem_bankKinds (s : State) (a : Nat) (bs : List Byte) : (writeMem s a bs).bankKinds = s.bankKinds := rfl
@[simp] theorem writeMem_lanes (s : State) (a : Nat) (bs : List Byte) : (writeMem s a bs).lanes = s.lanes := rfl
@[simp] theorem writeMem_hearth (s : State) (a : Nat) (bs : List Byte) : (writeMem s a bs).hearth = s.hearth := rfl
@[simp] theorem writeMem_stash (s : State) (a : Nat) (bs : List Byte) : (writeMem s a bs).stash = s.stash := rfl
@[simp] theorem writeMem_landings (s : State) (a : Nat) (bs : List Byte) : (writeMem s a bs).landings = s.landings := rfl
@[simp] theorem writeMem_nextLanding (s : State) (a : Nat) (bs : List Byte) : (writeMem s a bs).nextLanding = s.nextLanding := rfl
@[simp] theorem writeMem_power (s : State) (a : Nat) (bs : List Byte) : (writeMem s a bs).power = s.power := rfl
@[simp] theorem writeMem_lps (s : State) (a : Nat) (bs : List Byte) : (writeMem s a bs).lps = s.lps := rfl
@[simp] theorem writeMem_walks (s : State) (a : Nat) (bs : List Byte) : (writeMem s a bs).walks = s.walks := rfl
@[simp] theorem writeMem_domains (s : State) (a : Nat) (bs : List Byte) : (writeMem s a bs).domains = s.domains := rfl
@[simp] theorem writeMem_ports (s : State) (a : Nat) (bs : List Byte) : (writeMem s a bs).ports = s.ports := rfl
@[simp] theorem writeMem_fabric (s : State) (a : Nat) (bs : List Byte) : (writeMem s a bs).fabric = s.fabric := rfl
@[simp] theorem writeMem_colls (s : State) (a : Nat) (bs : List Byte) : (writeMem s a bs).colls = s.colls := rfl
@[simp] theorem writeMem_nextColl (s : State) (a : Nat) (bs : List Byte) : (writeMem s a bs).nextColl = s.nextColl := rfl
@[simp] theorem writeMem_annex (s : State) (a : Nat) (bs : List Byte) : (writeMem s a bs).annex = s.annex := rfl
@[simp] theorem writeMem_restore (s : State) (a : Nat) (bs : List Byte) : (writeMem s a bs).restore = s.restore := rfl
@[simp] theorem writeMem_faults (s : State) (a : Nat) (bs : List Byte) : (writeMem s a bs).faults = s.faults := rfl
@[simp] theorem writeMem_imsic (s : State) (a : Nat) (bs : List Byte) : (writeMem s a bs).imsic = s.imsic := rfl
@[simp] theorem writeMem_mram (s : State) (a : Nat) (bs : List Byte) : (writeMem s a bs).mram = s.mram := rfl
@[simp] theorem writeMem_store (s : State) (a : Nat) (bs : List Byte) : (writeMem s a bs).store = s.store := rfl
@[simp] theorem writeMem_boot (s : State) (a : Nat) (bs : List Byte) : (writeMem s a bs).boot = s.boot := rfl
@[simp] theorem writeMem_pins (s : State) (a : Nat) (bs : List Byte) : (writeMem s a bs).pins = s.pins := rfl
@[simp] theorem writeMem_out (s : State) (a : Nat) (bs : List Byte) : (writeMem s a bs).out = s.out := rfl

@[simp] theorem writeNat_pending (s : State) (a len v : Nat) : (writeNat s a len v).pending = s.pending := rfl
@[simp] theorem writeNat_freeCtr (s : State) (a len v : Nat) : (writeNat s a len v).freeCtr = s.freeCtr := rfl
@[simp] theorem writeNat_variant (s : State) (a len v : Nat) : (writeNat s a len v).variant = s.variant := rfl
@[simp] theorem writeNat_regs (s : State) (a len v : Nat) : (writeNat s a len v).regs = s.regs := rfl
@[simp] theorem writeNat_boxRegs (s : State) (a len v : Nat) : (writeNat s a len v).boxRegs = s.boxRegs := rfl
@[simp] theorem writeNat_boxMem (s : State) (a len v : Nat) : (writeNat s a len v).boxMem = s.boxMem := rfl
@[simp] theorem writeNat_pos (s : State) (a len v : Nat) : (writeNat s a len v).pos = s.pos := rfl
@[simp] theorem writeNat_stepTick (s : State) (a len v : Nat) : (writeNat s a len v).stepTick = s.stepTick := rfl
@[simp] theorem writeNat_slew (s : State) (a len v : Nat) : (writeNat s a len v).slew = s.slew := rfl
@[simp] theorem writeNat_sinceSlew (s : State) (a len v : Nat) : (writeNat s a len v).sinceSlew = s.sinceSlew := rfl
@[simp] theorem writeNat_missed (s : State) (a len v : Nat) : (writeNat s a len v).missed = s.missed := rfl
@[simp] theorem writeNat_boundary (s : State) (a len v : Nat) : (writeNat s a len v).boundary = s.boundary := rfl
@[simp] theorem writeNat_early (s : State) (a len v : Nat) : (writeNat s a len v).early = s.early := rfl
@[simp] theorem writeNat_train (s : State) (a len v : Nat) : (writeNat s a len v).train = s.train := rfl
@[simp] theorem writeNat_units (s : State) (a len v : Nat) : (writeNat s a len v).units = s.units := rfl
@[simp] theorem writeNat_queues (s : State) (a len v : Nat) : (writeNat s a len v).queues = s.queues := rfl
@[simp] theorem writeNat_entries (s : State) (a len v : Nat) : (writeNat s a len v).entries = s.entries := rfl
@[simp] theorem writeNat_tiles (s : State) (a len v : Nat) : (writeNat s a len v).tiles = s.tiles := rfl
@[simp] theorem writeNat_bankKinds (s : State) (a len v : Nat) : (writeNat s a len v).bankKinds = s.bankKinds := rfl
@[simp] theorem writeNat_lanes (s : State) (a len v : Nat) : (writeNat s a len v).lanes = s.lanes := rfl
@[simp] theorem writeNat_hearth (s : State) (a len v : Nat) : (writeNat s a len v).hearth = s.hearth := rfl
@[simp] theorem writeNat_stash (s : State) (a len v : Nat) : (writeNat s a len v).stash = s.stash := rfl
@[simp] theorem writeNat_landings (s : State) (a len v : Nat) : (writeNat s a len v).landings = s.landings := rfl
@[simp] theorem writeNat_nextLanding (s : State) (a len v : Nat) : (writeNat s a len v).nextLanding = s.nextLanding := rfl
@[simp] theorem writeNat_power (s : State) (a len v : Nat) : (writeNat s a len v).power = s.power := rfl
@[simp] theorem writeNat_lps (s : State) (a len v : Nat) : (writeNat s a len v).lps = s.lps := rfl
@[simp] theorem writeNat_walks (s : State) (a len v : Nat) : (writeNat s a len v).walks = s.walks := rfl
@[simp] theorem writeNat_domains (s : State) (a len v : Nat) : (writeNat s a len v).domains = s.domains := rfl
@[simp] theorem writeNat_ports (s : State) (a len v : Nat) : (writeNat s a len v).ports = s.ports := rfl
@[simp] theorem writeNat_fabric (s : State) (a len v : Nat) : (writeNat s a len v).fabric = s.fabric := rfl
@[simp] theorem writeNat_colls (s : State) (a len v : Nat) : (writeNat s a len v).colls = s.colls := rfl
@[simp] theorem writeNat_nextColl (s : State) (a len v : Nat) : (writeNat s a len v).nextColl = s.nextColl := rfl
@[simp] theorem writeNat_annex (s : State) (a len v : Nat) : (writeNat s a len v).annex = s.annex := rfl
@[simp] theorem writeNat_restore (s : State) (a len v : Nat) : (writeNat s a len v).restore = s.restore := rfl
@[simp] theorem writeNat_faults (s : State) (a len v : Nat) : (writeNat s a len v).faults = s.faults := rfl
@[simp] theorem writeNat_imsic (s : State) (a len v : Nat) : (writeNat s a len v).imsic = s.imsic := rfl
@[simp] theorem writeNat_mram (s : State) (a len v : Nat) : (writeNat s a len v).mram = s.mram := rfl
@[simp] theorem writeNat_store (s : State) (a len v : Nat) : (writeNat s a len v).store = s.store := rfl
@[simp] theorem writeNat_boot (s : State) (a len v : Nat) : (writeNat s a len v).boot = s.boot := rfl
@[simp] theorem writeNat_pins (s : State) (a len v : Nat) : (writeNat s a len v).pins = s.pins := rfl
@[simp] theorem writeNat_out (s : State) (a len v : Nat) : (writeNat s a len v).out = s.out := rfl

@[simp] theorem setUnit_pending (s : State) (x : ProgUnit) : (setUnit s x).pending = s.pending := rfl
@[simp] theorem setUnit_freeCtr (s : State) (x : ProgUnit) : (setUnit s x).freeCtr = s.freeCtr := rfl
@[simp] theorem setUnit_variant (s : State) (x : ProgUnit) : (setUnit s x).variant = s.variant := rfl
@[simp] theorem setUnit_mem (s : State) (x : ProgUnit) : (setUnit s x).mem = s.mem := rfl
@[simp] theorem setUnit_regs (s : State) (x : ProgUnit) : (setUnit s x).regs = s.regs := rfl
@[simp] theorem setUnit_boxRegs (s : State) (x : ProgUnit) : (setUnit s x).boxRegs = s.boxRegs := rfl
@[simp] theorem setUnit_boxMem (s : State) (x : ProgUnit) : (setUnit s x).boxMem = s.boxMem := rfl
@[simp] theorem setUnit_pos (s : State) (x : ProgUnit) : (setUnit s x).pos = s.pos := rfl
@[simp] theorem setUnit_stepTick (s : State) (x : ProgUnit) : (setUnit s x).stepTick = s.stepTick := rfl
@[simp] theorem setUnit_slew (s : State) (x : ProgUnit) : (setUnit s x).slew = s.slew := rfl
@[simp] theorem setUnit_sinceSlew (s : State) (x : ProgUnit) : (setUnit s x).sinceSlew = s.sinceSlew := rfl
@[simp] theorem setUnit_missed (s : State) (x : ProgUnit) : (setUnit s x).missed = s.missed := rfl
@[simp] theorem setUnit_boundary (s : State) (x : ProgUnit) : (setUnit s x).boundary = s.boundary := rfl
@[simp] theorem setUnit_early (s : State) (x : ProgUnit) : (setUnit s x).early = s.early := rfl
@[simp] theorem setUnit_train (s : State) (x : ProgUnit) : (setUnit s x).train = s.train := rfl
@[simp] theorem setUnit_queues (s : State) (x : ProgUnit) : (setUnit s x).queues = s.queues := rfl
@[simp] theorem setUnit_entries (s : State) (x : ProgUnit) : (setUnit s x).entries = s.entries := rfl
@[simp] theorem setUnit_tiles (s : State) (x : ProgUnit) : (setUnit s x).tiles = s.tiles := rfl
@[simp] theorem setUnit_bankKinds (s : State) (x : ProgUnit) : (setUnit s x).bankKinds = s.bankKinds := rfl
@[simp] theorem setUnit_lanes (s : State) (x : ProgUnit) : (setUnit s x).lanes = s.lanes := rfl
@[simp] theorem setUnit_hearth (s : State) (x : ProgUnit) : (setUnit s x).hearth = s.hearth := rfl
@[simp] theorem setUnit_stash (s : State) (x : ProgUnit) : (setUnit s x).stash = s.stash := rfl
@[simp] theorem setUnit_landings (s : State) (x : ProgUnit) : (setUnit s x).landings = s.landings := rfl
@[simp] theorem setUnit_nextLanding (s : State) (x : ProgUnit) : (setUnit s x).nextLanding = s.nextLanding := rfl
@[simp] theorem setUnit_power (s : State) (x : ProgUnit) : (setUnit s x).power = s.power := rfl
@[simp] theorem setUnit_lps (s : State) (x : ProgUnit) : (setUnit s x).lps = s.lps := rfl
@[simp] theorem setUnit_walks (s : State) (x : ProgUnit) : (setUnit s x).walks = s.walks := rfl
@[simp] theorem setUnit_domains (s : State) (x : ProgUnit) : (setUnit s x).domains = s.domains := rfl
@[simp] theorem setUnit_ports (s : State) (x : ProgUnit) : (setUnit s x).ports = s.ports := rfl
@[simp] theorem setUnit_fabric (s : State) (x : ProgUnit) : (setUnit s x).fabric = s.fabric := rfl
@[simp] theorem setUnit_colls (s : State) (x : ProgUnit) : (setUnit s x).colls = s.colls := rfl
@[simp] theorem setUnit_nextColl (s : State) (x : ProgUnit) : (setUnit s x).nextColl = s.nextColl := rfl
@[simp] theorem setUnit_annex (s : State) (x : ProgUnit) : (setUnit s x).annex = s.annex := rfl
@[simp] theorem setUnit_restore (s : State) (x : ProgUnit) : (setUnit s x).restore = s.restore := rfl
@[simp] theorem setUnit_faults (s : State) (x : ProgUnit) : (setUnit s x).faults = s.faults := rfl
@[simp] theorem setUnit_imsic (s : State) (x : ProgUnit) : (setUnit s x).imsic = s.imsic := rfl
@[simp] theorem setUnit_mram (s : State) (x : ProgUnit) : (setUnit s x).mram = s.mram := rfl
@[simp] theorem setUnit_store (s : State) (x : ProgUnit) : (setUnit s x).store = s.store := rfl
@[simp] theorem setUnit_boot (s : State) (x : ProgUnit) : (setUnit s x).boot = s.boot := rfl
@[simp] theorem setUnit_pins (s : State) (x : ProgUnit) : (setUnit s x).pins = s.pins := rfl
@[simp] theorem setUnit_out (s : State) (x : ProgUnit) : (setUnit s x).out = s.out := rfl

@[simp] theorem setQueue_pending (s : State) (x : Queue) : (setQueue s x).pending = s.pending := rfl
@[simp] theorem setQueue_freeCtr (s : State) (x : Queue) : (setQueue s x).freeCtr = s.freeCtr := rfl
@[simp] theorem setQueue_variant (s : State) (x : Queue) : (setQueue s x).variant = s.variant := rfl
@[simp] theorem setQueue_mem (s : State) (x : Queue) : (setQueue s x).mem = s.mem := rfl
@[simp] theorem setQueue_regs (s : State) (x : Queue) : (setQueue s x).regs = s.regs := rfl
@[simp] theorem setQueue_boxRegs (s : State) (x : Queue) : (setQueue s x).boxRegs = s.boxRegs := rfl
@[simp] theorem setQueue_boxMem (s : State) (x : Queue) : (setQueue s x).boxMem = s.boxMem := rfl
@[simp] theorem setQueue_pos (s : State) (x : Queue) : (setQueue s x).pos = s.pos := rfl
@[simp] theorem setQueue_stepTick (s : State) (x : Queue) : (setQueue s x).stepTick = s.stepTick := rfl
@[simp] theorem setQueue_slew (s : State) (x : Queue) : (setQueue s x).slew = s.slew := rfl
@[simp] theorem setQueue_sinceSlew (s : State) (x : Queue) : (setQueue s x).sinceSlew = s.sinceSlew := rfl
@[simp] theorem setQueue_missed (s : State) (x : Queue) : (setQueue s x).missed = s.missed := rfl
@[simp] theorem setQueue_boundary (s : State) (x : Queue) : (setQueue s x).boundary = s.boundary := rfl
@[simp] theorem setQueue_early (s : State) (x : Queue) : (setQueue s x).early = s.early := rfl
@[simp] theorem setQueue_train (s : State) (x : Queue) : (setQueue s x).train = s.train := rfl
@[simp] theorem setQueue_units (s : State) (x : Queue) : (setQueue s x).units = s.units := rfl
@[simp] theorem setQueue_entries (s : State) (x : Queue) : (setQueue s x).entries = s.entries := rfl
@[simp] theorem setQueue_tiles (s : State) (x : Queue) : (setQueue s x).tiles = s.tiles := rfl
@[simp] theorem setQueue_bankKinds (s : State) (x : Queue) : (setQueue s x).bankKinds = s.bankKinds := rfl
@[simp] theorem setQueue_lanes (s : State) (x : Queue) : (setQueue s x).lanes = s.lanes := rfl
@[simp] theorem setQueue_hearth (s : State) (x : Queue) : (setQueue s x).hearth = s.hearth := rfl
@[simp] theorem setQueue_stash (s : State) (x : Queue) : (setQueue s x).stash = s.stash := rfl
@[simp] theorem setQueue_landings (s : State) (x : Queue) : (setQueue s x).landings = s.landings := rfl
@[simp] theorem setQueue_nextLanding (s : State) (x : Queue) : (setQueue s x).nextLanding = s.nextLanding := rfl
@[simp] theorem setQueue_power (s : State) (x : Queue) : (setQueue s x).power = s.power := rfl
@[simp] theorem setQueue_lps (s : State) (x : Queue) : (setQueue s x).lps = s.lps := rfl
@[simp] theorem setQueue_walks (s : State) (x : Queue) : (setQueue s x).walks = s.walks := rfl
@[simp] theorem setQueue_domains (s : State) (x : Queue) : (setQueue s x).domains = s.domains := rfl
@[simp] theorem setQueue_ports (s : State) (x : Queue) : (setQueue s x).ports = s.ports := rfl
@[simp] theorem setQueue_fabric (s : State) (x : Queue) : (setQueue s x).fabric = s.fabric := rfl
@[simp] theorem setQueue_colls (s : State) (x : Queue) : (setQueue s x).colls = s.colls := rfl
@[simp] theorem setQueue_nextColl (s : State) (x : Queue) : (setQueue s x).nextColl = s.nextColl := rfl
@[simp] theorem setQueue_annex (s : State) (x : Queue) : (setQueue s x).annex = s.annex := rfl
@[simp] theorem setQueue_restore (s : State) (x : Queue) : (setQueue s x).restore = s.restore := rfl
@[simp] theorem setQueue_faults (s : State) (x : Queue) : (setQueue s x).faults = s.faults := rfl
@[simp] theorem setQueue_imsic (s : State) (x : Queue) : (setQueue s x).imsic = s.imsic := rfl
@[simp] theorem setQueue_mram (s : State) (x : Queue) : (setQueue s x).mram = s.mram := rfl
@[simp] theorem setQueue_store (s : State) (x : Queue) : (setQueue s x).store = s.store := rfl
@[simp] theorem setQueue_boot (s : State) (x : Queue) : (setQueue s x).boot = s.boot := rfl
@[simp] theorem setQueue_pins (s : State) (x : Queue) : (setQueue s x).pins = s.pins := rfl
@[simp] theorem setQueue_out (s : State) (x : Queue) : (setQueue s x).out = s.out := rfl

@[simp] theorem setDomain_pending (s : State) (d : Domain) : (setDomain s d).pending = s.pending := rfl
@[simp] theorem setDomain_freeCtr (s : State) (d : Domain) : (setDomain s d).freeCtr = s.freeCtr := rfl
@[simp] theorem setDomain_variant (s : State) (d : Domain) : (setDomain s d).variant = s.variant := rfl
@[simp] theorem setDomain_mem (s : State) (d : Domain) : (setDomain s d).mem = s.mem := rfl
@[simp] theorem setDomain_regs (s : State) (d : Domain) : (setDomain s d).regs = s.regs := rfl
@[simp] theorem setDomain_boxRegs (s : State) (d : Domain) : (setDomain s d).boxRegs = s.boxRegs := rfl
@[simp] theorem setDomain_boxMem (s : State) (d : Domain) : (setDomain s d).boxMem = s.boxMem := rfl
@[simp] theorem setDomain_pos (s : State) (d : Domain) : (setDomain s d).pos = s.pos := rfl
@[simp] theorem setDomain_stepTick (s : State) (d : Domain) : (setDomain s d).stepTick = s.stepTick := rfl
@[simp] theorem setDomain_slew (s : State) (d : Domain) : (setDomain s d).slew = s.slew := rfl
@[simp] theorem setDomain_sinceSlew (s : State) (d : Domain) : (setDomain s d).sinceSlew = s.sinceSlew := rfl
@[simp] theorem setDomain_missed (s : State) (d : Domain) : (setDomain s d).missed = s.missed := rfl
@[simp] theorem setDomain_boundary (s : State) (d : Domain) : (setDomain s d).boundary = s.boundary := rfl
@[simp] theorem setDomain_early (s : State) (d : Domain) : (setDomain s d).early = s.early := rfl
@[simp] theorem setDomain_train (s : State) (d : Domain) : (setDomain s d).train = s.train := rfl
@[simp] theorem setDomain_units (s : State) (d : Domain) : (setDomain s d).units = s.units := rfl
@[simp] theorem setDomain_queues (s : State) (d : Domain) : (setDomain s d).queues = s.queues := rfl
@[simp] theorem setDomain_entries (s : State) (d : Domain) : (setDomain s d).entries = s.entries := rfl
@[simp] theorem setDomain_tiles (s : State) (d : Domain) : (setDomain s d).tiles = s.tiles := rfl
@[simp] theorem setDomain_bankKinds (s : State) (d : Domain) : (setDomain s d).bankKinds = s.bankKinds := rfl
@[simp] theorem setDomain_lanes (s : State) (d : Domain) : (setDomain s d).lanes = s.lanes := rfl
@[simp] theorem setDomain_hearth (s : State) (d : Domain) : (setDomain s d).hearth = s.hearth := rfl
@[simp] theorem setDomain_stash (s : State) (d : Domain) : (setDomain s d).stash = s.stash := rfl
@[simp] theorem setDomain_landings (s : State) (d : Domain) : (setDomain s d).landings = s.landings := rfl
@[simp] theorem setDomain_nextLanding (s : State) (d : Domain) : (setDomain s d).nextLanding = s.nextLanding := rfl
@[simp] theorem setDomain_power (s : State) (d : Domain) : (setDomain s d).power = s.power := rfl
@[simp] theorem setDomain_lps (s : State) (d : Domain) : (setDomain s d).lps = s.lps := rfl
@[simp] theorem setDomain_walks (s : State) (d : Domain) : (setDomain s d).walks = s.walks := rfl
@[simp] theorem setDomain_ports (s : State) (d : Domain) : (setDomain s d).ports = s.ports := rfl
@[simp] theorem setDomain_fabric (s : State) (d : Domain) : (setDomain s d).fabric = s.fabric := rfl
@[simp] theorem setDomain_colls (s : State) (d : Domain) : (setDomain s d).colls = s.colls := rfl
@[simp] theorem setDomain_nextColl (s : State) (d : Domain) : (setDomain s d).nextColl = s.nextColl := rfl
@[simp] theorem setDomain_annex (s : State) (d : Domain) : (setDomain s d).annex = s.annex := rfl
@[simp] theorem setDomain_restore (s : State) (d : Domain) : (setDomain s d).restore = s.restore := rfl
@[simp] theorem setDomain_faults (s : State) (d : Domain) : (setDomain s d).faults = s.faults := rfl
@[simp] theorem setDomain_imsic (s : State) (d : Domain) : (setDomain s d).imsic = s.imsic := rfl
@[simp] theorem setDomain_mram (s : State) (d : Domain) : (setDomain s d).mram = s.mram := rfl
@[simp] theorem setDomain_store (s : State) (d : Domain) : (setDomain s d).store = s.store := rfl
@[simp] theorem setDomain_boot (s : State) (d : Domain) : (setDomain s d).boot = s.boot := rfl
@[simp] theorem setDomain_pins (s : State) (d : Domain) : (setDomain s d).pins = s.pins := rfl
@[simp] theorem setDomain_out (s : State) (d : Domain) : (setDomain s d).out = s.out := rfl

@[simp] theorem setPort_pending (s : State) (x : Port) : (setPort s x).pending = s.pending := rfl
@[simp] theorem setPort_freeCtr (s : State) (x : Port) : (setPort s x).freeCtr = s.freeCtr := rfl
@[simp] theorem setPort_variant (s : State) (x : Port) : (setPort s x).variant = s.variant := rfl
@[simp] theorem setPort_mem (s : State) (x : Port) : (setPort s x).mem = s.mem := rfl
@[simp] theorem setPort_regs (s : State) (x : Port) : (setPort s x).regs = s.regs := rfl
@[simp] theorem setPort_boxRegs (s : State) (x : Port) : (setPort s x).boxRegs = s.boxRegs := rfl
@[simp] theorem setPort_boxMem (s : State) (x : Port) : (setPort s x).boxMem = s.boxMem := rfl
@[simp] theorem setPort_pos (s : State) (x : Port) : (setPort s x).pos = s.pos := rfl
@[simp] theorem setPort_stepTick (s : State) (x : Port) : (setPort s x).stepTick = s.stepTick := rfl
@[simp] theorem setPort_slew (s : State) (x : Port) : (setPort s x).slew = s.slew := rfl
@[simp] theorem setPort_sinceSlew (s : State) (x : Port) : (setPort s x).sinceSlew = s.sinceSlew := rfl
@[simp] theorem setPort_missed (s : State) (x : Port) : (setPort s x).missed = s.missed := rfl
@[simp] theorem setPort_boundary (s : State) (x : Port) : (setPort s x).boundary = s.boundary := rfl
@[simp] theorem setPort_early (s : State) (x : Port) : (setPort s x).early = s.early := rfl
@[simp] theorem setPort_train (s : State) (x : Port) : (setPort s x).train = s.train := rfl
@[simp] theorem setPort_units (s : State) (x : Port) : (setPort s x).units = s.units := rfl
@[simp] theorem setPort_queues (s : State) (x : Port) : (setPort s x).queues = s.queues := rfl
@[simp] theorem setPort_entries (s : State) (x : Port) : (setPort s x).entries = s.entries := rfl
@[simp] theorem setPort_tiles (s : State) (x : Port) : (setPort s x).tiles = s.tiles := rfl
@[simp] theorem setPort_bankKinds (s : State) (x : Port) : (setPort s x).bankKinds = s.bankKinds := rfl
@[simp] theorem setPort_lanes (s : State) (x : Port) : (setPort s x).lanes = s.lanes := rfl
@[simp] theorem setPort_hearth (s : State) (x : Port) : (setPort s x).hearth = s.hearth := rfl
@[simp] theorem setPort_stash (s : State) (x : Port) : (setPort s x).stash = s.stash := rfl
@[simp] theorem setPort_landings (s : State) (x : Port) : (setPort s x).landings = s.landings := rfl
@[simp] theorem setPort_nextLanding (s : State) (x : Port) : (setPort s x).nextLanding = s.nextLanding := rfl
@[simp] theorem setPort_power (s : State) (x : Port) : (setPort s x).power = s.power := rfl
@[simp] theorem setPort_lps (s : State) (x : Port) : (setPort s x).lps = s.lps := rfl
@[simp] theorem setPort_walks (s : State) (x : Port) : (setPort s x).walks = s.walks := rfl
@[simp] theorem setPort_domains (s : State) (x : Port) : (setPort s x).domains = s.domains := rfl
@[simp] theorem setPort_fabric (s : State) (x : Port) : (setPort s x).fabric = s.fabric := rfl
@[simp] theorem setPort_colls (s : State) (x : Port) : (setPort s x).colls = s.colls := rfl
@[simp] theorem setPort_nextColl (s : State) (x : Port) : (setPort s x).nextColl = s.nextColl := rfl
@[simp] theorem setPort_annex (s : State) (x : Port) : (setPort s x).annex = s.annex := rfl
@[simp] theorem setPort_restore (s : State) (x : Port) : (setPort s x).restore = s.restore := rfl
@[simp] theorem setPort_faults (s : State) (x : Port) : (setPort s x).faults = s.faults := rfl
@[simp] theorem setPort_imsic (s : State) (x : Port) : (setPort s x).imsic = s.imsic := rfl
@[simp] theorem setPort_mram (s : State) (x : Port) : (setPort s x).mram = s.mram := rfl
@[simp] theorem setPort_store (s : State) (x : Port) : (setPort s x).store = s.store := rfl
@[simp] theorem setPort_boot (s : State) (x : Port) : (setPort s x).boot = s.boot := rfl
@[simp] theorem setPort_pins (s : State) (x : Port) : (setPort s x).pins = s.pins := rfl
@[simp] theorem setPort_out (s : State) (x : Port) : (setPort s x).out = s.out := rfl

@[simp] theorem setStash_pending (s : State) (x : Stash) : (setStash s x).pending = s.pending := rfl
@[simp] theorem setStash_freeCtr (s : State) (x : Stash) : (setStash s x).freeCtr = s.freeCtr := rfl
@[simp] theorem setStash_variant (s : State) (x : Stash) : (setStash s x).variant = s.variant := rfl
@[simp] theorem setStash_mem (s : State) (x : Stash) : (setStash s x).mem = s.mem := rfl
@[simp] theorem setStash_regs (s : State) (x : Stash) : (setStash s x).regs = s.regs := rfl
@[simp] theorem setStash_boxRegs (s : State) (x : Stash) : (setStash s x).boxRegs = s.boxRegs := rfl
@[simp] theorem setStash_boxMem (s : State) (x : Stash) : (setStash s x).boxMem = s.boxMem := rfl
@[simp] theorem setStash_pos (s : State) (x : Stash) : (setStash s x).pos = s.pos := rfl
@[simp] theorem setStash_stepTick (s : State) (x : Stash) : (setStash s x).stepTick = s.stepTick := rfl
@[simp] theorem setStash_slew (s : State) (x : Stash) : (setStash s x).slew = s.slew := rfl
@[simp] theorem setStash_sinceSlew (s : State) (x : Stash) : (setStash s x).sinceSlew = s.sinceSlew := rfl
@[simp] theorem setStash_missed (s : State) (x : Stash) : (setStash s x).missed = s.missed := rfl
@[simp] theorem setStash_boundary (s : State) (x : Stash) : (setStash s x).boundary = s.boundary := rfl
@[simp] theorem setStash_early (s : State) (x : Stash) : (setStash s x).early = s.early := rfl
@[simp] theorem setStash_train (s : State) (x : Stash) : (setStash s x).train = s.train := rfl
@[simp] theorem setStash_units (s : State) (x : Stash) : (setStash s x).units = s.units := rfl
@[simp] theorem setStash_queues (s : State) (x : Stash) : (setStash s x).queues = s.queues := rfl
@[simp] theorem setStash_entries (s : State) (x : Stash) : (setStash s x).entries = s.entries := rfl
@[simp] theorem setStash_tiles (s : State) (x : Stash) : (setStash s x).tiles = s.tiles := rfl
@[simp] theorem setStash_bankKinds (s : State) (x : Stash) : (setStash s x).bankKinds = s.bankKinds := rfl
@[simp] theorem setStash_lanes (s : State) (x : Stash) : (setStash s x).lanes = s.lanes := rfl
@[simp] theorem setStash_hearth (s : State) (x : Stash) : (setStash s x).hearth = s.hearth := rfl
@[simp] theorem setStash_landings (s : State) (x : Stash) : (setStash s x).landings = s.landings := rfl
@[simp] theorem setStash_nextLanding (s : State) (x : Stash) : (setStash s x).nextLanding = s.nextLanding := rfl
@[simp] theorem setStash_power (s : State) (x : Stash) : (setStash s x).power = s.power := rfl
@[simp] theorem setStash_lps (s : State) (x : Stash) : (setStash s x).lps = s.lps := rfl
@[simp] theorem setStash_walks (s : State) (x : Stash) : (setStash s x).walks = s.walks := rfl
@[simp] theorem setStash_domains (s : State) (x : Stash) : (setStash s x).domains = s.domains := rfl
@[simp] theorem setStash_ports (s : State) (x : Stash) : (setStash s x).ports = s.ports := rfl
@[simp] theorem setStash_fabric (s : State) (x : Stash) : (setStash s x).fabric = s.fabric := rfl
@[simp] theorem setStash_colls (s : State) (x : Stash) : (setStash s x).colls = s.colls := rfl
@[simp] theorem setStash_nextColl (s : State) (x : Stash) : (setStash s x).nextColl = s.nextColl := rfl
@[simp] theorem setStash_annex (s : State) (x : Stash) : (setStash s x).annex = s.annex := rfl
@[simp] theorem setStash_restore (s : State) (x : Stash) : (setStash s x).restore = s.restore := rfl
@[simp] theorem setStash_faults (s : State) (x : Stash) : (setStash s x).faults = s.faults := rfl
@[simp] theorem setStash_imsic (s : State) (x : Stash) : (setStash s x).imsic = s.imsic := rfl
@[simp] theorem setStash_mram (s : State) (x : Stash) : (setStash s x).mram = s.mram := rfl
@[simp] theorem setStash_store (s : State) (x : Stash) : (setStash s x).store = s.store := rfl
@[simp] theorem setStash_boot (s : State) (x : Stash) : (setStash s x).boot = s.boot := rfl
@[simp] theorem setStash_pins (s : State) (x : Stash) : (setStash s x).pins = s.pins := rfl
@[simp] theorem setStash_out (s : State) (x : Stash) : (setStash s x).out = s.out := rfl

@[simp] theorem setBox_pending (s : State) (box off : Nat) (w : Word) : (setBox s box off w).pending = s.pending := rfl
@[simp] theorem setBox_freeCtr (s : State) (box off : Nat) (w : Word) : (setBox s box off w).freeCtr = s.freeCtr := rfl
@[simp] theorem setBox_variant (s : State) (box off : Nat) (w : Word) : (setBox s box off w).variant = s.variant := rfl
@[simp] theorem setBox_mem (s : State) (box off : Nat) (w : Word) : (setBox s box off w).mem = s.mem := rfl
@[simp] theorem setBox_regs (s : State) (box off : Nat) (w : Word) : (setBox s box off w).regs = s.regs := rfl
@[simp] theorem setBox_boxMem (s : State) (box off : Nat) (w : Word) : (setBox s box off w).boxMem = s.boxMem := rfl
@[simp] theorem setBox_pos (s : State) (box off : Nat) (w : Word) : (setBox s box off w).pos = s.pos := rfl
@[simp] theorem setBox_stepTick (s : State) (box off : Nat) (w : Word) : (setBox s box off w).stepTick = s.stepTick := rfl
@[simp] theorem setBox_slew (s : State) (box off : Nat) (w : Word) : (setBox s box off w).slew = s.slew := rfl
@[simp] theorem setBox_sinceSlew (s : State) (box off : Nat) (w : Word) : (setBox s box off w).sinceSlew = s.sinceSlew := rfl
@[simp] theorem setBox_missed (s : State) (box off : Nat) (w : Word) : (setBox s box off w).missed = s.missed := rfl
@[simp] theorem setBox_boundary (s : State) (box off : Nat) (w : Word) : (setBox s box off w).boundary = s.boundary := rfl
@[simp] theorem setBox_early (s : State) (box off : Nat) (w : Word) : (setBox s box off w).early = s.early := rfl
@[simp] theorem setBox_train (s : State) (box off : Nat) (w : Word) : (setBox s box off w).train = s.train := rfl
@[simp] theorem setBox_units (s : State) (box off : Nat) (w : Word) : (setBox s box off w).units = s.units := rfl
@[simp] theorem setBox_queues (s : State) (box off : Nat) (w : Word) : (setBox s box off w).queues = s.queues := rfl
@[simp] theorem setBox_entries (s : State) (box off : Nat) (w : Word) : (setBox s box off w).entries = s.entries := rfl
@[simp] theorem setBox_tiles (s : State) (box off : Nat) (w : Word) : (setBox s box off w).tiles = s.tiles := rfl
@[simp] theorem setBox_bankKinds (s : State) (box off : Nat) (w : Word) : (setBox s box off w).bankKinds = s.bankKinds := rfl
@[simp] theorem setBox_lanes (s : State) (box off : Nat) (w : Word) : (setBox s box off w).lanes = s.lanes := rfl
@[simp] theorem setBox_hearth (s : State) (box off : Nat) (w : Word) : (setBox s box off w).hearth = s.hearth := rfl
@[simp] theorem setBox_stash (s : State) (box off : Nat) (w : Word) : (setBox s box off w).stash = s.stash := rfl
@[simp] theorem setBox_landings (s : State) (box off : Nat) (w : Word) : (setBox s box off w).landings = s.landings := rfl
@[simp] theorem setBox_nextLanding (s : State) (box off : Nat) (w : Word) : (setBox s box off w).nextLanding = s.nextLanding := rfl
@[simp] theorem setBox_power (s : State) (box off : Nat) (w : Word) : (setBox s box off w).power = s.power := rfl
@[simp] theorem setBox_lps (s : State) (box off : Nat) (w : Word) : (setBox s box off w).lps = s.lps := rfl
@[simp] theorem setBox_walks (s : State) (box off : Nat) (w : Word) : (setBox s box off w).walks = s.walks := rfl
@[simp] theorem setBox_domains (s : State) (box off : Nat) (w : Word) : (setBox s box off w).domains = s.domains := rfl
@[simp] theorem setBox_ports (s : State) (box off : Nat) (w : Word) : (setBox s box off w).ports = s.ports := rfl
@[simp] theorem setBox_fabric (s : State) (box off : Nat) (w : Word) : (setBox s box off w).fabric = s.fabric := rfl
@[simp] theorem setBox_colls (s : State) (box off : Nat) (w : Word) : (setBox s box off w).colls = s.colls := rfl
@[simp] theorem setBox_nextColl (s : State) (box off : Nat) (w : Word) : (setBox s box off w).nextColl = s.nextColl := rfl
@[simp] theorem setBox_annex (s : State) (box off : Nat) (w : Word) : (setBox s box off w).annex = s.annex := rfl
@[simp] theorem setBox_restore (s : State) (box off : Nat) (w : Word) : (setBox s box off w).restore = s.restore := rfl
@[simp] theorem setBox_faults (s : State) (box off : Nat) (w : Word) : (setBox s box off w).faults = s.faults := rfl
@[simp] theorem setBox_imsic (s : State) (box off : Nat) (w : Word) : (setBox s box off w).imsic = s.imsic := rfl
@[simp] theorem setBox_mram (s : State) (box off : Nat) (w : Word) : (setBox s box off w).mram = s.mram := rfl
@[simp] theorem setBox_store (s : State) (box off : Nat) (w : Word) : (setBox s box off w).store = s.store := rfl
@[simp] theorem setBox_boot (s : State) (box off : Nat) (w : Word) : (setBox s box off w).boot = s.boot := rfl
@[simp] theorem setBox_pins (s : State) (box off : Nat) (w : Word) : (setBox s box off w).pins = s.pins := rfl
@[simp] theorem setBox_out (s : State) (box off : Nat) (w : Word) : (setBox s box off w).out = s.out := rfl

@[simp] theorem slotWrite_pending (s : State) (box n off : Nat) (bs : List Byte) : (slotWrite s box n off bs).pending = s.pending := rfl
@[simp] theorem slotWrite_freeCtr (s : State) (box n off : Nat) (bs : List Byte) : (slotWrite s box n off bs).freeCtr = s.freeCtr := rfl
@[simp] theorem slotWrite_variant (s : State) (box n off : Nat) (bs : List Byte) : (slotWrite s box n off bs).variant = s.variant := rfl
@[simp] theorem slotWrite_mem (s : State) (box n off : Nat) (bs : List Byte) : (slotWrite s box n off bs).mem = s.mem := rfl
@[simp] theorem slotWrite_regs (s : State) (box n off : Nat) (bs : List Byte) : (slotWrite s box n off bs).regs = s.regs := rfl
@[simp] theorem slotWrite_boxRegs (s : State) (box n off : Nat) (bs : List Byte) : (slotWrite s box n off bs).boxRegs = s.boxRegs := rfl
@[simp] theorem slotWrite_pos (s : State) (box n off : Nat) (bs : List Byte) : (slotWrite s box n off bs).pos = s.pos := rfl
@[simp] theorem slotWrite_stepTick (s : State) (box n off : Nat) (bs : List Byte) : (slotWrite s box n off bs).stepTick = s.stepTick := rfl
@[simp] theorem slotWrite_slew (s : State) (box n off : Nat) (bs : List Byte) : (slotWrite s box n off bs).slew = s.slew := rfl
@[simp] theorem slotWrite_sinceSlew (s : State) (box n off : Nat) (bs : List Byte) : (slotWrite s box n off bs).sinceSlew = s.sinceSlew := rfl
@[simp] theorem slotWrite_missed (s : State) (box n off : Nat) (bs : List Byte) : (slotWrite s box n off bs).missed = s.missed := rfl
@[simp] theorem slotWrite_boundary (s : State) (box n off : Nat) (bs : List Byte) : (slotWrite s box n off bs).boundary = s.boundary := rfl
@[simp] theorem slotWrite_early (s : State) (box n off : Nat) (bs : List Byte) : (slotWrite s box n off bs).early = s.early := rfl
@[simp] theorem slotWrite_train (s : State) (box n off : Nat) (bs : List Byte) : (slotWrite s box n off bs).train = s.train := rfl
@[simp] theorem slotWrite_units (s : State) (box n off : Nat) (bs : List Byte) : (slotWrite s box n off bs).units = s.units := rfl
@[simp] theorem slotWrite_queues (s : State) (box n off : Nat) (bs : List Byte) : (slotWrite s box n off bs).queues = s.queues := rfl
@[simp] theorem slotWrite_entries (s : State) (box n off : Nat) (bs : List Byte) : (slotWrite s box n off bs).entries = s.entries := rfl
@[simp] theorem slotWrite_tiles (s : State) (box n off : Nat) (bs : List Byte) : (slotWrite s box n off bs).tiles = s.tiles := rfl
@[simp] theorem slotWrite_bankKinds (s : State) (box n off : Nat) (bs : List Byte) : (slotWrite s box n off bs).bankKinds = s.bankKinds := rfl
@[simp] theorem slotWrite_lanes (s : State) (box n off : Nat) (bs : List Byte) : (slotWrite s box n off bs).lanes = s.lanes := rfl
@[simp] theorem slotWrite_hearth (s : State) (box n off : Nat) (bs : List Byte) : (slotWrite s box n off bs).hearth = s.hearth := rfl
@[simp] theorem slotWrite_stash (s : State) (box n off : Nat) (bs : List Byte) : (slotWrite s box n off bs).stash = s.stash := rfl
@[simp] theorem slotWrite_landings (s : State) (box n off : Nat) (bs : List Byte) : (slotWrite s box n off bs).landings = s.landings := rfl
@[simp] theorem slotWrite_nextLanding (s : State) (box n off : Nat) (bs : List Byte) : (slotWrite s box n off bs).nextLanding = s.nextLanding := rfl
@[simp] theorem slotWrite_power (s : State) (box n off : Nat) (bs : List Byte) : (slotWrite s box n off bs).power = s.power := rfl
@[simp] theorem slotWrite_lps (s : State) (box n off : Nat) (bs : List Byte) : (slotWrite s box n off bs).lps = s.lps := rfl
@[simp] theorem slotWrite_walks (s : State) (box n off : Nat) (bs : List Byte) : (slotWrite s box n off bs).walks = s.walks := rfl
@[simp] theorem slotWrite_domains (s : State) (box n off : Nat) (bs : List Byte) : (slotWrite s box n off bs).domains = s.domains := rfl
@[simp] theorem slotWrite_ports (s : State) (box n off : Nat) (bs : List Byte) : (slotWrite s box n off bs).ports = s.ports := rfl
@[simp] theorem slotWrite_fabric (s : State) (box n off : Nat) (bs : List Byte) : (slotWrite s box n off bs).fabric = s.fabric := rfl
@[simp] theorem slotWrite_colls (s : State) (box n off : Nat) (bs : List Byte) : (slotWrite s box n off bs).colls = s.colls := rfl
@[simp] theorem slotWrite_nextColl (s : State) (box n off : Nat) (bs : List Byte) : (slotWrite s box n off bs).nextColl = s.nextColl := rfl
@[simp] theorem slotWrite_annex (s : State) (box n off : Nat) (bs : List Byte) : (slotWrite s box n off bs).annex = s.annex := rfl
@[simp] theorem slotWrite_restore (s : State) (box n off : Nat) (bs : List Byte) : (slotWrite s box n off bs).restore = s.restore := rfl
@[simp] theorem slotWrite_faults (s : State) (box n off : Nat) (bs : List Byte) : (slotWrite s box n off bs).faults = s.faults := rfl
@[simp] theorem slotWrite_imsic (s : State) (box n off : Nat) (bs : List Byte) : (slotWrite s box n off bs).imsic = s.imsic := rfl
@[simp] theorem slotWrite_mram (s : State) (box n off : Nat) (bs : List Byte) : (slotWrite s box n off bs).mram = s.mram := rfl
@[simp] theorem slotWrite_store (s : State) (box n off : Nat) (bs : List Byte) : (slotWrite s box n off bs).store = s.store := rfl
@[simp] theorem slotWrite_boot (s : State) (box n off : Nat) (bs : List Byte) : (slotWrite s box n off bs).boot = s.boot := rfl
@[simp] theorem slotWrite_pins (s : State) (box n off : Nat) (bs : List Byte) : (slotWrite s box n off bs).pins = s.pins := rfl
@[simp] theorem slotWrite_out (s : State) (box n off : Nat) (bs : List Byte) : (slotWrite s box n off bs).out = s.out := rfl

@[simp] theorem setLane_pending (s : State) (dom l : Nat) (x : Lane) : (setLane s dom l x).pending = s.pending := rfl
@[simp] theorem setLane_freeCtr (s : State) (dom l : Nat) (x : Lane) : (setLane s dom l x).freeCtr = s.freeCtr := rfl
@[simp] theorem setLane_variant (s : State) (dom l : Nat) (x : Lane) : (setLane s dom l x).variant = s.variant := rfl
@[simp] theorem setLane_mem (s : State) (dom l : Nat) (x : Lane) : (setLane s dom l x).mem = s.mem := rfl
@[simp] theorem setLane_regs (s : State) (dom l : Nat) (x : Lane) : (setLane s dom l x).regs = s.regs := rfl
@[simp] theorem setLane_boxRegs (s : State) (dom l : Nat) (x : Lane) : (setLane s dom l x).boxRegs = s.boxRegs := rfl
@[simp] theorem setLane_boxMem (s : State) (dom l : Nat) (x : Lane) : (setLane s dom l x).boxMem = s.boxMem := rfl
@[simp] theorem setLane_pos (s : State) (dom l : Nat) (x : Lane) : (setLane s dom l x).pos = s.pos := rfl
@[simp] theorem setLane_stepTick (s : State) (dom l : Nat) (x : Lane) : (setLane s dom l x).stepTick = s.stepTick := rfl
@[simp] theorem setLane_slew (s : State) (dom l : Nat) (x : Lane) : (setLane s dom l x).slew = s.slew := rfl
@[simp] theorem setLane_sinceSlew (s : State) (dom l : Nat) (x : Lane) : (setLane s dom l x).sinceSlew = s.sinceSlew := rfl
@[simp] theorem setLane_missed (s : State) (dom l : Nat) (x : Lane) : (setLane s dom l x).missed = s.missed := rfl
@[simp] theorem setLane_boundary (s : State) (dom l : Nat) (x : Lane) : (setLane s dom l x).boundary = s.boundary := rfl
@[simp] theorem setLane_early (s : State) (dom l : Nat) (x : Lane) : (setLane s dom l x).early = s.early := rfl
@[simp] theorem setLane_train (s : State) (dom l : Nat) (x : Lane) : (setLane s dom l x).train = s.train := rfl
@[simp] theorem setLane_units (s : State) (dom l : Nat) (x : Lane) : (setLane s dom l x).units = s.units := rfl
@[simp] theorem setLane_queues (s : State) (dom l : Nat) (x : Lane) : (setLane s dom l x).queues = s.queues := rfl
@[simp] theorem setLane_entries (s : State) (dom l : Nat) (x : Lane) : (setLane s dom l x).entries = s.entries := rfl
@[simp] theorem setLane_tiles (s : State) (dom l : Nat) (x : Lane) : (setLane s dom l x).tiles = s.tiles := rfl
@[simp] theorem setLane_bankKinds (s : State) (dom l : Nat) (x : Lane) : (setLane s dom l x).bankKinds = s.bankKinds := rfl
@[simp] theorem setLane_hearth (s : State) (dom l : Nat) (x : Lane) : (setLane s dom l x).hearth = s.hearth := rfl
@[simp] theorem setLane_stash (s : State) (dom l : Nat) (x : Lane) : (setLane s dom l x).stash = s.stash := rfl
@[simp] theorem setLane_landings (s : State) (dom l : Nat) (x : Lane) : (setLane s dom l x).landings = s.landings := rfl
@[simp] theorem setLane_nextLanding (s : State) (dom l : Nat) (x : Lane) : (setLane s dom l x).nextLanding = s.nextLanding := rfl
@[simp] theorem setLane_power (s : State) (dom l : Nat) (x : Lane) : (setLane s dom l x).power = s.power := rfl
@[simp] theorem setLane_lps (s : State) (dom l : Nat) (x : Lane) : (setLane s dom l x).lps = s.lps := rfl
@[simp] theorem setLane_walks (s : State) (dom l : Nat) (x : Lane) : (setLane s dom l x).walks = s.walks := rfl
@[simp] theorem setLane_domains (s : State) (dom l : Nat) (x : Lane) : (setLane s dom l x).domains = s.domains := rfl
@[simp] theorem setLane_ports (s : State) (dom l : Nat) (x : Lane) : (setLane s dom l x).ports = s.ports := rfl
@[simp] theorem setLane_fabric (s : State) (dom l : Nat) (x : Lane) : (setLane s dom l x).fabric = s.fabric := rfl
@[simp] theorem setLane_colls (s : State) (dom l : Nat) (x : Lane) : (setLane s dom l x).colls = s.colls := rfl
@[simp] theorem setLane_nextColl (s : State) (dom l : Nat) (x : Lane) : (setLane s dom l x).nextColl = s.nextColl := rfl
@[simp] theorem setLane_annex (s : State) (dom l : Nat) (x : Lane) : (setLane s dom l x).annex = s.annex := rfl
@[simp] theorem setLane_restore (s : State) (dom l : Nat) (x : Lane) : (setLane s dom l x).restore = s.restore := rfl
@[simp] theorem setLane_faults (s : State) (dom l : Nat) (x : Lane) : (setLane s dom l x).faults = s.faults := rfl
@[simp] theorem setLane_imsic (s : State) (dom l : Nat) (x : Lane) : (setLane s dom l x).imsic = s.imsic := rfl
@[simp] theorem setLane_mram (s : State) (dom l : Nat) (x : Lane) : (setLane s dom l x).mram = s.mram := rfl
@[simp] theorem setLane_store (s : State) (dom l : Nat) (x : Lane) : (setLane s dom l x).store = s.store := rfl
@[simp] theorem setLane_boot (s : State) (dom l : Nat) (x : Lane) : (setLane s dom l x).boot = s.boot := rfl
@[simp] theorem setLane_pins (s : State) (dom l : Nat) (x : Lane) : (setLane s dom l x).pins = s.pins := rfl
@[simp] theorem setLane_out (s : State) (dom l : Nat) (x : Lane) : (setLane s dom l x).out = s.out := rfl

@[simp] theorem putEntry_pending (bank i j : Nat) (e : CellarEntry) (s : State) : (putEntry bank i j e s).pending = s.pending := rfl
@[simp] theorem putEntry_freeCtr (bank i j : Nat) (e : CellarEntry) (s : State) : (putEntry bank i j e s).freeCtr = s.freeCtr := rfl
@[simp] theorem putEntry_variant (bank i j : Nat) (e : CellarEntry) (s : State) : (putEntry bank i j e s).variant = s.variant := rfl
@[simp] theorem putEntry_mem (bank i j : Nat) (e : CellarEntry) (s : State) : (putEntry bank i j e s).mem = s.mem := rfl
@[simp] theorem putEntry_regs (bank i j : Nat) (e : CellarEntry) (s : State) : (putEntry bank i j e s).regs = s.regs := rfl
@[simp] theorem putEntry_boxRegs (bank i j : Nat) (e : CellarEntry) (s : State) : (putEntry bank i j e s).boxRegs = s.boxRegs := rfl
@[simp] theorem putEntry_boxMem (bank i j : Nat) (e : CellarEntry) (s : State) : (putEntry bank i j e s).boxMem = s.boxMem := rfl
@[simp] theorem putEntry_pos (bank i j : Nat) (e : CellarEntry) (s : State) : (putEntry bank i j e s).pos = s.pos := rfl
@[simp] theorem putEntry_stepTick (bank i j : Nat) (e : CellarEntry) (s : State) : (putEntry bank i j e s).stepTick = s.stepTick := rfl
@[simp] theorem putEntry_slew (bank i j : Nat) (e : CellarEntry) (s : State) : (putEntry bank i j e s).slew = s.slew := rfl
@[simp] theorem putEntry_sinceSlew (bank i j : Nat) (e : CellarEntry) (s : State) : (putEntry bank i j e s).sinceSlew = s.sinceSlew := rfl
@[simp] theorem putEntry_missed (bank i j : Nat) (e : CellarEntry) (s : State) : (putEntry bank i j e s).missed = s.missed := rfl
@[simp] theorem putEntry_boundary (bank i j : Nat) (e : CellarEntry) (s : State) : (putEntry bank i j e s).boundary = s.boundary := rfl
@[simp] theorem putEntry_early (bank i j : Nat) (e : CellarEntry) (s : State) : (putEntry bank i j e s).early = s.early := rfl
@[simp] theorem putEntry_train (bank i j : Nat) (e : CellarEntry) (s : State) : (putEntry bank i j e s).train = s.train := rfl
@[simp] theorem putEntry_units (bank i j : Nat) (e : CellarEntry) (s : State) : (putEntry bank i j e s).units = s.units := rfl
@[simp] theorem putEntry_queues (bank i j : Nat) (e : CellarEntry) (s : State) : (putEntry bank i j e s).queues = s.queues := rfl
@[simp] theorem putEntry_tiles (bank i j : Nat) (e : CellarEntry) (s : State) : (putEntry bank i j e s).tiles = s.tiles := rfl
@[simp] theorem putEntry_bankKinds (bank i j : Nat) (e : CellarEntry) (s : State) : (putEntry bank i j e s).bankKinds = s.bankKinds := rfl
@[simp] theorem putEntry_lanes (bank i j : Nat) (e : CellarEntry) (s : State) : (putEntry bank i j e s).lanes = s.lanes := rfl
@[simp] theorem putEntry_hearth (bank i j : Nat) (e : CellarEntry) (s : State) : (putEntry bank i j e s).hearth = s.hearth := rfl
@[simp] theorem putEntry_stash (bank i j : Nat) (e : CellarEntry) (s : State) : (putEntry bank i j e s).stash = s.stash := rfl
@[simp] theorem putEntry_landings (bank i j : Nat) (e : CellarEntry) (s : State) : (putEntry bank i j e s).landings = s.landings := rfl
@[simp] theorem putEntry_nextLanding (bank i j : Nat) (e : CellarEntry) (s : State) : (putEntry bank i j e s).nextLanding = s.nextLanding := rfl
@[simp] theorem putEntry_power (bank i j : Nat) (e : CellarEntry) (s : State) : (putEntry bank i j e s).power = s.power := rfl
@[simp] theorem putEntry_lps (bank i j : Nat) (e : CellarEntry) (s : State) : (putEntry bank i j e s).lps = s.lps := rfl
@[simp] theorem putEntry_walks (bank i j : Nat) (e : CellarEntry) (s : State) : (putEntry bank i j e s).walks = s.walks := rfl
@[simp] theorem putEntry_domains (bank i j : Nat) (e : CellarEntry) (s : State) : (putEntry bank i j e s).domains = s.domains := rfl
@[simp] theorem putEntry_ports (bank i j : Nat) (e : CellarEntry) (s : State) : (putEntry bank i j e s).ports = s.ports := rfl
@[simp] theorem putEntry_fabric (bank i j : Nat) (e : CellarEntry) (s : State) : (putEntry bank i j e s).fabric = s.fabric := rfl
@[simp] theorem putEntry_colls (bank i j : Nat) (e : CellarEntry) (s : State) : (putEntry bank i j e s).colls = s.colls := rfl
@[simp] theorem putEntry_nextColl (bank i j : Nat) (e : CellarEntry) (s : State) : (putEntry bank i j e s).nextColl = s.nextColl := rfl
@[simp] theorem putEntry_annex (bank i j : Nat) (e : CellarEntry) (s : State) : (putEntry bank i j e s).annex = s.annex := rfl
@[simp] theorem putEntry_restore (bank i j : Nat) (e : CellarEntry) (s : State) : (putEntry bank i j e s).restore = s.restore := rfl
@[simp] theorem putEntry_faults (bank i j : Nat) (e : CellarEntry) (s : State) : (putEntry bank i j e s).faults = s.faults := rfl
@[simp] theorem putEntry_imsic (bank i j : Nat) (e : CellarEntry) (s : State) : (putEntry bank i j e s).imsic = s.imsic := rfl
@[simp] theorem putEntry_mram (bank i j : Nat) (e : CellarEntry) (s : State) : (putEntry bank i j e s).mram = s.mram := rfl
@[simp] theorem putEntry_store (bank i j : Nat) (e : CellarEntry) (s : State) : (putEntry bank i j e s).store = s.store := rfl
@[simp] theorem putEntry_boot (bank i j : Nat) (e : CellarEntry) (s : State) : (putEntry bank i j e s).boot = s.boot := rfl
@[simp] theorem putEntry_pins (bank i j : Nat) (e : CellarEntry) (s : State) : (putEntry bank i j e s).pins = s.pins := rfl
@[simp] theorem putEntry_out (bank i j : Nat) (e : CellarEntry) (s : State) : (putEntry bank i j e s).out = s.out := rfl

@[simp] theorem putTileRec_pending (bank n : Nat) (t : CellarTile) (s : State) : (putTileRec bank n t s).pending = s.pending := rfl
@[simp] theorem putTileRec_freeCtr (bank n : Nat) (t : CellarTile) (s : State) : (putTileRec bank n t s).freeCtr = s.freeCtr := rfl
@[simp] theorem putTileRec_variant (bank n : Nat) (t : CellarTile) (s : State) : (putTileRec bank n t s).variant = s.variant := rfl
@[simp] theorem putTileRec_mem (bank n : Nat) (t : CellarTile) (s : State) : (putTileRec bank n t s).mem = s.mem := rfl
@[simp] theorem putTileRec_regs (bank n : Nat) (t : CellarTile) (s : State) : (putTileRec bank n t s).regs = s.regs := rfl
@[simp] theorem putTileRec_boxRegs (bank n : Nat) (t : CellarTile) (s : State) : (putTileRec bank n t s).boxRegs = s.boxRegs := rfl
@[simp] theorem putTileRec_boxMem (bank n : Nat) (t : CellarTile) (s : State) : (putTileRec bank n t s).boxMem = s.boxMem := rfl
@[simp] theorem putTileRec_pos (bank n : Nat) (t : CellarTile) (s : State) : (putTileRec bank n t s).pos = s.pos := rfl
@[simp] theorem putTileRec_stepTick (bank n : Nat) (t : CellarTile) (s : State) : (putTileRec bank n t s).stepTick = s.stepTick := rfl
@[simp] theorem putTileRec_slew (bank n : Nat) (t : CellarTile) (s : State) : (putTileRec bank n t s).slew = s.slew := rfl
@[simp] theorem putTileRec_sinceSlew (bank n : Nat) (t : CellarTile) (s : State) : (putTileRec bank n t s).sinceSlew = s.sinceSlew := rfl
@[simp] theorem putTileRec_missed (bank n : Nat) (t : CellarTile) (s : State) : (putTileRec bank n t s).missed = s.missed := rfl
@[simp] theorem putTileRec_boundary (bank n : Nat) (t : CellarTile) (s : State) : (putTileRec bank n t s).boundary = s.boundary := rfl
@[simp] theorem putTileRec_early (bank n : Nat) (t : CellarTile) (s : State) : (putTileRec bank n t s).early = s.early := rfl
@[simp] theorem putTileRec_train (bank n : Nat) (t : CellarTile) (s : State) : (putTileRec bank n t s).train = s.train := rfl
@[simp] theorem putTileRec_units (bank n : Nat) (t : CellarTile) (s : State) : (putTileRec bank n t s).units = s.units := rfl
@[simp] theorem putTileRec_queues (bank n : Nat) (t : CellarTile) (s : State) : (putTileRec bank n t s).queues = s.queues := rfl
@[simp] theorem putTileRec_entries (bank n : Nat) (t : CellarTile) (s : State) : (putTileRec bank n t s).entries = s.entries := rfl
@[simp] theorem putTileRec_bankKinds (bank n : Nat) (t : CellarTile) (s : State) : (putTileRec bank n t s).bankKinds = s.bankKinds := rfl
@[simp] theorem putTileRec_lanes (bank n : Nat) (t : CellarTile) (s : State) : (putTileRec bank n t s).lanes = s.lanes := rfl
@[simp] theorem putTileRec_hearth (bank n : Nat) (t : CellarTile) (s : State) : (putTileRec bank n t s).hearth = s.hearth := rfl
@[simp] theorem putTileRec_stash (bank n : Nat) (t : CellarTile) (s : State) : (putTileRec bank n t s).stash = s.stash := rfl
@[simp] theorem putTileRec_landings (bank n : Nat) (t : CellarTile) (s : State) : (putTileRec bank n t s).landings = s.landings := rfl
@[simp] theorem putTileRec_nextLanding (bank n : Nat) (t : CellarTile) (s : State) : (putTileRec bank n t s).nextLanding = s.nextLanding := rfl
@[simp] theorem putTileRec_power (bank n : Nat) (t : CellarTile) (s : State) : (putTileRec bank n t s).power = s.power := rfl
@[simp] theorem putTileRec_lps (bank n : Nat) (t : CellarTile) (s : State) : (putTileRec bank n t s).lps = s.lps := rfl
@[simp] theorem putTileRec_walks (bank n : Nat) (t : CellarTile) (s : State) : (putTileRec bank n t s).walks = s.walks := rfl
@[simp] theorem putTileRec_domains (bank n : Nat) (t : CellarTile) (s : State) : (putTileRec bank n t s).domains = s.domains := rfl
@[simp] theorem putTileRec_ports (bank n : Nat) (t : CellarTile) (s : State) : (putTileRec bank n t s).ports = s.ports := rfl
@[simp] theorem putTileRec_fabric (bank n : Nat) (t : CellarTile) (s : State) : (putTileRec bank n t s).fabric = s.fabric := rfl
@[simp] theorem putTileRec_colls (bank n : Nat) (t : CellarTile) (s : State) : (putTileRec bank n t s).colls = s.colls := rfl
@[simp] theorem putTileRec_nextColl (bank n : Nat) (t : CellarTile) (s : State) : (putTileRec bank n t s).nextColl = s.nextColl := rfl
@[simp] theorem putTileRec_annex (bank n : Nat) (t : CellarTile) (s : State) : (putTileRec bank n t s).annex = s.annex := rfl
@[simp] theorem putTileRec_restore (bank n : Nat) (t : CellarTile) (s : State) : (putTileRec bank n t s).restore = s.restore := rfl
@[simp] theorem putTileRec_faults (bank n : Nat) (t : CellarTile) (s : State) : (putTileRec bank n t s).faults = s.faults := rfl
@[simp] theorem putTileRec_imsic (bank n : Nat) (t : CellarTile) (s : State) : (putTileRec bank n t s).imsic = s.imsic := rfl
@[simp] theorem putTileRec_mram (bank n : Nat) (t : CellarTile) (s : State) : (putTileRec bank n t s).mram = s.mram := rfl
@[simp] theorem putTileRec_store (bank n : Nat) (t : CellarTile) (s : State) : (putTileRec bank n t s).store = s.store := rfl
@[simp] theorem putTileRec_boot (bank n : Nat) (t : CellarTile) (s : State) : (putTileRec bank n t s).boot = s.boot := rfl
@[simp] theorem putTileRec_pins (bank n : Nat) (t : CellarTile) (s : State) : (putTileRec bank n t s).pins = s.pins := rfl
@[simp] theorem putTileRec_out (bank n : Nat) (t : CellarTile) (s : State) : (putTileRec bank n t s).out = s.out := rfl

@[simp] theorem putKind_pending (bank : Nat) (k : BankKind) (s : State) : (putKind bank k s).pending = s.pending := rfl
@[simp] theorem putKind_freeCtr (bank : Nat) (k : BankKind) (s : State) : (putKind bank k s).freeCtr = s.freeCtr := rfl
@[simp] theorem putKind_variant (bank : Nat) (k : BankKind) (s : State) : (putKind bank k s).variant = s.variant := rfl
@[simp] theorem putKind_mem (bank : Nat) (k : BankKind) (s : State) : (putKind bank k s).mem = s.mem := rfl
@[simp] theorem putKind_regs (bank : Nat) (k : BankKind) (s : State) : (putKind bank k s).regs = s.regs := rfl
@[simp] theorem putKind_boxRegs (bank : Nat) (k : BankKind) (s : State) : (putKind bank k s).boxRegs = s.boxRegs := rfl
@[simp] theorem putKind_boxMem (bank : Nat) (k : BankKind) (s : State) : (putKind bank k s).boxMem = s.boxMem := rfl
@[simp] theorem putKind_pos (bank : Nat) (k : BankKind) (s : State) : (putKind bank k s).pos = s.pos := rfl
@[simp] theorem putKind_stepTick (bank : Nat) (k : BankKind) (s : State) : (putKind bank k s).stepTick = s.stepTick := rfl
@[simp] theorem putKind_slew (bank : Nat) (k : BankKind) (s : State) : (putKind bank k s).slew = s.slew := rfl
@[simp] theorem putKind_sinceSlew (bank : Nat) (k : BankKind) (s : State) : (putKind bank k s).sinceSlew = s.sinceSlew := rfl
@[simp] theorem putKind_missed (bank : Nat) (k : BankKind) (s : State) : (putKind bank k s).missed = s.missed := rfl
@[simp] theorem putKind_boundary (bank : Nat) (k : BankKind) (s : State) : (putKind bank k s).boundary = s.boundary := rfl
@[simp] theorem putKind_early (bank : Nat) (k : BankKind) (s : State) : (putKind bank k s).early = s.early := rfl
@[simp] theorem putKind_train (bank : Nat) (k : BankKind) (s : State) : (putKind bank k s).train = s.train := rfl
@[simp] theorem putKind_units (bank : Nat) (k : BankKind) (s : State) : (putKind bank k s).units = s.units := rfl
@[simp] theorem putKind_queues (bank : Nat) (k : BankKind) (s : State) : (putKind bank k s).queues = s.queues := rfl
@[simp] theorem putKind_entries (bank : Nat) (k : BankKind) (s : State) : (putKind bank k s).entries = s.entries := rfl
@[simp] theorem putKind_tiles (bank : Nat) (k : BankKind) (s : State) : (putKind bank k s).tiles = s.tiles := rfl
@[simp] theorem putKind_lanes (bank : Nat) (k : BankKind) (s : State) : (putKind bank k s).lanes = s.lanes := rfl
@[simp] theorem putKind_hearth (bank : Nat) (k : BankKind) (s : State) : (putKind bank k s).hearth = s.hearth := rfl
@[simp] theorem putKind_stash (bank : Nat) (k : BankKind) (s : State) : (putKind bank k s).stash = s.stash := rfl
@[simp] theorem putKind_landings (bank : Nat) (k : BankKind) (s : State) : (putKind bank k s).landings = s.landings := rfl
@[simp] theorem putKind_nextLanding (bank : Nat) (k : BankKind) (s : State) : (putKind bank k s).nextLanding = s.nextLanding := rfl
@[simp] theorem putKind_power (bank : Nat) (k : BankKind) (s : State) : (putKind bank k s).power = s.power := rfl
@[simp] theorem putKind_lps (bank : Nat) (k : BankKind) (s : State) : (putKind bank k s).lps = s.lps := rfl
@[simp] theorem putKind_walks (bank : Nat) (k : BankKind) (s : State) : (putKind bank k s).walks = s.walks := rfl
@[simp] theorem putKind_domains (bank : Nat) (k : BankKind) (s : State) : (putKind bank k s).domains = s.domains := rfl
@[simp] theorem putKind_ports (bank : Nat) (k : BankKind) (s : State) : (putKind bank k s).ports = s.ports := rfl
@[simp] theorem putKind_fabric (bank : Nat) (k : BankKind) (s : State) : (putKind bank k s).fabric = s.fabric := rfl
@[simp] theorem putKind_colls (bank : Nat) (k : BankKind) (s : State) : (putKind bank k s).colls = s.colls := rfl
@[simp] theorem putKind_nextColl (bank : Nat) (k : BankKind) (s : State) : (putKind bank k s).nextColl = s.nextColl := rfl
@[simp] theorem putKind_annex (bank : Nat) (k : BankKind) (s : State) : (putKind bank k s).annex = s.annex := rfl
@[simp] theorem putKind_restore (bank : Nat) (k : BankKind) (s : State) : (putKind bank k s).restore = s.restore := rfl
@[simp] theorem putKind_faults (bank : Nat) (k : BankKind) (s : State) : (putKind bank k s).faults = s.faults := rfl
@[simp] theorem putKind_imsic (bank : Nat) (k : BankKind) (s : State) : (putKind bank k s).imsic = s.imsic := rfl
@[simp] theorem putKind_mram (bank : Nat) (k : BankKind) (s : State) : (putKind bank k s).mram = s.mram := rfl
@[simp] theorem putKind_store (bank : Nat) (k : BankKind) (s : State) : (putKind bank k s).store = s.store := rfl
@[simp] theorem putKind_boot (bank : Nat) (k : BankKind) (s : State) : (putKind bank k s).boot = s.boot := rfl
@[simp] theorem putKind_pins (bank : Nat) (k : BankKind) (s : State) : (putKind bank k s).pins = s.pins := rfl
@[simp] theorem putKind_out (bank : Nat) (k : BankKind) (s : State) : (putKind bank k s).out = s.out := rfl

@[simp] theorem zeroBank_pending (bank : Nat) (s : State) : (zeroBank bank s).pending = s.pending := rfl
@[simp] theorem zeroBank_freeCtr (bank : Nat) (s : State) : (zeroBank bank s).freeCtr = s.freeCtr := rfl
@[simp] theorem zeroBank_variant (bank : Nat) (s : State) : (zeroBank bank s).variant = s.variant := rfl
@[simp] theorem zeroBank_mem (bank : Nat) (s : State) : (zeroBank bank s).mem = s.mem := rfl
@[simp] theorem zeroBank_regs (bank : Nat) (s : State) : (zeroBank bank s).regs = s.regs := rfl
@[simp] theorem zeroBank_boxRegs (bank : Nat) (s : State) : (zeroBank bank s).boxRegs = s.boxRegs := rfl
@[simp] theorem zeroBank_boxMem (bank : Nat) (s : State) : (zeroBank bank s).boxMem = s.boxMem := rfl
@[simp] theorem zeroBank_pos (bank : Nat) (s : State) : (zeroBank bank s).pos = s.pos := rfl
@[simp] theorem zeroBank_stepTick (bank : Nat) (s : State) : (zeroBank bank s).stepTick = s.stepTick := rfl
@[simp] theorem zeroBank_slew (bank : Nat) (s : State) : (zeroBank bank s).slew = s.slew := rfl
@[simp] theorem zeroBank_sinceSlew (bank : Nat) (s : State) : (zeroBank bank s).sinceSlew = s.sinceSlew := rfl
@[simp] theorem zeroBank_missed (bank : Nat) (s : State) : (zeroBank bank s).missed = s.missed := rfl
@[simp] theorem zeroBank_boundary (bank : Nat) (s : State) : (zeroBank bank s).boundary = s.boundary := rfl
@[simp] theorem zeroBank_early (bank : Nat) (s : State) : (zeroBank bank s).early = s.early := rfl
@[simp] theorem zeroBank_train (bank : Nat) (s : State) : (zeroBank bank s).train = s.train := rfl
@[simp] theorem zeroBank_units (bank : Nat) (s : State) : (zeroBank bank s).units = s.units := rfl
@[simp] theorem zeroBank_queues (bank : Nat) (s : State) : (zeroBank bank s).queues = s.queues := rfl
@[simp] theorem zeroBank_lanes (bank : Nat) (s : State) : (zeroBank bank s).lanes = s.lanes := rfl
@[simp] theorem zeroBank_hearth (bank : Nat) (s : State) : (zeroBank bank s).hearth = s.hearth := rfl
@[simp] theorem zeroBank_stash (bank : Nat) (s : State) : (zeroBank bank s).stash = s.stash := rfl
@[simp] theorem zeroBank_landings (bank : Nat) (s : State) : (zeroBank bank s).landings = s.landings := rfl
@[simp] theorem zeroBank_nextLanding (bank : Nat) (s : State) : (zeroBank bank s).nextLanding = s.nextLanding := rfl
@[simp] theorem zeroBank_power (bank : Nat) (s : State) : (zeroBank bank s).power = s.power := rfl
@[simp] theorem zeroBank_lps (bank : Nat) (s : State) : (zeroBank bank s).lps = s.lps := rfl
@[simp] theorem zeroBank_walks (bank : Nat) (s : State) : (zeroBank bank s).walks = s.walks := rfl
@[simp] theorem zeroBank_domains (bank : Nat) (s : State) : (zeroBank bank s).domains = s.domains := rfl
@[simp] theorem zeroBank_ports (bank : Nat) (s : State) : (zeroBank bank s).ports = s.ports := rfl
@[simp] theorem zeroBank_fabric (bank : Nat) (s : State) : (zeroBank bank s).fabric = s.fabric := rfl
@[simp] theorem zeroBank_colls (bank : Nat) (s : State) : (zeroBank bank s).colls = s.colls := rfl
@[simp] theorem zeroBank_nextColl (bank : Nat) (s : State) : (zeroBank bank s).nextColl = s.nextColl := rfl
@[simp] theorem zeroBank_annex (bank : Nat) (s : State) : (zeroBank bank s).annex = s.annex := rfl
@[simp] theorem zeroBank_restore (bank : Nat) (s : State) : (zeroBank bank s).restore = s.restore := rfl
@[simp] theorem zeroBank_faults (bank : Nat) (s : State) : (zeroBank bank s).faults = s.faults := rfl
@[simp] theorem zeroBank_imsic (bank : Nat) (s : State) : (zeroBank bank s).imsic = s.imsic := rfl
@[simp] theorem zeroBank_mram (bank : Nat) (s : State) : (zeroBank bank s).mram = s.mram := rfl
@[simp] theorem zeroBank_store (bank : Nat) (s : State) : (zeroBank bank s).store = s.store := rfl
@[simp] theorem zeroBank_boot (bank : Nat) (s : State) : (zeroBank bank s).boot = s.boot := rfl
@[simp] theorem zeroBank_pins (bank : Nat) (s : State) : (zeroBank bank s).pins = s.pins := rfl
@[simp] theorem zeroBank_out (bank : Nat) (s : State) : (zeroBank bank s).out = s.out := rfl

@[simp] theorem setLp_pending (s : State) (l : LowPower) : (setLp s l).pending = s.pending := rfl
@[simp] theorem setLp_freeCtr (s : State) (l : LowPower) : (setLp s l).freeCtr = s.freeCtr := rfl
@[simp] theorem setLp_variant (s : State) (l : LowPower) : (setLp s l).variant = s.variant := rfl
@[simp] theorem setLp_mem (s : State) (l : LowPower) : (setLp s l).mem = s.mem := rfl
@[simp] theorem setLp_boxRegs (s : State) (l : LowPower) : (setLp s l).boxRegs = s.boxRegs := rfl
@[simp] theorem setLp_boxMem (s : State) (l : LowPower) : (setLp s l).boxMem = s.boxMem := rfl
@[simp] theorem setLp_pos (s : State) (l : LowPower) : (setLp s l).pos = s.pos := rfl
@[simp] theorem setLp_stepTick (s : State) (l : LowPower) : (setLp s l).stepTick = s.stepTick := rfl
@[simp] theorem setLp_slew (s : State) (l : LowPower) : (setLp s l).slew = s.slew := rfl
@[simp] theorem setLp_sinceSlew (s : State) (l : LowPower) : (setLp s l).sinceSlew = s.sinceSlew := rfl
@[simp] theorem setLp_missed (s : State) (l : LowPower) : (setLp s l).missed = s.missed := rfl
@[simp] theorem setLp_boundary (s : State) (l : LowPower) : (setLp s l).boundary = s.boundary := rfl
@[simp] theorem setLp_early (s : State) (l : LowPower) : (setLp s l).early = s.early := rfl
@[simp] theorem setLp_train (s : State) (l : LowPower) : (setLp s l).train = s.train := rfl
@[simp] theorem setLp_units (s : State) (l : LowPower) : (setLp s l).units = s.units := rfl
@[simp] theorem setLp_queues (s : State) (l : LowPower) : (setLp s l).queues = s.queues := rfl
@[simp] theorem setLp_entries (s : State) (l : LowPower) : (setLp s l).entries = s.entries := rfl
@[simp] theorem setLp_tiles (s : State) (l : LowPower) : (setLp s l).tiles = s.tiles := rfl
@[simp] theorem setLp_bankKinds (s : State) (l : LowPower) : (setLp s l).bankKinds = s.bankKinds := rfl
@[simp] theorem setLp_lanes (s : State) (l : LowPower) : (setLp s l).lanes = s.lanes := rfl
@[simp] theorem setLp_hearth (s : State) (l : LowPower) : (setLp s l).hearth = s.hearth := rfl
@[simp] theorem setLp_stash (s : State) (l : LowPower) : (setLp s l).stash = s.stash := rfl
@[simp] theorem setLp_landings (s : State) (l : LowPower) : (setLp s l).landings = s.landings := rfl
@[simp] theorem setLp_nextLanding (s : State) (l : LowPower) : (setLp s l).nextLanding = s.nextLanding := rfl
@[simp] theorem setLp_power (s : State) (l : LowPower) : (setLp s l).power = s.power := rfl
@[simp] theorem setLp_walks (s : State) (l : LowPower) : (setLp s l).walks = s.walks := rfl
@[simp] theorem setLp_domains (s : State) (l : LowPower) : (setLp s l).domains = s.domains := rfl
@[simp] theorem setLp_ports (s : State) (l : LowPower) : (setLp s l).ports = s.ports := rfl
@[simp] theorem setLp_fabric (s : State) (l : LowPower) : (setLp s l).fabric = s.fabric := rfl
@[simp] theorem setLp_colls (s : State) (l : LowPower) : (setLp s l).colls = s.colls := rfl
@[simp] theorem setLp_nextColl (s : State) (l : LowPower) : (setLp s l).nextColl = s.nextColl := rfl
@[simp] theorem setLp_annex (s : State) (l : LowPower) : (setLp s l).annex = s.annex := rfl
@[simp] theorem setLp_restore (s : State) (l : LowPower) : (setLp s l).restore = s.restore := rfl
@[simp] theorem setLp_faults (s : State) (l : LowPower) : (setLp s l).faults = s.faults := rfl
@[simp] theorem setLp_imsic (s : State) (l : LowPower) : (setLp s l).imsic = s.imsic := rfl
@[simp] theorem setLp_mram (s : State) (l : LowPower) : (setLp s l).mram = s.mram := rfl
@[simp] theorem setLp_store (s : State) (l : LowPower) : (setLp s l).store = s.store := rfl
@[simp] theorem setLp_boot (s : State) (l : LowPower) : (setLp s l).boot = s.boot := rfl
@[simp] theorem setLp_pins (s : State) (l : LowPower) : (setLp s l).pins = s.pins := rfl
@[simp] theorem setLp_out (s : State) (l : LowPower) : (setLp s l).out = s.out := rfl

@[simp] theorem mapOp_pending (u : UnitRef) (id : Nat) (g : Op → Op) (s : State) : (mapOp u id g s).pending = s.pending := rfl
@[simp] theorem mapOp_freeCtr (u : UnitRef) (id : Nat) (g : Op → Op) (s : State) : (mapOp u id g s).freeCtr = s.freeCtr := rfl
@[simp] theorem mapOp_variant (u : UnitRef) (id : Nat) (g : Op → Op) (s : State) : (mapOp u id g s).variant = s.variant := rfl
@[simp] theorem mapOp_mem (u : UnitRef) (id : Nat) (g : Op → Op) (s : State) : (mapOp u id g s).mem = s.mem := rfl
@[simp] theorem mapOp_regs (u : UnitRef) (id : Nat) (g : Op → Op) (s : State) : (mapOp u id g s).regs = s.regs := rfl
@[simp] theorem mapOp_boxRegs (u : UnitRef) (id : Nat) (g : Op → Op) (s : State) : (mapOp u id g s).boxRegs = s.boxRegs := rfl
@[simp] theorem mapOp_boxMem (u : UnitRef) (id : Nat) (g : Op → Op) (s : State) : (mapOp u id g s).boxMem = s.boxMem := rfl
@[simp] theorem mapOp_pos (u : UnitRef) (id : Nat) (g : Op → Op) (s : State) : (mapOp u id g s).pos = s.pos := rfl
@[simp] theorem mapOp_stepTick (u : UnitRef) (id : Nat) (g : Op → Op) (s : State) : (mapOp u id g s).stepTick = s.stepTick := rfl
@[simp] theorem mapOp_slew (u : UnitRef) (id : Nat) (g : Op → Op) (s : State) : (mapOp u id g s).slew = s.slew := rfl
@[simp] theorem mapOp_sinceSlew (u : UnitRef) (id : Nat) (g : Op → Op) (s : State) : (mapOp u id g s).sinceSlew = s.sinceSlew := rfl
@[simp] theorem mapOp_missed (u : UnitRef) (id : Nat) (g : Op → Op) (s : State) : (mapOp u id g s).missed = s.missed := rfl
@[simp] theorem mapOp_boundary (u : UnitRef) (id : Nat) (g : Op → Op) (s : State) : (mapOp u id g s).boundary = s.boundary := rfl
@[simp] theorem mapOp_early (u : UnitRef) (id : Nat) (g : Op → Op) (s : State) : (mapOp u id g s).early = s.early := rfl
@[simp] theorem mapOp_train (u : UnitRef) (id : Nat) (g : Op → Op) (s : State) : (mapOp u id g s).train = s.train := rfl
@[simp] theorem mapOp_queues (u : UnitRef) (id : Nat) (g : Op → Op) (s : State) : (mapOp u id g s).queues = s.queues := rfl
@[simp] theorem mapOp_entries (u : UnitRef) (id : Nat) (g : Op → Op) (s : State) : (mapOp u id g s).entries = s.entries := rfl
@[simp] theorem mapOp_tiles (u : UnitRef) (id : Nat) (g : Op → Op) (s : State) : (mapOp u id g s).tiles = s.tiles := rfl
@[simp] theorem mapOp_bankKinds (u : UnitRef) (id : Nat) (g : Op → Op) (s : State) : (mapOp u id g s).bankKinds = s.bankKinds := rfl
@[simp] theorem mapOp_lanes (u : UnitRef) (id : Nat) (g : Op → Op) (s : State) : (mapOp u id g s).lanes = s.lanes := rfl
@[simp] theorem mapOp_hearth (u : UnitRef) (id : Nat) (g : Op → Op) (s : State) : (mapOp u id g s).hearth = s.hearth := rfl
@[simp] theorem mapOp_stash (u : UnitRef) (id : Nat) (g : Op → Op) (s : State) : (mapOp u id g s).stash = s.stash := rfl
@[simp] theorem mapOp_landings (u : UnitRef) (id : Nat) (g : Op → Op) (s : State) : (mapOp u id g s).landings = s.landings := rfl
@[simp] theorem mapOp_nextLanding (u : UnitRef) (id : Nat) (g : Op → Op) (s : State) : (mapOp u id g s).nextLanding = s.nextLanding := rfl
@[simp] theorem mapOp_power (u : UnitRef) (id : Nat) (g : Op → Op) (s : State) : (mapOp u id g s).power = s.power := rfl
@[simp] theorem mapOp_lps (u : UnitRef) (id : Nat) (g : Op → Op) (s : State) : (mapOp u id g s).lps = s.lps := rfl
@[simp] theorem mapOp_walks (u : UnitRef) (id : Nat) (g : Op → Op) (s : State) : (mapOp u id g s).walks = s.walks := rfl
@[simp] theorem mapOp_domains (u : UnitRef) (id : Nat) (g : Op → Op) (s : State) : (mapOp u id g s).domains = s.domains := rfl
@[simp] theorem mapOp_ports (u : UnitRef) (id : Nat) (g : Op → Op) (s : State) : (mapOp u id g s).ports = s.ports := rfl
@[simp] theorem mapOp_fabric (u : UnitRef) (id : Nat) (g : Op → Op) (s : State) : (mapOp u id g s).fabric = s.fabric := rfl
@[simp] theorem mapOp_colls (u : UnitRef) (id : Nat) (g : Op → Op) (s : State) : (mapOp u id g s).colls = s.colls := rfl
@[simp] theorem mapOp_nextColl (u : UnitRef) (id : Nat) (g : Op → Op) (s : State) : (mapOp u id g s).nextColl = s.nextColl := rfl
@[simp] theorem mapOp_annex (u : UnitRef) (id : Nat) (g : Op → Op) (s : State) : (mapOp u id g s).annex = s.annex := rfl
@[simp] theorem mapOp_restore (u : UnitRef) (id : Nat) (g : Op → Op) (s : State) : (mapOp u id g s).restore = s.restore := rfl
@[simp] theorem mapOp_faults (u : UnitRef) (id : Nat) (g : Op → Op) (s : State) : (mapOp u id g s).faults = s.faults := rfl
@[simp] theorem mapOp_imsic (u : UnitRef) (id : Nat) (g : Op → Op) (s : State) : (mapOp u id g s).imsic = s.imsic := rfl
@[simp] theorem mapOp_mram (u : UnitRef) (id : Nat) (g : Op → Op) (s : State) : (mapOp u id g s).mram = s.mram := rfl
@[simp] theorem mapOp_store (u : UnitRef) (id : Nat) (g : Op → Op) (s : State) : (mapOp u id g s).store = s.store := rfl
@[simp] theorem mapOp_boot (u : UnitRef) (id : Nat) (g : Op → Op) (s : State) : (mapOp u id g s).boot = s.boot := rfl
@[simp] theorem mapOp_pins (u : UnitRef) (id : Nat) (g : Op → Op) (s : State) : (mapOp u id g s).pins = s.pins := rfl
@[simp] theorem mapOp_out (u : UnitRef) (id : Nat) (g : Op → Op) (s : State) : (mapOp u id g s).out = s.out := rfl

@[simp] theorem finishCmd_pending (q seq status flags : Nat) (s : State) : (finishCmd q seq status flags s).pending = s.pending := rfl
@[simp] theorem finishCmd_freeCtr (q seq status flags : Nat) (s : State) : (finishCmd q seq status flags s).freeCtr = s.freeCtr := rfl
@[simp] theorem finishCmd_variant (q seq status flags : Nat) (s : State) : (finishCmd q seq status flags s).variant = s.variant := rfl
@[simp] theorem finishCmd_mem (q seq status flags : Nat) (s : State) : (finishCmd q seq status flags s).mem = s.mem := rfl
@[simp] theorem finishCmd_regs (q seq status flags : Nat) (s : State) : (finishCmd q seq status flags s).regs = s.regs := rfl
@[simp] theorem finishCmd_boxRegs (q seq status flags : Nat) (s : State) : (finishCmd q seq status flags s).boxRegs = s.boxRegs := rfl
@[simp] theorem finishCmd_boxMem (q seq status flags : Nat) (s : State) : (finishCmd q seq status flags s).boxMem = s.boxMem := rfl
@[simp] theorem finishCmd_pos (q seq status flags : Nat) (s : State) : (finishCmd q seq status flags s).pos = s.pos := rfl
@[simp] theorem finishCmd_stepTick (q seq status flags : Nat) (s : State) : (finishCmd q seq status flags s).stepTick = s.stepTick := rfl
@[simp] theorem finishCmd_slew (q seq status flags : Nat) (s : State) : (finishCmd q seq status flags s).slew = s.slew := rfl
@[simp] theorem finishCmd_sinceSlew (q seq status flags : Nat) (s : State) : (finishCmd q seq status flags s).sinceSlew = s.sinceSlew := rfl
@[simp] theorem finishCmd_missed (q seq status flags : Nat) (s : State) : (finishCmd q seq status flags s).missed = s.missed := rfl
@[simp] theorem finishCmd_boundary (q seq status flags : Nat) (s : State) : (finishCmd q seq status flags s).boundary = s.boundary := rfl
@[simp] theorem finishCmd_early (q seq status flags : Nat) (s : State) : (finishCmd q seq status flags s).early = s.early := rfl
@[simp] theorem finishCmd_train (q seq status flags : Nat) (s : State) : (finishCmd q seq status flags s).train = s.train := rfl
@[simp] theorem finishCmd_units (q seq status flags : Nat) (s : State) : (finishCmd q seq status flags s).units = s.units := rfl
@[simp] theorem finishCmd_entries (q seq status flags : Nat) (s : State) : (finishCmd q seq status flags s).entries = s.entries := rfl
@[simp] theorem finishCmd_tiles (q seq status flags : Nat) (s : State) : (finishCmd q seq status flags s).tiles = s.tiles := rfl
@[simp] theorem finishCmd_bankKinds (q seq status flags : Nat) (s : State) : (finishCmd q seq status flags s).bankKinds = s.bankKinds := rfl
@[simp] theorem finishCmd_lanes (q seq status flags : Nat) (s : State) : (finishCmd q seq status flags s).lanes = s.lanes := rfl
@[simp] theorem finishCmd_hearth (q seq status flags : Nat) (s : State) : (finishCmd q seq status flags s).hearth = s.hearth := rfl
@[simp] theorem finishCmd_stash (q seq status flags : Nat) (s : State) : (finishCmd q seq status flags s).stash = s.stash := rfl
@[simp] theorem finishCmd_landings (q seq status flags : Nat) (s : State) : (finishCmd q seq status flags s).landings = s.landings := rfl
@[simp] theorem finishCmd_nextLanding (q seq status flags : Nat) (s : State) : (finishCmd q seq status flags s).nextLanding = s.nextLanding := rfl
@[simp] theorem finishCmd_power (q seq status flags : Nat) (s : State) : (finishCmd q seq status flags s).power = s.power := rfl
@[simp] theorem finishCmd_lps (q seq status flags : Nat) (s : State) : (finishCmd q seq status flags s).lps = s.lps := rfl
@[simp] theorem finishCmd_walks (q seq status flags : Nat) (s : State) : (finishCmd q seq status flags s).walks = s.walks := rfl
@[simp] theorem finishCmd_domains (q seq status flags : Nat) (s : State) : (finishCmd q seq status flags s).domains = s.domains := rfl
@[simp] theorem finishCmd_ports (q seq status flags : Nat) (s : State) : (finishCmd q seq status flags s).ports = s.ports := rfl
@[simp] theorem finishCmd_fabric (q seq status flags : Nat) (s : State) : (finishCmd q seq status flags s).fabric = s.fabric := rfl
@[simp] theorem finishCmd_colls (q seq status flags : Nat) (s : State) : (finishCmd q seq status flags s).colls = s.colls := rfl
@[simp] theorem finishCmd_nextColl (q seq status flags : Nat) (s : State) : (finishCmd q seq status flags s).nextColl = s.nextColl := rfl
@[simp] theorem finishCmd_annex (q seq status flags : Nat) (s : State) : (finishCmd q seq status flags s).annex = s.annex := rfl
@[simp] theorem finishCmd_restore (q seq status flags : Nat) (s : State) : (finishCmd q seq status flags s).restore = s.restore := rfl
@[simp] theorem finishCmd_faults (q seq status flags : Nat) (s : State) : (finishCmd q seq status flags s).faults = s.faults := rfl
@[simp] theorem finishCmd_imsic (q seq status flags : Nat) (s : State) : (finishCmd q seq status flags s).imsic = s.imsic := rfl
@[simp] theorem finishCmd_mram (q seq status flags : Nat) (s : State) : (finishCmd q seq status flags s).mram = s.mram := rfl
@[simp] theorem finishCmd_store (q seq status flags : Nat) (s : State) : (finishCmd q seq status flags s).store = s.store := rfl
@[simp] theorem finishCmd_boot (q seq status flags : Nat) (s : State) : (finishCmd q seq status flags s).boot = s.boot := rfl
@[simp] theorem finishCmd_pins (q seq status flags : Nat) (s : State) : (finishCmd q seq status flags s).pins = s.pins := rfl
@[simp] theorem finishCmd_out (q seq status flags : Nat) (s : State) : (finishCmd q seq status flags s).out = s.out := rfl

@[simp] theorem tick_pending (s : State) : (tick s).pending = s.pending := rfl
@[simp] theorem tick_variant (s : State) : (tick s).variant = s.variant := rfl
@[simp] theorem tick_mem (s : State) : (tick s).mem = s.mem := rfl
@[simp] theorem tick_regs (s : State) : (tick s).regs = s.regs := rfl
@[simp] theorem tick_boxRegs (s : State) : (tick s).boxRegs = s.boxRegs := rfl
@[simp] theorem tick_boxMem (s : State) : (tick s).boxMem = s.boxMem := rfl
@[simp] theorem tick_pos (s : State) : (tick s).pos = s.pos := rfl
@[simp] theorem tick_stepTick (s : State) : (tick s).stepTick = s.stepTick := rfl
@[simp] theorem tick_slew (s : State) : (tick s).slew = s.slew := rfl
@[simp] theorem tick_sinceSlew (s : State) : (tick s).sinceSlew = s.sinceSlew := rfl
@[simp] theorem tick_missed (s : State) : (tick s).missed = s.missed := rfl
@[simp] theorem tick_boundary (s : State) : (tick s).boundary = s.boundary := rfl
@[simp] theorem tick_early (s : State) : (tick s).early = s.early := rfl
@[simp] theorem tick_train (s : State) : (tick s).train = s.train := rfl
@[simp] theorem tick_units (s : State) : (tick s).units = s.units := rfl
@[simp] theorem tick_queues (s : State) : (tick s).queues = s.queues := rfl
@[simp] theorem tick_entries (s : State) : (tick s).entries = s.entries := rfl
@[simp] theorem tick_tiles (s : State) : (tick s).tiles = s.tiles := rfl
@[simp] theorem tick_bankKinds (s : State) : (tick s).bankKinds = s.bankKinds := rfl
@[simp] theorem tick_lanes (s : State) : (tick s).lanes = s.lanes := rfl
@[simp] theorem tick_hearth (s : State) : (tick s).hearth = s.hearth := rfl
@[simp] theorem tick_stash (s : State) : (tick s).stash = s.stash := rfl
@[simp] theorem tick_landings (s : State) : (tick s).landings = s.landings := rfl
@[simp] theorem tick_nextLanding (s : State) : (tick s).nextLanding = s.nextLanding := rfl
@[simp] theorem tick_power (s : State) : (tick s).power = s.power := rfl
@[simp] theorem tick_lps (s : State) : (tick s).lps = s.lps := rfl
@[simp] theorem tick_walks (s : State) : (tick s).walks = s.walks := rfl
@[simp] theorem tick_domains (s : State) : (tick s).domains = s.domains := rfl
@[simp] theorem tick_ports (s : State) : (tick s).ports = s.ports := rfl
@[simp] theorem tick_fabric (s : State) : (tick s).fabric = s.fabric := rfl
@[simp] theorem tick_colls (s : State) : (tick s).colls = s.colls := rfl
@[simp] theorem tick_nextColl (s : State) : (tick s).nextColl = s.nextColl := rfl
@[simp] theorem tick_annex (s : State) : (tick s).annex = s.annex := rfl
@[simp] theorem tick_restore (s : State) : (tick s).restore = s.restore := rfl
@[simp] theorem tick_faults (s : State) : (tick s).faults = s.faults := rfl
@[simp] theorem tick_imsic (s : State) : (tick s).imsic = s.imsic := rfl
@[simp] theorem tick_mram (s : State) : (tick s).mram = s.mram := rfl
@[simp] theorem tick_store (s : State) : (tick s).store = s.store := rfl
@[simp] theorem tick_boot (s : State) : (tick s).boot = s.boot := rfl
@[simp] theorem tick_pins (s : State) : (tick s).pins = s.pins := rfl
@[simp] theorem tick_out (s : State) : (tick s).out = s.out := rfl

@[simp] theorem emit_pending (o : Out) (s : State) : (emit o s).pending = s.pending := rfl
@[simp] theorem emit_freeCtr (o : Out) (s : State) : (emit o s).freeCtr = s.freeCtr := rfl
@[simp] theorem emit_variant (o : Out) (s : State) : (emit o s).variant = s.variant := rfl
@[simp] theorem emit_mem (o : Out) (s : State) : (emit o s).mem = s.mem := rfl
@[simp] theorem emit_regs (o : Out) (s : State) : (emit o s).regs = s.regs := rfl
@[simp] theorem emit_boxRegs (o : Out) (s : State) : (emit o s).boxRegs = s.boxRegs := rfl
@[simp] theorem emit_boxMem (o : Out) (s : State) : (emit o s).boxMem = s.boxMem := rfl
@[simp] theorem emit_pos (o : Out) (s : State) : (emit o s).pos = s.pos := rfl
@[simp] theorem emit_stepTick (o : Out) (s : State) : (emit o s).stepTick = s.stepTick := rfl
@[simp] theorem emit_slew (o : Out) (s : State) : (emit o s).slew = s.slew := rfl
@[simp] theorem emit_sinceSlew (o : Out) (s : State) : (emit o s).sinceSlew = s.sinceSlew := rfl
@[simp] theorem emit_missed (o : Out) (s : State) : (emit o s).missed = s.missed := rfl
@[simp] theorem emit_boundary (o : Out) (s : State) : (emit o s).boundary = s.boundary := rfl
@[simp] theorem emit_early (o : Out) (s : State) : (emit o s).early = s.early := rfl
@[simp] theorem emit_train (o : Out) (s : State) : (emit o s).train = s.train := rfl
@[simp] theorem emit_units (o : Out) (s : State) : (emit o s).units = s.units := rfl
@[simp] theorem emit_queues (o : Out) (s : State) : (emit o s).queues = s.queues := rfl
@[simp] theorem emit_entries (o : Out) (s : State) : (emit o s).entries = s.entries := rfl
@[simp] theorem emit_tiles (o : Out) (s : State) : (emit o s).tiles = s.tiles := rfl
@[simp] theorem emit_bankKinds (o : Out) (s : State) : (emit o s).bankKinds = s.bankKinds := rfl
@[simp] theorem emit_lanes (o : Out) (s : State) : (emit o s).lanes = s.lanes := rfl
@[simp] theorem emit_hearth (o : Out) (s : State) : (emit o s).hearth = s.hearth := rfl
@[simp] theorem emit_stash (o : Out) (s : State) : (emit o s).stash = s.stash := rfl
@[simp] theorem emit_landings (o : Out) (s : State) : (emit o s).landings = s.landings := rfl
@[simp] theorem emit_nextLanding (o : Out) (s : State) : (emit o s).nextLanding = s.nextLanding := rfl
@[simp] theorem emit_power (o : Out) (s : State) : (emit o s).power = s.power := rfl
@[simp] theorem emit_lps (o : Out) (s : State) : (emit o s).lps = s.lps := rfl
@[simp] theorem emit_walks (o : Out) (s : State) : (emit o s).walks = s.walks := rfl
@[simp] theorem emit_domains (o : Out) (s : State) : (emit o s).domains = s.domains := rfl
@[simp] theorem emit_ports (o : Out) (s : State) : (emit o s).ports = s.ports := rfl
@[simp] theorem emit_fabric (o : Out) (s : State) : (emit o s).fabric = s.fabric := rfl
@[simp] theorem emit_colls (o : Out) (s : State) : (emit o s).colls = s.colls := rfl
@[simp] theorem emit_nextColl (o : Out) (s : State) : (emit o s).nextColl = s.nextColl := rfl
@[simp] theorem emit_annex (o : Out) (s : State) : (emit o s).annex = s.annex := rfl
@[simp] theorem emit_restore (o : Out) (s : State) : (emit o s).restore = s.restore := rfl
@[simp] theorem emit_faults (o : Out) (s : State) : (emit o s).faults = s.faults := rfl
@[simp] theorem emit_imsic (o : Out) (s : State) : (emit o s).imsic = s.imsic := rfl
@[simp] theorem emit_mram (o : Out) (s : State) : (emit o s).mram = s.mram := rfl
@[simp] theorem emit_store (o : Out) (s : State) : (emit o s).store = s.store := rfl
@[simp] theorem emit_boot (o : Out) (s : State) : (emit o s).boot = s.boot := rfl
@[simp] theorem emit_pins (o : Out) (s : State) : (emit o s).pins = s.pins := rfl

@[simp] theorem tick_freeCtr (s : State) : (tick s).freeCtr = s.freeCtr + 1 := rfl
@[simp] theorem emit_out (o : Out) (s : State) : (emit o s).out = s.out ++ [o] := rfl

end Sys2Proof.Machine
end

