-- ==== Sys2Proof/Laws/Access.lean ====
section
/-! SUPPORT. Reads after writes: registers and their fields, bytes of memory, units, queues, domains, ports. -/
namespace Sys2Proof.Machine

/-! Bit fields. -/

theorem fld_lt (n hi lo : Nat) : fld n hi lo < 2 ^ (hi + 1 - lo) := Nat.mod_lt _ (Nat.two_pow_pos _)

theorem fld_le (n hi lo : Nat) : fld n hi lo * 2 ^ lo ≤ n := by
  refine Nat.le_trans (Nat.mul_le_mul_right _ (Nat.mod_le _ _)) ?_
  rw [Nat.shiftRight_eq_div_pow]
  exact Nat.div_mul_le_self _ _

/-- A number is its high part, a field and its low part. -/
theorem fld_split (n hi lo : Nat) : n = (n / 2 ^ lo / 2 ^ (hi + 1 - lo) * 2 ^ (hi + 1 - lo) + fld n hi lo) * 2 ^ lo + n % 2 ^ lo := by
  rw [fld, Nat.shiftRight_eq_div_pow, Nat.div_add_mod', Nat.div_add_mod']

theorem setFld_split (n hi lo v : Nat) :
    setFld n hi lo v = (n / 2 ^ lo / 2 ^ (hi + 1 - lo) * 2 ^ (hi + 1 - lo) + v % 2 ^ (hi + 1 - lo)) * 2 ^ lo + n % 2 ^ lo := by
  have h := fld_split n hi lo
  have := fld_le n hi lo
  simp only [setFld, Nat.shiftLeft_eq, Nat.add_mul] at h ⊢
  omega

/-- The field set reads back, cut to its width. -/
theorem fld_setFld_same (n hi lo v : Nat) : fld (setFld n hi lo v) hi lo = v % 2 ^ (hi + 1 - lo) := by
  rw [setFld_split, fld, Nat.shiftRight_eq_div_pow, Nat.add_comm _ (n % 2 ^ lo), Nat.add_mul_div_right _ _ (Nat.two_pow_pos _),
    Nat.div_eq_of_lt (Nat.mod_lt _ (Nat.two_pow_pos _)), Nat.zero_add, Nat.add_comm, Nat.add_mul_mod_self_right, Nat.mod_mod]

/-- Setting a field keeps a number below 2^w when the field lies below bit w. -/
theorem setFld_lt {n hi lo v w : Nat} (hn : n < 2 ^ w) (hw : hi < w) (hl : lo ≤ hi) : setFld n hi lo v < 2 ^ w := by
  rw [setFld_split]
  have e : 2 ^ w = (2 ^ (w - hi - 1) * 2 ^ (hi + 1 - lo)) * 2 ^ lo := by rw [← Nat.pow_add, ← Nat.pow_add]; congr 1; omega
  have h1 : n / 2 ^ lo / 2 ^ (hi + 1 - lo) < 2 ^ (w - hi - 1) := by
    rw [Nat.div_div_eq_div_mul, ← Nat.pow_add]
    refine Nat.div_lt_of_lt_mul ?_
    rw [← Nat.pow_add]
    have : lo + (hi + 1 - lo) + (w - hi - 1) = w := by omega
    rwa [this]
  have h2 : v % 2 ^ (hi + 1 - lo) < 2 ^ (hi + 1 - lo) := Nat.mod_lt _ (Nat.two_pow_pos _)
  have h3 : n % 2 ^ lo < 2 ^ lo := Nat.mod_lt _ (Nat.two_pow_pos _)
  rw [e]
  generalize 2 ^ (w - hi - 1) = A at *
  generalize 2 ^ (hi + 1 - lo) = B at *
  generalize 2 ^ lo = C at *
  calc (n / C / B * B + v % B) * C + n % C
      < (n / C / B * B + v % B + 1) * C := by rw [Nat.add_mul (_ + _) 1 C]; omega
    _ ≤ (A * B) * C := Nat.mul_le_mul_right _ (by
        have : (n / C / B + 1) * B ≤ A * B := Nat.mul_le_mul_right _ h1
        rw [Nat.add_mul] at this
        omega)

/-! Registers. -/

theorem regKey_inj {d d' o o' : Nat} (ho : o < 0x10000000) (ho' : o' < 0x10000000) : regKey d o = regKey d' o' ↔ d = d' ∧ o = o' := by
  simp only [regKey]
  omega

theorem getReg_setReg {s : State} (h : tblWf (regDefault s.variant) s.regs = true) (d o : Nat) (w : Word) (d' o' : Nat) :
    getReg (setReg s d o w) d' o' = if regKey d' o' = regKey d o then w else getReg s d' o' :=
  tblGet_set _ _ _ h

theorem getReg_setReg_self {s : State} (h : tblWf (regDefault s.variant) s.regs = true) (d o : Nat) (w : Word) :
    getReg (setReg s d o w) d o = w := by
  rw [getReg_setReg h, if_pos rfl]

/-- A write of one register leaves every other register. -/
theorem getReg_setReg_ne {s : State} (h : tblWf (regDefault s.variant) s.regs = true) {d o d' o' : Nat} (w : Word)
    (hk : regKey d' o' ≠ regKey d o) : getReg (setReg s d o w) d' o' = getReg s d' o' := by
  rw [getReg_setReg h, if_neg hk]

theorem setReg_wf {s : State} (h : tblWf (regDefault s.variant) s.regs = true) (d o : Nat) (w : Word) :
    tblWf (regDefault (setReg s d o w).variant) (setReg s d o w).regs = true := tblWf_set _ _ h

/-- A field of a register that setRf has set. -/
theorem rf_setRf_self {s : State} (h : tblWf (regDefault s.variant) s.regs = true) {d o hi lo v : Nat} (hw : hi < 64) (hl : lo ≤ hi) :
    rf (setRf s d o hi lo v) d o hi lo = v % 2 ^ (hi + 1 - lo) := by
  rw [rf, setRf, getReg_setReg_self h, BitVec.toNat_ofNat, Nat.mod_eq_of_lt (setFld_lt (BitVec.isLt _) hw hl), fld_setFld_same]

theorem setRf_wf {s : State} (h : tblWf (regDefault s.variant) s.regs = true) (d o hi lo v : Nat) :
    tblWf (regDefault (setRf s d o hi lo v).variant) (setRf s d o hi lo v).regs = true := tblWf_set _ _ h

theorem getReg_setRf_ne {s : State} (h : tblWf (regDefault s.variant) s.regs = true) {d o d' o' : Nat} (hi lo v : Nat)
    (hk : regKey d' o' ≠ regKey d o) : getReg (setRf s d o hi lo v) d' o' = getReg s d' o' := getReg_setReg_ne h _ hk

/-! Memory. -/

/-- A byte after a write: the byte written, or what stood there. -/
theorem getByte_writeMem {s : State} (h : memWf s.mem = true) (a : Nat) (bs : List Byte) (b : Nat) :
    getByte (writeMem s a bs) b = if a ≤ b ∧ b < a + bs.length then bs.getD (b - a) 0 else getByte s b :=
  tblGet_setRun a b bs h

theorem leBytes_getElem {len n i : Nat} (hi : i < len) : (leBytes len n).getD i 0 = BitVec.ofNat 8 (n >>> (8 * i)) := by
  simp [leBytes, List.getD_eq_getElem?_getD, hi]

theorem readMem_length (s : State) (a n : Nat) : (readMem s a n).length = n := by simp [readMem]

/-- What was written reads back. -/
theorem readMem_writeMem_self {s : State} (h : memWf s.mem = true) (a : Nat) (bs : List Byte) :
    readMem (writeMem s a bs) a bs.length = bs := by
  refine List.ext_getElem (readMem_length _ _ _) fun i h1 h2 => ?_
  simp only [readMem, List.getElem_map, List.getElem_range, getByte_writeMem h]
  rw [if_pos ⟨Nat.le_add_right _ _, Nat.add_lt_add_left h2 _⟩, Nat.add_sub_cancel_left]
  simp [List.getD_eq_getElem?_getD, h2]

theorem leNat_leBytes (len n : Nat) : leNat (leBytes len n) = n % 256 ^ len := by
  induction len generalizing n with
  | zero => simp [leBytes, leNat, Nat.mod_one]
  | succ k ih =>
    have e : leBytes (k + 1) n = BitVec.ofNat 8 n :: leBytes k (n / 256) := by
      simp only [leBytes, List.range_succ_eq_map, List.map_cons, List.map_map, Nat.mul_zero, Nat.shiftRight_zero, List.cons.injEq,
        true_and]
      refine List.map_congr_left fun i _ => ?_
      simp only [Function.comp, Nat.shiftRight_eq_div_pow, Nat.div_div_eq_div_mul]
      congr 2
      rw [show 8 * i.succ = 8 + 8 * i by omega, Nat.pow_add]
    rw [e]
    show (BitVec.ofNat 8 n).toNat + 256 * leNat (leBytes k (n / 256)) = _
    rw [ih, BitVec.toNat_ofNat, Nat.pow_succ 256, Nat.mul_comm (256 ^ k) 256, Nat.mod_mul]

theorem readNat_writeNat_self {s : State} (h : memWf s.mem = true) (a len v : Nat) : readNat (writeNat s a len v) a len = v % 256 ^ len := by
  have := readMem_writeMem_self h a (leBytes len v)
  rw [leBytes_length] at this
  rw [readNat, writeNat, this, leNat_leBytes]

theorem writeMem_wf {s : State} (h : memWf s.mem = true) (a : Nat) (bs : List Byte) : memWf (writeMem s a bs).mem = true :=
  tblWf_setRun _ _ h

/-! Lists with a key. -/

theorem find_upsert {α : Type} {p q : α → Bool} {x d : α} {l : List α} (hx : p x = true)
    (hq : (∀ y, q y = p y) ∨ (q x = false ∧ ∀ y, p y = true → q y = false)) :
    ((upsert p x l).find? q).getD d = if q x then x else ((l.find? q).getD d) := by
  induction l with
  | nil => simp only [upsert, List.find?_cons, List.find?_nil]; cases q x <;> rfl
  | cons y l ih =>
    simp only [upsert]
    by_cases hy : p y = true
    · rw [if_pos hy, List.find?_cons, List.find?_cons]
      rcases hq with hq | ⟨hq, hq'⟩
      · rw [hq x, hx]; rfl
      · rw [hq, hq' y hy]; simp
    · rw [if_neg hy, List.find?_cons, List.find?_cons]
      rcases hq with hq' | ⟨hq, hq'⟩
      · rw [hq' y, Bool.eq_false_iff.mpr hy]
        exact ih
      · cases hqy : q y
        · exact ih
        · simp [hq]

/-- A unit after an update: the unit itself, or the other unit as it was. -/
theorem getUnit_setUnit (s : State) (x : ProgUnit) (u : UnitRef) : getUnit (setUnit s x) u = if u = x.ref then x else getUnit s u := by
  rw [getUnit, setUnit, find_upsert (by simp) (by
    by_cases h : u = x.ref
    · exact .inl fun y => by rw [h]
    · refine .inr ⟨by simp [Ne.symm h], fun y hy => ?_⟩
      simp only [decide_eq_true_eq, decide_eq_false_iff_not] at hy ⊢
      rw [hy]; exact Ne.symm h)]
  by_cases h : u = x.ref
  · subst h; simp
  · simp [h, Ne.symm h, getUnit]

theorem getQueue_setQueue (s : State) (x : Queue) (q : Nat) : getQueue (setQueue s x) q = if q = x.id then x else getQueue s q := by
  rw [getQueue, setQueue, find_upsert (by simp) (by
    by_cases h : q = x.id
    · exact .inl fun y => by rw [h]
    · refine .inr ⟨by simp [Ne.symm h], fun y hy => ?_⟩
      simp only [decide_eq_true_eq, decide_eq_false_iff_not] at hy ⊢
      rw [hy]; exact Ne.symm h)]
  by_cases h : q = x.id
  · subst h; simp
  · simp [h, Ne.symm h, getQueue]

theorem getDomain_setDomain (s : State) (x : Domain) (d : Nat) :
    getDomain (setDomain s x) d = if d = x.id then x else getDomain s d := by
  rw [getDomain, setDomain, find_upsert (by simp) (by
    by_cases h : d = x.id
    · exact .inl fun y => by rw [h]
    · refine .inr ⟨by simp [Ne.symm h], fun y hy => ?_⟩
      simp only [decide_eq_true_eq, decide_eq_false_iff_not] at hy ⊢
      rw [hy]; exact Ne.symm h)]
  by_cases h : d = x.id
  · subst h; simp
  · simp [h, Ne.symm h, getDomain]

theorem getPort_setPort (s : State) (x : Port) (p : PortRef) : getPort (setPort s x) p = if p = x.ref then x else getPort s p := by
  rw [getPort, setPort, find_upsert (by simp) (by
    by_cases h : p = x.ref
    · exact .inl fun y => by rw [h]
    · refine .inr ⟨by simp [Ne.symm h], fun y hy => ?_⟩
      simp only [decide_eq_true_eq, decide_eq_false_iff_not] at hy ⊢
      rw [hy]; exact Ne.symm h)]
  by_cases h : p = x.ref
  · subst h; simp
  · simp [h, Ne.symm h, getPort]

theorem getUnit_ref (s : State) (u : UnitRef) : (getUnit s u).ref = u := by
  rw [getUnit]
  cases h : s.units.find? fun x => x.ref = u with
  | none => rfl
  | some x => simpa using List.find?_some h

theorem getQueue_id (s : State) (q : Nat) : (getQueue s q).id = q := by
  rw [getQueue]
  cases h : s.queues.find? fun x => x.id = q with
  | none => rfl
  | some x => simpa using List.find?_some h

theorem getDomain_id (s : State) (d : Nat) : (getDomain s d).id = d := by
  rw [getDomain]
  cases h : s.domains.find? fun x => x.id = d with
  | none => rfl
  | some x => simpa using List.find?_some h

/-! Registers of a unit. -/

@[simp] theorem gReg_zero (x : ProgUnit) : gReg x 0 = 0 := rfl

/-- g0 discards what is written (R237). -/
@[simp] theorem setG_zero (x : ProgUnit) (v : Nat) : setG x 0 v = x := rfl

theorem gReg_setG {x : ProgUnit} (hx : x.g.length = 32) {n : Nat} (hn : n ≠ 0) (hl : n < 32) (m v : Nat) :
    gReg (setG x n v) m = if m = n then v % 2 ^ 64 else gReg x m := by
  simp only [gReg, setG, if_neg hn]
  by_cases h0 : m = 0
  · subst h0; rw [if_pos rfl, if_neg (Ne.symm hn), if_pos rfl]
  · rw [if_neg h0, if_neg h0]
    by_cases h : m = n
    · subst h; simp [List.getD_eq_getElem?_getD, hx, hl]
    · rw [if_neg h]; simp [List.getD_eq_getElem?_getD, Ne.symm h]

@[simp] theorem pReg_zero (x : ProgUnit) : pReg x 0 = true := rfl
@[simp] theorem setP_zero (x : ProgUnit) (b : Bool) : setP x 0 b = x := rfl

@[simp] theorem setG_ref (x : ProgUnit) (n v : Nat) : (setG x n v).ref = x.ref := by unfold setG; split <;> rfl
@[simp] theorem setT_ref (x : ProgUnit) (n v : Nat) : (setT x n v).ref = x.ref := rfl
@[simp] theorem setK_ref (x : ProgUnit) (n v : Nat) : (setK x n v).ref = x.ref := rfl
@[simp] theorem setC_ref (x : ProgUnit) (n v : Nat) : (setC x n v).ref = x.ref := rfl
@[simp] theorem setSt_ref (x : ProgUnit) (n : Nat) (v : Pos) : (setSt x n v).ref = x.ref := rfl
@[simp] theorem setP_ref (x : ProgUnit) (n : Nat) (b : Bool) : (setP x n b).ref = x.ref := by unfold setP; split <;> rfl
@[simp] theorem advance_ref (x : ProgUnit) (n : Nat) : (advance x n).ref = x.ref := rfl

end Sys2Proof.Machine
end

