-- ==== Sys2Proof/Laws/Frames.lean ====
section
/-! SUPPORT. What the shared operations leave alone, field by field: interrupts, fault records, wakes, refusals, moves of the Stair. -/
namespace Sys2Proof.Machine

/-- A fold of updates that leave a part of the state alone leaves it alone. -/
theorem foldl_part {α β : Type} (p : State → β) {f : State → α → State} (h : ∀ s x, p (f s x) = p s) (l : List α) (s : State) :
    p (l.foldl f s) = p s := by
  induction l generalizing s with
  | nil => rfl
  | cons x l ih => rw [List.foldl_cons, ih, h]

@[simp] theorem pend_pending (hart file eiid : Nat) (s : State) : (pend hart file eiid s).pending = s.pending := by
  unfold pend; (try dsimp only); repeat' split
  all_goals first | rfl | simp
@[simp] theorem pend_freeCtr (hart file eiid : Nat) (s : State) : (pend hart file eiid s).freeCtr = s.freeCtr := by
  unfold pend; (try dsimp only); repeat' split
  all_goals first | rfl | simp
@[simp] theorem pend_variant (hart file eiid : Nat) (s : State) : (pend hart file eiid s).variant = s.variant := by
  unfold pend; (try dsimp only); repeat' split
  all_goals first | rfl | simp
@[simp] theorem pend_mem (hart file eiid : Nat) (s : State) : (pend hart file eiid s).mem = s.mem := by
  unfold pend; (try dsimp only); repeat' split
  all_goals first | rfl | simp
@[simp] theorem pend_regs (hart file eiid : Nat) (s : State) : (pend hart file eiid s).regs = s.regs := by
  unfold pend; (try dsimp only); repeat' split
  all_goals first | rfl | simp
@[simp] theorem pend_boxRegs (hart file eiid : Nat) (s : State) : (pend hart file eiid s).boxRegs = s.boxRegs := by
  unfold pend; (try dsimp only); repeat' split
  all_goals first | rfl | simp
@[simp] theorem pend_boxMem (hart file eiid : Nat) (s : State) : (pend hart file eiid s).boxMem = s.boxMem := by
  unfold pend; (try dsimp only); repeat' split
  all_goals first | rfl | simp
@[simp] theorem pend_pos (hart file eiid : Nat) (s : State) : (pend hart file eiid s).pos = s.pos := by
  unfold pend; (try dsimp only); repeat' split
  all_goals first | rfl | simp
@[simp] theorem pend_stepTick (hart file eiid : Nat) (s : State) : (pend hart file eiid s).stepTick = s.stepTick := by
  unfold pend; (try dsimp only); repeat' split
  all_goals first | rfl | simp
@[simp] theorem pend_slew (hart file eiid : Nat) (s : State) : (pend hart file eiid s).slew = s.slew := by
  unfold pend; (try dsimp only); repeat' split
  all_goals first | rfl | simp
@[simp] theorem pend_sinceSlew (hart file eiid : Nat) (s : State) : (pend hart file eiid s).sinceSlew = s.sinceSlew := by
  unfold pend; (try dsimp only); repeat' split
  all_goals first | rfl | simp
@[simp] theorem pend_missed (hart file eiid : Nat) (s : State) : (pend hart file eiid s).missed = s.missed := by
  unfold pend; (try dsimp only); repeat' split
  all_goals first | rfl | simp
@[simp] theorem pend_boundary (hart file eiid : Nat) (s : State) : (pend hart file eiid s).boundary = s.boundary := by
  unfold pend; (try dsimp only); repeat' split
  all_goals first | rfl | simp
@[simp] theorem pend_early (hart file eiid : Nat) (s : State) : (pend hart file eiid s).early = s.early := by
  unfold pend; (try dsimp only); repeat' split
  all_goals first | rfl | simp
@[simp] theorem pend_train (hart file eiid : Nat) (s : State) : (pend hart file eiid s).train = s.train := by
  unfold pend; (try dsimp only); repeat' split
  all_goals first | rfl | simp
@[simp] theorem pend_units (hart file eiid : Nat) (s : State) : (pend hart file eiid s).units = s.units := by
  unfold pend; (try dsimp only); repeat' split
  all_goals first | rfl | simp
@[simp] theorem pend_queues (hart file eiid : Nat) (s : State) : (pend hart file eiid s).queues = s.queues := by
  unfold pend; (try dsimp only); repeat' split
  all_goals first | rfl | simp
@[simp] theorem pend_entries (hart file eiid : Nat) (s : State) : (pend hart file eiid s).entries = s.entries := by
  unfold pend; (try dsimp only); repeat' split
  all_goals first | rfl | simp
@[simp] theorem pend_tiles (hart file eiid : Nat) (s : State) : (pend hart file eiid s).tiles = s.tiles := by
  unfold pend; (try dsimp only); repeat' split
  all_goals first | rfl | simp
@[simp] theorem pend_bankKinds (hart file eiid : Nat) (s : State) : (pend hart file eiid s).bankKinds = s.bankKinds := by
  unfold pend; (try dsimp only); repeat' split
  all_goals first | rfl | simp
@[simp] theorem pend_lanes (hart file eiid : Nat) (s : State) : (pend hart file eiid s).lanes = s.lanes := by
  unfold pend; (try dsimp only); repeat' split
  all_goals first | rfl | simp
@[simp] theorem pend_hearth (hart file eiid : Nat) (s : State) : (pend hart file eiid s).hearth = s.hearth := by
  unfold pend; (try dsimp only); repeat' split
  all_goals first | rfl | simp
@[simp] theorem pend_stash (hart file eiid : Nat) (s : State) : (pend hart file eiid s).stash = s.stash := by
  unfold pend; (try dsimp only); repeat' split
  all_goals first | rfl | simp
@[simp] theorem pend_landings (hart file eiid : Nat) (s : State) : (pend hart file eiid s).landings = s.landings := by
  unfold pend; (try dsimp only); repeat' split
  all_goals first | rfl | simp
@[simp] theorem pend_nextLanding (hart file eiid : Nat) (s : State) : (pend hart file eiid s).nextLanding = s.nextLanding := by
  unfold pend; (try dsimp only); repeat' split
  all_goals first | rfl | simp
@[simp] theorem pend_power (hart file eiid : Nat) (s : State) : (pend hart file eiid s).power = s.power := by
  unfold pend; (try dsimp only); repeat' split
  all_goals first | rfl | simp
@[simp] theorem pend_lps (hart file eiid : Nat) (s : State) : (pend hart file eiid s).lps = s.lps := by
  unfold pend; (try dsimp only); repeat' split
  all_goals first | rfl | simp
@[simp] theorem pend_walks (hart file eiid : Nat) (s : State) : (pend hart file eiid s).walks = s.walks := by
  unfold pend; (try dsimp only); repeat' split
  all_goals first | rfl | simp
@[simp] theorem pend_domains (hart file eiid : Nat) (s : State) : (pend hart file eiid s).domains = s.domains := by
  unfold pend; (try dsimp only); repeat' split
  all_goals first | rfl | simp
@[simp] theorem pend_ports (hart file eiid : Nat) (s : State) : (pend hart file eiid s).ports = s.ports := by
  unfold pend; (try dsimp only); repeat' split
  all_goals first | rfl | simp
@[simp] theorem pend_fabric (hart file eiid : Nat) (s : State) : (pend hart file eiid s).fabric = s.fabric := by
  unfold pend; (try dsimp only); repeat' split
  all_goals first | rfl | simp
@[simp] theorem pend_colls (hart file eiid : Nat) (s : State) : (pend hart file eiid s).colls = s.colls := by
  unfold pend; (try dsimp only); repeat' split
  all_goals first | rfl | simp
@[simp] theorem pend_nextColl (hart file eiid : Nat) (s : State) : (pend hart file eiid s).nextColl = s.nextColl := by
  unfold pend; (try dsimp only); repeat' split
  all_goals first | rfl | simp
@[simp] theorem pend_annex (hart file eiid : Nat) (s : State) : (pend hart file eiid s).annex = s.annex := by
  unfold pend; (try dsimp only); repeat' split
  all_goals first | rfl | simp
@[simp] theorem pend_restore (hart file eiid : Nat) (s : State) : (pend hart file eiid s).restore = s.restore := by
  unfold pend; (try dsimp only); repeat' split
  all_goals first | rfl | simp
@[simp] theorem pend_faults (hart file eiid : Nat) (s : State) : (pend hart file eiid s).faults = s.faults := by
  unfold pend; (try dsimp only); repeat' split
  all_goals first | rfl | simp
@[simp] theorem pend_mram (hart file eiid : Nat) (s : State) : (pend hart file eiid s).mram = s.mram := by
  unfold pend; (try dsimp only); repeat' split
  all_goals first | rfl | simp
@[simp] theorem pend_store (hart file eiid : Nat) (s : State) : (pend hart file eiid s).store = s.store := by
  unfold pend; (try dsimp only); repeat' split
  all_goals first | rfl | simp
@[simp] theorem pend_boot (hart file eiid : Nat) (s : State) : (pend hart file eiid s).boot = s.boot := by
  unfold pend; (try dsimp only); repeat' split
  all_goals first | rfl | simp
@[simp] theorem pend_pins (hart file eiid : Nat) (s : State) : (pend hart file eiid s).pins = s.pins := by
  unfold pend; (try dsimp only); repeat' split
  all_goals first | rfl | simp
@[simp] theorem pend_out (hart file eiid : Nat) (s : State) : (pend hart file eiid s).out = s.out := by
  unfold pend; (try dsimp only); repeat' split
  all_goals first | rfl | simp

@[simp] theorem sendMsi_pending (route : Word) (s : State) : (sendMsi route s).pending = s.pending := by
  unfold sendMsi; (try dsimp only); repeat' split
  all_goals first | rfl | simp
@[simp] theorem sendMsi_freeCtr (route : Word) (s : State) : (sendMsi route s).freeCtr = s.freeCtr := by
  unfold sendMsi; (try dsimp only); repeat' split
  all_goals first | rfl | simp
@[simp] theorem sendMsi_variant (route : Word) (s : State) : (sendMsi route s).variant = s.variant := by
  unfold sendMsi; (try dsimp only); repeat' split
  all_goals first | rfl | simp
@[simp] theorem sendMsi_mem (route : Word) (s : State) : (sendMsi route s).mem = s.mem := by
  unfold sendMsi; (try dsimp only); repeat' split
  all_goals first | rfl | simp
@[simp] theorem sendMsi_boxRegs (route : Word) (s : State) : (sendMsi route s).boxRegs = s.boxRegs := by
  unfold sendMsi; (try dsimp only); repeat' split
  all_goals first | rfl | simp
@[simp] theorem sendMsi_boxMem (route : Word) (s : State) : (sendMsi route s).boxMem = s.boxMem := by
  unfold sendMsi; (try dsimp only); repeat' split
  all_goals first | rfl | simp
@[simp] theorem sendMsi_pos (route : Word) (s : State) : (sendMsi route s).pos = s.pos := by
  unfold sendMsi; (try dsimp only); repeat' split
  all_goals first | rfl | simp
@[simp] theorem sendMsi_stepTick (route : Word) (s : State) : (sendMsi route s).stepTick = s.stepTick := by
  unfold sendMsi; (try dsimp only); repeat' split
  all_goals first | rfl | simp
@[simp] theorem sendMsi_slew (route : Word) (s : State) : (sendMsi route s).slew = s.slew := by
  unfold sendMsi; (try dsimp only); repeat' split
  all_goals first | rfl | simp
@[simp] theorem sendMsi_sinceSlew (route : Word) (s : State) : (sendMsi route s).sinceSlew = s.sinceSlew := by
  unfold sendMsi; (try dsimp only); repeat' split
  all_goals first | rfl | simp
@[simp] theorem sendMsi_missed (route : Word) (s : State) : (sendMsi route s).missed = s.missed := by
  unfold sendMsi; (try dsimp only); repeat' split
  all_goals first | rfl | simp
@[simp] theorem sendMsi_boundary (route : Word) (s : State) : (sendMsi route s).boundary = s.boundary := by
  unfold sendMsi; (try dsimp only); repeat' split
  all_goals first | rfl | simp
@[simp] theorem sendMsi_early (route : Word) (s : State) : (sendMsi route s).early = s.early := by
  unfold sendMsi; (try dsimp only); repeat' split
  all_goals first | rfl | simp
@[simp] theorem sendMsi_train (route : Word) (s : State) : (sendMsi route s).train = s.train := by
  unfold sendMsi; (try dsimp only); repeat' split
  all_goals first | rfl | simp
@[simp] theorem sendMsi_units (route : Word) (s : State) : (sendMsi route s).units = s.units := by
  unfold sendMsi; (try dsimp only); repeat' split
  all_goals first | rfl | simp
@[simp] theorem sendMsi_queues (route : Word) (s : State) : (sendMsi route s).queues = s.queues := by
  unfold sendMsi; (try dsimp only); repeat' split
  all_goals first | rfl | simp
@[simp] theorem sendMsi_entries (route : Word) (s : State) : (sendMsi route s).entries = s.entries := by
  unfold sendMsi; (try dsimp only); repeat' split
  all_goals first | rfl | simp
@[simp] theorem sendMsi_tiles (route : Word) (s : State) : (sendMsi route s).tiles = s.tiles := by
  unfold sendMsi; (try dsimp only); repeat' split
  all_goals first | rfl | simp
@[simp] theorem sendMsi_bankKinds (route : Word) (s : State) : (sendMsi route s).bankKinds = s.bankKinds := by
  unfold sendMsi; (try dsimp only); repeat' split
  all_goals first | rfl | simp
@[simp] theorem sendMsi_lanes (route : Word) (s : State) : (sendMsi route s).lanes = s.lanes := by
  unfold sendMsi; (try dsimp only); repeat' split
  all_goals first | rfl | simp
@[simp] theorem sendMsi_hearth (route : Word) (s : State) : (sendMsi route s).hearth = s.hearth := by
  unfold sendMsi; (try dsimp only); repeat' split
  all_goals first | rfl | simp
@[simp] theorem sendMsi_stash (route : Word) (s : State) : (sendMsi route s).stash = s.stash := by
  unfold sendMsi; (try dsimp only); repeat' split
  all_goals first | rfl | simp
@[simp] theorem sendMsi_landings (route : Word) (s : State) : (sendMsi route s).landings = s.landings := by
  unfold sendMsi; (try dsimp only); repeat' split
  all_goals first | rfl | simp
@[simp] theorem sendMsi_nextLanding (route : Word) (s : State) : (sendMsi route s).nextLanding = s.nextLanding := by
  unfold sendMsi; (try dsimp only); repeat' split
  all_goals first | rfl | simp
@[simp] theorem sendMsi_power (route : Word) (s : State) : (sendMsi route s).power = s.power := by
  unfold sendMsi; (try dsimp only); repeat' split
  all_goals first | rfl | simp
@[simp] theorem sendMsi_lps (route : Word) (s : State) : (sendMsi route s).lps = s.lps := by
  unfold sendMsi; (try dsimp only); repeat' split
  all_goals first | rfl | simp
@[simp] theorem sendMsi_walks (route : Word) (s : State) : (sendMsi route s).walks = s.walks := by
  unfold sendMsi; (try dsimp only); repeat' split
  all_goals first | rfl | simp
@[simp] theorem sendMsi_domains (route : Word) (s : State) : (sendMsi route s).domains = s.domains := by
  unfold sendMsi; (try dsimp only); repeat' split
  all_goals first | rfl | simp
@[simp] theorem sendMsi_ports (route : Word) (s : State) : (sendMsi route s).ports = s.ports := by
  unfold sendMsi; (try dsimp only); repeat' split
  all_goals first | rfl | simp
@[simp] theorem sendMsi_fabric (route : Word) (s : State) : (sendMsi route s).fabric = s.fabric := by
  unfold sendMsi; (try dsimp only); repeat' split
  all_goals first | rfl | simp
@[simp] theorem sendMsi_colls (route : Word) (s : State) : (sendMsi route s).colls = s.colls := by
  unfold sendMsi; (try dsimp only); repeat' split
  all_goals first | rfl | simp
@[simp] theorem sendMsi_nextColl (route : Word) (s : State) : (sendMsi route s).nextColl = s.nextColl := by
  unfold sendMsi; (try dsimp only); repeat' split
  all_goals first | rfl | simp
@[simp] theorem sendMsi_annex (route : Word) (s : State) : (sendMsi route s).annex = s.annex := by
  unfold sendMsi; (try dsimp only); repeat' split
  all_goals first | rfl | simp
@[simp] theorem sendMsi_restore (route : Word) (s : State) : (sendMsi route s).restore = s.restore := by
  unfold sendMsi; (try dsimp only); repeat' split
  all_goals first | rfl | simp
@[simp] theorem sendMsi_faults (route : Word) (s : State) : (sendMsi route s).faults = s.faults := by
  unfold sendMsi; (try dsimp only); repeat' split
  all_goals first | rfl | simp
@[simp] theorem sendMsi_mram (route : Word) (s : State) : (sendMsi route s).mram = s.mram := by
  unfold sendMsi; (try dsimp only); repeat' split
  all_goals first | rfl | simp
@[simp] theorem sendMsi_store (route : Word) (s : State) : (sendMsi route s).store = s.store := by
  unfold sendMsi; (try dsimp only); repeat' split
  all_goals first | rfl | simp
@[simp] theorem sendMsi_boot (route : Word) (s : State) : (sendMsi route s).boot = s.boot := by
  unfold sendMsi; (try dsimp only); repeat' split
  all_goals first | rfl | simp
@[simp] theorem sendMsi_pins (route : Word) (s : State) : (sendMsi route s).pins = s.pins := by
  unfold sendMsi; (try dsimp only); repeat' split
  all_goals first | rfl | simp

@[simp] theorem setFabState_pending (v : Nat) (s : State) : (setFabState v s).pending = s.pending := by
  unfold setFabState; (try dsimp only); repeat' split
  all_goals first | rfl | simp
@[simp] theorem setFabState_freeCtr (v : Nat) (s : State) : (setFabState v s).freeCtr = s.freeCtr := by
  unfold setFabState; (try dsimp only); repeat' split
  all_goals first | rfl | simp
@[simp] theorem setFabState_variant (v : Nat) (s : State) : (setFabState v s).variant = s.variant := by
  unfold setFabState; (try dsimp only); repeat' split
  all_goals first | rfl | simp
@[simp] theorem setFabState_mem (v : Nat) (s : State) : (setFabState v s).mem = s.mem := by
  unfold setFabState; (try dsimp only); repeat' split
  all_goals first | rfl | simp
@[simp] theorem setFabState_boxRegs (v : Nat) (s : State) : (setFabState v s).boxRegs = s.boxRegs := by
  unfold setFabState; (try dsimp only); repeat' split
  all_goals first | rfl | simp
@[simp] theorem setFabState_boxMem (v : Nat) (s : State) : (setFabState v s).boxMem = s.boxMem := by
  unfold setFabState; (try dsimp only); repeat' split
  all_goals first | rfl | simp
@[simp] theorem setFabState_pos (v : Nat) (s : State) : (setFabState v s).pos = s.pos := by
  unfold setFabState; (try dsimp only); repeat' split
  all_goals first | rfl | simp
@[simp] theorem setFabState_stepTick (v : Nat) (s : State) : (setFabState v s).stepTick = s.stepTick := by
  unfold setFabState; (try dsimp only); repeat' split
  all_goals first | rfl | simp
@[simp] theorem setFabState_slew (v : Nat) (s : State) : (setFabState v s).slew = s.slew := by
  unfold setFabState; (try dsimp only); repeat' split
  all_goals first | rfl | simp
@[simp] theorem setFabState_sinceSlew (v : Nat) (s : State) : (setFabState v s).sinceSlew = s.sinceSlew := by
  unfold setFabState; (try dsimp only); repeat' split
  all_goals first | rfl | simp
@[simp] theorem setFabState_missed (v : Nat) (s : State) : (setFabState v s).missed = s.missed := by
  unfold setFabState; (try dsimp only); repeat' split
  all_goals first | rfl | simp
@[simp] theorem setFabState_boundary (v : Nat) (s : State) : (setFabState v s).boundary = s.boundary := by
  unfold setFabState; (try dsimp only); repeat' split
  all_goals first | rfl | simp
@[simp] theorem setFabState_early (v : Nat) (s : State) : (setFabState v s).early = s.early := by
  unfold setFabState; (try dsimp only); repeat' split
  all_goals first | rfl | simp
@[simp] theorem setFabState_train (v : Nat) (s : State) : (setFabState v s).train = s.train := by
  unfold setFabState; (try dsimp only); repeat' split
  all_goals first | rfl | simp
@[simp] theorem setFabState_units (v : Nat) (s : State) : (setFabState v s).units = s.units := by
  unfold setFabState; (try dsimp only); repeat' split
  all_goals first | rfl | simp
@[simp] theorem setFabState_queues (v : Nat) (s : State) : (setFabState v s).queues = s.queues := by
  unfold setFabState; (try dsimp only); repeat' split
  all_goals first | rfl | simp
@[simp] theorem setFabState_entries (v : Nat) (s : State) : (setFabState v s).entries = s.entries := by
  unfold setFabState; (try dsimp only); repeat' split
  all_goals first | rfl | simp
@[simp] theorem setFabState_tiles (v : Nat) (s : State) : (setFabState v s).tiles = s.tiles := by
  unfold setFabState; (try dsimp only); repeat' split
  all_goals first | rfl | simp
@[simp] theorem setFabState_bankKinds (v : Nat) (s : State) : (setFabState v s).bankKinds = s.bankKinds := by
  unfold setFabState; (try dsimp only); repeat' split
  all_goals first | rfl | simp
@[simp] theorem setFabState_lanes (v : Nat) (s : State) : (setFabState v s).lanes = s.lanes := by
  unfold setFabState; (try dsimp only); repeat' split
  all_goals first | rfl | simp
@[simp] theorem setFabState_hearth (v : Nat) (s : State) : (setFabState v s).hearth = s.hearth := by
  unfold setFabState; (try dsimp only); repeat' split
  all_goals first | rfl | simp
@[simp] theorem setFabState_stash (v : Nat) (s : State) : (setFabState v s).stash = s.stash := by
  unfold setFabState; (try dsimp only); repeat' split
  all_goals first | rfl | simp
@[simp] theorem setFabState_landings (v : Nat) (s : State) : (setFabState v s).landings = s.landings := by
  unfold setFabState; (try dsimp only); repeat' split
  all_goals first | rfl | simp
@[simp] theorem setFabState_nextLanding (v : Nat) (s : State) : (setFabState v s).nextLanding = s.nextLanding := by
  unfold setFabState; (try dsimp only); repeat' split
  all_goals first | rfl | simp
@[simp] theorem setFabState_power (v : Nat) (s : State) : (setFabState v s).power = s.power := by
  unfold setFabState; (try dsimp only); repeat' split
  all_goals first | rfl | simp
@[simp] theorem setFabState_lps (v : Nat) (s : State) : (setFabState v s).lps = s.lps := by
  unfold setFabState; (try dsimp only); repeat' split
  all_goals first | rfl | simp
@[simp] theorem setFabState_walks (v : Nat) (s : State) : (setFabState v s).walks = s.walks := by
  unfold setFabState; (try dsimp only); repeat' split
  all_goals first | rfl | simp
@[simp] theorem setFabState_domains (v : Nat) (s : State) : (setFabState v s).domains = s.domains := by
  unfold setFabState; (try dsimp only); repeat' split
  all_goals first | rfl | simp
@[simp] theorem setFabState_ports (v : Nat) (s : State) : (setFabState v s).ports = s.ports := by
  unfold setFabState; (try dsimp only); repeat' split
  all_goals first | rfl | simp
@[simp] theorem setFabState_fabric (v : Nat) (s : State) : (setFabState v s).fabric = s.fabric := by
  unfold setFabState; (try dsimp only); repeat' split
  all_goals first | rfl | simp
@[simp] theorem setFabState_colls (v : Nat) (s : State) : (setFabState v s).colls = s.colls := by
  unfold setFabState; (try dsimp only); repeat' split
  all_goals first | rfl | simp
@[simp] theorem setFabState_nextColl (v : Nat) (s : State) : (setFabState v s).nextColl = s.nextColl := by
  unfold setFabState; (try dsimp only); repeat' split
  all_goals first | rfl | simp
@[simp] theorem setFabState_annex (v : Nat) (s : State) : (setFabState v s).annex = s.annex := by
  unfold setFabState; (try dsimp only); repeat' split
  all_goals first | rfl | simp
@[simp] theorem setFabState_restore (v : Nat) (s : State) : (setFabState v s).restore = s.restore := by
  unfold setFabState; (try dsimp only); repeat' split
  all_goals first | rfl | simp
@[simp] theorem setFabState_faults (v : Nat) (s : State) : (setFabState v s).faults = s.faults := by
  unfold setFabState; (try dsimp only); repeat' split
  all_goals first | rfl | simp
@[simp] theorem setFabState_mram (v : Nat) (s : State) : (setFabState v s).mram = s.mram := by
  unfold setFabState; (try dsimp only); repeat' split
  all_goals first | rfl | simp
@[simp] theorem setFabState_store (v : Nat) (s : State) : (setFabState v s).store = s.store := by
  unfold setFabState; (try dsimp only); repeat' split
  all_goals first | rfl | simp
@[simp] theorem setFabState_boot (v : Nat) (s : State) : (setFabState v s).boot = s.boot := by
  unfold setFabState; (try dsimp only); repeat' split
  all_goals first | rfl | simp
@[simp] theorem setFabState_pins (v : Nat) (s : State) : (setFabState v s).pins = s.pins := by
  unfold setFabState; (try dsimp only); repeat' split
  all_goals first | rfl | simp

@[simp] theorem flogPlace_pending (bytes : List Byte) (s : State) : (flogPlace bytes s).pending = s.pending := by
  unfold flogPlace; (try dsimp only); repeat' split
  all_goals first | rfl | simp
@[simp] theorem flogPlace_freeCtr (bytes : List Byte) (s : State) : (flogPlace bytes s).freeCtr = s.freeCtr := by
  unfold flogPlace; (try dsimp only); repeat' split
  all_goals first | rfl | simp
@[simp] theorem flogPlace_variant (bytes : List Byte) (s : State) : (flogPlace bytes s).variant = s.variant := by
  unfold flogPlace; (try dsimp only); repeat' split
  all_goals first | rfl | simp
@[simp] theorem flogPlace_boxRegs (bytes : List Byte) (s : State) : (flogPlace bytes s).boxRegs = s.boxRegs := by
  unfold flogPlace; (try dsimp only); repeat' split
  all_goals first | rfl | simp
@[simp] theorem flogPlace_boxMem (bytes : List Byte) (s : State) : (flogPlace bytes s).boxMem = s.boxMem := by
  unfold flogPlace; (try dsimp only); repeat' split
  all_goals first | rfl | simp
@[simp] theorem flogPlace_pos (bytes : List Byte) (s : State) : (flogPlace bytes s).pos = s.pos := by
  unfold flogPlace; (try dsimp only); repeat' split
  all_goals first | rfl | simp
@[simp] theorem flogPlace_stepTick (bytes : List Byte) (s : State) : (flogPlace bytes s).stepTick = s.stepTick := by
  unfold flogPlace; (try dsimp only); repeat' split
  all_goals first | rfl | simp
@[simp] theorem flogPlace_slew (bytes : List Byte) (s : State) : (flogPlace bytes s).slew = s.slew := by
  unfold flogPlace; (try dsimp only); repeat' split
  all_goals first | rfl | simp
@[simp] theorem flogPlace_sinceSlew (bytes : List Byte) (s : State) : (flogPlace bytes s).sinceSlew = s.sinceSlew := by
  unfold flogPlace; (try dsimp only); repeat' split
  all_goals first | rfl | simp
@[simp] theorem flogPlace_missed (bytes : List Byte) (s : State) : (flogPlace bytes s).missed = s.missed := by
  unfold flogPlace; (try dsimp only); repeat' split
  all_goals first | rfl | simp
@[simp] theorem flogPlace_boundary (bytes : List Byte) (s : State) : (flogPlace bytes s).boundary = s.boundary := by
  unfold flogPlace; (try dsimp only); repeat' split
  all_goals first | rfl | simp
@[simp] theorem flogPlace_early (bytes : List Byte) (s : State) : (flogPlace bytes s).early = s.early := by
  unfold flogPlace; (try dsimp only); repeat' split
  all_goals first | rfl | simp
@[simp] theorem flogPlace_train (bytes : List Byte) (s : State) : (flogPlace bytes s).train = s.train := by
  unfold flogPlace; (try dsimp only); repeat' split
  all_goals first | rfl | simp
@[simp] theorem flogPlace_units (bytes : List Byte) (s : State) : (flogPlace bytes s).units = s.units := by
  unfold flogPlace; (try dsimp only); repeat' split
  all_goals first | rfl | simp
@[simp] theorem flogPlace_queues (bytes : List Byte) (s : State) : (flogPlace bytes s).queues = s.queues := by
  unfold flogPlace; (try dsimp only); repeat' split
  all_goals first | rfl | simp
@[simp] theorem flogPlace_entries (bytes : List Byte) (s : State) : (flogPlace bytes s).entries = s.entries := by
  unfold flogPlace; (try dsimp only); repeat' split
  all_goals first | rfl | simp
@[simp] theorem flogPlace_tiles (bytes : List Byte) (s : State) : (flogPlace bytes s).tiles = s.tiles := by
  unfold flogPlace; (try dsimp only); repeat' split
  all_goals first | rfl | simp
@[simp] theorem flogPlace_bankKinds (bytes : List Byte) (s : State) : (flogPlace bytes s).bankKinds = s.bankKinds := by
  unfold flogPlace; (try dsimp only); repeat' split
  all_goals first | rfl | simp
@[simp] theorem flogPlace_lanes (bytes : List Byte) (s : State) : (flogPlace bytes s).lanes = s.lanes := by
  unfold flogPlace; (try dsimp only); repeat' split
  all_goals first | rfl | simp
@[simp] theorem flogPlace_hearth (bytes : List Byte) (s : State) : (flogPlace bytes s).hearth = s.hearth := by
  unfold flogPlace; (try dsimp only); repeat' split
  all_goals first | rfl | simp
@[simp] theorem flogPlace_stash (bytes : List Byte) (s : State) : (flogPlace bytes s).stash = s.stash := by
  unfold flogPlace; (try dsimp only); repeat' split
  all_goals first | rfl | simp
@[simp] theorem flogPlace_landings (bytes : List Byte) (s : State) : (flogPlace bytes s).landings = s.landings := by
  unfold flogPlace; (try dsimp only); repeat' split
  all_goals first | rfl | simp
@[simp] theorem flogPlace_nextLanding (bytes : List Byte) (s : State) : (flogPlace bytes s).nextLanding = s.nextLanding := by
  unfold flogPlace; (try dsimp only); repeat' split
  all_goals first | rfl | simp
@[simp] theorem flogPlace_power (bytes : List Byte) (s : State) : (flogPlace bytes s).power = s.power := by
  unfold flogPlace; (try dsimp only); repeat' split
  all_goals first | rfl | simp
@[simp] theorem flogPlace_lps (bytes : List Byte) (s : State) : (flogPlace bytes s).lps = s.lps := by
  unfold flogPlace; (try dsimp only); repeat' split
  all_goals first | rfl | simp
@[simp] theorem flogPlace_walks (bytes : List Byte) (s : State) : (flogPlace bytes s).walks = s.walks := by
  unfold flogPlace; (try dsimp only); repeat' split
  all_goals first | rfl | simp
@[simp] theorem flogPlace_domains (bytes : List Byte) (s : State) : (flogPlace bytes s).domains = s.domains := by
  unfold flogPlace; (try dsimp only); repeat' split
  all_goals first | rfl | simp
@[simp] theorem flogPlace_ports (bytes : List Byte) (s : State) : (flogPlace bytes s).ports = s.ports := by
  unfold flogPlace; (try dsimp only); repeat' split
  all_goals first | rfl | simp
@[simp] theorem flogPlace_fabric (bytes : List Byte) (s : State) : (flogPlace bytes s).fabric = s.fabric := by
  unfold flogPlace; (try dsimp only); repeat' split
  all_goals first | rfl | simp
@[simp] theorem flogPlace_colls (bytes : List Byte) (s : State) : (flogPlace bytes s).colls = s.colls := by
  unfold flogPlace; (try dsimp only); repeat' split
  all_goals first | rfl | simp
@[simp] theorem flogPlace_nextColl (bytes : List Byte) (s : State) : (flogPlace bytes s).nextColl = s.nextColl := by
  unfold flogPlace; (try dsimp only); repeat' split
  all_goals first | rfl | simp
@[simp] theorem flogPlace_annex (bytes : List Byte) (s : State) : (flogPlace bytes s).annex = s.annex := by
  unfold flogPlace; (try dsimp only); repeat' split
  all_goals first | rfl | simp
@[simp] theorem flogPlace_restore (bytes : List Byte) (s : State) : (flogPlace bytes s).restore = s.restore := by
  unfold flogPlace; (try dsimp only); repeat' split
  all_goals first | rfl | simp
@[simp] theorem flogPlace_faults (bytes : List Byte) (s : State) : (flogPlace bytes s).faults = s.faults := by
  unfold flogPlace; (try dsimp only); repeat' split
  all_goals first | rfl | simp
@[simp] theorem flogPlace_imsic (bytes : List Byte) (s : State) : (flogPlace bytes s).imsic = s.imsic := by
  unfold flogPlace; (try dsimp only); repeat' split
  all_goals first | rfl | simp
@[simp] theorem flogPlace_mram (bytes : List Byte) (s : State) : (flogPlace bytes s).mram = s.mram := by
  unfold flogPlace; (try dsimp only); repeat' split
  all_goals first | rfl | simp
@[simp] theorem flogPlace_store (bytes : List Byte) (s : State) : (flogPlace bytes s).store = s.store := by
  unfold flogPlace; (try dsimp only); repeat' split
  all_goals first | rfl | simp
@[simp] theorem flogPlace_boot (bytes : List Byte) (s : State) : (flogPlace bytes s).boot = s.boot := by
  unfold flogPlace; (try dsimp only); repeat' split
  all_goals first | rfl | simp
@[simp] theorem flogPlace_pins (bytes : List Byte) (s : State) : (flogPlace bytes s).pins = s.pins := by
  unfold flogPlace; (try dsimp only); repeat' split
  all_goals first | rfl | simp
@[simp] theorem flogPlace_out (bytes : List Byte) (s : State) : (flogPlace bytes s).out = s.out := by
  unfold flogPlace; (try dsimp only); repeat' split
  all_goals first | rfl | simp

@[simp] theorem logFault_pending (f : FaultInfo) (s : State) : (logFault f s).pending = s.pending := by
  unfold logFault; (try dsimp only); repeat' split
  all_goals first | rfl | simp
@[simp] theorem logFault_freeCtr (f : FaultInfo) (s : State) : (logFault f s).freeCtr = s.freeCtr := by
  unfold logFault; (try dsimp only); repeat' split
  all_goals first | rfl | simp
@[simp] theorem logFault_variant (f : FaultInfo) (s : State) : (logFault f s).variant = s.variant := by
  unfold logFault; (try dsimp only); repeat' split
  all_goals first | rfl | simp
@[simp] theorem logFault_boxRegs (f : FaultInfo) (s : State) : (logFault f s).boxRegs = s.boxRegs := by
  unfold logFault; (try dsimp only); repeat' split
  all_goals first | rfl | simp
@[simp] theorem logFault_boxMem (f : FaultInfo) (s : State) : (logFault f s).boxMem = s.boxMem := by
  unfold logFault; (try dsimp only); repeat' split
  all_goals first | rfl | simp
@[simp] theorem logFault_pos (f : FaultInfo) (s : State) : (logFault f s).pos = s.pos := by
  unfold logFault; (try dsimp only); repeat' split
  all_goals first | rfl | simp
@[simp] theorem logFault_stepTick (f : FaultInfo) (s : State) : (logFault f s).stepTick = s.stepTick := by
  unfold logFault; (try dsimp only); repeat' split
  all_goals first | rfl | simp
@[simp] theorem logFault_slew (f : FaultInfo) (s : State) : (logFault f s).slew = s.slew := by
  unfold logFault; (try dsimp only); repeat' split
  all_goals first | rfl | simp
@[simp] theorem logFault_sinceSlew (f : FaultInfo) (s : State) : (logFault f s).sinceSlew = s.sinceSlew := by
  unfold logFault; (try dsimp only); repeat' split
  all_goals first | rfl | simp
@[simp] theorem logFault_missed (f : FaultInfo) (s : State) : (logFault f s).missed = s.missed := by
  unfold logFault; (try dsimp only); repeat' split
  all_goals first | rfl | simp
@[simp] theorem logFault_boundary (f : FaultInfo) (s : State) : (logFault f s).boundary = s.boundary := by
  unfold logFault; (try dsimp only); repeat' split
  all_goals first | rfl | simp
@[simp] theorem logFault_early (f : FaultInfo) (s : State) : (logFault f s).early = s.early := by
  unfold logFault; (try dsimp only); repeat' split
  all_goals first | rfl | simp
@[simp] theorem logFault_train (f : FaultInfo) (s : State) : (logFault f s).train = s.train := by
  unfold logFault; (try dsimp only); repeat' split
  all_goals first | rfl | simp
@[simp] theorem logFault_units (f : FaultInfo) (s : State) : (logFault f s).units = s.units := by
  unfold logFault; (try dsimp only); repeat' split
  all_goals first | rfl | simp
@[simp] theorem logFault_queues (f : FaultInfo) (s : State) : (logFault f s).queues = s.queues := by
  unfold logFault; (try dsimp only); repeat' split
  all_goals first | rfl | simp
@[simp] theorem logFault_entries (f : FaultInfo) (s : State) : (logFault f s).entries = s.entries := by
  unfold logFault; (try dsimp only); repeat' split
  all_goals first | rfl | simp
@[simp] theorem logFault_tiles (f : FaultInfo) (s : State) : (logFault f s).tiles = s.tiles := by
  unfold logFault; (try dsimp only); repeat' split
  all_goals first | rfl | simp
@[simp] theorem logFault_bankKinds (f : FaultInfo) (s : State) : (logFault f s).bankKinds = s.bankKinds := by
  unfold logFault; (try dsimp only); repeat' split
  all_goals first | rfl | simp
@[simp] theorem logFault_lanes (f : FaultInfo) (s : State) : (logFault f s).lanes = s.lanes := by
  unfold logFault; (try dsimp only); repeat' split
  all_goals first | rfl | simp
@[simp] theorem logFault_hearth (f : FaultInfo) (s : State) : (logFault f s).hearth = s.hearth := by
  unfold logFault; (try dsimp only); repeat' split
  all_goals first | rfl | simp
@[simp] theorem logFault_stash (f : FaultInfo) (s : State) : (logFault f s).stash = s.stash := by
  unfold logFault; (try dsimp only); repeat' split
  all_goals first | rfl | simp
@[simp] theorem logFault_landings (f : FaultInfo) (s : State) : (logFault f s).landings = s.landings := by
  unfold logFault; (try dsimp only); repeat' split
  all_goals first | rfl | simp
@[simp] theorem logFault_nextLanding (f : FaultInfo) (s : State) : (logFault f s).nextLanding = s.nextLanding := by
  unfold logFault; (try dsimp only); repeat' split
  all_goals first | rfl | simp
@[simp] theorem logFault_power (f : FaultInfo) (s : State) : (logFault f s).power = s.power := by
  unfold logFault; (try dsimp only); repeat' split
  all_goals first | rfl | simp
@[simp] theorem logFault_lps (f : FaultInfo) (s : State) : (logFault f s).lps = s.lps := by
  unfold logFault; (try dsimp only); repeat' split
  all_goals first | rfl | simp
@[simp] theorem logFault_walks (f : FaultInfo) (s : State) : (logFault f s).walks = s.walks := by
  unfold logFault; (try dsimp only); repeat' split
  all_goals first | rfl | simp
@[simp] theorem logFault_domains (f : FaultInfo) (s : State) : (logFault f s).domains = s.domains := by
  unfold logFault; (try dsimp only); repeat' split
  all_goals first | rfl | simp
@[simp] theorem logFault_ports (f : FaultInfo) (s : State) : (logFault f s).ports = s.ports := by
  unfold logFault; (try dsimp only); repeat' split
  all_goals first | rfl | simp
@[simp] theorem logFault_fabric (f : FaultInfo) (s : State) : (logFault f s).fabric = s.fabric := by
  unfold logFault; (try dsimp only); repeat' split
  all_goals first | rfl | simp
@[simp] theorem logFault_colls (f : FaultInfo) (s : State) : (logFault f s).colls = s.colls := by
  unfold logFault; (try dsimp only); repeat' split
  all_goals first | rfl | simp
@[simp] theorem logFault_nextColl (f : FaultInfo) (s : State) : (logFault f s).nextColl = s.nextColl := by
  unfold logFault; (try dsimp only); repeat' split
  all_goals first | rfl | simp
@[simp] theorem logFault_annex (f : FaultInfo) (s : State) : (logFault f s).annex = s.annex := by
  unfold logFault; (try dsimp only); repeat' split
  all_goals first | rfl | simp
@[simp] theorem logFault_restore (f : FaultInfo) (s : State) : (logFault f s).restore = s.restore := by
  unfold logFault; (try dsimp only); repeat' split
  all_goals first | rfl | simp
@[simp] theorem logFault_mram (f : FaultInfo) (s : State) : (logFault f s).mram = s.mram := by
  unfold logFault; (try dsimp only); repeat' split
  all_goals first | rfl | simp
@[simp] theorem logFault_store (f : FaultInfo) (s : State) : (logFault f s).store = s.store := by
  unfold logFault; (try dsimp only); repeat' split
  all_goals first | rfl | simp
@[simp] theorem logFault_boot (f : FaultInfo) (s : State) : (logFault f s).boot = s.boot := by
  unfold logFault; (try dsimp only); repeat' split
  all_goals first | rfl | simp
@[simp] theorem logFault_pins (f : FaultInfo) (s : State) : (logFault f s).pins = s.pins := by
  unfold logFault; (try dsimp only); repeat' split
  all_goals first | rfl | simp

@[simp] theorem startWake_pending (dom : Nat) (s : State) : (startWake dom s).pending = s.pending := by
  unfold startWake; (try dsimp only); repeat' split
  all_goals first | rfl | simp
@[simp] theorem startWake_freeCtr (dom : Nat) (s : State) : (startWake dom s).freeCtr = s.freeCtr := by
  unfold startWake; (try dsimp only); repeat' split
  all_goals first | rfl | simp
@[simp] theorem startWake_variant (dom : Nat) (s : State) : (startWake dom s).variant = s.variant := by
  unfold startWake; (try dsimp only); repeat' split
  all_goals first | rfl | simp
@[simp] theorem startWake_mem (dom : Nat) (s : State) : (startWake dom s).mem = s.mem := by
  unfold startWake; (try dsimp only); repeat' split
  all_goals first | rfl | simp
@[simp] theorem startWake_boxRegs (dom : Nat) (s : State) : (startWake dom s).boxRegs = s.boxRegs := by
  unfold startWake; (try dsimp only); repeat' split
  all_goals first | rfl | simp
@[simp] theorem startWake_boxMem (dom : Nat) (s : State) : (startWake dom s).boxMem = s.boxMem := by
  unfold startWake; (try dsimp only); repeat' split
  all_goals first | rfl | simp
@[simp] theorem startWake_pos (dom : Nat) (s : State) : (startWake dom s).pos = s.pos := by
  unfold startWake; (try dsimp only); repeat' split
  all_goals first | rfl | simp
@[simp] theorem startWake_stepTick (dom : Nat) (s : State) : (startWake dom s).stepTick = s.stepTick := by
  unfold startWake; (try dsimp only); repeat' split
  all_goals first | rfl | simp
@[simp] theorem startWake_slew (dom : Nat) (s : State) : (startWake dom s).slew = s.slew := by
  unfold startWake; (try dsimp only); repeat' split
  all_goals first | rfl | simp
@[simp] theorem startWake_sinceSlew (dom : Nat) (s : State) : (startWake dom s).sinceSlew = s.sinceSlew := by
  unfold startWake; (try dsimp only); repeat' split
  all_goals first | rfl | simp
@[simp] theorem startWake_missed (dom : Nat) (s : State) : (startWake dom s).missed = s.missed := by
  unfold startWake; (try dsimp only); repeat' split
  all_goals first | rfl | simp
@[simp] theorem startWake_boundary (dom : Nat) (s : State) : (startWake dom s).boundary = s.boundary := by
  unfold startWake; (try dsimp only); repeat' split
  all_goals first | rfl | simp
@[simp] theorem startWake_early (dom : Nat) (s : State) : (startWake dom s).early = s.early := by
  unfold startWake; (try dsimp only); repeat' split
  all_goals first | rfl | simp
@[simp] theorem startWake_train (dom : Nat) (s : State) : (startWake dom s).train = s.train := by
  unfold startWake; (try dsimp only); repeat' split
  all_goals first | rfl | simp
@[simp] theorem startWake_units (dom : Nat) (s : State) : (startWake dom s).units = s.units := by
  unfold startWake; (try dsimp only); repeat' split
  all_goals first | rfl | simp
@[simp] theorem startWake_queues (dom : Nat) (s : State) : (startWake dom s).queues = s.queues := by
  unfold startWake; (try dsimp only); repeat' split
  all_goals first | rfl | simp
@[simp] theorem startWake_entries (dom : Nat) (s : State) : (startWake dom s).entries = s.entries := by
  unfold startWake; (try dsimp only); repeat' split
  all_goals first | rfl | simp
@[simp] theorem startWake_tiles (dom : Nat) (s : State) : (startWake dom s).tiles = s.tiles := by
  unfold startWake; (try dsimp only); repeat' split
  all_goals first | rfl | simp
@[simp] theorem startWake_bankKinds (dom : Nat) (s : State) : (startWake dom s).bankKinds = s.bankKinds := by
  unfold startWake; (try dsimp only); repeat' split
  all_goals first | rfl | simp
@[simp] theorem startWake_lanes (dom : Nat) (s : State) : (startWake dom s).lanes = s.lanes := by
  unfold startWake; (try dsimp only); repeat' split
  all_goals first | rfl | simp
@[simp] theorem startWake_hearth (dom : Nat) (s : State) : (startWake dom s).hearth = s.hearth := by
  unfold startWake; (try dsimp only); repeat' split
  all_goals first | rfl | simp
@[simp] theorem startWake_stash (dom : Nat) (s : State) : (startWake dom s).stash = s.stash := by
  unfold startWake; (try dsimp only); repeat' split
  all_goals first | rfl | simp
@[simp] theorem startWake_landings (dom : Nat) (s : State) : (startWake dom s).landings = s.landings := by
  unfold startWake; (try dsimp only); repeat' split
  all_goals first | rfl | simp
@[simp] theorem startWake_nextLanding (dom : Nat) (s : State) : (startWake dom s).nextLanding = s.nextLanding := by
  unfold startWake; (try dsimp only); repeat' split
  all_goals first | rfl | simp
@[simp] theorem startWake_power (dom : Nat) (s : State) : (startWake dom s).power = s.power := by
  unfold startWake; (try dsimp only); repeat' split
  all_goals first | rfl | simp
@[simp] theorem startWake_walks (dom : Nat) (s : State) : (startWake dom s).walks = s.walks := by
  unfold startWake; (try dsimp only); repeat' split
  all_goals first | rfl | simp
@[simp] theorem startWake_domains (dom : Nat) (s : State) : (startWake dom s).domains = s.domains := by
  unfold startWake; (try dsimp only); repeat' split
  all_goals first | rfl | simp
@[simp] theorem startWake_ports (dom : Nat) (s : State) : (startWake dom s).ports = s.ports := by
  unfold startWake; (try dsimp only); repeat' split
  all_goals first | rfl | simp
@[simp] theorem startWake_fabric (dom : Nat) (s : State) : (startWake dom s).fabric = s.fabric := by
  unfold startWake; (try dsimp only); repeat' split
  all_goals first | rfl | simp
@[simp] theorem startWake_colls (dom : Nat) (s : State) : (startWake dom s).colls = s.colls := by
  unfold startWake; (try dsimp only); repeat' split
  all_goals first | rfl | simp
@[simp] theorem startWake_nextColl (dom : Nat) (s : State) : (startWake dom s).nextColl = s.nextColl := by
  unfold startWake; (try dsimp only); repeat' split
  all_goals first | rfl | simp
@[simp] theorem startWake_annex (dom : Nat) (s : State) : (startWake dom s).annex = s.annex := by
  unfold startWake; (try dsimp only); repeat' split
  all_goals first | rfl | simp
@[simp] theorem startWake_restore (dom : Nat) (s : State) : (startWake dom s).restore = s.restore := by
  unfold startWake; (try dsimp only); repeat' split
  all_goals first | rfl | simp
@[simp] theorem startWake_faults (dom : Nat) (s : State) : (startWake dom s).faults = s.faults := by
  unfold startWake; (try dsimp only); repeat' split
  all_goals first | rfl | simp
@[simp] theorem startWake_imsic (dom : Nat) (s : State) : (startWake dom s).imsic = s.imsic := by
  unfold startWake; (try dsimp only); repeat' split
  all_goals first | rfl | simp
@[simp] theorem startWake_mram (dom : Nat) (s : State) : (startWake dom s).mram = s.mram := by
  unfold startWake; (try dsimp only); repeat' split
  all_goals first | rfl | simp
@[simp] theorem startWake_store (dom : Nat) (s : State) : (startWake dom s).store = s.store := by
  unfold startWake; (try dsimp only); repeat' split
  all_goals first | rfl | simp
@[simp] theorem startWake_boot (dom : Nat) (s : State) : (startWake dom s).boot = s.boot := by
  unfold startWake; (try dsimp only); repeat' split
  all_goals first | rfl | simp
@[simp] theorem startWake_pins (dom : Nat) (s : State) : (startWake dom s).pins = s.pins := by
  unfold startWake; (try dsimp only); repeat' split
  all_goals first | rfl | simp
@[simp] theorem startWake_out (dom : Nat) (s : State) : (startWake dom s).out = s.out := by
  unfold startWake; (try dsimp only); repeat' split
  all_goals first | rfl | simp

@[simp] theorem lateEvent_pending (dom : Nat) (s : State) : (lateEvent dom s).pending = s.pending := by
  unfold lateEvent; (try dsimp only); repeat' split
  all_goals first | rfl | simp
@[simp] theorem lateEvent_freeCtr (dom : Nat) (s : State) : (lateEvent dom s).freeCtr = s.freeCtr := by
  unfold lateEvent; (try dsimp only); repeat' split
  all_goals first | rfl | simp
@[simp] theorem lateEvent_variant (dom : Nat) (s : State) : (lateEvent dom s).variant = s.variant := by
  unfold lateEvent; (try dsimp only); repeat' split
  all_goals first | rfl | simp
@[simp] theorem lateEvent_mem (dom : Nat) (s : State) : (lateEvent dom s).mem = s.mem := by
  unfold lateEvent; (try dsimp only); repeat' split
  all_goals first | rfl | simp
@[simp] theorem lateEvent_boxRegs (dom : Nat) (s : State) : (lateEvent dom s).boxRegs = s.boxRegs := by
  unfold lateEvent; (try dsimp only); repeat' split
  all_goals first | rfl | simp
@[simp] theorem lateEvent_boxMem (dom : Nat) (s : State) : (lateEvent dom s).boxMem = s.boxMem := by
  unfold lateEvent; (try dsimp only); repeat' split
  all_goals first | rfl | simp
@[simp] theorem lateEvent_pos (dom : Nat) (s : State) : (lateEvent dom s).pos = s.pos := by
  unfold lateEvent; (try dsimp only); repeat' split
  all_goals first | rfl | simp
@[simp] theorem lateEvent_stepTick (dom : Nat) (s : State) : (lateEvent dom s).stepTick = s.stepTick := by
  unfold lateEvent; (try dsimp only); repeat' split
  all_goals first | rfl | simp
@[simp] theorem lateEvent_slew (dom : Nat) (s : State) : (lateEvent dom s).slew = s.slew := by
  unfold lateEvent; (try dsimp only); repeat' split
  all_goals first | rfl | simp
@[simp] theorem lateEvent_sinceSlew (dom : Nat) (s : State) : (lateEvent dom s).sinceSlew = s.sinceSlew := by
  unfold lateEvent; (try dsimp only); repeat' split
  all_goals first | rfl | simp
@[simp] theorem lateEvent_missed (dom : Nat) (s : State) : (lateEvent dom s).missed = s.missed := by
  unfold lateEvent; (try dsimp only); repeat' split
  all_goals first | rfl | simp
@[simp] theorem lateEvent_boundary (dom : Nat) (s : State) : (lateEvent dom s).boundary = s.boundary := by
  unfold lateEvent; (try dsimp only); repeat' split
  all_goals first | rfl | simp
@[simp] theorem lateEvent_early (dom : Nat) (s : State) : (lateEvent dom s).early = s.early := by
  unfold lateEvent; (try dsimp only); repeat' split
  all_goals first | rfl | simp
@[simp] theorem lateEvent_train (dom : Nat) (s : State) : (lateEvent dom s).train = s.train := by
  unfold lateEvent; (try dsimp only); repeat' split
  all_goals first | rfl | simp
@[simp] theorem lateEvent_units (dom : Nat) (s : State) : (lateEvent dom s).units = s.units := by
  unfold lateEvent; (try dsimp only); repeat' split
  all_goals first | rfl | simp
@[simp] theorem lateEvent_queues (dom : Nat) (s : State) : (lateEvent dom s).queues = s.queues := by
  unfold lateEvent; (try dsimp only); repeat' split
  all_goals first | rfl | simp
@[simp] theorem lateEvent_entries (dom : Nat) (s : State) : (lateEvent dom s).entries = s.entries := by
  unfold lateEvent; (try dsimp only); repeat' split
  all_goals first | rfl | simp
@[simp] theorem lateEvent_tiles (dom : Nat) (s : State) : (lateEvent dom s).tiles = s.tiles := by
  unfold lateEvent; (try dsimp only); repeat' split
  all_goals first | rfl | simp
@[simp] theorem lateEvent_bankKinds (dom : Nat) (s : State) : (lateEvent dom s).bankKinds = s.bankKinds := by
  unfold lateEvent; (try dsimp only); repeat' split
  all_goals first | rfl | simp
@[simp] theorem lateEvent_lanes (dom : Nat) (s : State) : (lateEvent dom s).lanes = s.lanes := by
  unfold lateEvent; (try dsimp only); repeat' split
  all_goals first | rfl | simp
@[simp] theorem lateEvent_hearth (dom : Nat) (s : State) : (lateEvent dom s).hearth = s.hearth := by
  unfold lateEvent; (try dsimp only); repeat' split
  all_goals first | rfl | simp
@[simp] theorem lateEvent_stash (dom : Nat) (s : State) : (lateEvent dom s).stash = s.stash := by
  unfold lateEvent; (try dsimp only); repeat' split
  all_goals first | rfl | simp
@[simp] theorem lateEvent_landings (dom : Nat) (s : State) : (lateEvent dom s).landings = s.landings := by
  unfold lateEvent; (try dsimp only); repeat' split
  all_goals first | rfl | simp
@[simp] theorem lateEvent_nextLanding (dom : Nat) (s : State) : (lateEvent dom s).nextLanding = s.nextLanding := by
  unfold lateEvent; (try dsimp only); repeat' split
  all_goals first | rfl | simp
@[simp] theorem lateEvent_power (dom : Nat) (s : State) : (lateEvent dom s).power = s.power := by
  unfold lateEvent; (try dsimp only); repeat' split
  all_goals first | rfl | simp
@[simp] theorem lateEvent_walks (dom : Nat) (s : State) : (lateEvent dom s).walks = s.walks := by
  unfold lateEvent; (try dsimp only); repeat' split
  all_goals first | rfl | simp
@[simp] theorem lateEvent_domains (dom : Nat) (s : State) : (lateEvent dom s).domains = s.domains := by
  unfold lateEvent; (try dsimp only); repeat' split
  all_goals first | rfl | simp
@[simp] theorem lateEvent_ports (dom : Nat) (s : State) : (lateEvent dom s).ports = s.ports := by
  unfold lateEvent; (try dsimp only); repeat' split
  all_goals first | rfl | simp
@[simp] theorem lateEvent_fabric (dom : Nat) (s : State) : (lateEvent dom s).fabric = s.fabric := by
  unfold lateEvent; (try dsimp only); repeat' split
  all_goals first | rfl | simp
@[simp] theorem lateEvent_colls (dom : Nat) (s : State) : (lateEvent dom s).colls = s.colls := by
  unfold lateEvent; (try dsimp only); repeat' split
  all_goals first | rfl | simp
@[simp] theorem lateEvent_nextColl (dom : Nat) (s : State) : (lateEvent dom s).nextColl = s.nextColl := by
  unfold lateEvent; (try dsimp only); repeat' split
  all_goals first | rfl | simp
@[simp] theorem lateEvent_annex (dom : Nat) (s : State) : (lateEvent dom s).annex = s.annex := by
  unfold lateEvent; (try dsimp only); repeat' split
  all_goals first | rfl | simp
@[simp] theorem lateEvent_restore (dom : Nat) (s : State) : (lateEvent dom s).restore = s.restore := by
  unfold lateEvent; (try dsimp only); repeat' split
  all_goals first | rfl | simp
@[simp] theorem lateEvent_faults (dom : Nat) (s : State) : (lateEvent dom s).faults = s.faults := by
  unfold lateEvent; (try dsimp only); repeat' split
  all_goals first | rfl | simp
@[simp] theorem lateEvent_imsic (dom : Nat) (s : State) : (lateEvent dom s).imsic = s.imsic := by
  unfold lateEvent; (try dsimp only); repeat' split
  all_goals first | rfl | simp
@[simp] theorem lateEvent_mram (dom : Nat) (s : State) : (lateEvent dom s).mram = s.mram := by
  unfold lateEvent; (try dsimp only); repeat' split
  all_goals first | rfl | simp
@[simp] theorem lateEvent_store (dom : Nat) (s : State) : (lateEvent dom s).store = s.store := by
  unfold lateEvent; (try dsimp only); repeat' split
  all_goals first | rfl | simp
@[simp] theorem lateEvent_boot (dom : Nat) (s : State) : (lateEvent dom s).boot = s.boot := by
  unfold lateEvent; (try dsimp only); repeat' split
  all_goals first | rfl | simp
@[simp] theorem lateEvent_pins (dom : Nat) (s : State) : (lateEvent dom s).pins = s.pins := by
  unfold lateEvent; (try dsimp only); repeat' split
  all_goals first | rfl | simp
@[simp] theorem lateEvent_out (dom : Nat) (s : State) : (lateEvent dom s).out = s.out := by
  unfold lateEvent; (try dsimp only); repeat' split
  all_goals first | rfl | simp

@[simp] theorem wakeAccess_pending (dom off : Nat) (read : Bool) (s : State) : (wakeAccess dom off read s).pending = s.pending := by
  unfold wakeAccess; (try dsimp only); repeat' split
  all_goals first | rfl | simp
@[simp] theorem wakeAccess_freeCtr (dom off : Nat) (read : Bool) (s : State) : (wakeAccess dom off read s).freeCtr = s.freeCtr := by
  unfold wakeAccess; (try dsimp only); repeat' split
  all_goals first | rfl | simp
@[simp] theorem wakeAccess_variant (dom off : Nat) (read : Bool) (s : State) : (wakeAccess dom off read s).variant = s.variant := by
  unfold wakeAccess; (try dsimp only); repeat' split
  all_goals first | rfl | simp
@[simp] theorem wakeAccess_mem (dom off : Nat) (read : Bool) (s : State) : (wakeAccess dom off read s).mem = s.mem := by
  unfold wakeAccess; (try dsimp only); repeat' split
  all_goals first | rfl | simp
@[simp] theorem wakeAccess_boxRegs (dom off : Nat) (read : Bool) (s : State) : (wakeAccess dom off read s).boxRegs = s.boxRegs := by
  unfold wakeAccess; (try dsimp only); repeat' split
  all_goals first | rfl | simp
@[simp] theorem wakeAccess_boxMem (dom off : Nat) (read : Bool) (s : State) : (wakeAccess dom off read s).boxMem = s.boxMem := by
  unfold wakeAccess; (try dsimp only); repeat' split
  all_goals first | rfl | simp
@[simp] theorem wakeAccess_pos (dom off : Nat) (read : Bool) (s : State) : (wakeAccess dom off read s).pos = s.pos := by
  unfold wakeAccess; (try dsimp only); repeat' split
  all_goals first | rfl | simp
@[simp] theorem wakeAccess_stepTick (dom off : Nat) (read : Bool) (s : State) : (wakeAccess dom off read s).stepTick = s.stepTick := by
  unfold wakeAccess; (try dsimp only); repeat' split
  all_goals first | rfl | simp
@[simp] theorem wakeAccess_slew (dom off : Nat) (read : Bool) (s : State) : (wakeAccess dom off read s).slew = s.slew := by
  unfold wakeAccess; (try dsimp only); repeat' split
  all_goals first | rfl | simp
@[simp] theorem wakeAccess_sinceSlew (dom off : Nat) (read : Bool) (s : State) : (wakeAccess dom off read s).sinceSlew = s.sinceSlew := by
  unfold wakeAccess; (try dsimp only); repeat' split
  all_goals first | rfl | simp
@[simp] theorem wakeAccess_missed (dom off : Nat) (read : Bool) (s : State) : (wakeAccess dom off read s).missed = s.missed := by
  unfold wakeAccess; (try dsimp only); repeat' split
  all_goals first | rfl | simp
@[simp] theorem wakeAccess_boundary (dom off : Nat) (read : Bool) (s : State) : (wakeAccess dom off read s).boundary = s.boundary := by
  unfold wakeAccess; (try dsimp only); repeat' split
  all_goals first | rfl | simp
@[simp] theorem wakeAccess_early (dom off : Nat) (read : Bool) (s : State) : (wakeAccess dom off read s).early = s.early := by
  unfold wakeAccess; (try dsimp only); repeat' split
  all_goals first | rfl | simp
@[simp] theorem wakeAccess_train (dom off : Nat) (read : Bool) (s : State) : (wakeAccess dom off read s).train = s.train := by
  unfold wakeAccess; (try dsimp only); repeat' split
  all_goals first | rfl | simp
@[simp] theorem wakeAccess_units (dom off : Nat) (read : Bool) (s : State) : (wakeAccess dom off read s).units = s.units := by
  unfold wakeAccess; (try dsimp only); repeat' split
  all_goals first | rfl | simp
@[simp] theorem wakeAccess_queues (dom off : Nat) (read : Bool) (s : State) : (wakeAccess dom off read s).queues = s.queues := by
  unfold wakeAccess; (try dsimp only); repeat' split
  all_goals first | rfl | simp
@[simp] theorem wakeAccess_entries (dom off : Nat) (read : Bool) (s : State) : (wakeAccess dom off read s).entries = s.entries := by
  unfold wakeAccess; (try dsimp only); repeat' split
  all_goals first | rfl | simp
@[simp] theorem wakeAccess_tiles (dom off : Nat) (read : Bool) (s : State) : (wakeAccess dom off read s).tiles = s.tiles := by
  unfold wakeAccess; (try dsimp only); repeat' split
  all_goals first | rfl | simp
@[simp] theorem wakeAccess_bankKinds (dom off : Nat) (read : Bool) (s : State) : (wakeAccess dom off read s).bankKinds = s.bankKinds := by
  unfold wakeAccess; (try dsimp only); repeat' split
  all_goals first | rfl | simp
@[simp] theorem wakeAccess_lanes (dom off : Nat) (read : Bool) (s : State) : (wakeAccess dom off read s).lanes = s.lanes := by
  unfold wakeAccess; (try dsimp only); repeat' split
  all_goals first | rfl | simp
@[simp] theorem wakeAccess_hearth (dom off : Nat) (read : Bool) (s : State) : (wakeAccess dom off read s).hearth = s.hearth := by
  unfold wakeAccess; (try dsimp only); repeat' split
  all_goals first | rfl | simp
@[simp] theorem wakeAccess_stash (dom off : Nat) (read : Bool) (s : State) : (wakeAccess dom off read s).stash = s.stash := by
  unfold wakeAccess; (try dsimp only); repeat' split
  all_goals first | rfl | simp
@[simp] theorem wakeAccess_landings (dom off : Nat) (read : Bool) (s : State) : (wakeAccess dom off read s).landings = s.landings := by
  unfold wakeAccess; (try dsimp only); repeat' split
  all_goals first | rfl | simp
@[simp] theorem wakeAccess_nextLanding (dom off : Nat) (read : Bool) (s : State) : (wakeAccess dom off read s).nextLanding = s.nextLanding := by
  unfold wakeAccess; (try dsimp only); repeat' split
  all_goals first | rfl | simp
@[simp] theorem wakeAccess_power (dom off : Nat) (read : Bool) (s : State) : (wakeAccess dom off read s).power = s.power := by
  unfold wakeAccess; (try dsimp only); repeat' split
  all_goals first | rfl | simp
@[simp] theorem wakeAccess_walks (dom off : Nat) (read : Bool) (s : State) : (wakeAccess dom off read s).walks = s.walks := by
  unfold wakeAccess; (try dsimp only); repeat' split
  all_goals first | rfl | simp
@[simp] theorem wakeAccess_domains (dom off : Nat) (read : Bool) (s : State) : (wakeAccess dom off read s).domains = s.domains := by
  unfold wakeAccess; (try dsimp only); repeat' split
  all_goals first | rfl | simp
@[simp] theorem wakeAccess_ports (dom off : Nat) (read : Bool) (s : State) : (wakeAccess dom off read s).ports = s.ports := by
  unfold wakeAccess; (try dsimp only); repeat' split
  all_goals first | rfl | simp
@[simp] theorem wakeAccess_fabric (dom off : Nat) (read : Bool) (s : State) : (wakeAccess dom off read s).fabric = s.fabric := by
  unfold wakeAccess; (try dsimp only); repeat' split
  all_goals first | rfl | simp
@[simp] theorem wakeAccess_colls (dom off : Nat) (read : Bool) (s : State) : (wakeAccess dom off read s).colls = s.colls := by
  unfold wakeAccess; (try dsimp only); repeat' split
  all_goals first | rfl | simp
@[simp] theorem wakeAccess_nextColl (dom off : Nat) (read : Bool) (s : State) : (wakeAccess dom off read s).nextColl = s.nextColl := by
  unfold wakeAccess; (try dsimp only); repeat' split
  all_goals first | rfl | simp
@[simp] theorem wakeAccess_annex (dom off : Nat) (read : Bool) (s : State) : (wakeAccess dom off read s).annex = s.annex := by
  unfold wakeAccess; (try dsimp only); repeat' split
  all_goals first | rfl | simp
@[simp] theorem wakeAccess_restore (dom off : Nat) (read : Bool) (s : State) : (wakeAccess dom off read s).restore = s.restore := by
  unfold wakeAccess; (try dsimp only); repeat' split
  all_goals first | rfl | simp
@[simp] theorem wakeAccess_faults (dom off : Nat) (read : Bool) (s : State) : (wakeAccess dom off read s).faults = s.faults := by
  unfold wakeAccess; (try dsimp only); repeat' split
  all_goals first | rfl | simp
@[simp] theorem wakeAccess_imsic (dom off : Nat) (read : Bool) (s : State) : (wakeAccess dom off read s).imsic = s.imsic := by
  unfold wakeAccess; (try dsimp only); repeat' split
  all_goals first | rfl | simp
@[simp] theorem wakeAccess_mram (dom off : Nat) (read : Bool) (s : State) : (wakeAccess dom off read s).mram = s.mram := by
  unfold wakeAccess; (try dsimp only); repeat' split
  all_goals first | rfl | simp
@[simp] theorem wakeAccess_store (dom off : Nat) (read : Bool) (s : State) : (wakeAccess dom off read s).store = s.store := by
  unfold wakeAccess; (try dsimp only); repeat' split
  all_goals first | rfl | simp
@[simp] theorem wakeAccess_boot (dom off : Nat) (read : Bool) (s : State) : (wakeAccess dom off read s).boot = s.boot := by
  unfold wakeAccess; (try dsimp only); repeat' split
  all_goals first | rfl | simp
@[simp] theorem wakeAccess_pins (dom off : Nat) (read : Bool) (s : State) : (wakeAccess dom off read s).pins = s.pins := by
  unfold wakeAccess; (try dsimp only); repeat' split
  all_goals first | rfl | simp
@[simp] theorem wakeAccess_out (dom off : Nat) (read : Bool) (s : State) : (wakeAccess dom off read s).out = s.out := by
  unfold wakeAccess; (try dsimp only); repeat' split
  all_goals first | rfl | simp

@[simp] theorem addOverhead_pending (nj : Nat) (s : State) : (addOverhead nj s).pending = s.pending := by
  unfold addOverhead; (try dsimp only); repeat' split
  all_goals first | rfl | simp
@[simp] theorem addOverhead_freeCtr (nj : Nat) (s : State) : (addOverhead nj s).freeCtr = s.freeCtr := by
  unfold addOverhead; (try dsimp only); repeat' split
  all_goals first | rfl | simp
@[simp] theorem addOverhead_variant (nj : Nat) (s : State) : (addOverhead nj s).variant = s.variant := by
  unfold addOverhead; (try dsimp only); repeat' split
  all_goals first | rfl | simp
@[simp] theorem addOverhead_mem (nj : Nat) (s : State) : (addOverhead nj s).mem = s.mem := by
  unfold addOverhead; (try dsimp only); repeat' split
  all_goals first | rfl | simp
@[simp] theorem addOverhead_boxRegs (nj : Nat) (s : State) : (addOverhead nj s).boxRegs = s.boxRegs := by
  unfold addOverhead; (try dsimp only); repeat' split
  all_goals first | rfl | simp
@[simp] theorem addOverhead_boxMem (nj : Nat) (s : State) : (addOverhead nj s).boxMem = s.boxMem := by
  unfold addOverhead; (try dsimp only); repeat' split
  all_goals first | rfl | simp
@[simp] theorem addOverhead_pos (nj : Nat) (s : State) : (addOverhead nj s).pos = s.pos := by
  unfold addOverhead; (try dsimp only); repeat' split
  all_goals first | rfl | simp
@[simp] theorem addOverhead_stepTick (nj : Nat) (s : State) : (addOverhead nj s).stepTick = s.stepTick := by
  unfold addOverhead; (try dsimp only); repeat' split
  all_goals first | rfl | simp
@[simp] theorem addOverhead_slew (nj : Nat) (s : State) : (addOverhead nj s).slew = s.slew := by
  unfold addOverhead; (try dsimp only); repeat' split
  all_goals first | rfl | simp
@[simp] theorem addOverhead_sinceSlew (nj : Nat) (s : State) : (addOverhead nj s).sinceSlew = s.sinceSlew := by
  unfold addOverhead; (try dsimp only); repeat' split
  all_goals first | rfl | simp
@[simp] theorem addOverhead_missed (nj : Nat) (s : State) : (addOverhead nj s).missed = s.missed := by
  unfold addOverhead; (try dsimp only); repeat' split
  all_goals first | rfl | simp
@[simp] theorem addOverhead_boundary (nj : Nat) (s : State) : (addOverhead nj s).boundary = s.boundary := by
  unfold addOverhead; (try dsimp only); repeat' split
  all_goals first | rfl | simp
@[simp] theorem addOverhead_early (nj : Nat) (s : State) : (addOverhead nj s).early = s.early := by
  unfold addOverhead; (try dsimp only); repeat' split
  all_goals first | rfl | simp
@[simp] theorem addOverhead_train (nj : Nat) (s : State) : (addOverhead nj s).train = s.train := by
  unfold addOverhead; (try dsimp only); repeat' split
  all_goals first | rfl | simp
@[simp] theorem addOverhead_units (nj : Nat) (s : State) : (addOverhead nj s).units = s.units := by
  unfold addOverhead; (try dsimp only); repeat' split
  all_goals first | rfl | simp
@[simp] theorem addOverhead_queues (nj : Nat) (s : State) : (addOverhead nj s).queues = s.queues := by
  unfold addOverhead; (try dsimp only); repeat' split
  all_goals first | rfl | simp
@[simp] theorem addOverhead_entries (nj : Nat) (s : State) : (addOverhead nj s).entries = s.entries := by
  unfold addOverhead; (try dsimp only); repeat' split
  all_goals first | rfl | simp
@[simp] theorem addOverhead_tiles (nj : Nat) (s : State) : (addOverhead nj s).tiles = s.tiles := by
  unfold addOverhead; (try dsimp only); repeat' split
  all_goals first | rfl | simp
@[simp] theorem addOverhead_bankKinds (nj : Nat) (s : State) : (addOverhead nj s).bankKinds = s.bankKinds := by
  unfold addOverhead; (try dsimp only); repeat' split
  all_goals first | rfl | simp
@[simp] theorem addOverhead_lanes (nj : Nat) (s : State) : (addOverhead nj s).lanes = s.lanes := by
  unfold addOverhead; (try dsimp only); repeat' split
  all_goals first | rfl | simp
@[simp] theorem addOverhead_hearth (nj : Nat) (s : State) : (addOverhead nj s).hearth = s.hearth := by
  unfold addOverhead; (try dsimp only); repeat' split
  all_goals first | rfl | simp
@[simp] theorem addOverhead_stash (nj : Nat) (s : State) : (addOverhead nj s).stash = s.stash := by
  unfold addOverhead; (try dsimp only); repeat' split
  all_goals first | rfl | simp
@[simp] theorem addOverhead_landings (nj : Nat) (s : State) : (addOverhead nj s).landings = s.landings := by
  unfold addOverhead; (try dsimp only); repeat' split
  all_goals first | rfl | simp
@[simp] theorem addOverhead_nextLanding (nj : Nat) (s : State) : (addOverhead nj s).nextLanding = s.nextLanding := by
  unfold addOverhead; (try dsimp only); repeat' split
  all_goals first | rfl | simp
@[simp] theorem addOverhead_lps (nj : Nat) (s : State) : (addOverhead nj s).lps = s.lps := by
  unfold addOverhead; (try dsimp only); repeat' split
  all_goals first | rfl | simp
@[simp] theorem addOverhead_walks (nj : Nat) (s : State) : (addOverhead nj s).walks = s.walks := by
  unfold addOverhead; (try dsimp only); repeat' split
  all_goals first | rfl | simp
@[simp] theorem addOverhead_domains (nj : Nat) (s : State) : (addOverhead nj s).domains = s.domains := by
  unfold addOverhead; (try dsimp only); repeat' split
  all_goals first | rfl | simp
@[simp] theorem addOverhead_ports (nj : Nat) (s : State) : (addOverhead nj s).ports = s.ports := by
  unfold addOverhead; (try dsimp only); repeat' split
  all_goals first | rfl | simp
@[simp] theorem addOverhead_fabric (nj : Nat) (s : State) : (addOverhead nj s).fabric = s.fabric := by
  unfold addOverhead; (try dsimp only); repeat' split
  all_goals first | rfl | simp
@[simp] theorem addOverhead_colls (nj : Nat) (s : State) : (addOverhead nj s).colls = s.colls := by
  unfold addOverhead; (try dsimp only); repeat' split
  all_goals first | rfl | simp
@[simp] theorem addOverhead_nextColl (nj : Nat) (s : State) : (addOverhead nj s).nextColl = s.nextColl := by
  unfold addOverhead; (try dsimp only); repeat' split
  all_goals first | rfl | simp
@[simp] theorem addOverhead_annex (nj : Nat) (s : State) : (addOverhead nj s).annex = s.annex := by
  unfold addOverhead; (try dsimp only); repeat' split
  all_goals first | rfl | simp
@[simp] theorem addOverhead_restore (nj : Nat) (s : State) : (addOverhead nj s).restore = s.restore := by
  unfold addOverhead; (try dsimp only); repeat' split
  all_goals first | rfl | simp
@[simp] theorem addOverhead_faults (nj : Nat) (s : State) : (addOverhead nj s).faults = s.faults := by
  unfold addOverhead; (try dsimp only); repeat' split
  all_goals first | rfl | simp
@[simp] theorem addOverhead_imsic (nj : Nat) (s : State) : (addOverhead nj s).imsic = s.imsic := by
  unfold addOverhead; (try dsimp only); repeat' split
  all_goals first | rfl | simp
@[simp] theorem addOverhead_mram (nj : Nat) (s : State) : (addOverhead nj s).mram = s.mram := by
  unfold addOverhead; (try dsimp only); repeat' split
  all_goals first | rfl | simp
@[simp] theorem addOverhead_store (nj : Nat) (s : State) : (addOverhead nj s).store = s.store := by
  unfold addOverhead; (try dsimp only); repeat' split
  all_goals first | rfl | simp
@[simp] theorem addOverhead_boot (nj : Nat) (s : State) : (addOverhead nj s).boot = s.boot := by
  unfold addOverhead; (try dsimp only); repeat' split
  all_goals first | rfl | simp
@[simp] theorem addOverhead_pins (nj : Nat) (s : State) : (addOverhead nj s).pins = s.pins := by
  unfold addOverhead; (try dsimp only); repeat' split
  all_goals first | rfl | simp
@[simp] theorem addOverhead_out (nj : Nat) (s : State) : (addOverhead nj s).out = s.out := by
  unfold addOverhead; (try dsimp only); repeat' split
  all_goals first | rfl | simp

@[simp] theorem refuse_pending (u : UnitRef) (st : Nat) (s : State) : (refuse u st s).pending = s.pending := by
  unfold refuse; (try dsimp only); repeat' split
  all_goals first | rfl | simp
@[simp] theorem refuse_freeCtr (u : UnitRef) (st : Nat) (s : State) : (refuse u st s).freeCtr = s.freeCtr := by
  unfold refuse; (try dsimp only); repeat' split
  all_goals first | rfl | simp
@[simp] theorem refuse_variant (u : UnitRef) (st : Nat) (s : State) : (refuse u st s).variant = s.variant := by
  unfold refuse; (try dsimp only); repeat' split
  all_goals first | rfl | simp
@[simp] theorem refuse_boxRegs (u : UnitRef) (st : Nat) (s : State) : (refuse u st s).boxRegs = s.boxRegs := by
  unfold refuse; (try dsimp only); repeat' split
  all_goals first | rfl | simp
@[simp] theorem refuse_boxMem (u : UnitRef) (st : Nat) (s : State) : (refuse u st s).boxMem = s.boxMem := by
  unfold refuse; (try dsimp only); repeat' split
  all_goals first | rfl | simp
@[simp] theorem refuse_pos (u : UnitRef) (st : Nat) (s : State) : (refuse u st s).pos = s.pos := by
  unfold refuse; (try dsimp only); repeat' split
  all_goals first | rfl | simp
@[simp] theorem refuse_stepTick (u : UnitRef) (st : Nat) (s : State) : (refuse u st s).stepTick = s.stepTick := by
  unfold refuse; (try dsimp only); repeat' split
  all_goals first | rfl | simp
@[simp] theorem refuse_slew (u : UnitRef) (st : Nat) (s : State) : (refuse u st s).slew = s.slew := by
  unfold refuse; (try dsimp only); repeat' split
  all_goals first | rfl | simp
@[simp] theorem refuse_sinceSlew (u : UnitRef) (st : Nat) (s : State) : (refuse u st s).sinceSlew = s.sinceSlew := by
  unfold refuse; (try dsimp only); repeat' split
  all_goals first | rfl | simp
@[simp] theorem refuse_missed (u : UnitRef) (st : Nat) (s : State) : (refuse u st s).missed = s.missed := by
  unfold refuse; (try dsimp only); repeat' split
  all_goals first | rfl | simp
@[simp] theorem refuse_boundary (u : UnitRef) (st : Nat) (s : State) : (refuse u st s).boundary = s.boundary := by
  unfold refuse; (try dsimp only); repeat' split
  all_goals first | rfl | simp
@[simp] theorem refuse_early (u : UnitRef) (st : Nat) (s : State) : (refuse u st s).early = s.early := by
  unfold refuse; (try dsimp only); repeat' split
  all_goals first | rfl | simp
@[simp] theorem refuse_train (u : UnitRef) (st : Nat) (s : State) : (refuse u st s).train = s.train := by
  unfold refuse; (try dsimp only); repeat' split
  all_goals first | rfl | simp
@[simp] theorem refuse_queues (u : UnitRef) (st : Nat) (s : State) : (refuse u st s).queues = s.queues := by
  unfold refuse; (try dsimp only); repeat' split
  all_goals first | rfl | simp
@[simp] theorem refuse_entries (u : UnitRef) (st : Nat) (s : State) : (refuse u st s).entries = s.entries := by
  unfold refuse; (try dsimp only); repeat' split
  all_goals first | rfl | simp
@[simp] theorem refuse_tiles (u : UnitRef) (st : Nat) (s : State) : (refuse u st s).tiles = s.tiles := by
  unfold refuse; (try dsimp only); repeat' split
  all_goals first | rfl | simp
@[simp] theorem refuse_bankKinds (u : UnitRef) (st : Nat) (s : State) : (refuse u st s).bankKinds = s.bankKinds := by
  unfold refuse; (try dsimp only); repeat' split
  all_goals first | rfl | simp
@[simp] theorem refuse_lanes (u : UnitRef) (st : Nat) (s : State) : (refuse u st s).lanes = s.lanes := by
  unfold refuse; (try dsimp only); repeat' split
  all_goals first | rfl | simp
@[simp] theorem refuse_hearth (u : UnitRef) (st : Nat) (s : State) : (refuse u st s).hearth = s.hearth := by
  unfold refuse; (try dsimp only); repeat' split
  all_goals first | rfl | simp
@[simp] theorem refuse_stash (u : UnitRef) (st : Nat) (s : State) : (refuse u st s).stash = s.stash := by
  unfold refuse; (try dsimp only); repeat' split
  all_goals first | rfl | simp
@[simp] theorem refuse_landings (u : UnitRef) (st : Nat) (s : State) : (refuse u st s).landings = s.landings := by
  unfold refuse; (try dsimp only); repeat' split
  all_goals first | rfl | simp
@[simp] theorem refuse_nextLanding (u : UnitRef) (st : Nat) (s : State) : (refuse u st s).nextLanding = s.nextLanding := by
  unfold refuse; (try dsimp only); repeat' split
  all_goals first | rfl | simp
@[simp] theorem refuse_power (u : UnitRef) (st : Nat) (s : State) : (refuse u st s).power = s.power := by
  unfold refuse; (try dsimp only); repeat' split
  all_goals first | rfl | simp
@[simp] theorem refuse_lps (u : UnitRef) (st : Nat) (s : State) : (refuse u st s).lps = s.lps := by
  unfold refuse; (try dsimp only); repeat' split
  all_goals first | rfl | simp
@[simp] theorem refuse_walks (u : UnitRef) (st : Nat) (s : State) : (refuse u st s).walks = s.walks := by
  unfold refuse; (try dsimp only); repeat' split
  all_goals first | rfl | simp
@[simp] theorem refuse_domains (u : UnitRef) (st : Nat) (s : State) : (refuse u st s).domains = s.domains := by
  unfold refuse; (try dsimp only); repeat' split
  all_goals first | rfl | simp
@[simp] theorem refuse_ports (u : UnitRef) (st : Nat) (s : State) : (refuse u st s).ports = s.ports := by
  unfold refuse; (try dsimp only); repeat' split
  all_goals first | rfl | simp
@[simp] theorem refuse_fabric (u : UnitRef) (st : Nat) (s : State) : (refuse u st s).fabric = s.fabric := by
  unfold refuse; (try dsimp only); repeat' split
  all_goals first | rfl | simp
@[simp] theorem refuse_colls (u : UnitRef) (st : Nat) (s : State) : (refuse u st s).colls = s.colls := by
  unfold refuse; (try dsimp only); repeat' split
  all_goals first | rfl | simp
@[simp] theorem refuse_nextColl (u : UnitRef) (st : Nat) (s : State) : (refuse u st s).nextColl = s.nextColl := by
  unfold refuse; (try dsimp only); repeat' split
  all_goals first | rfl | simp
@[simp] theorem refuse_annex (u : UnitRef) (st : Nat) (s : State) : (refuse u st s).annex = s.annex := by
  unfold refuse; (try dsimp only); repeat' split
  all_goals first | rfl | simp
@[simp] theorem refuse_restore (u : UnitRef) (st : Nat) (s : State) : (refuse u st s).restore = s.restore := by
  unfold refuse; (try dsimp only); repeat' split
  all_goals first | rfl | simp
@[simp] theorem refuse_mram (u : UnitRef) (st : Nat) (s : State) : (refuse u st s).mram = s.mram := by
  unfold refuse; (try dsimp only); repeat' split
  all_goals first | rfl | simp
@[simp] theorem refuse_store (u : UnitRef) (st : Nat) (s : State) : (refuse u st s).store = s.store := by
  unfold refuse; (try dsimp only); repeat' split
  all_goals first | rfl | simp
@[simp] theorem refuse_boot (u : UnitRef) (st : Nat) (s : State) : (refuse u st s).boot = s.boot := by
  unfold refuse; (try dsimp only); repeat' split
  all_goals first | rfl | simp
@[simp] theorem refuse_pins (u : UnitRef) (st : Nat) (s : State) : (refuse u st s).pins = s.pins := by
  unfold refuse; (try dsimp only); repeat' split
  all_goals first | rfl | simp

@[simp] theorem showGrants_pending (s : State) : (showGrants s).pending = s.pending := by
  unfold showGrants; (try dsimp only); repeat' split
  all_goals first | rfl | simp
@[simp] theorem showGrants_freeCtr (s : State) : (showGrants s).freeCtr = s.freeCtr := by
  unfold showGrants; (try dsimp only); repeat' split
  all_goals first | rfl | simp
@[simp] theorem showGrants_variant (s : State) : (showGrants s).variant = s.variant := by
  unfold showGrants; (try dsimp only); repeat' split
  all_goals first | rfl | simp
@[simp] theorem showGrants_mem (s : State) : (showGrants s).mem = s.mem := by
  unfold showGrants; (try dsimp only); repeat' split
  all_goals first | rfl | simp
@[simp] theorem showGrants_boxRegs (s : State) : (showGrants s).boxRegs = s.boxRegs := by
  unfold showGrants; (try dsimp only); repeat' split
  all_goals first | rfl | simp
@[simp] theorem showGrants_boxMem (s : State) : (showGrants s).boxMem = s.boxMem := by
  unfold showGrants; (try dsimp only); repeat' split
  all_goals first | rfl | simp
@[simp] theorem showGrants_pos (s : State) : (showGrants s).pos = s.pos := by
  unfold showGrants; (try dsimp only); repeat' split
  all_goals first | rfl | simp
@[simp] theorem showGrants_stepTick (s : State) : (showGrants s).stepTick = s.stepTick := by
  unfold showGrants; (try dsimp only); repeat' split
  all_goals first | rfl | simp
@[simp] theorem showGrants_slew (s : State) : (showGrants s).slew = s.slew := by
  unfold showGrants; (try dsimp only); repeat' split
  all_goals first | rfl | simp
@[simp] theorem showGrants_sinceSlew (s : State) : (showGrants s).sinceSlew = s.sinceSlew := by
  unfold showGrants; (try dsimp only); repeat' split
  all_goals first | rfl | simp
@[simp] theorem showGrants_missed (s : State) : (showGrants s).missed = s.missed := by
  unfold showGrants; (try dsimp only); repeat' split
  all_goals first | rfl | simp
@[simp] theorem showGrants_boundary (s : State) : (showGrants s).boundary = s.boundary := by
  unfold showGrants; (try dsimp only); repeat' split
  all_goals first | rfl | simp
@[simp] theorem showGrants_early (s : State) : (showGrants s).early = s.early := by
  unfold showGrants; (try dsimp only); repeat' split
  all_goals first | rfl | simp
@[simp] theorem showGrants_train (s : State) : (showGrants s).train = s.train := by
  unfold showGrants; (try dsimp only); repeat' split
  all_goals first | rfl | simp
@[simp] theorem showGrants_units (s : State) : (showGrants s).units = s.units := by
  unfold showGrants; (try dsimp only); repeat' split
  all_goals first | rfl | simp
@[simp] theorem showGrants_queues (s : State) : (showGrants s).queues = s.queues := by
  unfold showGrants; (try dsimp only); repeat' split
  all_goals first | rfl | simp
@[simp] theorem showGrants_entries (s : State) : (showGrants s).entries = s.entries := by
  unfold showGrants; (try dsimp only); repeat' split
  all_goals first | rfl | simp
@[simp] theorem showGrants_tiles (s : State) : (showGrants s).tiles = s.tiles := by
  unfold showGrants; (try dsimp only); repeat' split
  all_goals first | rfl | simp
@[simp] theorem showGrants_bankKinds (s : State) : (showGrants s).bankKinds = s.bankKinds := by
  unfold showGrants; (try dsimp only); repeat' split
  all_goals first | rfl | simp
@[simp] theorem showGrants_lanes (s : State) : (showGrants s).lanes = s.lanes := by
  unfold showGrants; (try dsimp only); repeat' split
  all_goals first | rfl | simp
@[simp] theorem showGrants_hearth (s : State) : (showGrants s).hearth = s.hearth := by
  unfold showGrants; (try dsimp only); repeat' split
  all_goals first | rfl | simp
@[simp] theorem showGrants_stash (s : State) : (showGrants s).stash = s.stash := by
  unfold showGrants; (try dsimp only); repeat' split
  all_goals first | rfl | simp
@[simp] theorem showGrants_landings (s : State) : (showGrants s).landings = s.landings := by
  unfold showGrants; (try dsimp only); repeat' split
  all_goals first | rfl | simp
@[simp] theorem showGrants_nextLanding (s : State) : (showGrants s).nextLanding = s.nextLanding := by
  unfold showGrants; (try dsimp only); repeat' split
  all_goals first | rfl | simp
@[simp] theorem showGrants_power (s : State) : (showGrants s).power = s.power := by
  unfold showGrants; (try dsimp only); repeat' split
  all_goals first | rfl | simp
@[simp] theorem showGrants_lps (s : State) : (showGrants s).lps = s.lps := by
  unfold showGrants; (try dsimp only); repeat' split
  all_goals first | rfl | simp
@[simp] theorem showGrants_walks (s : State) : (showGrants s).walks = s.walks := by
  unfold showGrants; (try dsimp only); repeat' split
  all_goals first | rfl | simp
@[simp] theorem showGrants_domains (s : State) : (showGrants s).domains = s.domains := by
  unfold showGrants; (try dsimp only); repeat' split
  all_goals first | rfl | simp
@[simp] theorem showGrants_ports (s : State) : (showGrants s).ports = s.ports := by
  unfold showGrants; (try dsimp only); repeat' split
  all_goals first | rfl | simp
@[simp] theorem showGrants_fabric (s : State) : (showGrants s).fabric = s.fabric := by
  unfold showGrants; (try dsimp only); repeat' split
  all_goals first | rfl | simp
@[simp] theorem showGrants_colls (s : State) : (showGrants s).colls = s.colls := by
  unfold showGrants; (try dsimp only); repeat' split
  all_goals first | rfl | simp
@[simp] theorem showGrants_nextColl (s : State) : (showGrants s).nextColl = s.nextColl := by
  unfold showGrants; (try dsimp only); repeat' split
  all_goals first | rfl | simp
@[simp] theorem showGrants_annex (s : State) : (showGrants s).annex = s.annex := by
  unfold showGrants; (try dsimp only); repeat' split
  all_goals first | rfl | simp
@[simp] theorem showGrants_restore (s : State) : (showGrants s).restore = s.restore := by
  unfold showGrants; (try dsimp only); repeat' split
  all_goals first | rfl | simp
@[simp] theorem showGrants_faults (s : State) : (showGrants s).faults = s.faults := by
  unfold showGrants; (try dsimp only); repeat' split
  all_goals first | rfl | simp
@[simp] theorem showGrants_imsic (s : State) : (showGrants s).imsic = s.imsic := by
  unfold showGrants; (try dsimp only); repeat' split
  all_goals first | rfl | simp
@[simp] theorem showGrants_mram (s : State) : (showGrants s).mram = s.mram := by
  unfold showGrants; (try dsimp only); repeat' split
  all_goals first | rfl | simp
@[simp] theorem showGrants_store (s : State) : (showGrants s).store = s.store := by
  unfold showGrants; (try dsimp only); repeat' split
  all_goals first | rfl | simp
@[simp] theorem showGrants_boot (s : State) : (showGrants s).boot = s.boot := by
  unfold showGrants; (try dsimp only); repeat' split
  all_goals first | rfl | simp
@[simp] theorem showGrants_pins (s : State) : (showGrants s).pins = s.pins := by
  unfold showGrants; (try dsimp only); repeat' split
  all_goals first | rfl | simp
@[simp] theorem showGrants_out (s : State) : (showGrants s).out = s.out := by
  unfold showGrants; (try dsimp only); repeat' split
  all_goals first | rfl | simp

@[simp] theorem dropGrants_pending (p : Grant → Bool) (s : State) : (dropGrants p s).pending = s.pending := by
  unfold dropGrants; (try dsimp only); repeat' split
  all_goals first | rfl | simp
@[simp] theorem dropGrants_freeCtr (p : Grant → Bool) (s : State) : (dropGrants p s).freeCtr = s.freeCtr := by
  unfold dropGrants; (try dsimp only); repeat' split
  all_goals first | rfl | simp
@[simp] theorem dropGrants_variant (p : Grant → Bool) (s : State) : (dropGrants p s).variant = s.variant := by
  unfold dropGrants; (try dsimp only); repeat' split
  all_goals first | rfl | simp
@[simp] theorem dropGrants_mem (p : Grant → Bool) (s : State) : (dropGrants p s).mem = s.mem := by
  unfold dropGrants; (try dsimp only); repeat' split
  all_goals first | rfl | simp
@[simp] theorem dropGrants_boxRegs (p : Grant → Bool) (s : State) : (dropGrants p s).boxRegs = s.boxRegs := by
  unfold dropGrants; (try dsimp only); repeat' split
  all_goals first | rfl | simp
@[simp] theorem dropGrants_boxMem (p : Grant → Bool) (s : State) : (dropGrants p s).boxMem = s.boxMem := by
  unfold dropGrants; (try dsimp only); repeat' split
  all_goals first | rfl | simp
@[simp] theorem dropGrants_pos (p : Grant → Bool) (s : State) : (dropGrants p s).pos = s.pos := by
  unfold dropGrants; (try dsimp only); repeat' split
  all_goals first | rfl | simp
@[simp] theorem dropGrants_stepTick (p : Grant → Bool) (s : State) : (dropGrants p s).stepTick = s.stepTick := by
  unfold dropGrants; (try dsimp only); repeat' split
  all_goals first | rfl | simp
@[simp] theorem dropGrants_slew (p : Grant → Bool) (s : State) : (dropGrants p s).slew = s.slew := by
  unfold dropGrants; (try dsimp only); repeat' split
  all_goals first | rfl | simp
@[simp] theorem dropGrants_sinceSlew (p : Grant → Bool) (s : State) : (dropGrants p s).sinceSlew = s.sinceSlew := by
  unfold dropGrants; (try dsimp only); repeat' split
  all_goals first | rfl | simp
@[simp] theorem dropGrants_missed (p : Grant → Bool) (s : State) : (dropGrants p s).missed = s.missed := by
  unfold dropGrants; (try dsimp only); repeat' split
  all_goals first | rfl | simp
@[simp] theorem dropGrants_boundary (p : Grant → Bool) (s : State) : (dropGrants p s).boundary = s.boundary := by
  unfold dropGrants; (try dsimp only); repeat' split
  all_goals first | rfl | simp
@[simp] theorem dropGrants_early (p : Grant → Bool) (s : State) : (dropGrants p s).early = s.early := by
  unfold dropGrants; (try dsimp only); repeat' split
  all_goals first | rfl | simp
@[simp] theorem dropGrants_train (p : Grant → Bool) (s : State) : (dropGrants p s).train = s.train := by
  unfold dropGrants; (try dsimp only); repeat' split
  all_goals first | rfl | simp
@[simp] theorem dropGrants_units (p : Grant → Bool) (s : State) : (dropGrants p s).units = s.units := by
  unfold dropGrants; (try dsimp only); repeat' split
  all_goals first | rfl | simp
@[simp] theorem dropGrants_queues (p : Grant → Bool) (s : State) : (dropGrants p s).queues = s.queues := by
  unfold dropGrants; (try dsimp only); repeat' split
  all_goals first | rfl | simp
@[simp] theorem dropGrants_entries (p : Grant → Bool) (s : State) : (dropGrants p s).entries = s.entries := by
  unfold dropGrants; (try dsimp only); repeat' split
  all_goals first | rfl | simp
@[simp] theorem dropGrants_tiles (p : Grant → Bool) (s : State) : (dropGrants p s).tiles = s.tiles := by
  unfold dropGrants; (try dsimp only); repeat' split
  all_goals first | rfl | simp
@[simp] theorem dropGrants_bankKinds (p : Grant → Bool) (s : State) : (dropGrants p s).bankKinds = s.bankKinds := by
  unfold dropGrants; (try dsimp only); repeat' split
  all_goals first | rfl | simp
@[simp] theorem dropGrants_lanes (p : Grant → Bool) (s : State) : (dropGrants p s).lanes = s.lanes := by
  unfold dropGrants; (try dsimp only); repeat' split
  all_goals first | rfl | simp
@[simp] theorem dropGrants_hearth (p : Grant → Bool) (s : State) : (dropGrants p s).hearth = s.hearth := by
  unfold dropGrants; (try dsimp only); repeat' split
  all_goals first | rfl | simp
@[simp] theorem dropGrants_stash (p : Grant → Bool) (s : State) : (dropGrants p s).stash = s.stash := by
  unfold dropGrants; (try dsimp only); repeat' split
  all_goals first | rfl | simp
@[simp] theorem dropGrants_landings (p : Grant → Bool) (s : State) : (dropGrants p s).landings = s.landings := by
  unfold dropGrants; (try dsimp only); repeat' split
  all_goals first | rfl | simp
@[simp] theorem dropGrants_nextLanding (p : Grant → Bool) (s : State) : (dropGrants p s).nextLanding = s.nextLanding := by
  unfold dropGrants; (try dsimp only); repeat' split
  all_goals first | rfl | simp
@[simp] theorem dropGrants_lps (p : Grant → Bool) (s : State) : (dropGrants p s).lps = s.lps := by
  unfold dropGrants; (try dsimp only); repeat' split
  all_goals first | rfl | simp
@[simp] theorem dropGrants_walks (p : Grant → Bool) (s : State) : (dropGrants p s).walks = s.walks := by
  unfold dropGrants; (try dsimp only); repeat' split
  all_goals first | rfl | simp
@[simp] theorem dropGrants_domains (p : Grant → Bool) (s : State) : (dropGrants p s).domains = s.domains := by
  unfold dropGrants; (try dsimp only); repeat' split
  all_goals first | rfl | simp
@[simp] theorem dropGrants_ports (p : Grant → Bool) (s : State) : (dropGrants p s).ports = s.ports := by
  unfold dropGrants; (try dsimp only); repeat' split
  all_goals first | rfl | simp
@[simp] theorem dropGrants_fabric (p : Grant → Bool) (s : State) : (dropGrants p s).fabric = s.fabric := by
  unfold dropGrants; (try dsimp only); repeat' split
  all_goals first | rfl | simp
@[simp] theorem dropGrants_colls (p : Grant → Bool) (s : State) : (dropGrants p s).colls = s.colls := by
  unfold dropGrants; (try dsimp only); repeat' split
  all_goals first | rfl | simp
@[simp] theorem dropGrants_nextColl (p : Grant → Bool) (s : State) : (dropGrants p s).nextColl = s.nextColl := by
  unfold dropGrants; (try dsimp only); repeat' split
  all_goals first | rfl | simp
@[simp] theorem dropGrants_annex (p : Grant → Bool) (s : State) : (dropGrants p s).annex = s.annex := by
  unfold dropGrants; (try dsimp only); repeat' split
  all_goals first | rfl | simp
@[simp] theorem dropGrants_restore (p : Grant → Bool) (s : State) : (dropGrants p s).restore = s.restore := by
  unfold dropGrants; (try dsimp only); repeat' split
  all_goals first | rfl | simp
@[simp] theorem dropGrants_faults (p : Grant → Bool) (s : State) : (dropGrants p s).faults = s.faults := by
  unfold dropGrants; (try dsimp only); repeat' split
  all_goals first | rfl | simp
@[simp] theorem dropGrants_imsic (p : Grant → Bool) (s : State) : (dropGrants p s).imsic = s.imsic := by
  unfold dropGrants; (try dsimp only); repeat' split
  all_goals first | rfl | simp
@[simp] theorem dropGrants_mram (p : Grant → Bool) (s : State) : (dropGrants p s).mram = s.mram := by
  unfold dropGrants; (try dsimp only); repeat' split
  all_goals first | rfl | simp
@[simp] theorem dropGrants_store (p : Grant → Bool) (s : State) : (dropGrants p s).store = s.store := by
  unfold dropGrants; (try dsimp only); repeat' split
  all_goals first | rfl | simp
@[simp] theorem dropGrants_boot (p : Grant → Bool) (s : State) : (dropGrants p s).boot = s.boot := by
  unfold dropGrants; (try dsimp only); repeat' split
  all_goals first | rfl | simp
@[simp] theorem dropGrants_pins (p : Grant → Bool) (s : State) : (dropGrants p s).pins = s.pins := by
  unfold dropGrants; (try dsimp only); repeat' split
  all_goals first | rfl | simp
@[simp] theorem dropGrants_out (p : Grant → Bool) (s : State) : (dropGrants p s).out = s.out := by
  unfold dropGrants; (try dsimp only); repeat' split
  all_goals first | rfl | simp

@[simp] theorem serveWaits_pending (s : State) : (serveWaits s).pending = s.pending := by
  unfold serveWaits; (try dsimp only); repeat' split
  all_goals first | rfl | simp
@[simp] theorem serveWaits_freeCtr (s : State) : (serveWaits s).freeCtr = s.freeCtr := by
  unfold serveWaits; (try dsimp only); repeat' split
  all_goals first | rfl | simp
@[simp] theorem serveWaits_variant (s : State) : (serveWaits s).variant = s.variant := by
  unfold serveWaits; (try dsimp only); repeat' split
  all_goals first | rfl | simp
@[simp] theorem serveWaits_mem (s : State) : (serveWaits s).mem = s.mem := by
  unfold serveWaits; (try dsimp only); repeat' split
  all_goals first | rfl | simp
@[simp] theorem serveWaits_regs (s : State) : (serveWaits s).regs = s.regs := by
  unfold serveWaits; (try dsimp only); repeat' split
  all_goals first | rfl | simp
@[simp] theorem serveWaits_boxRegs (s : State) : (serveWaits s).boxRegs = s.boxRegs := by
  unfold serveWaits; (try dsimp only); repeat' split
  all_goals first | rfl | simp
@[simp] theorem serveWaits_boxMem (s : State) : (serveWaits s).boxMem = s.boxMem := by
  unfold serveWaits; (try dsimp only); repeat' split
  all_goals first | rfl | simp
@[simp] theorem serveWaits_pos (s : State) : (serveWaits s).pos = s.pos := by
  unfold serveWaits; (try dsimp only); repeat' split
  all_goals first | rfl | simp
@[simp] theorem serveWaits_stepTick (s : State) : (serveWaits s).stepTick = s.stepTick := by
  unfold serveWaits; (try dsimp only); repeat' split
  all_goals first | rfl | simp
@[simp] theorem serveWaits_slew (s : State) : (serveWaits s).slew = s.slew := by
  unfold serveWaits; (try dsimp only); repeat' split
  all_goals first | rfl | simp
@[simp] theorem serveWaits_sinceSlew (s : State) : (serveWaits s).sinceSlew = s.sinceSlew := by
  unfold serveWaits; (try dsimp only); repeat' split
  all_goals first | rfl | simp
@[simp] theorem serveWaits_missed (s : State) : (serveWaits s).missed = s.missed := by
  unfold serveWaits; (try dsimp only); repeat' split
  all_goals first | rfl | simp
@[simp] theorem serveWaits_boundary (s : State) : (serveWaits s).boundary = s.boundary := by
  unfold serveWaits; (try dsimp only); repeat' split
  all_goals first | rfl | simp
@[simp] theorem serveWaits_early (s : State) : (serveWaits s).early = s.early := by
  unfold serveWaits; (try dsimp only); repeat' split
  all_goals first | rfl | simp
@[simp] theorem serveWaits_train (s : State) : (serveWaits s).train = s.train := by
  unfold serveWaits; (try dsimp only); repeat' split
  all_goals first | rfl | simp
@[simp] theorem serveWaits_queues (s : State) : (serveWaits s).queues = s.queues := by
  unfold serveWaits; (try dsimp only); repeat' split
  all_goals first | rfl | simp
@[simp] theorem serveWaits_entries (s : State) : (serveWaits s).entries = s.entries := by
  unfold serveWaits; (try dsimp only); repeat' split
  all_goals first | rfl | simp
@[simp] theorem serveWaits_tiles (s : State) : (serveWaits s).tiles = s.tiles := by
  unfold serveWaits; (try dsimp only); repeat' split
  all_goals first | rfl | simp
@[simp] theorem serveWaits_bankKinds (s : State) : (serveWaits s).bankKinds = s.bankKinds := by
  unfold serveWaits; (try dsimp only); repeat' split
  all_goals first | rfl | simp
@[simp] theorem serveWaits_lanes (s : State) : (serveWaits s).lanes = s.lanes := by
  unfold serveWaits; (try dsimp only); repeat' split
  all_goals first | rfl | simp
@[simp] theorem serveWaits_hearth (s : State) : (serveWaits s).hearth = s.hearth := by
  unfold serveWaits; (try dsimp only); repeat' split
  all_goals first | rfl | simp
@[simp] theorem serveWaits_stash (s : State) : (serveWaits s).stash = s.stash := by
  unfold serveWaits; (try dsimp only); repeat' split
  all_goals first | rfl | simp
@[simp] theorem serveWaits_landings (s : State) : (serveWaits s).landings = s.landings := by
  unfold serveWaits; (try dsimp only); repeat' split
  all_goals first | rfl | simp
@[simp] theorem serveWaits_nextLanding (s : State) : (serveWaits s).nextLanding = s.nextLanding := by
  unfold serveWaits; (try dsimp only); repeat' split
  all_goals first | rfl | simp
@[simp] theorem serveWaits_power (s : State) : (serveWaits s).power = s.power := by
  unfold serveWaits; (try dsimp only); repeat' split
  all_goals first | rfl | simp
@[simp] theorem serveWaits_lps (s : State) : (serveWaits s).lps = s.lps := by
  unfold serveWaits; (try dsimp only); repeat' split
  all_goals first | rfl | simp
@[simp] theorem serveWaits_walks (s : State) : (serveWaits s).walks = s.walks := by
  unfold serveWaits; (try dsimp only); repeat' split
  all_goals first | rfl | simp
@[simp] theorem serveWaits_domains (s : State) : (serveWaits s).domains = s.domains := by
  unfold serveWaits; (try dsimp only); repeat' split
  all_goals first | rfl | simp
@[simp] theorem serveWaits_ports (s : State) : (serveWaits s).ports = s.ports := by
  unfold serveWaits; (try dsimp only); repeat' split
  all_goals first | rfl | simp
@[simp] theorem serveWaits_fabric (s : State) : (serveWaits s).fabric = s.fabric := by
  unfold serveWaits; (try dsimp only); repeat' split
  all_goals first | rfl | simp
@[simp] theorem serveWaits_colls (s : State) : (serveWaits s).colls = s.colls := by
  unfold serveWaits; (try dsimp only); repeat' split
  all_goals first | rfl | simp
@[simp] theorem serveWaits_nextColl (s : State) : (serveWaits s).nextColl = s.nextColl := by
  unfold serveWaits; (try dsimp only); repeat' split
  all_goals first | rfl | simp
@[simp] theorem serveWaits_annex (s : State) : (serveWaits s).annex = s.annex := by
  unfold serveWaits; (try dsimp only); repeat' split
  all_goals first | rfl | simp
@[simp] theorem serveWaits_restore (s : State) : (serveWaits s).restore = s.restore := by
  unfold serveWaits; (try dsimp only); repeat' split
  all_goals first | rfl | simp
@[simp] theorem serveWaits_faults (s : State) : (serveWaits s).faults = s.faults := by
  unfold serveWaits; (try dsimp only); repeat' split
  all_goals first | rfl | simp
@[simp] theorem serveWaits_imsic (s : State) : (serveWaits s).imsic = s.imsic := by
  unfold serveWaits; (try dsimp only); repeat' split
  all_goals first | rfl | simp
@[simp] theorem serveWaits_mram (s : State) : (serveWaits s).mram = s.mram := by
  unfold serveWaits; (try dsimp only); repeat' split
  all_goals first | rfl | simp
@[simp] theorem serveWaits_store (s : State) : (serveWaits s).store = s.store := by
  unfold serveWaits; (try dsimp only); repeat' split
  all_goals first | rfl | simp
@[simp] theorem serveWaits_boot (s : State) : (serveWaits s).boot = s.boot := by
  unfold serveWaits; (try dsimp only); repeat' split
  all_goals first | rfl | simp
@[simp] theorem serveWaits_pins (s : State) : (serveWaits s).pins = s.pins := by
  unfold serveWaits; (try dsimp only); repeat' split
  all_goals first | rfl | simp
@[simp] theorem serveWaits_out (s : State) : (serveWaits s).out = s.out := by
  unfold serveWaits; (try dsimp only); repeat' split
  all_goals first | rfl | simp

@[simp] theorem clearHints_pending (s : State) : (clearHints s).pending = s.pending := by
  unfold clearHints; exact foldl_part (·.pending) (f := fun (s : State) (d : Nat) => setRf s d Reg.LP_HINT 47 0 0) (fun _ _ => rfl) _ _
@[simp] theorem clearHints_freeCtr (s : State) : (clearHints s).freeCtr = s.freeCtr := by
  unfold clearHints; exact foldl_part (·.freeCtr) (f := fun (s : State) (d : Nat) => setRf s d Reg.LP_HINT 47 0 0) (fun _ _ => rfl) _ _
@[simp] theorem clearHints_variant (s : State) : (clearHints s).variant = s.variant := by
  unfold clearHints; exact foldl_part (·.variant) (f := fun (s : State) (d : Nat) => setRf s d Reg.LP_HINT 47 0 0) (fun _ _ => rfl) _ _
@[simp] theorem clearHints_mem (s : State) : (clearHints s).mem = s.mem := by
  unfold clearHints; exact foldl_part (·.mem) (f := fun (s : State) (d : Nat) => setRf s d Reg.LP_HINT 47 0 0) (fun _ _ => rfl) _ _
@[simp] theorem clearHints_boxRegs (s : State) : (clearHints s).boxRegs = s.boxRegs := by
  unfold clearHints; exact foldl_part (·.boxRegs) (f := fun (s : State) (d : Nat) => setRf s d Reg.LP_HINT 47 0 0) (fun _ _ => rfl) _ _
@[simp] theorem clearHints_boxMem (s : State) : (clearHints s).boxMem = s.boxMem := by
  unfold clearHints; exact foldl_part (·.boxMem) (f := fun (s : State) (d : Nat) => setRf s d Reg.LP_HINT 47 0 0) (fun _ _ => rfl) _ _
@[simp] theorem clearHints_pos (s : State) : (clearHints s).pos = s.pos := by
  unfold clearHints; exact foldl_part (·.pos) (f := fun (s : State) (d : Nat) => setRf s d Reg.LP_HINT 47 0 0) (fun _ _ => rfl) _ _
@[simp] theorem clearHints_stepTick (s : State) : (clearHints s).stepTick = s.stepTick := by
  unfold clearHints; exact foldl_part (·.stepTick) (f := fun (s : State) (d : Nat) => setRf s d Reg.LP_HINT 47 0 0) (fun _ _ => rfl) _ _
@[simp] theorem clearHints_slew (s : State) : (clearHints s).slew = s.slew := by
  unfold clearHints; exact foldl_part (·.slew) (f := fun (s : State) (d : Nat) => setRf s d Reg.LP_HINT 47 0 0) (fun _ _ => rfl) _ _
@[simp] theorem clearHints_sinceSlew (s : State) : (clearHints s).sinceSlew = s.sinceSlew := by
  unfold clearHints; exact foldl_part (·.sinceSlew) (f := fun (s : State) (d : Nat) => setRf s d Reg.LP_HINT 47 0 0) (fun _ _ => rfl) _ _
@[simp] theorem clearHints_missed (s : State) : (clearHints s).missed = s.missed := by
  unfold clearHints; exact foldl_part (·.missed) (f := fun (s : State) (d : Nat) => setRf s d Reg.LP_HINT 47 0 0) (fun _ _ => rfl) _ _
@[simp] theorem clearHints_boundary (s : State) : (clearHints s).boundary = s.boundary := by
  unfold clearHints; exact foldl_part (·.boundary) (f := fun (s : State) (d : Nat) => setRf s d Reg.LP_HINT 47 0 0) (fun _ _ => rfl) _ _
@[simp] theorem clearHints_early (s : State) : (clearHints s).early = s.early := by
  unfold clearHints; exact foldl_part (·.early) (f := fun (s : State) (d : Nat) => setRf s d Reg.LP_HINT 47 0 0) (fun _ _ => rfl) _ _
@[simp] theorem clearHints_train (s : State) : (clearHints s).train = s.train := by
  unfold clearHints; exact foldl_part (·.train) (f := fun (s : State) (d : Nat) => setRf s d Reg.LP_HINT 47 0 0) (fun _ _ => rfl) _ _
@[simp] theorem clearHints_units (s : State) : (clearHints s).units = s.units := by
  unfold clearHints; exact foldl_part (·.units) (f := fun (s : State) (d : Nat) => setRf s d Reg.LP_HINT 47 0 0) (fun _ _ => rfl) _ _
@[simp] theorem clearHints_queues (s : State) : (clearHints s).queues = s.queues := by
  unfold clearHints; exact foldl_part (·.queues) (f := fun (s : State) (d : Nat) => setRf s d Reg.LP_HINT 47 0 0) (fun _ _ => rfl) _ _
@[simp] theorem clearHints_entries (s : State) : (clearHints s).entries = s.entries := by
  unfold clearHints; exact foldl_part (·.entries) (f := fun (s : State) (d : Nat) => setRf s d Reg.LP_HINT 47 0 0) (fun _ _ => rfl) _ _
@[simp] theorem clearHints_tiles (s : State) : (clearHints s).tiles = s.tiles := by
  unfold clearHints; exact foldl_part (·.tiles) (f := fun (s : State) (d : Nat) => setRf s d Reg.LP_HINT 47 0 0) (fun _ _ => rfl) _ _
@[simp] theorem clearHints_bankKinds (s : State) : (clearHints s).bankKinds = s.bankKinds := by
  unfold clearHints; exact foldl_part (·.bankKinds) (f := fun (s : State) (d : Nat) => setRf s d Reg.LP_HINT 47 0 0) (fun _ _ => rfl) _ _
@[simp] theorem clearHints_lanes (s : State) : (clearHints s).lanes = s.lanes := by
  unfold clearHints; exact foldl_part (·.lanes) (f := fun (s : State) (d : Nat) => setRf s d Reg.LP_HINT 47 0 0) (fun _ _ => rfl) _ _
@[simp] theorem clearHints_hearth (s : State) : (clearHints s).hearth = s.hearth := by
  unfold clearHints; exact foldl_part (·.hearth) (f := fun (s : State) (d : Nat) => setRf s d Reg.LP_HINT 47 0 0) (fun _ _ => rfl) _ _
@[simp] theorem clearHints_stash (s : State) : (clearHints s).stash = s.stash := by
  unfold clearHints; exact foldl_part (·.stash) (f := fun (s : State) (d : Nat) => setRf s d Reg.LP_HINT 47 0 0) (fun _ _ => rfl) _ _
@[simp] theorem clearHints_landings (s : State) : (clearHints s).landings = s.landings := by
  unfold clearHints; exact foldl_part (·.landings) (f := fun (s : State) (d : Nat) => setRf s d Reg.LP_HINT 47 0 0) (fun _ _ => rfl) _ _
@[simp] theorem clearHints_nextLanding (s : State) : (clearHints s).nextLanding = s.nextLanding := by
  unfold clearHints; exact foldl_part (·.nextLanding) (f := fun (s : State) (d : Nat) => setRf s d Reg.LP_HINT 47 0 0) (fun _ _ => rfl) _ _
@[simp] theorem clearHints_power (s : State) : (clearHints s).power = s.power := by
  unfold clearHints; exact foldl_part (·.power) (f := fun (s : State) (d : Nat) => setRf s d Reg.LP_HINT 47 0 0) (fun _ _ => rfl) _ _
@[simp] theorem clearHints_lps (s : State) : (clearHints s).lps = s.lps := by
  unfold clearHints; exact foldl_part (·.lps) (f := fun (s : State) (d : Nat) => setRf s d Reg.LP_HINT 47 0 0) (fun _ _ => rfl) _ _
@[simp] theorem clearHints_walks (s : State) : (clearHints s).walks = s.walks := by
  unfold clearHints; exact foldl_part (·.walks) (f := fun (s : State) (d : Nat) => setRf s d Reg.LP_HINT 47 0 0) (fun _ _ => rfl) _ _
@[simp] theorem clearHints_domains (s : State) : (clearHints s).domains = s.domains := by
  unfold clearHints; exact foldl_part (·.domains) (f := fun (s : State) (d : Nat) => setRf s d Reg.LP_HINT 47 0 0) (fun _ _ => rfl) _ _
@[simp] theorem clearHints_ports (s : State) : (clearHints s).ports = s.ports := by
  unfold clearHints; exact foldl_part (·.ports) (f := fun (s : State) (d : Nat) => setRf s d Reg.LP_HINT 47 0 0) (fun _ _ => rfl) _ _
@[simp] theorem clearHints_fabric (s : State) : (clearHints s).fabric = s.fabric := by
  unfold clearHints; exact foldl_part (·.fabric) (f := fun (s : State) (d : Nat) => setRf s d Reg.LP_HINT 47 0 0) (fun _ _ => rfl) _ _
@[simp] theorem clearHints_colls (s : State) : (clearHints s).colls = s.colls := by
  unfold clearHints; exact foldl_part (·.colls) (f := fun (s : State) (d : Nat) => setRf s d Reg.LP_HINT 47 0 0) (fun _ _ => rfl) _ _
@[simp] theorem clearHints_nextColl (s : State) : (clearHints s).nextColl = s.nextColl := by
  unfold clearHints; exact foldl_part (·.nextColl) (f := fun (s : State) (d : Nat) => setRf s d Reg.LP_HINT 47 0 0) (fun _ _ => rfl) _ _
@[simp] theorem clearHints_annex (s : State) : (clearHints s).annex = s.annex := by
  unfold clearHints; exact foldl_part (·.annex) (f := fun (s : State) (d : Nat) => setRf s d Reg.LP_HINT 47 0 0) (fun _ _ => rfl) _ _
@[simp] theorem clearHints_restore (s : State) : (clearHints s).restore = s.restore := by
  unfold clearHints; exact foldl_part (·.restore) (f := fun (s : State) (d : Nat) => setRf s d Reg.LP_HINT 47 0 0) (fun _ _ => rfl) _ _
@[simp] theorem clearHints_faults (s : State) : (clearHints s).faults = s.faults := by
  unfold clearHints; exact foldl_part (·.faults) (f := fun (s : State) (d : Nat) => setRf s d Reg.LP_HINT 47 0 0) (fun _ _ => rfl) _ _
@[simp] theorem clearHints_imsic (s : State) : (clearHints s).imsic = s.imsic := by
  unfold clearHints; exact foldl_part (·.imsic) (f := fun (s : State) (d : Nat) => setRf s d Reg.LP_HINT 47 0 0) (fun _ _ => rfl) _ _
@[simp] theorem clearHints_mram (s : State) : (clearHints s).mram = s.mram := by
  unfold clearHints; exact foldl_part (·.mram) (f := fun (s : State) (d : Nat) => setRf s d Reg.LP_HINT 47 0 0) (fun _ _ => rfl) _ _
@[simp] theorem clearHints_store (s : State) : (clearHints s).store = s.store := by
  unfold clearHints; exact foldl_part (·.store) (f := fun (s : State) (d : Nat) => setRf s d Reg.LP_HINT 47 0 0) (fun _ _ => rfl) _ _
@[simp] theorem clearHints_boot (s : State) : (clearHints s).boot = s.boot := by
  unfold clearHints; exact foldl_part (·.boot) (f := fun (s : State) (d : Nat) => setRf s d Reg.LP_HINT 47 0 0) (fun _ _ => rfl) _ _
@[simp] theorem clearHints_pins (s : State) : (clearHints s).pins = s.pins := by
  unfold clearHints; exact foldl_part (·.pins) (f := fun (s : State) (d : Nat) => setRf s d Reg.LP_HINT 47 0 0) (fun _ _ => rfl) _ _
@[simp] theorem clearHints_out (s : State) : (clearHints s).out = s.out := by
  unfold clearHints; exact foldl_part (·.out) (f := fun (s : State) (d : Nat) => setRf s d Reg.LP_HINT 47 0 0) (fun _ _ => rfl) _ _

@[simp] theorem keepDecisions_pending (s : State) : (keepDecisions s).pending = s.pending := by
  unfold keepDecisions; (try dsimp only); repeat' split
  all_goals first | rfl | simp
@[simp] theorem keepDecisions_freeCtr (s : State) : (keepDecisions s).freeCtr = s.freeCtr := by
  unfold keepDecisions; (try dsimp only); repeat' split
  all_goals first | rfl | simp
@[simp] theorem keepDecisions_variant (s : State) : (keepDecisions s).variant = s.variant := by
  unfold keepDecisions; (try dsimp only); repeat' split
  all_goals first | rfl | simp
@[simp] theorem keepDecisions_mem (s : State) : (keepDecisions s).mem = s.mem := by
  unfold keepDecisions; (try dsimp only); repeat' split
  all_goals first | rfl | simp
@[simp] theorem keepDecisions_regs (s : State) : (keepDecisions s).regs = s.regs := by
  unfold keepDecisions; (try dsimp only); repeat' split
  all_goals first | rfl | simp
@[simp] theorem keepDecisions_boxRegs (s : State) : (keepDecisions s).boxRegs = s.boxRegs := by
  unfold keepDecisions; (try dsimp only); repeat' split
  all_goals first | rfl | simp
@[simp] theorem keepDecisions_boxMem (s : State) : (keepDecisions s).boxMem = s.boxMem := by
  unfold keepDecisions; (try dsimp only); repeat' split
  all_goals first | rfl | simp
@[simp] theorem keepDecisions_pos (s : State) : (keepDecisions s).pos = s.pos := by
  unfold keepDecisions; (try dsimp only); repeat' split
  all_goals first | rfl | simp
@[simp] theorem keepDecisions_stepTick (s : State) : (keepDecisions s).stepTick = s.stepTick := by
  unfold keepDecisions; (try dsimp only); repeat' split
  all_goals first | rfl | simp
@[simp] theorem keepDecisions_slew (s : State) : (keepDecisions s).slew = s.slew := by
  unfold keepDecisions; (try dsimp only); repeat' split
  all_goals first | rfl | simp
@[simp] theorem keepDecisions_sinceSlew (s : State) : (keepDecisions s).sinceSlew = s.sinceSlew := by
  unfold keepDecisions; (try dsimp only); repeat' split
  all_goals first | rfl | simp
@[simp] theorem keepDecisions_missed (s : State) : (keepDecisions s).missed = s.missed := by
  unfold keepDecisions; (try dsimp only); repeat' split
  all_goals first | rfl | simp
@[simp] theorem keepDecisions_boundary (s : State) : (keepDecisions s).boundary = s.boundary := by
  unfold keepDecisions; (try dsimp only); repeat' split
  all_goals first | rfl | simp
@[simp] theorem keepDecisions_early (s : State) : (keepDecisions s).early = s.early := by
  unfold keepDecisions; (try dsimp only); repeat' split
  all_goals first | rfl | simp
@[simp] theorem keepDecisions_train (s : State) : (keepDecisions s).train = s.train := by
  unfold keepDecisions; (try dsimp only); repeat' split
  all_goals first | rfl | simp
@[simp] theorem keepDecisions_queues (s : State) : (keepDecisions s).queues = s.queues := by
  unfold keepDecisions; (try dsimp only); repeat' split
  all_goals first | rfl | simp
@[simp] theorem keepDecisions_entries (s : State) : (keepDecisions s).entries = s.entries := by
  unfold keepDecisions; (try dsimp only); repeat' split
  all_goals first | rfl | simp
@[simp] theorem keepDecisions_tiles (s : State) : (keepDecisions s).tiles = s.tiles := by
  unfold keepDecisions; (try dsimp only); repeat' split
  all_goals first | rfl | simp
@[simp] theorem keepDecisions_bankKinds (s : State) : (keepDecisions s).bankKinds = s.bankKinds := by
  unfold keepDecisions; (try dsimp only); repeat' split
  all_goals first | rfl | simp
@[simp] theorem keepDecisions_lanes (s : State) : (keepDecisions s).lanes = s.lanes := by
  unfold keepDecisions; (try dsimp only); repeat' split
  all_goals first | rfl | simp
@[simp] theorem keepDecisions_hearth (s : State) : (keepDecisions s).hearth = s.hearth := by
  unfold keepDecisions; (try dsimp only); repeat' split
  all_goals first | rfl | simp
@[simp] theorem keepDecisions_stash (s : State) : (keepDecisions s).stash = s.stash := by
  unfold keepDecisions; (try dsimp only); repeat' split
  all_goals first | rfl | simp
@[simp] theorem keepDecisions_landings (s : State) : (keepDecisions s).landings = s.landings := by
  unfold keepDecisions; (try dsimp only); repeat' split
  all_goals first | rfl | simp
@[simp] theorem keepDecisions_nextLanding (s : State) : (keepDecisions s).nextLanding = s.nextLanding := by
  unfold keepDecisions; (try dsimp only); repeat' split
  all_goals first | rfl | simp
@[simp] theorem keepDecisions_power (s : State) : (keepDecisions s).power = s.power := by
  unfold keepDecisions; (try dsimp only); repeat' split
  all_goals first | rfl | simp
@[simp] theorem keepDecisions_lps (s : State) : (keepDecisions s).lps = s.lps := by
  unfold keepDecisions; (try dsimp only); repeat' split
  all_goals first | rfl | simp
@[simp] theorem keepDecisions_walks (s : State) : (keepDecisions s).walks = s.walks := by
  unfold keepDecisions; (try dsimp only); repeat' split
  all_goals first | rfl | simp
@[simp] theorem keepDecisions_domains (s : State) : (keepDecisions s).domains = s.domains := by
  unfold keepDecisions; (try dsimp only); repeat' split
  all_goals first | rfl | simp
@[simp] theorem keepDecisions_ports (s : State) : (keepDecisions s).ports = s.ports := by
  unfold keepDecisions; (try dsimp only); repeat' split
  all_goals first | rfl | simp
@[simp] theorem keepDecisions_fabric (s : State) : (keepDecisions s).fabric = s.fabric := by
  unfold keepDecisions; (try dsimp only); repeat' split
  all_goals first | rfl | simp
@[simp] theorem keepDecisions_colls (s : State) : (keepDecisions s).colls = s.colls := by
  unfold keepDecisions; (try dsimp only); repeat' split
  all_goals first | rfl | simp
@[simp] theorem keepDecisions_nextColl (s : State) : (keepDecisions s).nextColl = s.nextColl := by
  unfold keepDecisions; (try dsimp only); repeat' split
  all_goals first | rfl | simp
@[simp] theorem keepDecisions_annex (s : State) : (keepDecisions s).annex = s.annex := by
  unfold keepDecisions; (try dsimp only); repeat' split
  all_goals first | rfl | simp
@[simp] theorem keepDecisions_restore (s : State) : (keepDecisions s).restore = s.restore := by
  unfold keepDecisions; (try dsimp only); repeat' split
  all_goals first | rfl | simp
@[simp] theorem keepDecisions_faults (s : State) : (keepDecisions s).faults = s.faults := by
  unfold keepDecisions; (try dsimp only); repeat' split
  all_goals first | rfl | simp
@[simp] theorem keepDecisions_imsic (s : State) : (keepDecisions s).imsic = s.imsic := by
  unfold keepDecisions; (try dsimp only); repeat' split
  all_goals first | rfl | simp
@[simp] theorem keepDecisions_mram (s : State) : (keepDecisions s).mram = s.mram := by
  unfold keepDecisions; (try dsimp only); repeat' split
  all_goals first | rfl | simp
@[simp] theorem keepDecisions_store (s : State) : (keepDecisions s).store = s.store := by
  unfold keepDecisions; (try dsimp only); repeat' split
  all_goals first | rfl | simp
@[simp] theorem keepDecisions_boot (s : State) : (keepDecisions s).boot = s.boot := by
  unfold keepDecisions; (try dsimp only); repeat' split
  all_goals first | rfl | simp
@[simp] theorem keepDecisions_pins (s : State) : (keepDecisions s).pins = s.pins := by
  unfold keepDecisions; (try dsimp only); repeat' split
  all_goals first | rfl | simp
@[simp] theorem keepDecisions_out (s : State) : (keepDecisions s).out = s.out := by
  unfold keepDecisions; (try dsimp only); repeat' split
  all_goals first | rfl | simp

@[simp] theorem wakeWaiters_pending (s : State) : (wakeWaiters s).pending = s.pending := by
  unfold wakeWaiters; exact foldl_part (·.pending) (f := fun (s : State) (d : Nat) => if waitSatisfied s d && !isDown s d then lateEvent d s else s)
    (fun _ _ => by split <;> simp) _ _
@[simp] theorem wakeWaiters_freeCtr (s : State) : (wakeWaiters s).freeCtr = s.freeCtr := by
  unfold wakeWaiters; exact foldl_part (·.freeCtr) (f := fun (s : State) (d : Nat) => if waitSatisfied s d && !isDown s d then lateEvent d s else s)
    (fun _ _ => by split <;> simp) _ _
@[simp] theorem wakeWaiters_variant (s : State) : (wakeWaiters s).variant = s.variant := by
  unfold wakeWaiters; exact foldl_part (·.variant) (f := fun (s : State) (d : Nat) => if waitSatisfied s d && !isDown s d then lateEvent d s else s)
    (fun _ _ => by split <;> simp) _ _
@[simp] theorem wakeWaiters_mem (s : State) : (wakeWaiters s).mem = s.mem := by
  unfold wakeWaiters; exact foldl_part (·.mem) (f := fun (s : State) (d : Nat) => if waitSatisfied s d && !isDown s d then lateEvent d s else s)
    (fun _ _ => by split <;> simp) _ _
@[simp] theorem wakeWaiters_boxRegs (s : State) : (wakeWaiters s).boxRegs = s.boxRegs := by
  unfold wakeWaiters; exact foldl_part (·.boxRegs) (f := fun (s : State) (d : Nat) => if waitSatisfied s d && !isDown s d then lateEvent d s else s)
    (fun _ _ => by split <;> simp) _ _
@[simp] theorem wakeWaiters_boxMem (s : State) : (wakeWaiters s).boxMem = s.boxMem := by
  unfold wakeWaiters; exact foldl_part (·.boxMem) (f := fun (s : State) (d : Nat) => if waitSatisfied s d && !isDown s d then lateEvent d s else s)
    (fun _ _ => by split <;> simp) _ _
@[simp] theorem wakeWaiters_pos (s : State) : (wakeWaiters s).pos = s.pos := by
  unfold wakeWaiters; exact foldl_part (·.pos) (f := fun (s : State) (d : Nat) => if waitSatisfied s d && !isDown s d then lateEvent d s else s)
    (fun _ _ => by split <;> simp) _ _
@[simp] theorem wakeWaiters_stepTick (s : State) : (wakeWaiters s).stepTick = s.stepTick := by
  unfold wakeWaiters; exact foldl_part (·.stepTick) (f := fun (s : State) (d : Nat) => if waitSatisfied s d && !isDown s d then lateEvent d s else s)
    (fun _ _ => by split <;> simp) _ _
@[simp] theorem wakeWaiters_slew (s : State) : (wakeWaiters s).slew = s.slew := by
  unfold wakeWaiters; exact foldl_part (·.slew) (f := fun (s : State) (d : Nat) => if waitSatisfied s d && !isDown s d then lateEvent d s else s)
    (fun _ _ => by split <;> simp) _ _
@[simp] theorem wakeWaiters_sinceSlew (s : State) : (wakeWaiters s).sinceSlew = s.sinceSlew := by
  unfold wakeWaiters; exact foldl_part (·.sinceSlew) (f := fun (s : State) (d : Nat) => if waitSatisfied s d && !isDown s d then lateEvent d s else s)
    (fun _ _ => by split <;> simp) _ _
@[simp] theorem wakeWaiters_missed (s : State) : (wakeWaiters s).missed = s.missed := by
  unfold wakeWaiters; exact foldl_part (·.missed) (f := fun (s : State) (d : Nat) => if waitSatisfied s d && !isDown s d then lateEvent d s else s)
    (fun _ _ => by split <;> simp) _ _
@[simp] theorem wakeWaiters_boundary (s : State) : (wakeWaiters s).boundary = s.boundary := by
  unfold wakeWaiters; exact foldl_part (·.boundary) (f := fun (s : State) (d : Nat) => if waitSatisfied s d && !isDown s d then lateEvent d s else s)
    (fun _ _ => by split <;> simp) _ _
@[simp] theorem wakeWaiters_early (s : State) : (wakeWaiters s).early = s.early := by
  unfold wakeWaiters; exact foldl_part (·.early) (f := fun (s : State) (d : Nat) => if waitSatisfied s d && !isDown s d then lateEvent d s else s)
    (fun _ _ => by split <;> simp) _ _
@[simp] theorem wakeWaiters_train (s : State) : (wakeWaiters s).train = s.train := by
  unfold wakeWaiters; exact foldl_part (·.train) (f := fun (s : State) (d : Nat) => if waitSatisfied s d && !isDown s d then lateEvent d s else s)
    (fun _ _ => by split <;> simp) _ _
@[simp] theorem wakeWaiters_units (s : State) : (wakeWaiters s).units = s.units := by
  unfold wakeWaiters; exact foldl_part (·.units) (f := fun (s : State) (d : Nat) => if waitSatisfied s d && !isDown s d then lateEvent d s else s)
    (fun _ _ => by split <;> simp) _ _
@[simp] theorem wakeWaiters_queues (s : State) : (wakeWaiters s).queues = s.queues := by
  unfold wakeWaiters; exact foldl_part (·.queues) (f := fun (s : State) (d : Nat) => if waitSatisfied s d && !isDown s d then lateEvent d s else s)
    (fun _ _ => by split <;> simp) _ _
@[simp] theorem wakeWaiters_entries (s : State) : (wakeWaiters s).entries = s.entries := by
  unfold wakeWaiters; exact foldl_part (·.entries) (f := fun (s : State) (d : Nat) => if waitSatisfied s d && !isDown s d then lateEvent d s else s)
    (fun _ _ => by split <;> simp) _ _
@[simp] theorem wakeWaiters_tiles (s : State) : (wakeWaiters s).tiles = s.tiles := by
  unfold wakeWaiters; exact foldl_part (·.tiles) (f := fun (s : State) (d : Nat) => if waitSatisfied s d && !isDown s d then lateEvent d s else s)
    (fun _ _ => by split <;> simp) _ _
@[simp] theorem wakeWaiters_bankKinds (s : State) : (wakeWaiters s).bankKinds = s.bankKinds := by
  unfold wakeWaiters; exact foldl_part (·.bankKinds) (f := fun (s : State) (d : Nat) => if waitSatisfied s d && !isDown s d then lateEvent d s else s)
    (fun _ _ => by split <;> simp) _ _
@[simp] theorem wakeWaiters_lanes (s : State) : (wakeWaiters s).lanes = s.lanes := by
  unfold wakeWaiters; exact foldl_part (·.lanes) (f := fun (s : State) (d : Nat) => if waitSatisfied s d && !isDown s d then lateEvent d s else s)
    (fun _ _ => by split <;> simp) _ _
@[simp] theorem wakeWaiters_hearth (s : State) : (wakeWaiters s).hearth = s.hearth := by
  unfold wakeWaiters; exact foldl_part (·.hearth) (f := fun (s : State) (d : Nat) => if waitSatisfied s d && !isDown s d then lateEvent d s else s)
    (fun _ _ => by split <;> simp) _ _
@[simp] theorem wakeWaiters_stash (s : State) : (wakeWaiters s).stash = s.stash := by
  unfold wakeWaiters; exact foldl_part (·.stash) (f := fun (s : State) (d : Nat) => if waitSatisfied s d && !isDown s d then lateEvent d s else s)
    (fun _ _ => by split <;> simp) _ _
@[simp] theorem wakeWaiters_landings (s : State) : (wakeWaiters s).landings = s.landings := by
  unfold wakeWaiters; exact foldl_part (·.landings) (f := fun (s : State) (d : Nat) => if waitSatisfied s d && !isDown s d then lateEvent d s else s)
    (fun _ _ => by split <;> simp) _ _
@[simp] theorem wakeWaiters_nextLanding (s : State) : (wakeWaiters s).nextLanding = s.nextLanding := by
  unfold wakeWaiters; exact foldl_part (·.nextLanding) (f := fun (s : State) (d : Nat) => if waitSatisfied s d && !isDown s d then lateEvent d s else s)
    (fun _ _ => by split <;> simp) _ _
@[simp] theorem wakeWaiters_power (s : State) : (wakeWaiters s).power = s.power := by
  unfold wakeWaiters; exact foldl_part (·.power) (f := fun (s : State) (d : Nat) => if waitSatisfied s d && !isDown s d then lateEvent d s else s)
    (fun _ _ => by split <;> simp) _ _
@[simp] theorem wakeWaiters_walks (s : State) : (wakeWaiters s).walks = s.walks := by
  unfold wakeWaiters; exact foldl_part (·.walks) (f := fun (s : State) (d : Nat) => if waitSatisfied s d && !isDown s d then lateEvent d s else s)
    (fun _ _ => by split <;> simp) _ _
@[simp] theorem wakeWaiters_domains (s : State) : (wakeWaiters s).domains = s.domains := by
  unfold wakeWaiters; exact foldl_part (·.domains) (f := fun (s : State) (d : Nat) => if waitSatisfied s d && !isDown s d then lateEvent d s else s)
    (fun _ _ => by split <;> simp) _ _
@[simp] theorem wakeWaiters_ports (s : State) : (wakeWaiters s).ports = s.ports := by
  unfold wakeWaiters; exact foldl_part (·.ports) (f := fun (s : State) (d : Nat) => if waitSatisfied s d && !isDown s d then lateEvent d s else s)
    (fun _ _ => by split <;> simp) _ _
@[simp] theorem wakeWaiters_fabric (s : State) : (wakeWaiters s).fabric = s.fabric := by
  unfold wakeWaiters; exact foldl_part (·.fabric) (f := fun (s : State) (d : Nat) => if waitSatisfied s d && !isDown s d then lateEvent d s else s)
    (fun _ _ => by split <;> simp) _ _
@[simp] theorem wakeWaiters_colls (s : State) : (wakeWaiters s).colls = s.colls := by
  unfold wakeWaiters; exact foldl_part (·.colls) (f := fun (s : State) (d : Nat) => if waitSatisfied s d && !isDown s d then lateEvent d s else s)
    (fun _ _ => by split <;> simp) _ _
@[simp] theorem wakeWaiters_nextColl (s : State) : (wakeWaiters s).nextColl = s.nextColl := by
  unfold wakeWaiters; exact foldl_part (·.nextColl) (f := fun (s : State) (d : Nat) => if waitSatisfied s d && !isDown s d then lateEvent d s else s)
    (fun _ _ => by split <;> simp) _ _
@[simp] theorem wakeWaiters_annex (s : State) : (wakeWaiters s).annex = s.annex := by
  unfold wakeWaiters; exact foldl_part (·.annex) (f := fun (s : State) (d : Nat) => if waitSatisfied s d && !isDown s d then lateEvent d s else s)
    (fun _ _ => by split <;> simp) _ _
@[simp] theorem wakeWaiters_restore (s : State) : (wakeWaiters s).restore = s.restore := by
  unfold wakeWaiters; exact foldl_part (·.restore) (f := fun (s : State) (d : Nat) => if waitSatisfied s d && !isDown s d then lateEvent d s else s)
    (fun _ _ => by split <;> simp) _ _
@[simp] theorem wakeWaiters_faults (s : State) : (wakeWaiters s).faults = s.faults := by
  unfold wakeWaiters; exact foldl_part (·.faults) (f := fun (s : State) (d : Nat) => if waitSatisfied s d && !isDown s d then lateEvent d s else s)
    (fun _ _ => by split <;> simp) _ _
@[simp] theorem wakeWaiters_imsic (s : State) : (wakeWaiters s).imsic = s.imsic := by
  unfold wakeWaiters; exact foldl_part (·.imsic) (f := fun (s : State) (d : Nat) => if waitSatisfied s d && !isDown s d then lateEvent d s else s)
    (fun _ _ => by split <;> simp) _ _
@[simp] theorem wakeWaiters_mram (s : State) : (wakeWaiters s).mram = s.mram := by
  unfold wakeWaiters; exact foldl_part (·.mram) (f := fun (s : State) (d : Nat) => if waitSatisfied s d && !isDown s d then lateEvent d s else s)
    (fun _ _ => by split <;> simp) _ _
@[simp] theorem wakeWaiters_store (s : State) : (wakeWaiters s).store = s.store := by
  unfold wakeWaiters; exact foldl_part (·.store) (f := fun (s : State) (d : Nat) => if waitSatisfied s d && !isDown s d then lateEvent d s else s)
    (fun _ _ => by split <;> simp) _ _
@[simp] theorem wakeWaiters_boot (s : State) : (wakeWaiters s).boot = s.boot := by
  unfold wakeWaiters; exact foldl_part (·.boot) (f := fun (s : State) (d : Nat) => if waitSatisfied s d && !isDown s d then lateEvent d s else s)
    (fun _ _ => by split <;> simp) _ _
@[simp] theorem wakeWaiters_pins (s : State) : (wakeWaiters s).pins = s.pins := by
  unfold wakeWaiters; exact foldl_part (·.pins) (f := fun (s : State) (d : Nat) => if waitSatisfied s d && !isDown s d then lateEvent d s else s)
    (fun _ _ => by split <;> simp) _ _
@[simp] theorem wakeWaiters_out (s : State) : (wakeWaiters s).out = s.out := by
  unfold wakeWaiters; exact foldl_part (·.out) (f := fun (s : State) (d : Nat) => if waitSatisfied s d && !isDown s d then lateEvent d s else s)
    (fun _ _ => by split <;> simp) _ _

@[simp] theorem moveTo_pending (p : Pos) (s : State) : (moveTo p s).pending = s.pending := by
  unfold moveTo freshStep; dsimp only; split <;> split <;>
    simp [foldl_part (·.pending) (f := fun (s : State) (d : Nat) => setRf s d Reg.TRAIN_STEP_STATUS 35 0 (posStep p)) (fun _ _ => rfl)]
@[simp] theorem moveTo_freeCtr (p : Pos) (s : State) : (moveTo p s).freeCtr = s.freeCtr := by
  unfold moveTo freshStep; dsimp only; split <;> split <;>
    simp [foldl_part (·.freeCtr) (f := fun (s : State) (d : Nat) => setRf s d Reg.TRAIN_STEP_STATUS 35 0 (posStep p)) (fun _ _ => rfl)]
@[simp] theorem moveTo_variant (p : Pos) (s : State) : (moveTo p s).variant = s.variant := by
  unfold moveTo freshStep; dsimp only; split <;> split <;>
    simp [foldl_part (·.variant) (f := fun (s : State) (d : Nat) => setRf s d Reg.TRAIN_STEP_STATUS 35 0 (posStep p)) (fun _ _ => rfl)]
@[simp] theorem moveTo_mem (p : Pos) (s : State) : (moveTo p s).mem = s.mem := by
  unfold moveTo freshStep; dsimp only; split <;> split <;>
    simp [foldl_part (·.mem) (f := fun (s : State) (d : Nat) => setRf s d Reg.TRAIN_STEP_STATUS 35 0 (posStep p)) (fun _ _ => rfl)]
@[simp] theorem moveTo_boxRegs (p : Pos) (s : State) : (moveTo p s).boxRegs = s.boxRegs := by
  unfold moveTo freshStep; dsimp only; split <;> split <;>
    simp [foldl_part (·.boxRegs) (f := fun (s : State) (d : Nat) => setRf s d Reg.TRAIN_STEP_STATUS 35 0 (posStep p)) (fun _ _ => rfl)]
@[simp] theorem moveTo_boxMem (p : Pos) (s : State) : (moveTo p s).boxMem = s.boxMem := by
  unfold moveTo freshStep; dsimp only; split <;> split <;>
    simp [foldl_part (·.boxMem) (f := fun (s : State) (d : Nat) => setRf s d Reg.TRAIN_STEP_STATUS 35 0 (posStep p)) (fun _ _ => rfl)]
@[simp] theorem moveTo_slew (p : Pos) (s : State) : (moveTo p s).slew = s.slew := by
  unfold moveTo freshStep; dsimp only; split <;> split <;>
    simp [foldl_part (·.slew) (f := fun (s : State) (d : Nat) => setRf s d Reg.TRAIN_STEP_STATUS 35 0 (posStep p)) (fun _ _ => rfl)]
@[simp] theorem moveTo_sinceSlew (p : Pos) (s : State) : (moveTo p s).sinceSlew = s.sinceSlew := by
  unfold moveTo freshStep; dsimp only; split <;> split <;>
    simp [foldl_part (·.sinceSlew) (f := fun (s : State) (d : Nat) => setRf s d Reg.TRAIN_STEP_STATUS 35 0 (posStep p)) (fun _ _ => rfl)]
@[simp] theorem moveTo_missed (p : Pos) (s : State) : (moveTo p s).missed = s.missed := by
  unfold moveTo freshStep; dsimp only; split <;> split <;>
    simp [foldl_part (·.missed) (f := fun (s : State) (d : Nat) => setRf s d Reg.TRAIN_STEP_STATUS 35 0 (posStep p)) (fun _ _ => rfl)]
@[simp] theorem moveTo_boundary (p : Pos) (s : State) : (moveTo p s).boundary = s.boundary := by
  unfold moveTo freshStep; dsimp only; split <;> split <;>
    simp [foldl_part (·.boundary) (f := fun (s : State) (d : Nat) => setRf s d Reg.TRAIN_STEP_STATUS 35 0 (posStep p)) (fun _ _ => rfl)]
@[simp] theorem moveTo_early (p : Pos) (s : State) : (moveTo p s).early = s.early := by
  unfold moveTo freshStep; dsimp only; split <;> split <;>
    simp [foldl_part (·.early) (f := fun (s : State) (d : Nat) => setRf s d Reg.TRAIN_STEP_STATUS 35 0 (posStep p)) (fun _ _ => rfl)]
@[simp] theorem moveTo_queues (p : Pos) (s : State) : (moveTo p s).queues = s.queues := by
  unfold moveTo freshStep; dsimp only; split <;> split <;>
    simp [foldl_part (·.queues) (f := fun (s : State) (d : Nat) => setRf s d Reg.TRAIN_STEP_STATUS 35 0 (posStep p)) (fun _ _ => rfl)]
@[simp] theorem moveTo_entries (p : Pos) (s : State) : (moveTo p s).entries = s.entries := by
  unfold moveTo freshStep; dsimp only; split <;> split <;>
    simp [foldl_part (·.entries) (f := fun (s : State) (d : Nat) => setRf s d Reg.TRAIN_STEP_STATUS 35 0 (posStep p)) (fun _ _ => rfl)]
@[simp] theorem moveTo_tiles (p : Pos) (s : State) : (moveTo p s).tiles = s.tiles := by
  unfold moveTo freshStep; dsimp only; split <;> split <;>
    simp [foldl_part (·.tiles) (f := fun (s : State) (d : Nat) => setRf s d Reg.TRAIN_STEP_STATUS 35 0 (posStep p)) (fun _ _ => rfl)]
@[simp] theorem moveTo_bankKinds (p : Pos) (s : State) : (moveTo p s).bankKinds = s.bankKinds := by
  unfold moveTo freshStep; dsimp only; split <;> split <;>
    simp [foldl_part (·.bankKinds) (f := fun (s : State) (d : Nat) => setRf s d Reg.TRAIN_STEP_STATUS 35 0 (posStep p)) (fun _ _ => rfl)]
@[simp] theorem moveTo_lanes (p : Pos) (s : State) : (moveTo p s).lanes = s.lanes := by
  unfold moveTo freshStep; dsimp only; split <;> split <;>
    simp [foldl_part (·.lanes) (f := fun (s : State) (d : Nat) => setRf s d Reg.TRAIN_STEP_STATUS 35 0 (posStep p)) (fun _ _ => rfl)]
@[simp] theorem moveTo_hearth (p : Pos) (s : State) : (moveTo p s).hearth = s.hearth := by
  unfold moveTo freshStep; dsimp only; split <;> split <;>
    simp [foldl_part (·.hearth) (f := fun (s : State) (d : Nat) => setRf s d Reg.TRAIN_STEP_STATUS 35 0 (posStep p)) (fun _ _ => rfl)]
@[simp] theorem moveTo_stash (p : Pos) (s : State) : (moveTo p s).stash = s.stash := by
  unfold moveTo freshStep; dsimp only; split <;> split <;>
    simp [foldl_part (·.stash) (f := fun (s : State) (d : Nat) => setRf s d Reg.TRAIN_STEP_STATUS 35 0 (posStep p)) (fun _ _ => rfl)]
@[simp] theorem moveTo_landings (p : Pos) (s : State) : (moveTo p s).landings = s.landings := by
  unfold moveTo freshStep; dsimp only; split <;> split <;>
    simp [foldl_part (·.landings) (f := fun (s : State) (d : Nat) => setRf s d Reg.TRAIN_STEP_STATUS 35 0 (posStep p)) (fun _ _ => rfl)]
@[simp] theorem moveTo_nextLanding (p : Pos) (s : State) : (moveTo p s).nextLanding = s.nextLanding := by
  unfold moveTo freshStep; dsimp only; split <;> split <;>
    simp [foldl_part (·.nextLanding) (f := fun (s : State) (d : Nat) => setRf s d Reg.TRAIN_STEP_STATUS 35 0 (posStep p)) (fun _ _ => rfl)]
@[simp] theorem moveTo_power (p : Pos) (s : State) : (moveTo p s).power = s.power := by
  unfold moveTo freshStep; dsimp only; split <;> split <;>
    simp [foldl_part (·.power) (f := fun (s : State) (d : Nat) => setRf s d Reg.TRAIN_STEP_STATUS 35 0 (posStep p)) (fun _ _ => rfl)]
@[simp] theorem moveTo_walks (p : Pos) (s : State) : (moveTo p s).walks = s.walks := by
  unfold moveTo freshStep; dsimp only; split <;> split <;>
    simp [foldl_part (·.walks) (f := fun (s : State) (d : Nat) => setRf s d Reg.TRAIN_STEP_STATUS 35 0 (posStep p)) (fun _ _ => rfl)]
@[simp] theorem moveTo_domains (p : Pos) (s : State) : (moveTo p s).domains = s.domains := by
  unfold moveTo freshStep; dsimp only; split <;> split <;>
    simp [foldl_part (·.domains) (f := fun (s : State) (d : Nat) => setRf s d Reg.TRAIN_STEP_STATUS 35 0 (posStep p)) (fun _ _ => rfl)]
@[simp] theorem moveTo_ports (p : Pos) (s : State) : (moveTo p s).ports = s.ports := by
  unfold moveTo freshStep; dsimp only; split <;> split <;>
    simp [foldl_part (·.ports) (f := fun (s : State) (d : Nat) => setRf s d Reg.TRAIN_STEP_STATUS 35 0 (posStep p)) (fun _ _ => rfl)]
@[simp] theorem moveTo_fabric (p : Pos) (s : State) : (moveTo p s).fabric = s.fabric := by
  unfold moveTo freshStep; dsimp only; split <;> split <;>
    simp [foldl_part (·.fabric) (f := fun (s : State) (d : Nat) => setRf s d Reg.TRAIN_STEP_STATUS 35 0 (posStep p)) (fun _ _ => rfl)]
@[simp] theorem moveTo_colls (p : Pos) (s : State) : (moveTo p s).colls = s.colls := by
  unfold moveTo freshStep; dsimp only; split <;> split <;>
    simp [foldl_part (·.colls) (f := fun (s : State) (d : Nat) => setRf s d Reg.TRAIN_STEP_STATUS 35 0 (posStep p)) (fun _ _ => rfl)]
@[simp] theorem moveTo_nextColl (p : Pos) (s : State) : (moveTo p s).nextColl = s.nextColl := by
  unfold moveTo freshStep; dsimp only; split <;> split <;>
    simp [foldl_part (·.nextColl) (f := fun (s : State) (d : Nat) => setRf s d Reg.TRAIN_STEP_STATUS 35 0 (posStep p)) (fun _ _ => rfl)]
@[simp] theorem moveTo_annex (p : Pos) (s : State) : (moveTo p s).annex = s.annex := by
  unfold moveTo freshStep; dsimp only; split <;> split <;>
    simp [foldl_part (·.annex) (f := fun (s : State) (d : Nat) => setRf s d Reg.TRAIN_STEP_STATUS 35 0 (posStep p)) (fun _ _ => rfl)]
@[simp] theorem moveTo_restore (p : Pos) (s : State) : (moveTo p s).restore = s.restore := by
  unfold moveTo freshStep; dsimp only; split <;> split <;>
    simp [foldl_part (·.restore) (f := fun (s : State) (d : Nat) => setRf s d Reg.TRAIN_STEP_STATUS 35 0 (posStep p)) (fun _ _ => rfl)]
@[simp] theorem moveTo_faults (p : Pos) (s : State) : (moveTo p s).faults = s.faults := by
  unfold moveTo freshStep; dsimp only; split <;> split <;>
    simp [foldl_part (·.faults) (f := fun (s : State) (d : Nat) => setRf s d Reg.TRAIN_STEP_STATUS 35 0 (posStep p)) (fun _ _ => rfl)]
@[simp] theorem moveTo_imsic (p : Pos) (s : State) : (moveTo p s).imsic = s.imsic := by
  unfold moveTo freshStep; dsimp only; split <;> split <;>
    simp [foldl_part (·.imsic) (f := fun (s : State) (d : Nat) => setRf s d Reg.TRAIN_STEP_STATUS 35 0 (posStep p)) (fun _ _ => rfl)]
@[simp] theorem moveTo_mram (p : Pos) (s : State) : (moveTo p s).mram = s.mram := by
  unfold moveTo freshStep; dsimp only; split <;> split <;>
    simp [foldl_part (·.mram) (f := fun (s : State) (d : Nat) => setRf s d Reg.TRAIN_STEP_STATUS 35 0 (posStep p)) (fun _ _ => rfl)]
@[simp] theorem moveTo_store (p : Pos) (s : State) : (moveTo p s).store = s.store := by
  unfold moveTo freshStep; dsimp only; split <;> split <;>
    simp [foldl_part (·.store) (f := fun (s : State) (d : Nat) => setRf s d Reg.TRAIN_STEP_STATUS 35 0 (posStep p)) (fun _ _ => rfl)]
@[simp] theorem moveTo_boot (p : Pos) (s : State) : (moveTo p s).boot = s.boot := by
  unfold moveTo freshStep; dsimp only; split <;> split <;>
    simp [foldl_part (·.boot) (f := fun (s : State) (d : Nat) => setRf s d Reg.TRAIN_STEP_STATUS 35 0 (posStep p)) (fun _ _ => rfl)]
@[simp] theorem moveTo_pins (p : Pos) (s : State) : (moveTo p s).pins = s.pins := by
  unfold moveTo freshStep; dsimp only; split <;> split <;>
    simp [foldl_part (·.pins) (f := fun (s : State) (d : Nat) => setRf s d Reg.TRAIN_STEP_STATUS 35 0 (posStep p)) (fun _ _ => rfl)]
@[simp] theorem moveTo_out (p : Pos) (s : State) : (moveTo p s).out = s.out := by
  unfold moveTo freshStep; dsimp only; split <;> split <;>
    simp [foldl_part (·.out) (f := fun (s : State) (d : Nat) => setRf s d Reg.TRAIN_STEP_STATUS 35 0 (posStep p)) (fun _ _ => rfl)]

@[simp] theorem moveTick_pending (t : Nat) (s : State) : (moveTick t s).pending = s.pending := by
  unfold moveTick; (try dsimp only); repeat' split
  all_goals first | rfl | simp
@[simp] theorem moveTick_freeCtr (t : Nat) (s : State) : (moveTick t s).freeCtr = s.freeCtr := by
  unfold moveTick; (try dsimp only); repeat' split
  all_goals first | rfl | simp
@[simp] theorem moveTick_variant (t : Nat) (s : State) : (moveTick t s).variant = s.variant := by
  unfold moveTick; (try dsimp only); repeat' split
  all_goals first | rfl | simp
@[simp] theorem moveTick_mem (t : Nat) (s : State) : (moveTick t s).mem = s.mem := by
  unfold moveTick; (try dsimp only); repeat' split
  all_goals first | rfl | simp
@[simp] theorem moveTick_boxRegs (t : Nat) (s : State) : (moveTick t s).boxRegs = s.boxRegs := by
  unfold moveTick; (try dsimp only); repeat' split
  all_goals first | rfl | simp
@[simp] theorem moveTick_boxMem (t : Nat) (s : State) : (moveTick t s).boxMem = s.boxMem := by
  unfold moveTick; (try dsimp only); repeat' split
  all_goals first | rfl | simp
@[simp] theorem moveTick_slew (t : Nat) (s : State) : (moveTick t s).slew = s.slew := by
  unfold moveTick; (try dsimp only); repeat' split
  all_goals first | rfl | simp
@[simp] theorem moveTick_sinceSlew (t : Nat) (s : State) : (moveTick t s).sinceSlew = s.sinceSlew := by
  unfold moveTick; (try dsimp only); repeat' split
  all_goals first | rfl | simp
@[simp] theorem moveTick_missed (t : Nat) (s : State) : (moveTick t s).missed = s.missed := by
  unfold moveTick; (try dsimp only); repeat' split
  all_goals first | rfl | simp
@[simp] theorem moveTick_boundary (t : Nat) (s : State) : (moveTick t s).boundary = s.boundary := by
  unfold moveTick; (try dsimp only); repeat' split
  all_goals first | rfl | simp
@[simp] theorem moveTick_early (t : Nat) (s : State) : (moveTick t s).early = s.early := by
  unfold moveTick; (try dsimp only); repeat' split
  all_goals first | rfl | simp
@[simp] theorem moveTick_queues (t : Nat) (s : State) : (moveTick t s).queues = s.queues := by
  unfold moveTick; (try dsimp only); repeat' split
  all_goals first | rfl | simp
@[simp] theorem moveTick_entries (t : Nat) (s : State) : (moveTick t s).entries = s.entries := by
  unfold moveTick; (try dsimp only); repeat' split
  all_goals first | rfl | simp
@[simp] theorem moveTick_tiles (t : Nat) (s : State) : (moveTick t s).tiles = s.tiles := by
  unfold moveTick; (try dsimp only); repeat' split
  all_goals first | rfl | simp
@[simp] theorem moveTick_bankKinds (t : Nat) (s : State) : (moveTick t s).bankKinds = s.bankKinds := by
  unfold moveTick; (try dsimp only); repeat' split
  all_goals first | rfl | simp
@[simp] theorem moveTick_lanes (t : Nat) (s : State) : (moveTick t s).lanes = s.lanes := by
  unfold moveTick; (try dsimp only); repeat' split
  all_goals first | rfl | simp
@[simp] theorem moveTick_hearth (t : Nat) (s : State) : (moveTick t s).hearth = s.hearth := by
  unfold moveTick; (try dsimp only); repeat' split
  all_goals first | rfl | simp
@[simp] theorem moveTick_stash (t : Nat) (s : State) : (moveTick t s).stash = s.stash := by
  unfold moveTick; (try dsimp only); repeat' split
  all_goals first | rfl | simp
@[simp] theorem moveTick_landings (t : Nat) (s : State) : (moveTick t s).landings = s.landings := by
  unfold moveTick; (try dsimp only); repeat' split
  all_goals first | rfl | simp
@[simp] theorem moveTick_nextLanding (t : Nat) (s : State) : (moveTick t s).nextLanding = s.nextLanding := by
  unfold moveTick; (try dsimp only); repeat' split
  all_goals first | rfl | simp
@[simp] theorem moveTick_power (t : Nat) (s : State) : (moveTick t s).power = s.power := by
  unfold moveTick; (try dsimp only); repeat' split
  all_goals first | rfl | simp
@[simp] theorem moveTick_walks (t : Nat) (s : State) : (moveTick t s).walks = s.walks := by
  unfold moveTick; (try dsimp only); repeat' split
  all_goals first | rfl | simp
@[simp] theorem moveTick_domains (t : Nat) (s : State) : (moveTick t s).domains = s.domains := by
  unfold moveTick; (try dsimp only); repeat' split
  all_goals first | rfl | simp
@[simp] theorem moveTick_ports (t : Nat) (s : State) : (moveTick t s).ports = s.ports := by
  unfold moveTick; (try dsimp only); repeat' split
  all_goals first | rfl | simp
@[simp] theorem moveTick_fabric (t : Nat) (s : State) : (moveTick t s).fabric = s.fabric := by
  unfold moveTick; (try dsimp only); repeat' split
  all_goals first | rfl | simp
@[simp] theorem moveTick_colls (t : Nat) (s : State) : (moveTick t s).colls = s.colls := by
  unfold moveTick; (try dsimp only); repeat' split
  all_goals first | rfl | simp
@[simp] theorem moveTick_nextColl (t : Nat) (s : State) : (moveTick t s).nextColl = s.nextColl := by
  unfold moveTick; (try dsimp only); repeat' split
  all_goals first | rfl | simp
@[simp] theorem moveTick_annex (t : Nat) (s : State) : (moveTick t s).annex = s.annex := by
  unfold moveTick; (try dsimp only); repeat' split
  all_goals first | rfl | simp
@[simp] theorem moveTick_restore (t : Nat) (s : State) : (moveTick t s).restore = s.restore := by
  unfold moveTick; (try dsimp only); repeat' split
  all_goals first | rfl | simp
@[simp] theorem moveTick_faults (t : Nat) (s : State) : (moveTick t s).faults = s.faults := by
  unfold moveTick; (try dsimp only); repeat' split
  all_goals first | rfl | simp
@[simp] theorem moveTick_imsic (t : Nat) (s : State) : (moveTick t s).imsic = s.imsic := by
  unfold moveTick; (try dsimp only); repeat' split
  all_goals first | rfl | simp
@[simp] theorem moveTick_mram (t : Nat) (s : State) : (moveTick t s).mram = s.mram := by
  unfold moveTick; (try dsimp only); repeat' split
  all_goals first | rfl | simp
@[simp] theorem moveTick_store (t : Nat) (s : State) : (moveTick t s).store = s.store := by
  unfold moveTick; (try dsimp only); repeat' split
  all_goals first | rfl | simp
@[simp] theorem moveTick_boot (t : Nat) (s : State) : (moveTick t s).boot = s.boot := by
  unfold moveTick; (try dsimp only); repeat' split
  all_goals first | rfl | simp
@[simp] theorem moveTick_pins (t : Nat) (s : State) : (moveTick t s).pins = s.pins := by
  unfold moveTick; (try dsimp only); repeat' split
  all_goals first | rfl | simp
@[simp] theorem moveTick_out (t : Nat) (s : State) : (moveTick t s).out = s.out := by
  unfold moveTick; (try dsimp only); repeat' split
  all_goals first | rfl | simp

@[simp] theorem setStage_pending (q seq : Nat) (g : CmdStage) (s : State) : (setStage q seq g s).pending = s.pending := by
  unfold setStage; (try dsimp only); repeat' split
  all_goals first | rfl | simp
@[simp] theorem setStage_freeCtr (q seq : Nat) (g : CmdStage) (s : State) : (setStage q seq g s).freeCtr = s.freeCtr := by
  unfold setStage; (try dsimp only); repeat' split
  all_goals first | rfl | simp
@[simp] theorem setStage_variant (q seq : Nat) (g : CmdStage) (s : State) : (setStage q seq g s).variant = s.variant := by
  unfold setStage; (try dsimp only); repeat' split
  all_goals first | rfl | simp
@[simp] theorem setStage_mem (q seq : Nat) (g : CmdStage) (s : State) : (setStage q seq g s).mem = s.mem := by
  unfold setStage; (try dsimp only); repeat' split
  all_goals first | rfl | simp
@[simp] theorem setStage_regs (q seq : Nat) (g : CmdStage) (s : State) : (setStage q seq g s).regs = s.regs := by
  unfold setStage; (try dsimp only); repeat' split
  all_goals first | rfl | simp
@[simp] theorem setStage_boxRegs (q seq : Nat) (g : CmdStage) (s : State) : (setStage q seq g s).boxRegs = s.boxRegs := by
  unfold setStage; (try dsimp only); repeat' split
  all_goals first | rfl | simp
@[simp] theorem setStage_boxMem (q seq : Nat) (g : CmdStage) (s : State) : (setStage q seq g s).boxMem = s.boxMem := by
  unfold setStage; (try dsimp only); repeat' split
  all_goals first | rfl | simp
@[simp] theorem setStage_pos (q seq : Nat) (g : CmdStage) (s : State) : (setStage q seq g s).pos = s.pos := by
  unfold setStage; (try dsimp only); repeat' split
  all_goals first | rfl | simp
@[simp] theorem setStage_stepTick (q seq : Nat) (g : CmdStage) (s : State) : (setStage q seq g s).stepTick = s.stepTick := by
  unfold setStage; (try dsimp only); repeat' split
  all_goals first | rfl | simp
@[simp] theorem setStage_slew (q seq : Nat) (g : CmdStage) (s : State) : (setStage q seq g s).slew = s.slew := by
  unfold setStage; (try dsimp only); repeat' split
  all_goals first | rfl | simp
@[simp] theorem setStage_sinceSlew (q seq : Nat) (g : CmdStage) (s : State) : (setStage q seq g s).sinceSlew = s.sinceSlew := by
  unfold setStage; (try dsimp only); repeat' split
  all_goals first | rfl | simp
@[simp] theorem setStage_missed (q seq : Nat) (g : CmdStage) (s : State) : (setStage q seq g s).missed = s.missed := by
  unfold setStage; (try dsimp only); repeat' split
  all_goals first | rfl | simp
@[simp] theorem setStage_boundary (q seq : Nat) (g : CmdStage) (s : State) : (setStage q seq g s).boundary = s.boundary := by
  unfold setStage; (try dsimp only); repeat' split
  all_goals first | rfl | simp
@[simp] theorem setStage_early (q seq : Nat) (g : CmdStage) (s : State) : (setStage q seq g s).early = s.early := by
  unfold setStage; (try dsimp only); repeat' split
  all_goals first | rfl | simp
@[simp] theorem setStage_train (q seq : Nat) (g : CmdStage) (s : State) : (setStage q seq g s).train = s.train := by
  unfold setStage; (try dsimp only); repeat' split
  all_goals first | rfl | simp
@[simp] theorem setStage_units (q seq : Nat) (g : CmdStage) (s : State) : (setStage q seq g s).units = s.units := by
  unfold setStage; (try dsimp only); repeat' split
  all_goals first | rfl | simp
@[simp] theorem setStage_entries (q seq : Nat) (g : CmdStage) (s : State) : (setStage q seq g s).entries = s.entries := by
  unfold setStage; (try dsimp only); repeat' split
  all_goals first | rfl | simp
@[simp] theorem setStage_tiles (q seq : Nat) (g : CmdStage) (s : State) : (setStage q seq g s).tiles = s.tiles := by
  unfold setStage; (try dsimp only); repeat' split
  all_goals first | rfl | simp
@[simp] theorem setStage_bankKinds (q seq : Nat) (g : CmdStage) (s : State) : (setStage q seq g s).bankKinds = s.bankKinds := by
  unfold setStage; (try dsimp only); repeat' split
  all_goals first | rfl | simp
@[simp] theorem setStage_lanes (q seq : Nat) (g : CmdStage) (s : State) : (setStage q seq g s).lanes = s.lanes := by
  unfold setStage; (try dsimp only); repeat' split
  all_goals first | rfl | simp
@[simp] theorem setStage_hearth (q seq : Nat) (g : CmdStage) (s : State) : (setStage q seq g s).hearth = s.hearth := by
  unfold setStage; (try dsimp only); repeat' split
  all_goals first | rfl | simp
@[simp] theorem setStage_stash (q seq : Nat) (g : CmdStage) (s : State) : (setStage q seq g s).stash = s.stash := by
  unfold setStage; (try dsimp only); repeat' split
  all_goals first | rfl | simp
@[simp] theorem setStage_landings (q seq : Nat) (g : CmdStage) (s : State) : (setStage q seq g s).landings = s.landings := by
  unfold setStage; (try dsimp only); repeat' split
  all_goals first | rfl | simp
@[simp] theorem setStage_nextLanding (q seq : Nat) (g : CmdStage) (s : State) : (setStage q seq g s).nextLanding = s.nextLanding := by
  unfold setStage; (try dsimp only); repeat' split
  all_goals first | rfl | simp
@[simp] theorem setStage_power (q seq : Nat) (g : CmdStage) (s : State) : (setStage q seq g s).power = s.power := by
  unfold setStage; (try dsimp only); repeat' split
  all_goals first | rfl | simp
@[simp] theorem setStage_lps (q seq : Nat) (g : CmdStage) (s : State) : (setStage q seq g s).lps = s.lps := by
  unfold setStage; (try dsimp only); repeat' split
  all_goals first | rfl | simp
@[simp] theorem setStage_walks (q seq : Nat) (g : CmdStage) (s : State) : (setStage q seq g s).walks = s.walks := by
  unfold setStage; (try dsimp only); repeat' split
  all_goals first | rfl | simp
@[simp] theorem setStage_domains (q seq : Nat) (g : CmdStage) (s : State) : (setStage q seq g s).domains = s.domains := by
  unfold setStage; (try dsimp only); repeat' split
  all_goals first | rfl | simp
@[simp] theorem setStage_ports (q seq : Nat) (g : CmdStage) (s : State) : (setStage q seq g s).ports = s.ports := by
  unfold setStage; (try dsimp only); repeat' split
  all_goals first | rfl | simp
@[simp] theorem setStage_fabric (q seq : Nat) (g : CmdStage) (s : State) : (setStage q seq g s).fabric = s.fabric := by
  unfold setStage; (try dsimp only); repeat' split
  all_goals first | rfl | simp
@[simp] theorem setStage_colls (q seq : Nat) (g : CmdStage) (s : State) : (setStage q seq g s).colls = s.colls := by
  unfold setStage; (try dsimp only); repeat' split
  all_goals first | rfl | simp
@[simp] theorem setStage_nextColl (q seq : Nat) (g : CmdStage) (s : State) : (setStage q seq g s).nextColl = s.nextColl := by
  unfold setStage; (try dsimp only); repeat' split
  all_goals first | rfl | simp
@[simp] theorem setStage_annex (q seq : Nat) (g : CmdStage) (s : State) : (setStage q seq g s).annex = s.annex := by
  unfold setStage; (try dsimp only); repeat' split
  all_goals first | rfl | simp
@[simp] theorem setStage_restore (q seq : Nat) (g : CmdStage) (s : State) : (setStage q seq g s).restore = s.restore := by
  unfold setStage; (try dsimp only); repeat' split
  all_goals first | rfl | simp
@[simp] theorem setStage_faults (q seq : Nat) (g : CmdStage) (s : State) : (setStage q seq g s).faults = s.faults := by
  unfold setStage; (try dsimp only); repeat' split
  all_goals first | rfl | simp
@[simp] theorem setStage_imsic (q seq : Nat) (g : CmdStage) (s : State) : (setStage q seq g s).imsic = s.imsic := by
  unfold setStage; (try dsimp only); repeat' split
  all_goals first | rfl | simp
@[simp] theorem setStage_mram (q seq : Nat) (g : CmdStage) (s : State) : (setStage q seq g s).mram = s.mram := by
  unfold setStage; (try dsimp only); repeat' split
  all_goals first | rfl | simp
@[simp] theorem setStage_store (q seq : Nat) (g : CmdStage) (s : State) : (setStage q seq g s).store = s.store := by
  unfold setStage; (try dsimp only); repeat' split
  all_goals first | rfl | simp
@[simp] theorem setStage_boot (q seq : Nat) (g : CmdStage) (s : State) : (setStage q seq g s).boot = s.boot := by
  unfold setStage; (try dsimp only); repeat' split
  all_goals first | rfl | simp
@[simp] theorem setStage_pins (q seq : Nat) (g : CmdStage) (s : State) : (setStage q seq g s).pins = s.pins := by
  unfold setStage; (try dsimp only); repeat' split
  all_goals first | rfl | simp
@[simp] theorem setStage_out (q seq : Nat) (g : CmdStage) (s : State) : (setStage q seq g s).out = s.out := by
  unfold setStage; (try dsimp only); repeat' split
  all_goals first | rfl | simp

@[simp] theorem pauseUnits_pending (dom : Nat) (b : Bool) (s : State) : (pauseUnits dom b s).pending = s.pending := by
  unfold pauseUnits; (try dsimp only); repeat' split
  all_goals first | rfl | simp
@[simp] theorem pauseUnits_freeCtr (dom : Nat) (b : Bool) (s : State) : (pauseUnits dom b s).freeCtr = s.freeCtr := by
  unfold pauseUnits; (try dsimp only); repeat' split
  all_goals first | rfl | simp
@[simp] theorem pauseUnits_variant (dom : Nat) (b : Bool) (s : State) : (pauseUnits dom b s).variant = s.variant := by
  unfold pauseUnits; (try dsimp only); repeat' split
  all_goals first | rfl | simp
@[simp] theorem pauseUnits_mem (dom : Nat) (b : Bool) (s : State) : (pauseUnits dom b s).mem = s.mem := by
  unfold pauseUnits; (try dsimp only); repeat' split
  all_goals first | rfl | simp
@[simp] theorem pauseUnits_regs (dom : Nat) (b : Bool) (s : State) : (pauseUnits dom b s).regs = s.regs := by
  unfold pauseUnits; (try dsimp only); repeat' split
  all_goals first | rfl | simp
@[simp] theorem pauseUnits_boxRegs (dom : Nat) (b : Bool) (s : State) : (pauseUnits dom b s).boxRegs = s.boxRegs := by
  unfold pauseUnits; (try dsimp only); repeat' split
  all_goals first | rfl | simp
@[simp] theorem pauseUnits_boxMem (dom : Nat) (b : Bool) (s : State) : (pauseUnits dom b s).boxMem = s.boxMem := by
  unfold pauseUnits; (try dsimp only); repeat' split
  all_goals first | rfl | simp
@[simp] theorem pauseUnits_pos (dom : Nat) (b : Bool) (s : State) : (pauseUnits dom b s).pos = s.pos := by
  unfold pauseUnits; (try dsimp only); repeat' split
  all_goals first | rfl | simp
@[simp] theorem pauseUnits_stepTick (dom : Nat) (b : Bool) (s : State) : (pauseUnits dom b s).stepTick = s.stepTick := by
  unfold pauseUnits; (try dsimp only); repeat' split
  all_goals first | rfl | simp
@[simp] theorem pauseUnits_slew (dom : Nat) (b : Bool) (s : State) : (pauseUnits dom b s).slew = s.slew := by
  unfold pauseUnits; (try dsimp only); repeat' split
  all_goals first | rfl | simp
@[simp] theorem pauseUnits_sinceSlew (dom : Nat) (b : Bool) (s : State) : (pauseUnits dom b s).sinceSlew = s.sinceSlew := by
  unfold pauseUnits; (try dsimp only); repeat' split
  all_goals first | rfl | simp
@[simp] theorem pauseUnits_missed (dom : Nat) (b : Bool) (s : State) : (pauseUnits dom b s).missed = s.missed := by
  unfold pauseUnits; (try dsimp only); repeat' split
  all_goals first | rfl | simp
@[simp] theorem pauseUnits_boundary (dom : Nat) (b : Bool) (s : State) : (pauseUnits dom b s).boundary = s.boundary := by
  unfold pauseUnits; (try dsimp only); repeat' split
  all_goals first | rfl | simp
@[simp] theorem pauseUnits_early (dom : Nat) (b : Bool) (s : State) : (pauseUnits dom b s).early = s.early := by
  unfold pauseUnits; (try dsimp only); repeat' split
  all_goals first | rfl | simp
@[simp] theorem pauseUnits_train (dom : Nat) (b : Bool) (s : State) : (pauseUnits dom b s).train = s.train := by
  unfold pauseUnits; (try dsimp only); repeat' split
  all_goals first | rfl | simp
@[simp] theorem pauseUnits_queues (dom : Nat) (b : Bool) (s : State) : (pauseUnits dom b s).queues = s.queues := by
  unfold pauseUnits; (try dsimp only); repeat' split
  all_goals first | rfl | simp
@[simp] theorem pauseUnits_entries (dom : Nat) (b : Bool) (s : State) : (pauseUnits dom b s).entries = s.entries := by
  unfold pauseUnits; (try dsimp only); repeat' split
  all_goals first | rfl | simp
@[simp] theorem pauseUnits_tiles (dom : Nat) (b : Bool) (s : State) : (pauseUnits dom b s).tiles = s.tiles := by
  unfold pauseUnits; (try dsimp only); repeat' split
  all_goals first | rfl | simp
@[simp] theorem pauseUnits_bankKinds (dom : Nat) (b : Bool) (s : State) : (pauseUnits dom b s).bankKinds = s.bankKinds := by
  unfold pauseUnits; (try dsimp only); repeat' split
  all_goals first | rfl | simp
@[simp] theorem pauseUnits_lanes (dom : Nat) (b : Bool) (s : State) : (pauseUnits dom b s).lanes = s.lanes := by
  unfold pauseUnits; (try dsimp only); repeat' split
  all_goals first | rfl | simp
@[simp] theorem pauseUnits_hearth (dom : Nat) (b : Bool) (s : State) : (pauseUnits dom b s).hearth = s.hearth := by
  unfold pauseUnits; (try dsimp only); repeat' split
  all_goals first | rfl | simp
@[simp] theorem pauseUnits_stash (dom : Nat) (b : Bool) (s : State) : (pauseUnits dom b s).stash = s.stash := by
  unfold pauseUnits; (try dsimp only); repeat' split
  all_goals first | rfl | simp
@[simp] theorem pauseUnits_landings (dom : Nat) (b : Bool) (s : State) : (pauseUnits dom b s).landings = s.landings := by
  unfold pauseUnits; (try dsimp only); repeat' split
  all_goals first | rfl | simp
@[simp] theorem pauseUnits_nextLanding (dom : Nat) (b : Bool) (s : State) : (pauseUnits dom b s).nextLanding = s.nextLanding := by
  unfold pauseUnits; (try dsimp only); repeat' split
  all_goals first | rfl | simp
@[simp] theorem pauseUnits_power (dom : Nat) (b : Bool) (s : State) : (pauseUnits dom b s).power = s.power := by
  unfold pauseUnits; (try dsimp only); repeat' split
  all_goals first | rfl | simp
@[simp] theorem pauseUnits_lps (dom : Nat) (b : Bool) (s : State) : (pauseUnits dom b s).lps = s.lps := by
  unfold pauseUnits; (try dsimp only); repeat' split
  all_goals first | rfl | simp
@[simp] theorem pauseUnits_walks (dom : Nat) (b : Bool) (s : State) : (pauseUnits dom b s).walks = s.walks := by
  unfold pauseUnits; (try dsimp only); repeat' split
  all_goals first | rfl | simp
@[simp] theorem pauseUnits_domains (dom : Nat) (b : Bool) (s : State) : (pauseUnits dom b s).domains = s.domains := by
  unfold pauseUnits; (try dsimp only); repeat' split
  all_goals first | rfl | simp
@[simp] theorem pauseUnits_ports (dom : Nat) (b : Bool) (s : State) : (pauseUnits dom b s).ports = s.ports := by
  unfold pauseUnits; (try dsimp only); repeat' split
  all_goals first | rfl | simp
@[simp] theorem pauseUnits_fabric (dom : Nat) (b : Bool) (s : State) : (pauseUnits dom b s).fabric = s.fabric := by
  unfold pauseUnits; (try dsimp only); repeat' split
  all_goals first | rfl | simp
@[simp] theorem pauseUnits_colls (dom : Nat) (b : Bool) (s : State) : (pauseUnits dom b s).colls = s.colls := by
  unfold pauseUnits; (try dsimp only); repeat' split
  all_goals first | rfl | simp
@[simp] theorem pauseUnits_nextColl (dom : Nat) (b : Bool) (s : State) : (pauseUnits dom b s).nextColl = s.nextColl := by
  unfold pauseUnits; (try dsimp only); repeat' split
  all_goals first | rfl | simp
@[simp] theorem pauseUnits_annex (dom : Nat) (b : Bool) (s : State) : (pauseUnits dom b s).annex = s.annex := by
  unfold pauseUnits; (try dsimp only); repeat' split
  all_goals first | rfl | simp
@[simp] theorem pauseUnits_restore (dom : Nat) (b : Bool) (s : State) : (pauseUnits dom b s).restore = s.restore := by
  unfold pauseUnits; (try dsimp only); repeat' split
  all_goals first | rfl | simp
@[simp] theorem pauseUnits_faults (dom : Nat) (b : Bool) (s : State) : (pauseUnits dom b s).faults = s.faults := by
  unfold pauseUnits; (try dsimp only); repeat' split
  all_goals first | rfl | simp
@[simp] theorem pauseUnits_imsic (dom : Nat) (b : Bool) (s : State) : (pauseUnits dom b s).imsic = s.imsic := by
  unfold pauseUnits; (try dsimp only); repeat' split
  all_goals first | rfl | simp
@[simp] theorem pauseUnits_mram (dom : Nat) (b : Bool) (s : State) : (pauseUnits dom b s).mram = s.mram := by
  unfold pauseUnits; (try dsimp only); repeat' split
  all_goals first | rfl | simp
@[simp] theorem pauseUnits_store (dom : Nat) (b : Bool) (s : State) : (pauseUnits dom b s).store = s.store := by
  unfold pauseUnits; (try dsimp only); repeat' split
  all_goals first | rfl | simp
@[simp] theorem pauseUnits_boot (dom : Nat) (b : Bool) (s : State) : (pauseUnits dom b s).boot = s.boot := by
  unfold pauseUnits; (try dsimp only); repeat' split
  all_goals first | rfl | simp
@[simp] theorem pauseUnits_pins (dom : Nat) (b : Bool) (s : State) : (pauseUnits dom b s).pins = s.pins := by
  unfold pauseUnits; (try dsimp only); repeat' split
  all_goals first | rfl | simp
@[simp] theorem pauseUnits_out (dom : Nat) (b : Bool) (s : State) : (pauseUnits dom b s).out = s.out := by
  unfold pauseUnits; (try dsimp only); repeat' split
  all_goals first | rfl | simp

@[simp] theorem endWalk_pending (dom status : Nat) (s : State) : (endWalk dom status s).pending = s.pending := by
  unfold endWalk; (try dsimp only); repeat' split
  all_goals first | rfl | simp
@[simp] theorem endWalk_freeCtr (dom status : Nat) (s : State) : (endWalk dom status s).freeCtr = s.freeCtr := by
  unfold endWalk; (try dsimp only); repeat' split
  all_goals first | rfl | simp
@[simp] theorem endWalk_variant (dom status : Nat) (s : State) : (endWalk dom status s).variant = s.variant := by
  unfold endWalk; (try dsimp only); repeat' split
  all_goals first | rfl | simp
@[simp] theorem endWalk_mem (dom status : Nat) (s : State) : (endWalk dom status s).mem = s.mem := by
  unfold endWalk; (try dsimp only); repeat' split
  all_goals first | rfl | simp
@[simp] theorem endWalk_boxRegs (dom status : Nat) (s : State) : (endWalk dom status s).boxRegs = s.boxRegs := by
  unfold endWalk; (try dsimp only); repeat' split
  all_goals first | rfl | simp
@[simp] theorem endWalk_boxMem (dom status : Nat) (s : State) : (endWalk dom status s).boxMem = s.boxMem := by
  unfold endWalk; (try dsimp only); repeat' split
  all_goals first | rfl | simp
@[simp] theorem endWalk_pos (dom status : Nat) (s : State) : (endWalk dom status s).pos = s.pos := by
  unfold endWalk; (try dsimp only); repeat' split
  all_goals first | rfl | simp
@[simp] theorem endWalk_stepTick (dom status : Nat) (s : State) : (endWalk dom status s).stepTick = s.stepTick := by
  unfold endWalk; (try dsimp only); repeat' split
  all_goals first | rfl | simp
@[simp] theorem endWalk_slew (dom status : Nat) (s : State) : (endWalk dom status s).slew = s.slew := by
  unfold endWalk; (try dsimp only); repeat' split
  all_goals first | rfl | simp
@[simp] theorem endWalk_sinceSlew (dom status : Nat) (s : State) : (endWalk dom status s).sinceSlew = s.sinceSlew := by
  unfold endWalk; (try dsimp only); repeat' split
  all_goals first | rfl | simp
@[simp] theorem endWalk_missed (dom status : Nat) (s : State) : (endWalk dom status s).missed = s.missed := by
  unfold endWalk; (try dsimp only); repeat' split
  all_goals first | rfl | simp
@[simp] theorem endWalk_boundary (dom status : Nat) (s : State) : (endWalk dom status s).boundary = s.boundary := by
  unfold endWalk; (try dsimp only); repeat' split
  all_goals first | rfl | simp
@[simp] theorem endWalk_early (dom status : Nat) (s : State) : (endWalk dom status s).early = s.early := by
  unfold endWalk; (try dsimp only); repeat' split
  all_goals first | rfl | simp
@[simp] theorem endWalk_train (dom status : Nat) (s : State) : (endWalk dom status s).train = s.train := by
  unfold endWalk; (try dsimp only); repeat' split
  all_goals first | rfl | simp
@[simp] theorem endWalk_units (dom status : Nat) (s : State) : (endWalk dom status s).units = s.units := by
  unfold endWalk; (try dsimp only); repeat' split
  all_goals first | rfl | simp
@[simp] theorem endWalk_queues (dom status : Nat) (s : State) : (endWalk dom status s).queues = s.queues := by
  unfold endWalk; (try dsimp only); repeat' split
  all_goals first | rfl | simp
@[simp] theorem endWalk_entries (dom status : Nat) (s : State) : (endWalk dom status s).entries = s.entries := by
  unfold endWalk; (try dsimp only); repeat' split
  all_goals first | rfl | simp
@[simp] theorem endWalk_tiles (dom status : Nat) (s : State) : (endWalk dom status s).tiles = s.tiles := by
  unfold endWalk; (try dsimp only); repeat' split
  all_goals first | rfl | simp
@[simp] theorem endWalk_bankKinds (dom status : Nat) (s : State) : (endWalk dom status s).bankKinds = s.bankKinds := by
  unfold endWalk; (try dsimp only); repeat' split
  all_goals first | rfl | simp
@[simp] theorem endWalk_lanes (dom status : Nat) (s : State) : (endWalk dom status s).lanes = s.lanes := by
  unfold endWalk; (try dsimp only); repeat' split
  all_goals first | rfl | simp
@[simp] theorem endWalk_hearth (dom status : Nat) (s : State) : (endWalk dom status s).hearth = s.hearth := by
  unfold endWalk; (try dsimp only); repeat' split
  all_goals first | rfl | simp
@[simp] theorem endWalk_stash (dom status : Nat) (s : State) : (endWalk dom status s).stash = s.stash := by
  unfold endWalk; (try dsimp only); repeat' split
  all_goals first | rfl | simp
@[simp] theorem endWalk_landings (dom status : Nat) (s : State) : (endWalk dom status s).landings = s.landings := by
  unfold endWalk; (try dsimp only); repeat' split
  all_goals first | rfl | simp
@[simp] theorem endWalk_nextLanding (dom status : Nat) (s : State) : (endWalk dom status s).nextLanding = s.nextLanding := by
  unfold endWalk; (try dsimp only); repeat' split
  all_goals first | rfl | simp
@[simp] theorem endWalk_power (dom status : Nat) (s : State) : (endWalk dom status s).power = s.power := by
  unfold endWalk; (try dsimp only); repeat' split
  all_goals first | rfl | simp
@[simp] theorem endWalk_lps (dom status : Nat) (s : State) : (endWalk dom status s).lps = s.lps := by
  unfold endWalk; (try dsimp only); repeat' split
  all_goals first | rfl | simp
@[simp] theorem endWalk_domains (dom status : Nat) (s : State) : (endWalk dom status s).domains = s.domains := by
  unfold endWalk; (try dsimp only); repeat' split
  all_goals first | rfl | simp
@[simp] theorem endWalk_ports (dom status : Nat) (s : State) : (endWalk dom status s).ports = s.ports := by
  unfold endWalk; (try dsimp only); repeat' split
  all_goals first | rfl | simp
@[simp] theorem endWalk_fabric (dom status : Nat) (s : State) : (endWalk dom status s).fabric = s.fabric := by
  unfold endWalk; (try dsimp only); repeat' split
  all_goals first | rfl | simp
@[simp] theorem endWalk_colls (dom status : Nat) (s : State) : (endWalk dom status s).colls = s.colls := by
  unfold endWalk; (try dsimp only); repeat' split
  all_goals first | rfl | simp
@[simp] theorem endWalk_nextColl (dom status : Nat) (s : State) : (endWalk dom status s).nextColl = s.nextColl := by
  unfold endWalk; (try dsimp only); repeat' split
  all_goals first | rfl | simp
@[simp] theorem endWalk_annex (dom status : Nat) (s : State) : (endWalk dom status s).annex = s.annex := by
  unfold endWalk; (try dsimp only); repeat' split
  all_goals first | rfl | simp
@[simp] theorem endWalk_restore (dom status : Nat) (s : State) : (endWalk dom status s).restore = s.restore := by
  unfold endWalk; (try dsimp only); repeat' split
  all_goals first | rfl | simp
@[simp] theorem endWalk_faults (dom status : Nat) (s : State) : (endWalk dom status s).faults = s.faults := by
  unfold endWalk; (try dsimp only); repeat' split
  all_goals first | rfl | simp
@[simp] theorem endWalk_imsic (dom status : Nat) (s : State) : (endWalk dom status s).imsic = s.imsic := by
  unfold endWalk; (try dsimp only); repeat' split
  all_goals first | rfl | simp
@[simp] theorem endWalk_mram (dom status : Nat) (s : State) : (endWalk dom status s).mram = s.mram := by
  unfold endWalk; (try dsimp only); repeat' split
  all_goals first | rfl | simp
@[simp] theorem endWalk_store (dom status : Nat) (s : State) : (endWalk dom status s).store = s.store := by
  unfold endWalk; (try dsimp only); repeat' split
  all_goals first | rfl | simp
@[simp] theorem endWalk_boot (dom status : Nat) (s : State) : (endWalk dom status s).boot = s.boot := by
  unfold endWalk; (try dsimp only); repeat' split
  all_goals first | rfl | simp
@[simp] theorem endWalk_pins (dom status : Nat) (s : State) : (endWalk dom status s).pins = s.pins := by
  unfold endWalk; (try dsimp only); repeat' split
  all_goals first | rfl | simp
@[simp] theorem endWalk_out (dom status : Nat) (s : State) : (endWalk dom status s).out = s.out := by
  unfold endWalk; (try dsimp only); repeat' split
  all_goals first | rfl | simp

@[simp] theorem recordWrite_pending (l : Landing) (off : Nat) (bs : List Byte) (s : State) : (recordWrite l off bs s).pending = s.pending := by
  unfold recordWrite; (try dsimp only); repeat' split
  all_goals first | rfl | simp
@[simp] theorem recordWrite_freeCtr (l : Landing) (off : Nat) (bs : List Byte) (s : State) : (recordWrite l off bs s).freeCtr = s.freeCtr := by
  unfold recordWrite; (try dsimp only); repeat' split
  all_goals first | rfl | simp
@[simp] theorem recordWrite_variant (l : Landing) (off : Nat) (bs : List Byte) (s : State) : (recordWrite l off bs s).variant = s.variant := by
  unfold recordWrite; (try dsimp only); repeat' split
  all_goals first | rfl | simp
@[simp] theorem recordWrite_regs (l : Landing) (off : Nat) (bs : List Byte) (s : State) : (recordWrite l off bs s).regs = s.regs := by
  unfold recordWrite; (try dsimp only); repeat' split
  all_goals first | rfl | simp
@[simp] theorem recordWrite_boxRegs (l : Landing) (off : Nat) (bs : List Byte) (s : State) : (recordWrite l off bs s).boxRegs = s.boxRegs := by
  unfold recordWrite; (try dsimp only); repeat' split
  all_goals first | rfl | simp
@[simp] theorem recordWrite_boxMem (l : Landing) (off : Nat) (bs : List Byte) (s : State) : (recordWrite l off bs s).boxMem = s.boxMem := by
  unfold recordWrite; (try dsimp only); repeat' split
  all_goals first | rfl | simp
@[simp] theorem recordWrite_pos (l : Landing) (off : Nat) (bs : List Byte) (s : State) : (recordWrite l off bs s).pos = s.pos := by
  unfold recordWrite; (try dsimp only); repeat' split
  all_goals first | rfl | simp
@[simp] theorem recordWrite_stepTick (l : Landing) (off : Nat) (bs : List Byte) (s : State) : (recordWrite l off bs s).stepTick = s.stepTick := by
  unfold recordWrite; (try dsimp only); repeat' split
  all_goals first | rfl | simp
@[simp] theorem recordWrite_slew (l : Landing) (off : Nat) (bs : List Byte) (s : State) : (recordWrite l off bs s).slew = s.slew := by
  unfold recordWrite; (try dsimp only); repeat' split
  all_goals first | rfl | simp
@[simp] theorem recordWrite_sinceSlew (l : Landing) (off : Nat) (bs : List Byte) (s : State) : (recordWrite l off bs s).sinceSlew = s.sinceSlew := by
  unfold recordWrite; (try dsimp only); repeat' split
  all_goals first | rfl | simp
@[simp] theorem recordWrite_missed (l : Landing) (off : Nat) (bs : List Byte) (s : State) : (recordWrite l off bs s).missed = s.missed := by
  unfold recordWrite; (try dsimp only); repeat' split
  all_goals first | rfl | simp
@[simp] theorem recordWrite_boundary (l : Landing) (off : Nat) (bs : List Byte) (s : State) : (recordWrite l off bs s).boundary = s.boundary := by
  unfold recordWrite; (try dsimp only); repeat' split
  all_goals first | rfl | simp
@[simp] theorem recordWrite_early (l : Landing) (off : Nat) (bs : List Byte) (s : State) : (recordWrite l off bs s).early = s.early := by
  unfold recordWrite; (try dsimp only); repeat' split
  all_goals first | rfl | simp
@[simp] theorem recordWrite_train (l : Landing) (off : Nat) (bs : List Byte) (s : State) : (recordWrite l off bs s).train = s.train := by
  unfold recordWrite; (try dsimp only); repeat' split
  all_goals first | rfl | simp
@[simp] theorem recordWrite_units (l : Landing) (off : Nat) (bs : List Byte) (s : State) : (recordWrite l off bs s).units = s.units := by
  unfold recordWrite; (try dsimp only); repeat' split
  all_goals first | rfl | simp
@[simp] theorem recordWrite_queues (l : Landing) (off : Nat) (bs : List Byte) (s : State) : (recordWrite l off bs s).queues = s.queues := by
  unfold recordWrite; (try dsimp only); repeat' split
  all_goals first | rfl | simp
@[simp] theorem recordWrite_entries (l : Landing) (off : Nat) (bs : List Byte) (s : State) : (recordWrite l off bs s).entries = s.entries := by
  unfold recordWrite; (try dsimp only); repeat' split
  all_goals first | rfl | simp
@[simp] theorem recordWrite_tiles (l : Landing) (off : Nat) (bs : List Byte) (s : State) : (recordWrite l off bs s).tiles = s.tiles := by
  unfold recordWrite; (try dsimp only); repeat' split
  all_goals first | rfl | simp
@[simp] theorem recordWrite_bankKinds (l : Landing) (off : Nat) (bs : List Byte) (s : State) : (recordWrite l off bs s).bankKinds = s.bankKinds := by
  unfold recordWrite; (try dsimp only); repeat' split
  all_goals first | rfl | simp
@[simp] theorem recordWrite_lanes (l : Landing) (off : Nat) (bs : List Byte) (s : State) : (recordWrite l off bs s).lanes = s.lanes := by
  unfold recordWrite; (try dsimp only); repeat' split
  all_goals first | rfl | simp
@[simp] theorem recordWrite_hearth (l : Landing) (off : Nat) (bs : List Byte) (s : State) : (recordWrite l off bs s).hearth = s.hearth := by
  unfold recordWrite; (try dsimp only); repeat' split
  all_goals first | rfl | simp
@[simp] theorem recordWrite_stash (l : Landing) (off : Nat) (bs : List Byte) (s : State) : (recordWrite l off bs s).stash = s.stash := by
  unfold recordWrite; (try dsimp only); repeat' split
  all_goals first | rfl | simp
@[simp] theorem recordWrite_landings (l : Landing) (off : Nat) (bs : List Byte) (s : State) : (recordWrite l off bs s).landings = s.landings := by
  unfold recordWrite; (try dsimp only); repeat' split
  all_goals first | rfl | simp
@[simp] theorem recordWrite_nextLanding (l : Landing) (off : Nat) (bs : List Byte) (s : State) : (recordWrite l off bs s).nextLanding = s.nextLanding := by
  unfold recordWrite; (try dsimp only); repeat' split
  all_goals first | rfl | simp
@[simp] theorem recordWrite_power (l : Landing) (off : Nat) (bs : List Byte) (s : State) : (recordWrite l off bs s).power = s.power := by
  unfold recordWrite; (try dsimp only); repeat' split
  all_goals first | rfl | simp
@[simp] theorem recordWrite_lps (l : Landing) (off : Nat) (bs : List Byte) (s : State) : (recordWrite l off bs s).lps = s.lps := by
  unfold recordWrite; (try dsimp only); repeat' split
  all_goals first | rfl | simp
@[simp] theorem recordWrite_walks (l : Landing) (off : Nat) (bs : List Byte) (s : State) : (recordWrite l off bs s).walks = s.walks := by
  unfold recordWrite; (try dsimp only); repeat' split
  all_goals first | rfl | simp
@[simp] theorem recordWrite_domains (l : Landing) (off : Nat) (bs : List Byte) (s : State) : (recordWrite l off bs s).domains = s.domains := by
  unfold recordWrite; (try dsimp only); repeat' split
  all_goals first | rfl | simp
@[simp] theorem recordWrite_ports (l : Landing) (off : Nat) (bs : List Byte) (s : State) : (recordWrite l off bs s).ports = s.ports := by
  unfold recordWrite; (try dsimp only); repeat' split
  all_goals first | rfl | simp
@[simp] theorem recordWrite_fabric (l : Landing) (off : Nat) (bs : List Byte) (s : State) : (recordWrite l off bs s).fabric = s.fabric := by
  unfold recordWrite; (try dsimp only); repeat' split
  all_goals first | rfl | simp
@[simp] theorem recordWrite_colls (l : Landing) (off : Nat) (bs : List Byte) (s : State) : (recordWrite l off bs s).colls = s.colls := by
  unfold recordWrite; (try dsimp only); repeat' split
  all_goals first | rfl | simp
@[simp] theorem recordWrite_nextColl (l : Landing) (off : Nat) (bs : List Byte) (s : State) : (recordWrite l off bs s).nextColl = s.nextColl := by
  unfold recordWrite; (try dsimp only); repeat' split
  all_goals first | rfl | simp
@[simp] theorem recordWrite_annex (l : Landing) (off : Nat) (bs : List Byte) (s : State) : (recordWrite l off bs s).annex = s.annex := by
  unfold recordWrite; (try dsimp only); repeat' split
  all_goals first | rfl | simp
@[simp] theorem recordWrite_restore (l : Landing) (off : Nat) (bs : List Byte) (s : State) : (recordWrite l off bs s).restore = s.restore := by
  unfold recordWrite; (try dsimp only); repeat' split
  all_goals first | rfl | simp
@[simp] theorem recordWrite_faults (l : Landing) (off : Nat) (bs : List Byte) (s : State) : (recordWrite l off bs s).faults = s.faults := by
  unfold recordWrite; (try dsimp only); repeat' split
  all_goals first | rfl | simp
@[simp] theorem recordWrite_imsic (l : Landing) (off : Nat) (bs : List Byte) (s : State) : (recordWrite l off bs s).imsic = s.imsic := by
  unfold recordWrite; (try dsimp only); repeat' split
  all_goals first | rfl | simp
@[simp] theorem recordWrite_mram (l : Landing) (off : Nat) (bs : List Byte) (s : State) : (recordWrite l off bs s).mram = s.mram := by
  unfold recordWrite; (try dsimp only); repeat' split
  all_goals first | rfl | simp
@[simp] theorem recordWrite_store (l : Landing) (off : Nat) (bs : List Byte) (s : State) : (recordWrite l off bs s).store = s.store := by
  unfold recordWrite; (try dsimp only); repeat' split
  all_goals first | rfl | simp
@[simp] theorem recordWrite_boot (l : Landing) (off : Nat) (bs : List Byte) (s : State) : (recordWrite l off bs s).boot = s.boot := by
  unfold recordWrite; (try dsimp only); repeat' split
  all_goals first | rfl | simp
@[simp] theorem recordWrite_pins (l : Landing) (off : Nat) (bs : List Byte) (s : State) : (recordWrite l off bs s).pins = s.pins := by
  unfold recordWrite; (try dsimp only); repeat' split
  all_goals first | rfl | simp
@[simp] theorem recordWrite_out (l : Landing) (off : Nat) (bs : List Byte) (s : State) : (recordWrite l off bs s).out = s.out := by
  unfold recordWrite; (try dsimp only); repeat' split
  all_goals first | rfl | simp

@[simp] theorem closeLanding_pending (l : Landing) (state status : Nat) (s : State) : (closeLanding l state status s).pending = s.pending := by
  unfold closeLanding; (try dsimp only); repeat' split
  all_goals first | rfl | simp
@[simp] theorem closeLanding_freeCtr (l : Landing) (state status : Nat) (s : State) : (closeLanding l state status s).freeCtr = s.freeCtr := by
  unfold closeLanding; (try dsimp only); repeat' split
  all_goals first | rfl | simp
@[simp] theorem closeLanding_variant (l : Landing) (state status : Nat) (s : State) : (closeLanding l state status s).variant = s.variant := by
  unfold closeLanding; (try dsimp only); repeat' split
  all_goals first | rfl | simp
@[simp] theorem closeLanding_regs (l : Landing) (state status : Nat) (s : State) : (closeLanding l state status s).regs = s.regs := by
  unfold closeLanding; (try dsimp only); repeat' split
  all_goals first | rfl | simp
@[simp] theorem closeLanding_boxRegs (l : Landing) (state status : Nat) (s : State) : (closeLanding l state status s).boxRegs = s.boxRegs := by
  unfold closeLanding; (try dsimp only); repeat' split
  all_goals first | rfl | simp
@[simp] theorem closeLanding_boxMem (l : Landing) (state status : Nat) (s : State) : (closeLanding l state status s).boxMem = s.boxMem := by
  unfold closeLanding; (try dsimp only); repeat' split
  all_goals first | rfl | simp
@[simp] theorem closeLanding_pos (l : Landing) (state status : Nat) (s : State) : (closeLanding l state status s).pos = s.pos := by
  unfold closeLanding; (try dsimp only); repeat' split
  all_goals first | rfl | simp
@[simp] theorem closeLanding_stepTick (l : Landing) (state status : Nat) (s : State) : (closeLanding l state status s).stepTick = s.stepTick := by
  unfold closeLanding; (try dsimp only); repeat' split
  all_goals first | rfl | simp
@[simp] theorem closeLanding_slew (l : Landing) (state status : Nat) (s : State) : (closeLanding l state status s).slew = s.slew := by
  unfold closeLanding; (try dsimp only); repeat' split
  all_goals first | rfl | simp
@[simp] theorem closeLanding_sinceSlew (l : Landing) (state status : Nat) (s : State) : (closeLanding l state status s).sinceSlew = s.sinceSlew := by
  unfold closeLanding; (try dsimp only); repeat' split
  all_goals first | rfl | simp
@[simp] theorem closeLanding_missed (l : Landing) (state status : Nat) (s : State) : (closeLanding l state status s).missed = s.missed := by
  unfold closeLanding; (try dsimp only); repeat' split
  all_goals first | rfl | simp
@[simp] theorem closeLanding_boundary (l : Landing) (state status : Nat) (s : State) : (closeLanding l state status s).boundary = s.boundary := by
  unfold closeLanding; (try dsimp only); repeat' split
  all_goals first | rfl | simp
@[simp] theorem closeLanding_early (l : Landing) (state status : Nat) (s : State) : (closeLanding l state status s).early = s.early := by
  unfold closeLanding; (try dsimp only); repeat' split
  all_goals first | rfl | simp
@[simp] theorem closeLanding_train (l : Landing) (state status : Nat) (s : State) : (closeLanding l state status s).train = s.train := by
  unfold closeLanding; (try dsimp only); repeat' split
  all_goals first | rfl | simp
@[simp] theorem closeLanding_units (l : Landing) (state status : Nat) (s : State) : (closeLanding l state status s).units = s.units := by
  unfold closeLanding; (try dsimp only); repeat' split
  all_goals first | rfl | simp
@[simp] theorem closeLanding_queues (l : Landing) (state status : Nat) (s : State) : (closeLanding l state status s).queues = s.queues := by
  unfold closeLanding; (try dsimp only); repeat' split
  all_goals first | rfl | simp
@[simp] theorem closeLanding_entries (l : Landing) (state status : Nat) (s : State) : (closeLanding l state status s).entries = s.entries := by
  unfold closeLanding; (try dsimp only); repeat' split
  all_goals first | rfl | simp
@[simp] theorem closeLanding_tiles (l : Landing) (state status : Nat) (s : State) : (closeLanding l state status s).tiles = s.tiles := by
  unfold closeLanding; (try dsimp only); repeat' split
  all_goals first | rfl | simp
@[simp] theorem closeLanding_bankKinds (l : Landing) (state status : Nat) (s : State) : (closeLanding l state status s).bankKinds = s.bankKinds := by
  unfold closeLanding; (try dsimp only); repeat' split
  all_goals first | rfl | simp
@[simp] theorem closeLanding_lanes (l : Landing) (state status : Nat) (s : State) : (closeLanding l state status s).lanes = s.lanes := by
  unfold closeLanding; (try dsimp only); repeat' split
  all_goals first | rfl | simp
@[simp] theorem closeLanding_hearth (l : Landing) (state status : Nat) (s : State) : (closeLanding l state status s).hearth = s.hearth := by
  unfold closeLanding; (try dsimp only); repeat' split
  all_goals first | rfl | simp
@[simp] theorem closeLanding_stash (l : Landing) (state status : Nat) (s : State) : (closeLanding l state status s).stash = s.stash := by
  unfold closeLanding; (try dsimp only); repeat' split
  all_goals first | rfl | simp
@[simp] theorem closeLanding_nextLanding (l : Landing) (state status : Nat) (s : State) : (closeLanding l state status s).nextLanding = s.nextLanding := by
  unfold closeLanding; (try dsimp only); repeat' split
  all_goals first | rfl | simp
@[simp] theorem closeLanding_power (l : Landing) (state status : Nat) (s : State) : (closeLanding l state status s).power = s.power := by
  unfold closeLanding; (try dsimp only); repeat' split
  all_goals first | rfl | simp
@[simp] theorem closeLanding_lps (l : Landing) (state status : Nat) (s : State) : (closeLanding l state status s).lps = s.lps := by
  unfold closeLanding; (try dsimp only); repeat' split
  all_goals first | rfl | simp
@[simp] theorem closeLanding_walks (l : Landing) (state status : Nat) (s : State) : (closeLanding l state status s).walks = s.walks := by
  unfold closeLanding; (try dsimp only); repeat' split
  all_goals first | rfl | simp
@[simp] theorem closeLanding_domains (l : Landing) (state status : Nat) (s : State) : (closeLanding l state status s).domains = s.domains := by
  unfold closeLanding; (try dsimp only); repeat' split
  all_goals first | rfl | simp
@[simp] theorem closeLanding_ports (l : Landing) (state status : Nat) (s : State) : (closeLanding l state status s).ports = s.ports := by
  unfold closeLanding; (try dsimp only); repeat' split
  all_goals first | rfl | simp
@[simp] theorem closeLanding_fabric (l : Landing) (state status : Nat) (s : State) : (closeLanding l state status s).fabric = s.fabric := by
  unfold closeLanding; (try dsimp only); repeat' split
  all_goals first | rfl | simp
@[simp] theorem closeLanding_colls (l : Landing) (state status : Nat) (s : State) : (closeLanding l state status s).colls = s.colls := by
  unfold closeLanding; (try dsimp only); repeat' split
  all_goals first | rfl | simp
@[simp] theorem closeLanding_nextColl (l : Landing) (state status : Nat) (s : State) : (closeLanding l state status s).nextColl = s.nextColl := by
  unfold closeLanding; (try dsimp only); repeat' split
  all_goals first | rfl | simp
@[simp] theorem closeLanding_annex (l : Landing) (state status : Nat) (s : State) : (closeLanding l state status s).annex = s.annex := by
  unfold closeLanding; (try dsimp only); repeat' split
  all_goals first | rfl | simp
@[simp] theorem closeLanding_restore (l : Landing) (state status : Nat) (s : State) : (closeLanding l state status s).restore = s.restore := by
  unfold closeLanding; (try dsimp only); repeat' split
  all_goals first | rfl | simp
@[simp] theorem closeLanding_faults (l : Landing) (state status : Nat) (s : State) : (closeLanding l state status s).faults = s.faults := by
  unfold closeLanding; (try dsimp only); repeat' split
  all_goals first | rfl | simp
@[simp] theorem closeLanding_imsic (l : Landing) (state status : Nat) (s : State) : (closeLanding l state status s).imsic = s.imsic := by
  unfold closeLanding; (try dsimp only); repeat' split
  all_goals first | rfl | simp
@[simp] theorem closeLanding_mram (l : Landing) (state status : Nat) (s : State) : (closeLanding l state status s).mram = s.mram := by
  unfold closeLanding; (try dsimp only); repeat' split
  all_goals first | rfl | simp
@[simp] theorem closeLanding_store (l : Landing) (state status : Nat) (s : State) : (closeLanding l state status s).store = s.store := by
  unfold closeLanding; (try dsimp only); repeat' split
  all_goals first | rfl | simp
@[simp] theorem closeLanding_boot (l : Landing) (state status : Nat) (s : State) : (closeLanding l state status s).boot = s.boot := by
  unfold closeLanding; (try dsimp only); repeat' split
  all_goals first | rfl | simp
@[simp] theorem closeLanding_pins (l : Landing) (state status : Nat) (s : State) : (closeLanding l state status s).pins = s.pins := by
  unfold closeLanding; (try dsimp only); repeat' split
  all_goals first | rfl | simp
@[simp] theorem closeLanding_out (l : Landing) (state status : Nat) (s : State) : (closeLanding l state status s).out = s.out := by
  unfold closeLanding; (try dsimp only); repeat' split
  all_goals first | rfl | simp

@[simp] theorem endLanding_pending (n status : Nat) (s : State) : (endLanding n status s).pending = s.pending := by
  unfold endLanding; (try dsimp only); repeat' split
  all_goals first | rfl | simp
@[simp] theorem endLanding_freeCtr (n status : Nat) (s : State) : (endLanding n status s).freeCtr = s.freeCtr := by
  unfold endLanding; (try dsimp only); repeat' split
  all_goals first | rfl | simp
@[simp] theorem endLanding_variant (n status : Nat) (s : State) : (endLanding n status s).variant = s.variant := by
  unfold endLanding; (try dsimp only); repeat' split
  all_goals first | rfl | simp
@[simp] theorem endLanding_regs (n status : Nat) (s : State) : (endLanding n status s).regs = s.regs := by
  unfold endLanding; (try dsimp only); repeat' split
  all_goals first | rfl | simp
@[simp] theorem endLanding_boxRegs (n status : Nat) (s : State) : (endLanding n status s).boxRegs = s.boxRegs := by
  unfold endLanding; (try dsimp only); repeat' split
  all_goals first | rfl | simp
@[simp] theorem endLanding_boxMem (n status : Nat) (s : State) : (endLanding n status s).boxMem = s.boxMem := by
  unfold endLanding; (try dsimp only); repeat' split
  all_goals first | rfl | simp
@[simp] theorem endLanding_pos (n status : Nat) (s : State) : (endLanding n status s).pos = s.pos := by
  unfold endLanding; (try dsimp only); repeat' split
  all_goals first | rfl | simp
@[simp] theorem endLanding_stepTick (n status : Nat) (s : State) : (endLanding n status s).stepTick = s.stepTick := by
  unfold endLanding; (try dsimp only); repeat' split
  all_goals first | rfl | simp
@[simp] theorem endLanding_slew (n status : Nat) (s : State) : (endLanding n status s).slew = s.slew := by
  unfold endLanding; (try dsimp only); repeat' split
  all_goals first | rfl | simp
@[simp] theorem endLanding_sinceSlew (n status : Nat) (s : State) : (endLanding n status s).sinceSlew = s.sinceSlew := by
  unfold endLanding; (try dsimp only); repeat' split
  all_goals first | rfl | simp
@[simp] theorem endLanding_missed (n status : Nat) (s : State) : (endLanding n status s).missed = s.missed := by
  unfold endLanding; (try dsimp only); repeat' split
  all_goals first | rfl | simp
@[simp] theorem endLanding_boundary (n status : Nat) (s : State) : (endLanding n status s).boundary = s.boundary := by
  unfold endLanding; (try dsimp only); repeat' split
  all_goals first | rfl | simp
@[simp] theorem endLanding_early (n status : Nat) (s : State) : (endLanding n status s).early = s.early := by
  unfold endLanding; (try dsimp only); repeat' split
  all_goals first | rfl | simp
@[simp] theorem endLanding_train (n status : Nat) (s : State) : (endLanding n status s).train = s.train := by
  unfold endLanding; (try dsimp only); repeat' split
  all_goals first | rfl | simp
@[simp] theorem endLanding_units (n status : Nat) (s : State) : (endLanding n status s).units = s.units := by
  unfold endLanding; (try dsimp only); repeat' split
  all_goals first | rfl | simp
@[simp] theorem endLanding_queues (n status : Nat) (s : State) : (endLanding n status s).queues = s.queues := by
  unfold endLanding; (try dsimp only); repeat' split
  all_goals first | rfl | simp
@[simp] theorem endLanding_entries (n status : Nat) (s : State) : (endLanding n status s).entries = s.entries := by
  unfold endLanding; (try dsimp only); repeat' split
  all_goals first | rfl | simp
@[simp] theorem endLanding_tiles (n status : Nat) (s : State) : (endLanding n status s).tiles = s.tiles := by
  unfold endLanding; (try dsimp only); repeat' split
  all_goals first | rfl | simp
@[simp] theorem endLanding_bankKinds (n status : Nat) (s : State) : (endLanding n status s).bankKinds = s.bankKinds := by
  unfold endLanding; (try dsimp only); repeat' split
  all_goals first | rfl | simp
@[simp] theorem endLanding_lanes (n status : Nat) (s : State) : (endLanding n status s).lanes = s.lanes := by
  unfold endLanding; (try dsimp only); repeat' split
  all_goals first | rfl | simp
@[simp] theorem endLanding_hearth (n status : Nat) (s : State) : (endLanding n status s).hearth = s.hearth := by
  unfold endLanding; (try dsimp only); repeat' split
  all_goals first | rfl | simp
@[simp] theorem endLanding_stash (n status : Nat) (s : State) : (endLanding n status s).stash = s.stash := by
  unfold endLanding; (try dsimp only); repeat' split
  all_goals first | rfl | simp
@[simp] theorem endLanding_nextLanding (n status : Nat) (s : State) : (endLanding n status s).nextLanding = s.nextLanding := by
  unfold endLanding; (try dsimp only); repeat' split
  all_goals first | rfl | simp
@[simp] theorem endLanding_power (n status : Nat) (s : State) : (endLanding n status s).power = s.power := by
  unfold endLanding; (try dsimp only); repeat' split
  all_goals first | rfl | simp
@[simp] theorem endLanding_lps (n status : Nat) (s : State) : (endLanding n status s).lps = s.lps := by
  unfold endLanding; (try dsimp only); repeat' split
  all_goals first | rfl | simp
@[simp] theorem endLanding_walks (n status : Nat) (s : State) : (endLanding n status s).walks = s.walks := by
  unfold endLanding; (try dsimp only); repeat' split
  all_goals first | rfl | simp
@[simp] theorem endLanding_domains (n status : Nat) (s : State) : (endLanding n status s).domains = s.domains := by
  unfold endLanding; (try dsimp only); repeat' split
  all_goals first | rfl | simp
@[simp] theorem endLanding_ports (n status : Nat) (s : State) : (endLanding n status s).ports = s.ports := by
  unfold endLanding; (try dsimp only); repeat' split
  all_goals first | rfl | simp
@[simp] theorem endLanding_fabric (n status : Nat) (s : State) : (endLanding n status s).fabric = s.fabric := by
  unfold endLanding; (try dsimp only); repeat' split
  all_goals first | rfl | simp
@[simp] theorem endLanding_colls (n status : Nat) (s : State) : (endLanding n status s).colls = s.colls := by
  unfold endLanding; (try dsimp only); repeat' split
  all_goals first | rfl | simp
@[simp] theorem endLanding_nextColl (n status : Nat) (s : State) : (endLanding n status s).nextColl = s.nextColl := by
  unfold endLanding; (try dsimp only); repeat' split
  all_goals first | rfl | simp
@[simp] theorem endLanding_annex (n status : Nat) (s : State) : (endLanding n status s).annex = s.annex := by
  unfold endLanding; (try dsimp only); repeat' split
  all_goals first | rfl | simp
@[simp] theorem endLanding_restore (n status : Nat) (s : State) : (endLanding n status s).restore = s.restore := by
  unfold endLanding; (try dsimp only); repeat' split
  all_goals first | rfl | simp
@[simp] theorem endLanding_faults (n status : Nat) (s : State) : (endLanding n status s).faults = s.faults := by
  unfold endLanding; (try dsimp only); repeat' split
  all_goals first | rfl | simp
@[simp] theorem endLanding_imsic (n status : Nat) (s : State) : (endLanding n status s).imsic = s.imsic := by
  unfold endLanding; (try dsimp only); repeat' split
  all_goals first | rfl | simp
@[simp] theorem endLanding_mram (n status : Nat) (s : State) : (endLanding n status s).mram = s.mram := by
  unfold endLanding; (try dsimp only); repeat' split
  all_goals first | rfl | simp
@[simp] theorem endLanding_store (n status : Nat) (s : State) : (endLanding n status s).store = s.store := by
  unfold endLanding; (try dsimp only); repeat' split
  all_goals first | rfl | simp
@[simp] theorem endLanding_boot (n status : Nat) (s : State) : (endLanding n status s).boot = s.boot := by
  unfold endLanding; (try dsimp only); repeat' split
  all_goals first | rfl | simp
@[simp] theorem endLanding_pins (n status : Nat) (s : State) : (endLanding n status s).pins = s.pins := by
  unfold endLanding; (try dsimp only); repeat' split
  all_goals first | rfl | simp
@[simp] theorem endLanding_out (n status : Nat) (s : State) : (endLanding n status s).out = s.out := by
  unfold endLanding; (try dsimp only); repeat' split
  all_goals first | rfl | simp

@[simp] theorem endOwner_pending (o : Owner) (st flags : Nat) (s : State) : (endOwner o st flags s).pending = s.pending := by
  unfold endOwner; (try dsimp only); repeat' split
  all_goals first | rfl | simp
@[simp] theorem endOwner_freeCtr (o : Owner) (st flags : Nat) (s : State) : (endOwner o st flags s).freeCtr = s.freeCtr := by
  unfold endOwner; (try dsimp only); repeat' split
  all_goals first | rfl | simp
@[simp] theorem endOwner_variant (o : Owner) (st flags : Nat) (s : State) : (endOwner o st flags s).variant = s.variant := by
  unfold endOwner; (try dsimp only); repeat' split
  all_goals first | rfl | simp
@[simp] theorem endOwner_regs (o : Owner) (st flags : Nat) (s : State) : (endOwner o st flags s).regs = s.regs := by
  unfold endOwner; (try dsimp only); repeat' split
  all_goals first | rfl | simp
@[simp] theorem endOwner_boxRegs (o : Owner) (st flags : Nat) (s : State) : (endOwner o st flags s).boxRegs = s.boxRegs := by
  unfold endOwner; (try dsimp only); repeat' split
  all_goals first | rfl | simp
@[simp] theorem endOwner_boxMem (o : Owner) (st flags : Nat) (s : State) : (endOwner o st flags s).boxMem = s.boxMem := by
  unfold endOwner; (try dsimp only); repeat' split
  all_goals first | rfl | simp
@[simp] theorem endOwner_pos (o : Owner) (st flags : Nat) (s : State) : (endOwner o st flags s).pos = s.pos := by
  unfold endOwner; (try dsimp only); repeat' split
  all_goals first | rfl | simp
@[simp] theorem endOwner_stepTick (o : Owner) (st flags : Nat) (s : State) : (endOwner o st flags s).stepTick = s.stepTick := by
  unfold endOwner; (try dsimp only); repeat' split
  all_goals first | rfl | simp
@[simp] theorem endOwner_slew (o : Owner) (st flags : Nat) (s : State) : (endOwner o st flags s).slew = s.slew := by
  unfold endOwner; (try dsimp only); repeat' split
  all_goals first | rfl | simp
@[simp] theorem endOwner_sinceSlew (o : Owner) (st flags : Nat) (s : State) : (endOwner o st flags s).sinceSlew = s.sinceSlew := by
  unfold endOwner; (try dsimp only); repeat' split
  all_goals first | rfl | simp
@[simp] theorem endOwner_missed (o : Owner) (st flags : Nat) (s : State) : (endOwner o st flags s).missed = s.missed := by
  unfold endOwner; (try dsimp only); repeat' split
  all_goals first | rfl | simp
@[simp] theorem endOwner_boundary (o : Owner) (st flags : Nat) (s : State) : (endOwner o st flags s).boundary = s.boundary := by
  unfold endOwner; (try dsimp only); repeat' split
  all_goals first | rfl | simp
@[simp] theorem endOwner_early (o : Owner) (st flags : Nat) (s : State) : (endOwner o st flags s).early = s.early := by
  unfold endOwner; (try dsimp only); repeat' split
  all_goals first | rfl | simp
@[simp] theorem endOwner_train (o : Owner) (st flags : Nat) (s : State) : (endOwner o st flags s).train = s.train := by
  unfold endOwner; (try dsimp only); repeat' split
  all_goals first | rfl | simp
@[simp] theorem endOwner_units (o : Owner) (st flags : Nat) (s : State) : (endOwner o st flags s).units = s.units := by
  unfold endOwner; (try dsimp only); repeat' split
  all_goals first | rfl | simp
@[simp] theorem endOwner_entries (o : Owner) (st flags : Nat) (s : State) : (endOwner o st flags s).entries = s.entries := by
  unfold endOwner; (try dsimp only); repeat' split
  all_goals first | rfl | simp
@[simp] theorem endOwner_tiles (o : Owner) (st flags : Nat) (s : State) : (endOwner o st flags s).tiles = s.tiles := by
  unfold endOwner; (try dsimp only); repeat' split
  all_goals first | rfl | simp
@[simp] theorem endOwner_bankKinds (o : Owner) (st flags : Nat) (s : State) : (endOwner o st flags s).bankKinds = s.bankKinds := by
  unfold endOwner; (try dsimp only); repeat' split
  all_goals first | rfl | simp
@[simp] theorem endOwner_lanes (o : Owner) (st flags : Nat) (s : State) : (endOwner o st flags s).lanes = s.lanes := by
  unfold endOwner; (try dsimp only); repeat' split
  all_goals first | rfl | simp
@[simp] theorem endOwner_hearth (o : Owner) (st flags : Nat) (s : State) : (endOwner o st flags s).hearth = s.hearth := by
  unfold endOwner; (try dsimp only); repeat' split
  all_goals first | rfl | simp
@[simp] theorem endOwner_stash (o : Owner) (st flags : Nat) (s : State) : (endOwner o st flags s).stash = s.stash := by
  unfold endOwner; (try dsimp only); repeat' split
  all_goals first | rfl | simp
@[simp] theorem endOwner_nextLanding (o : Owner) (st flags : Nat) (s : State) : (endOwner o st flags s).nextLanding = s.nextLanding := by
  unfold endOwner; (try dsimp only); repeat' split
  all_goals first | rfl | simp
@[simp] theorem endOwner_power (o : Owner) (st flags : Nat) (s : State) : (endOwner o st flags s).power = s.power := by
  unfold endOwner; (try dsimp only); repeat' split
  all_goals first | rfl | simp
@[simp] theorem endOwner_lps (o : Owner) (st flags : Nat) (s : State) : (endOwner o st flags s).lps = s.lps := by
  unfold endOwner; (try dsimp only); repeat' split
  all_goals first | rfl | simp
@[simp] theorem endOwner_walks (o : Owner) (st flags : Nat) (s : State) : (endOwner o st flags s).walks = s.walks := by
  unfold endOwner; (try dsimp only); repeat' split
  all_goals first | rfl | simp
@[simp] theorem endOwner_domains (o : Owner) (st flags : Nat) (s : State) : (endOwner o st flags s).domains = s.domains := by
  unfold endOwner; (try dsimp only); repeat' split
  all_goals first | rfl | simp
@[simp] theorem endOwner_ports (o : Owner) (st flags : Nat) (s : State) : (endOwner o st flags s).ports = s.ports := by
  unfold endOwner; (try dsimp only); repeat' split
  all_goals first | rfl | simp
@[simp] theorem endOwner_fabric (o : Owner) (st flags : Nat) (s : State) : (endOwner o st flags s).fabric = s.fabric := by
  unfold endOwner; (try dsimp only); repeat' split
  all_goals first | rfl | simp
@[simp] theorem endOwner_colls (o : Owner) (st flags : Nat) (s : State) : (endOwner o st flags s).colls = s.colls := by
  unfold endOwner; (try dsimp only); repeat' split
  all_goals first | rfl | simp
@[simp] theorem endOwner_nextColl (o : Owner) (st flags : Nat) (s : State) : (endOwner o st flags s).nextColl = s.nextColl := by
  unfold endOwner; (try dsimp only); repeat' split
  all_goals first | rfl | simp
@[simp] theorem endOwner_annex (o : Owner) (st flags : Nat) (s : State) : (endOwner o st flags s).annex = s.annex := by
  unfold endOwner; (try dsimp only); repeat' split
  all_goals first | rfl | simp
@[simp] theorem endOwner_restore (o : Owner) (st flags : Nat) (s : State) : (endOwner o st flags s).restore = s.restore := by
  unfold endOwner; (try dsimp only); repeat' split
  all_goals first | rfl | simp
@[simp] theorem endOwner_faults (o : Owner) (st flags : Nat) (s : State) : (endOwner o st flags s).faults = s.faults := by
  unfold endOwner; (try dsimp only); repeat' split
  all_goals first | rfl | simp
@[simp] theorem endOwner_imsic (o : Owner) (st flags : Nat) (s : State) : (endOwner o st flags s).imsic = s.imsic := by
  unfold endOwner; (try dsimp only); repeat' split
  all_goals first | rfl | simp
@[simp] theorem endOwner_mram (o : Owner) (st flags : Nat) (s : State) : (endOwner o st flags s).mram = s.mram := by
  unfold endOwner; (try dsimp only); repeat' split
  all_goals first | rfl | simp
@[simp] theorem endOwner_store (o : Owner) (st flags : Nat) (s : State) : (endOwner o st flags s).store = s.store := by
  unfold endOwner; (try dsimp only); repeat' split
  all_goals first | rfl | simp
@[simp] theorem endOwner_boot (o : Owner) (st flags : Nat) (s : State) : (endOwner o st flags s).boot = s.boot := by
  unfold endOwner; (try dsimp only); repeat' split
  all_goals first | rfl | simp
@[simp] theorem endOwner_pins (o : Owner) (st flags : Nat) (s : State) : (endOwner o st flags s).pins = s.pins := by
  unfold endOwner; (try dsimp only); repeat' split
  all_goals first | rfl | simp
@[simp] theorem endOwner_out (o : Owner) (st flags : Nat) (s : State) : (endOwner o st flags s).out = s.out := by
  unfold endOwner; (try dsimp only); repeat' split
  all_goals first | rfl | simp

end Sys2Proof.Machine
end

