-- ==== Sys2Proof/Laws/Issue.lean ====
section
/-! SUPPORT. What issue does when a unit is ready: one lemma for control instructions, one for operations that start, one for each
refusal; and what each row's definition holds. -/
namespace Sys2Proof.Machine

variable {s : State} {u : UnitRef} {d : OpDef} {f : Fields}

/-- A ready unit attempts its instruction. -/
theorem issue_ready (h : ready s u d f = true) (i : Instr) : issue u i f d s = attempt u i f d s := by
  simp only [ready, Bool.and_eq_true, decide_eq_true_eq] at h
  obtain ⟨⟨⟨⟨⟨⟨hm, hw⟩, ho⟩, hn⟩, hp⟩, -⟩, -⟩ := h
  have hf := f.isLt
  have hlt : d.opc * 2 ^ 56 + f.toNat < 2 ^ 64 := by omega
  have hw' : (BitVec.ofNat 64 (d.opc * 2 ^ 56 + f.toNat)).toNat = d.opc * 2 ^ 56 + f.toNat := by
    rw [BitVec.toNat_ofNat, Nat.mod_eq_of_lt hlt]
  have hf' : BitVec.ofNat 56 (d.opc * 2 ^ 56 + f.toNat) = f := by
    apply BitVec.eq_of_toNat_eq
    rw [BitVec.toNat_ofNat]; omega
  simp only [issue, hm, hw, hw', hf', hn, hp, Bool.not_true, Bool.false_eq_true, and_self, if_true, if_false]

theorem attempt_ready (h : ready s u d f = true) (i : Instr) :
    attempt u i f d s = match d.body with
      | .op g => tryOp u i (g s (getUnit s u) f) s
      | .control g => match g s (getUnit s u) f with
        | .done s => s
        | .refuse st => refuse u st s
        | .wait s => setUnit s { getUnit s u with waiting := some i } := by
  simp only [ready, Bool.and_eq_true, decide_eq_true_eq] at h
  obtain ⟨⟨-, hm⟩, hu⟩ := h
  simp only [attempt, hm, hu, ne_eq, not_true_eq_false, Bool.true_eq_false, or_self, if_false]
  all_goals (cases d.body <;> rfl)

/-- A control instruction of a ready unit does what its row says. -/
theorem issue_control (h : ready s u d f = true) {g : State → ProgUnit → Fields → Ctl} (hb : d.body = .control g) (i : Instr) :
    issue u i f d s = match g s (getUnit s u) f with
      | .done s => s
      | .refuse st => refuse u st s
      | .wait s => setUnit s { getUnit s u with waiting := some i } := by
  rw [issue_ready h, attempt_ready h, hb]

/-- An operation of a ready unit goes through its waits and checks. -/
theorem issue_op (h : ready s u d f = true) {g : State → ProgUnit → Fields → Plan} (hb : d.body = .op g) (i : Instr) :
    issue u i f d s = tryOp u i (g s (getUnit s u) f) s := by
  rw [issue_ready h, attempt_ready h, hb]

/-- An operation that starts now has its effects. -/
theorem tryOp_starts {p : Plan} (h : startsNow s u p = true) (i : Instr) : tryOp u i p s = started u p s := by
  simp only [startsNow, Bool.and_eq_true, Bool.not_eq_true', decide_eq_true_eq] at h
  obtain ⟨⟨⟨⟨⟨hw, hc⟩, hh⟩, hg⟩, he⟩, hu⟩ := h
  simp only [tryOp, hw, hc, hh, hg, Bool.false_eq_true, if_false, ne_eq, not_true_eq_false]
  simp only [launch, he, Bool.false_eq_true, if_false]
  rw [if_neg (by simpa [begun, newOp] using hu)]
  rfl

/-- A ready unit starts its operation. -/
theorem issue_starts (h : ready s u d f = true) {g : State → ProgUnit → Fields → Plan} (hb : d.body = .op g)
    (hs : startsNow s u (g s (getUnit s u) f) = true) (i : Instr) : issue u i f d s = started u (g s (getUnit s u) f) s := by
  rw [issue_op h hb, tryOp_starts hs]

/-- A false check of an operation that need not wait is a refusal at issue. -/
theorem tryOp_refuses {p : Plan} (hw : mustWait s (getUnit s u) p = false) (hc : firstFail p.checks ≠ 0) (i : Instr) :
    tryOp u i p s = refuse u (firstFail p.checks) s := by
  simp only [tryOp, hw, Bool.false_eq_true, if_false, hc, ne_eq, not_false_eq_true, if_true]

end Sys2Proof.Machine
end

