-- ==== Sys2Proof/Laws/KeepsOps.lean ====
section
/-! SUPPORT. Keeps through the shared operations of registers, interrupts, the Stash, ports, letters, power, records, restores and boundaries. -/
namespace Sys2Proof.Machine

theorem keeps_setRf {r : State} (s : State) (dom : Nat) (off : Nat) (hi : Nat) (lo : Nat) (v : Nat) (h_s : Keeps r s) :
    Keeps r (setRf s dom off hi lo v) := by
  unfold setRf
  repeat' (first
      | with_reducible assumption | (with_reducible intro _)
      | (with_reducible (first
          | apply keeps_setReg | apply keeps_ite | apply keeps_foldl))
      | split | (with_reducible apply keeps_free) | dsimp only)

theorem keeps_setRb {r : State} (s : State) (dom : Nat) (off : Nat) (i : Nat) (b : Bool) (h_s : Keeps r s) :
    Keeps r (setRb s dom off i b) := by
  unfold setRb
  repeat' (first
      | with_reducible assumption | (with_reducible intro _)
      | (with_reducible (first
          | apply keeps_setRf | apply keeps_ite | apply keeps_foldl))
      | split | (with_reducible apply keeps_free) | dsimp only)

theorem keeps_bump {r : State} (s : State) (dom : Nat) (off : Nat) (n : Nat) (h_s : Keeps r s) :
    Keeps r (bump s dom off n) := by
  unfold bump
  repeat' (first
      | with_reducible assumption | (with_reducible intro _)
      | (with_reducible (first
          | apply keeps_setReg | apply keeps_ite | apply keeps_foldl))
      | split | (with_reducible apply keeps_free) | dsimp only)

theorem keeps_setPf {r : State} (s : State) (off : Nat) (hi : Nat) (lo : Nat) (v : Nat) (h_s : Keeps r s) :
    Keeps r (setPf s off hi lo v) := by
  unfold setPf
  repeat' (first
      | with_reducible assumption | (with_reducible intro _)
      | (with_reducible (first
          | apply keeps_setRf | apply keeps_ite | apply keeps_foldl))
      | split | (with_reducible apply keeps_free) | dsimp only)

theorem keeps_setDomain {r : State} (s : State) (d : Domain) (h_s : Keeps r s) :
    Keeps r (setDomain s d) := by
  unfold setDomain
  repeat' (first
      | with_reducible assumption | (with_reducible intro _)
      | (with_reducible (first
          | apply keeps_ite | apply keeps_foldl))
      | split | (with_reducible apply keeps_free) | dsimp only)

theorem keeps_writeNat {r : State} (s : State) (a : Nat) (len : Nat) (v : Nat) (h_s : Keeps r s) :
    Keeps r (writeNat s a len v) := by
  unfold writeNat
  repeat' (first
      | with_reducible assumption | (with_reducible intro _)
      | (with_reducible (first
          | apply keeps_writeMem | apply keeps_ite | apply keeps_foldl))
      | split | (with_reducible apply keeps_free) | dsimp only)

theorem keeps_pend {r : State} (hart : Nat) (file : Nat) (eiid : Nat) (s : State) (h_s : Keeps r s) :
    Keeps r (pend hart file eiid s) := by
  unfold pend
  repeat' (first
      | with_reducible assumption | (with_reducible intro _)
      | (with_reducible (first
          | apply keeps_ite | apply keeps_foldl))
      | split | (with_reducible apply keeps_free) | dsimp only)

theorem keeps_sendMsi {r : State} (route : Word) (s : State) (h_s : Keeps r s) :
    Keeps r (sendMsi route s) := by
  unfold sendMsi
  repeat' (first
      | with_reducible assumption | (with_reducible intro _)
      | (with_reducible (first
          | apply keeps_bump | apply keeps_pend | apply keeps_emit | apply keeps_ite | apply keeps_foldl))
      | split | (with_reducible apply keeps_free) | dsimp only)

theorem keeps_setFabState {r : State} (v : Nat) (s : State) (h_s : Keeps r s) :
    Keeps r (setFabState v s) := by
  unfold setFabState
  repeat' (first
      | with_reducible assumption | (with_reducible intro _)
      | (with_reducible (first
          | apply keeps_sendMsi | apply keeps_setPf | apply keeps_ite | apply keeps_foldl))
      | split | (with_reducible apply keeps_free) | dsimp only)

theorem keeps_flogPlace {r : State} (bytes : List Byte) (s : State) (h_s : Keeps r s) :
    Keeps r (flogPlace bytes s) := by
  unfold flogPlace
  repeat' (first
      | with_reducible assumption | (with_reducible intro _)
      | (with_reducible (first
          | apply keeps_setPf | apply keeps_writeMem | apply keeps_bump | apply keeps_ite | apply keeps_foldl))
      | split | (with_reducible apply keeps_free) | dsimp only)

theorem keeps_writeServed {r : State} (a : Nat) (bs : List Byte) (s : State) (h_s : Keeps r s) :
    Keeps r (writeServed a bs s) := by
  unfold writeServed
  repeat' (first
      | with_reducible assumption | (with_reducible intro _)
      | (with_reducible (first
          | apply keeps_writeMem | apply keeps_ite | apply keeps_foldl))
      | split | (with_reducible apply keeps_free) | dsimp only)

theorem keeps_logFault {r : State} (f : FaultInfo) (s : State) (h_s : Keeps r s) :
    Keeps r (logFault f s) := by
  unfold logFault
  generalize hn : (4096 : Nat) = n
  refine keeps_sendMsi _ _ ?_
  refine keeps_flogPlace _ _ ?_
  refine keeps_setPf _ _ _ _ _ ?_
  exact keeps_logged (b := faultBytes (pf s Reg.FLOG_SEQ 31 0) s.pos f) n hn.symm (faultBytes_length _ _ _) h_s

theorem keeps_setQf {r : State} (s : State) (q : Nat) (off : Nat) (hi : Nat) (lo : Nat) (v : Nat) (h_s : Keeps r s) :
    Keeps r (setQf s q off hi lo v) := by
  unfold setQf
  repeat' (first
      | with_reducible assumption | (with_reducible intro _)
      | (with_reducible (first
          | apply keeps_setRf | apply keeps_ite | apply keeps_foldl))
      | split | (with_reducible apply keeps_free) | dsimp only)

theorem keeps_finishCmd {r : State} (q : Nat) (seq : Nat) (status : Nat) (flags : Nat) (s : State) (h_s : Keeps r s) :
    Keeps r (finishCmd q seq status flags s) := by
  unfold finishCmd
  repeat' (first
      | with_reducible assumption | (with_reducible intro _)
      | (with_reducible (first
          | apply keeps_setQueue | apply keeps_ite | apply unitOk_ite | apply unitOk_foldl | apply keeps_foldl | apply keeps_foldl_fst
          | apply keeps_foldl_snd | apply ctlKeeps_done | apply ctlKeeps_wait | apply ctlKeeps_refuse | apply ctlKeeps_ite
          | apply arrKeeps_gone | apply arrKeeps_later | apply arrKeeps_here | apply arrKeeps_ite | apply keeps_foldl_CollEnd
          | apply keeps_ite_CollEnd | apply keeps_foldl_Commit | apply keeps_ite_Commit | apply keeps_foldl_DrainSum
          | apply keeps_ite_DrainSum | apply keeps_foldl_Effect | apply keeps_ite_Effect | apply keeps_foldl_LayerDecision
          | apply keeps_ite_LayerDecision | apply keeps_foldl_MmaSum | apply keeps_ite_MmaSum | apply keeps_foldl_QSum
          | apply keeps_ite_QSum | apply keeps_foldl_QTile | apply keeps_ite_QTile | apply keeps_foldl_UpdSum | apply keeps_ite_UpdSum
          | apply keeps_foldl_VecSum | apply keeps_ite_VecSum | apply keeps_units_map | apply unitOk_getUnit | apply unitOk_idle
          | apply unitOk_advance | apply queueOk_getQueue | apply unitOk_setG | apply unitOk_setT | apply unitOk_setK | apply unitOk_setC
          | apply unitOk_setSt | apply unitOk_setP))
      | split | (with_reducible (first
          | apply keeps_free | apply unitOk_fewer | apply unitOk_mapped
          | apply unitOk_emptied | apply unitOk_free | apply queueOk_map | apply queueOk_free)) | dsimp only)

theorem keeps_setLp {r : State} (s : State) (l : LowPower) (h_s : Keeps r s) :
    Keeps r (setLp s l) := by
  unfold setLp
  repeat' (first
      | with_reducible assumption | (with_reducible intro _)
      | (with_reducible (first
          | apply keeps_setRf | apply keeps_ite | apply keeps_foldl))
      | split | (with_reducible apply keeps_free) | dsimp only)

theorem keeps_startWake {r : State} (dom : Nat) (s : State) (h_s : Keeps r s) :
    Keeps r (startWake dom s) := by
  unfold startWake
  repeat' (first
      | with_reducible assumption | (with_reducible intro _)
      | (with_reducible (first
          | apply keeps_setLp | apply keeps_ite | apply keeps_foldl))
      | split | (with_reducible apply keeps_free) | dsimp only)

theorem keeps_lateEvent {r : State} (dom : Nat) (s : State) (h_s : Keeps r s) :
    Keeps r (lateEvent dom s) := by
  unfold lateEvent
  repeat' (first
      | with_reducible assumption | (with_reducible intro _)
      | (with_reducible (first
          | apply keeps_startWake | apply keeps_bump | apply keeps_ite | apply keeps_foldl))
      | split | (with_reducible apply keeps_free) | dsimp only)

theorem unitOk_serveWait {r : State} (p : Pos) (x : ProgUnit) (h_x : UnitOk r x) :
    UnitOk r (serveWait p x) := by
  unfold serveWait
  repeat' (first
      | with_reducible assumption | (with_reducible intro _)
      | (with_reducible (first
          | apply unitOk_advance | apply unitOk_setP | apply keeps_ite | apply unitOk_ite | apply unitOk_foldl | apply keeps_foldl
          | apply keeps_foldl_fst | apply keeps_foldl_snd | apply ctlKeeps_done | apply ctlKeeps_wait | apply ctlKeeps_refuse
          | apply ctlKeeps_ite | apply arrKeeps_gone | apply arrKeeps_later | apply arrKeeps_here | apply arrKeeps_ite
          | apply keeps_foldl_CollEnd | apply keeps_ite_CollEnd | apply keeps_foldl_Commit | apply keeps_ite_Commit
          | apply keeps_foldl_DrainSum | apply keeps_ite_DrainSum | apply keeps_foldl_Effect | apply keeps_ite_Effect
          | apply keeps_foldl_LayerDecision | apply keeps_ite_LayerDecision | apply keeps_foldl_MmaSum | apply keeps_ite_MmaSum
          | apply keeps_foldl_QSum | apply keeps_ite_QSum | apply keeps_foldl_QTile | apply keeps_ite_QTile | apply keeps_foldl_UpdSum
          | apply keeps_ite_UpdSum | apply keeps_foldl_VecSum | apply keeps_ite_VecSum | apply keeps_units_map | apply unitOk_getUnit
          | apply unitOk_idle | apply unitOk_advance | apply queueOk_getQueue | apply unitOk_setG | apply unitOk_setT | apply unitOk_setK
          | apply unitOk_setC | apply unitOk_setSt | apply unitOk_setP))
      | split | (with_reducible (first
          | apply keeps_free | apply unitOk_fewer | apply unitOk_mapped
          | apply unitOk_emptied | apply unitOk_free | apply queueOk_map | apply queueOk_free)) | dsimp only)

theorem keeps_serveWaits {r : State} (s : State) (h_s : Keeps r s) :
    Keeps r (serveWaits s) := by
  unfold serveWaits
  repeat' (first
      | with_reducible assumption | (with_reducible intro _)
      | (with_reducible (first
          | apply unitOk_serveWait | apply keeps_ite | apply unitOk_ite | apply unitOk_foldl | apply keeps_foldl | apply keeps_foldl_fst
          | apply keeps_foldl_snd | apply ctlKeeps_done | apply ctlKeeps_wait | apply ctlKeeps_refuse | apply ctlKeeps_ite
          | apply arrKeeps_gone | apply arrKeeps_later | apply arrKeeps_here | apply arrKeeps_ite | apply keeps_foldl_CollEnd
          | apply keeps_ite_CollEnd | apply keeps_foldl_Commit | apply keeps_ite_Commit | apply keeps_foldl_DrainSum
          | apply keeps_ite_DrainSum | apply keeps_foldl_Effect | apply keeps_ite_Effect | apply keeps_foldl_LayerDecision
          | apply keeps_ite_LayerDecision | apply keeps_foldl_MmaSum | apply keeps_ite_MmaSum | apply keeps_foldl_QSum
          | apply keeps_ite_QSum | apply keeps_foldl_QTile | apply keeps_ite_QTile | apply keeps_foldl_UpdSum | apply keeps_ite_UpdSum
          | apply keeps_foldl_VecSum | apply keeps_ite_VecSum | apply keeps_units_map | apply unitOk_getUnit | apply unitOk_idle
          | apply unitOk_advance | apply queueOk_getQueue | apply unitOk_setG | apply unitOk_setT | apply unitOk_setK | apply unitOk_setC
          | apply unitOk_setSt | apply unitOk_setP))
      | split | (with_reducible (first
          | apply keeps_free | apply unitOk_fewer | apply unitOk_mapped
          | apply unitOk_emptied | apply unitOk_free | apply queueOk_map | apply queueOk_free)) | dsimp only)

theorem keeps_clearHints {r : State} (s : State) (h_s : Keeps r s) :
    Keeps r (clearHints s) := by
  unfold clearHints
  repeat' (first
      | with_reducible assumption | (with_reducible intro _)
      | (with_reducible (first
          | apply keeps_setRf | apply keeps_ite | apply keeps_foldl))
      | split | (with_reducible apply keeps_free) | dsimp only)

theorem keeps_keepDecisions {r : State} (s : State) (h_s : Keeps r s) :
    Keeps r (keepDecisions s) := by
  unfold keepDecisions
  repeat' (first
      | with_reducible assumption | (with_reducible intro _)
      | (with_reducible (first
          | apply keeps_ite | apply unitOk_ite | apply unitOk_foldl | apply keeps_foldl | apply keeps_foldl_fst | apply keeps_foldl_snd
          | apply ctlKeeps_done | apply ctlKeeps_wait | apply ctlKeeps_refuse | apply ctlKeeps_ite | apply arrKeeps_gone
          | apply arrKeeps_later | apply arrKeeps_here | apply arrKeeps_ite | apply keeps_foldl_CollEnd | apply keeps_ite_CollEnd
          | apply keeps_foldl_Commit | apply keeps_ite_Commit | apply keeps_foldl_DrainSum | apply keeps_ite_DrainSum
          | apply keeps_foldl_Effect | apply keeps_ite_Effect | apply keeps_foldl_LayerDecision | apply keeps_ite_LayerDecision
          | apply keeps_foldl_MmaSum | apply keeps_ite_MmaSum | apply keeps_foldl_QSum | apply keeps_ite_QSum | apply keeps_foldl_QTile
          | apply keeps_ite_QTile | apply keeps_foldl_UpdSum | apply keeps_ite_UpdSum | apply keeps_foldl_VecSum | apply keeps_ite_VecSum
          | apply keeps_units_map | apply unitOk_getUnit | apply unitOk_idle | apply unitOk_advance | apply queueOk_getQueue
          | apply unitOk_setG | apply unitOk_setT | apply unitOk_setK | apply unitOk_setC | apply unitOk_setSt | apply unitOk_setP))
      | split | (with_reducible (first
          | apply keeps_free | apply unitOk_fewer | apply unitOk_mapped
          | apply unitOk_emptied | apply unitOk_free | apply queueOk_map | apply queueOk_free)) | dsimp only)

theorem keeps_freshStep {r : State} (p : Pos) (s : State) (h_s : Keeps r s) :
    Keeps r (freshStep p s) := by
  unfold freshStep
  repeat' (first
      | with_reducible assumption | (with_reducible intro _)
      | (with_reducible (first
          | apply keeps_keepDecisions | apply keeps_setRf | apply keeps_ite | apply keeps_foldl))
      | split | (with_reducible apply keeps_free) | dsimp only)

theorem keeps_wakeWaiters {r : State} (s : State) (h_s : Keeps r s) :
    Keeps r (wakeWaiters s) := by
  unfold wakeWaiters
  repeat' (first
      | with_reducible assumption | (with_reducible intro _)
      | (with_reducible (first
          | apply keeps_lateEvent | apply keeps_ite | apply keeps_foldl))
      | split | (with_reducible apply keeps_free) | dsimp only)

theorem keeps_moveTo {r : State} (p : Pos) (s : State) (h_s : Keeps r s) :
    Keeps r (moveTo p s) := by
  unfold moveTo
  repeat' (first
      | with_reducible assumption | (with_reducible intro _)
      | (with_reducible (first
          | apply keeps_freshStep | apply keeps_serveWaits | apply keeps_wakeWaiters | apply keeps_clearHints | apply keeps_ite
          | apply keeps_foldl))
      | split | (with_reducible apply keeps_free) | dsimp only)

theorem keeps_moveTick {r : State} (t : Nat) (s : State) (h_s : Keeps r s) :
    Keeps r (moveTick t s) := by
  unfold moveTick
  repeat' (first
      | with_reducible assumption | (with_reducible intro _)
      | (with_reducible (first
          | apply keeps_moveTo | apply keeps_ite | apply keeps_foldl))
      | split | (with_reducible apply keeps_free) | dsimp only)

theorem keeps_stairSet {r : State} (v : Nat) (s : State) (h_s : Keeps r s) :
    Keeps r (stairSet v s) := by
  unfold stairSet
  repeat' (first
      | with_reducible assumption | (with_reducible intro _)
      | (with_reducible (first
          | apply keeps_moveTo | apply keeps_setPf | apply keeps_ite | apply keeps_foldl))
      | split | (with_reducible apply keeps_free) | dsimp only)

theorem keeps_setEntState {r : State} (s : State) (h : Nat) (e : Nat) (v : Nat) (h_s : Keeps r s) :
    Keeps r (setEntState s h e v) := by
  unfold setEntState
  repeat' (first
      | with_reducible assumption | (with_reducible intro _)
      | (with_reducible (first
          | apply keeps_writeNat | apply keeps_ite | apply keeps_foldl))
      | split | (with_reducible apply keeps_free) | dsimp only)

theorem keeps_setEntWritten {r : State} (s : State) (h : Nat) (e : Nat) (v : Nat) (h_s : Keeps r s) :
    Keeps r (setEntWritten s h e v) := by
  unfold setEntWritten
  repeat' (first
      | with_reducible assumption | (with_reducible intro _)
      | (with_reducible (first
          | apply keeps_writeNat | apply keeps_ite | apply keeps_foldl))
      | split | (with_reducible apply keeps_free) | dsimp only)

theorem keeps_setStash {r : State} (s : State) (x : Stash) (h_s : Keeps r s) :
    Keeps r (setStash s x) := by
  unfold setStash
  repeat' (first
      | with_reducible assumption | (with_reducible intro _)
      | (with_reducible (first
          | apply keeps_ite | apply keeps_foldl))
      | split | (with_reducible apply keeps_free) | dsimp only)

theorem keeps_storeUsed {r : State} (s : State) (x : Stash) (h_s : Keeps r s) :
    Keeps r (storeUsed s x) := by
  unfold storeUsed
  repeat' (first
      | with_reducible assumption | (with_reducible intro _)
      | (with_reducible (first
          | apply keeps_writeNat | apply keeps_ite | apply keeps_foldl))
      | split | (with_reducible apply keeps_free) | dsimp only)

theorem keeps_putStash {r : State} (s : State) (x : Stash) (h_s : Keeps r s) :
    Keeps r (putStash s x) := by
  unfold putStash
  repeat' (first
      | with_reducible assumption | (with_reducible intro _)
      | (with_reducible (first
          | apply keeps_storeUsed | apply keeps_setStash | apply keeps_ite | apply keeps_foldl))
      | split | (with_reducible apply keeps_free) | dsimp only)

theorem keeps_allocate {r : State} (s : State) (x : Stash) (attic : Bool) (z : Nat) (h_s : Keeps r s) :
    Keeps r (allocate s x attic z).1 := by
  unfold allocate
  repeat' (first
      | with_reducible assumption | (with_reducible intro _)
      | (with_reducible (first
          | apply keeps_ite | apply keeps_foldl))
      | split | (with_reducible apply keeps_free) | dsimp only)

theorem keeps_freeMover {r : State} (m : StashMove) (s : State) (h_s : Keeps r s) :
    Keeps r (freeMover m s) := by
  unfold freeMover
  repeat' (first
      | with_reducible assumption | (with_reducible intro _)
      | (with_reducible (first
          | apply unitOk_getUnit | apply keeps_setUnit | apply keeps_ite | apply unitOk_ite | apply unitOk_foldl | apply keeps_foldl
          | apply keeps_foldl_fst | apply keeps_foldl_snd | apply ctlKeeps_done | apply ctlKeeps_wait | apply ctlKeeps_refuse
          | apply ctlKeeps_ite | apply arrKeeps_gone | apply arrKeeps_later | apply arrKeeps_here | apply arrKeeps_ite
          | apply keeps_foldl_CollEnd | apply keeps_ite_CollEnd | apply keeps_foldl_Commit | apply keeps_ite_Commit
          | apply keeps_foldl_DrainSum | apply keeps_ite_DrainSum | apply keeps_foldl_Effect | apply keeps_ite_Effect
          | apply keeps_foldl_LayerDecision | apply keeps_ite_LayerDecision | apply keeps_foldl_MmaSum | apply keeps_ite_MmaSum
          | apply keeps_foldl_QSum | apply keeps_ite_QSum | apply keeps_foldl_QTile | apply keeps_ite_QTile | apply keeps_foldl_UpdSum
          | apply keeps_ite_UpdSum | apply keeps_foldl_VecSum | apply keeps_ite_VecSum | apply keeps_units_map | apply unitOk_getUnit
          | apply unitOk_idle | apply unitOk_advance | apply queueOk_getQueue | apply unitOk_setG | apply unitOk_setT | apply unitOk_setK
          | apply unitOk_setC | apply unitOk_setSt | apply unitOk_setP))
      | split | (with_reducible (first
          | apply keeps_free | apply unitOk_fewer | apply unitOk_mapped
          | apply unitOk_emptied | apply unitOk_free | apply queueOk_map | apply queueOk_free)) | dsimp only)

theorem keeps_unplace {r : State} (h : Nat) (e : Nat) (s : State) (h_s : Keeps r s) :
    Keeps r (unplace h e s) := by
  unfold unplace
  repeat' (first
      | with_reducible assumption | (with_reducible intro _)
      | (with_reducible (first
          | apply keeps_freeMover | apply keeps_putStash | apply keeps_ite | apply keeps_foldl))
      | split | (with_reducible apply keeps_free) | dsimp only)

theorem keeps_dropEntry {r : State} (h : Nat) (e : Nat) (s : State) (h_s : Keeps r s) :
    Keeps r (dropEntry h e s) := by
  unfold dropEntry
  repeat' (first
      | with_reducible assumption | (with_reducible intro _)
      | (with_reducible (first
          | apply keeps_setEntWritten | apply keeps_setEntState | apply keeps_unplace | apply keeps_writeMem | apply keeps_bump
          | apply keeps_writeNat | apply keeps_ite | apply keeps_foldl))
      | split | (with_reducible apply keeps_free) | dsimp only)

theorem keeps_takeSeq {r : State} (h : Nat) (e : Nat) (s : State) (h_s : Keeps r s) :
    Keeps r (takeSeq h e s) := by
  unfold takeSeq
  repeat' (first
      | with_reducible assumption | (with_reducible intro _)
      | (with_reducible (first
          | apply keeps_writeNat | apply keeps_ite | apply keeps_foldl))
      | split | (with_reducible apply keeps_free) | dsimp only)

theorem keeps_placeNow {r : State} (h : Nat) (e : Nat) (s : State) (h_s : Keeps r s) :
    ∀ x, placeNow h e s = some x → Keeps r x := by
  intro z hz
  unfold placeNow at hz
  split at hz
  · cases hz
  dsimp only at hz
  repeat' split at hz
  all_goals (first | cases hz; done | (obtain rfl := Option.some.inj hz))
  repeat' (first
      | with_reducible assumption | (with_reducible intro _)
      | (with_reducible (first
          | apply keeps_allocate | apply keeps_putStash | apply keeps_setEntWritten | apply keeps_setEntState | apply keeps_takeSeq
          | apply keeps_bump | apply keeps_ite | apply keeps_foldl))
      | split | (with_reducible apply keeps_free) | dsimp only)

theorem keeps_writeEntryAt {r : State} (h : Nat) (e : Nat) (s : State) (off : Nat) (bs : List Byte) (h_s : Keeps r s) :
    Keeps r (writeEntryAt h e s off bs) := by
  unfold writeEntryAt
  repeat' (first
      | with_reducible assumption | (with_reducible intro _)
      | (with_reducible (first
          | apply keeps_writeMem | apply keeps_ite | apply keeps_foldl))
      | split | (with_reducible apply keeps_free) | dsimp only)

theorem keeps_addWritten {r : State} (h : Nat) (e : Nat) (ranges : List (Nat × Nat)) (s : State) (h_s : Keeps r s) :
    Keeps r (addWritten h e ranges s) := by
  unfold addWritten
  repeat' (first
      | with_reducible assumption | (with_reducible intro _)
      | (with_reducible (first
          | apply keeps_setStash | apply keeps_setEntWritten | apply keeps_ite | apply keeps_foldl))
      | split | (with_reducible apply keeps_free) | dsimp only)

theorem keeps_releaseEntry {r : State} (h : Nat) (e : Nat) (s : State) (h_s : Keeps r s) :
    Keeps r (releaseEntry h e s) := by
  unfold releaseEntry
  repeat' (first
      | with_reducible assumption | (with_reducible intro _)
      | (with_reducible (first
          | apply keeps_setEntState | apply keeps_unplace | apply keeps_ite | apply keeps_foldl))
      | split | (with_reducible apply keeps_free) | dsimp only)

theorem keeps_closeStashAt {r : State} (h : Nat) (s : State) (h_s : Keeps r s) :
    Keeps r (closeStashAt h s) := by
  unfold closeStashAt
  repeat' (first
      | with_reducible assumption | (with_reducible intro _)
      | (with_reducible (first
          | apply keeps_releaseEntry | apply keeps_ite | apply keeps_foldl))
      | split | (with_reducible apply keeps_free) | dsimp only)

theorem keeps_shareWritten {r : State} (s : State) (h_s : Keeps r s) :
    Keeps r (shareWritten s) := by
  unfold shareWritten
  repeat' (first
      | with_reducible assumption | (with_reducible intro _)
      | (with_reducible (first
          | apply keeps_ite | apply keeps_foldl))
      | split | (with_reducible apply keeps_free) | dsimp only)

theorem keeps_cancelMove {r : State} (h : Nat) (m : StashMove) (s : State) (h_s : Keeps r s) :
    Keeps r (cancelMove h m s) := by
  unfold cancelMove
  repeat' (first
      | with_reducible assumption | (with_reducible intro _)
      | (with_reducible (first
          | apply keeps_putStash | apply keeps_setEntState | apply keeps_ite | apply keeps_foldl))
      | split | (with_reducible apply keeps_free) | dsimp only)

theorem keeps_cancelMovesOf {r : State} (p : StashMove → Bool) (s : State) (h_s : Keeps r s) :
    Keeps r (cancelMovesOf p s) := by
  unfold cancelMovesOf
  repeat' (first
      | with_reducible assumption | (with_reducible intro _)
      | (with_reducible (first
          | apply keeps_cancelMove | apply keeps_ite | apply keeps_foldl))
      | split | (with_reducible apply keeps_free) | dsimp only)

theorem keeps_cancelMoves {r : State} (s : State) (h_s : Keeps r s) :
    Keeps r (cancelMoves s) := by
  unfold cancelMoves
  repeat' (first
      | with_reducible assumption | (with_reducible intro _)
      | (with_reducible (first
          | apply keeps_cancelMovesOf | apply keeps_ite | apply keeps_foldl))
      | split | (with_reducible apply keeps_free) | dsimp only)

theorem keeps_setPortF {r : State} (s : State) (p : PortRef) (off : Nat) (hi : Nat) (lo : Nat) (v : Nat) (h_s : Keeps r s) :
    Keeps r (setPortF s p off hi lo v) := by
  unfold setPortF
  repeat' (first
      | with_reducible assumption | (with_reducible intro _)
      | (with_reducible (first
          | apply keeps_setRf | apply keeps_ite | apply keeps_foldl))
      | split | (with_reducible apply keeps_free) | dsimp only)

theorem keeps_bumpPort {r : State} (s : State) (p : PortRef) (off : Nat) (n : Nat) (h_s : Keeps r s) :
    Keeps r (bumpPort s p off n) := by
  unfold bumpPort
  repeat' (first
      | with_reducible assumption | (with_reducible intro _)
      | (with_reducible (first
          | apply keeps_bump | apply keeps_ite | apply keeps_foldl))
      | split | (with_reducible apply keeps_free) | dsimp only)

theorem keeps_setPort {r : State} (s : State) (x : Port) (h_s : Keeps r s) :
    Keeps r (setPort s x) := by
  unfold setPort
  repeat' (first
      | with_reducible assumption | (with_reducible intro _)
      | (with_reducible (first
          | apply keeps_ite | apply keeps_foldl))
      | split | (with_reducible apply keeps_free) | dsimp only)

theorem keeps_setPortState {r : State} (v : Nat) (p : PortRef) (s : State) (h_s : Keeps r s) :
    Keeps r (setPortState v p s) := by
  unfold setPortState
  repeat' (first
      | with_reducible assumption | (with_reducible intro _)
      | (with_reducible (first
          | apply keeps_setPortF | apply keeps_ite | apply keeps_foldl))
      | split | (with_reducible apply keeps_free) | dsimp only)

theorem keeps_onLane {r : State} (p : PortRef) (f : List Byte) (s : State) (h_s : Keeps r s) :
    Keeps r (onLane p f s) := by
  unfold onLane
  repeat' (first
      | with_reducible assumption | (with_reducible intro _)
      | (with_reducible (first
          | apply keeps_emit | apply keeps_setPort | apply keeps_ite | apply keeps_foldl))
      | split | (with_reducible apply keeps_free) | dsimp only)

theorem keeps_sendFlit {r : State} (p : PortRef) (type tc : Nat) (sop eop : Bool) (payload : List Byte) (s : State) (h_s : Keeps r s) :
    Keeps r (sendFlit p type tc sop eop payload s) := by
  unfold sendFlit
  repeat' (first
      | with_reducible assumption | (with_reducible intro _)
      | (with_reducible (first
          | apply keeps_onLane | apply keeps_setPort | apply keeps_ite | apply keeps_foldl))
      | split | (with_reducible apply keeps_free) | dsimp only)

theorem keeps_takeSkip {r : State} (id : Nat × Nat) (s : State) (h_s : Keeps r s) :
    Keeps r (takeSkip id s) := by
  unfold takeSkip
  repeat' (first
      | with_reducible assumption | (with_reducible intro _)
      | (with_reducible (first
          | apply keeps_ite | apply keeps_foldl))
      | split | (with_reducible apply keeps_free) | dsimp only)

theorem keeps_leave {r : State} (p : PortRef) (w : QFlit) (s : State) (h_s : Keeps r s) :
    Keeps r (leave p w s) := by
  unfold leave
  repeat' (first
      | with_reducible assumption | (with_reducible intro _)
      | (with_reducible (first
          | apply keeps_takeSkip | apply keeps_sendFlit | apply keeps_setPort | apply keeps_ite | apply keeps_foldl))
      | split | (with_reducible apply keeps_free) | dsimp only)

theorem keeps_drainLoop {r : State} (p : PortRef) (a1 : List QFlit) (a2 : List QFlit) (a3 : List Nat) (a4 : State) (h_a4 : Keeps r a4) :
    Keeps r (drainLoop p a1 a2 a3 a4) := by
  induction a1 generalizing a2 a3 a4 with
  | nil => exact keeps_setPort _ _ h_a4
  | cons w rest ih =>
    unfold drainLoop
    dsimp only
    split
    · exact ih _ _ _ h_a4
    · exact ih _ _ _ (keeps_leave _ _ _ (keeps_setPort _ _ h_a4))

theorem keeps_drainPort {r : State} (p : PortRef) (s : State) (h_s : Keeps r s) :
    Keeps r (drainPort p s) := by
  unfold drainPort
  repeat' (first
      | with_reducible assumption | (with_reducible intro _)
      | (with_reducible (first
          | apply keeps_drainLoop | apply keeps_ite | apply keeps_foldl))
      | split | (with_reducible apply keeps_free) | dsimp only)

theorem keeps_queueFlit {r : State} (p : PortRef) (type : Nat) (payload : List Byte) (s : State) (h_s : Keeps r s) :
    Keeps r (queueFlit p type payload s) := by
  unfold queueFlit
  repeat' (first
      | with_reducible assumption | (with_reducible intro _)
      | (with_reducible (first
          | apply keeps_drainPort | apply keeps_setPort | apply keeps_ite | apply keeps_foldl))
      | split | (with_reducible apply keeps_free) | dsimp only)

theorem keeps_queuePacket {r : State} (p : PortRef) (tc : Nat) (bytes : List Byte) (s : State) (h_s : Keeps r s) :
    Keeps r (queuePacket p tc bytes s) := by
  unfold queuePacket
  repeat' (first
      | with_reducible assumption | (with_reducible intro _)
      | (with_reducible (first
          | apply keeps_drainPort | apply keeps_setPort | apply keeps_ite | apply keeps_foldl))
      | split | (with_reducible apply keeps_free) | dsimp only)

theorem keeps_ackFlits {r : State} (p : PortRef) (n : Nat) (s : State) (h_s : Keeps r s) :
    Keeps r (ackFlits p n s) := by
  unfold ackFlits
  repeat' (first
      | with_reducible assumption | (with_reducible intro _)
      | (with_reducible (first
          | apply keeps_setPort | apply keeps_ite | apply keeps_foldl))
      | split | (with_reducible apply keeps_free) | dsimp only)

theorem keeps_routePacket {r : State} (tc : Nat) (bytes : List Byte) (s : State) (h_s : Keeps r s) :
    Keeps r (routePacket tc bytes s) := by
  unfold routePacket
  repeat' (first
      | with_reducible assumption | (with_reducible intro _)
      | (with_reducible (first
          | apply keeps_emit | apply keeps_queuePacket | apply keeps_ite | apply keeps_foldl))
      | split | (with_reducible apply keeps_free) | dsimp only)

theorem keeps_routeWaiting {r : State} (p : PortRef) (s : State) (h_s : Keeps r s) :
    Keeps r (routeWaiting p s) := by
  unfold routeWaiting
  repeat' (first
      | with_reducible assumption | (with_reducible intro _)
      | (with_reducible (first
          | apply keeps_queuePacket | apply keeps_ite | apply keeps_foldl))
      | split | (with_reducible apply keeps_free) | dsimp only)

theorem keeps_giveCredits {r : State} (p : PortRef) (tc : Nat) (n : Nat) (s : State) (h_s : Keeps r s) :
    Keeps r (giveCredits p tc n s) := by
  unfold giveCredits
  repeat' (first
      | with_reducible assumption | (with_reducible intro _)
      | (with_reducible (first
          | apply keeps_sendFlit | apply keeps_ite | apply keeps_foldl))
      | split | (with_reducible apply keeps_free) | dsimp only)

theorem keeps_releaseDue {r : State} (test : Nat → Nat → Bool) (s : State) (h_s : Keeps r s) :
    Keeps r (releaseDue test s) := by
  unfold releaseDue
  repeat' (first
      | with_reducible assumption | (with_reducible intro _)
      | (with_reducible (first
          | apply keeps_giveCredits | apply keeps_ite | apply keeps_foldl))
      | split | (with_reducible apply keeps_free) | dsimp only)

theorem keeps_reroute {r : State} (p : PortRef) (s : State) (h_s : Keeps r s) :
    Keeps r (reroute p s) := by
  unfold reroute
  repeat' (first
      | with_reducible assumption | (with_reducible intro _)
      | (with_reducible (first
          | apply keeps_setPort | apply keeps_queuePacket | apply keeps_ite | apply keeps_foldl))
      | split | (with_reducible apply keeps_free) | dsimp only)

theorem keeps_turnOff {r : State} (p : PortRef) (s : State) (h_s : Keeps r s) :
    Keeps r (turnOff p s) := by
  unfold turnOff
  repeat' (first
      | with_reducible assumption | (with_reducible intro _)
      | (with_reducible (first
          | apply keeps_reroute | apply keeps_setPortState | apply keeps_setPort | apply keeps_setPortF | apply keeps_ite
          | apply keeps_foldl))
      | split | (with_reducible apply keeps_free) | dsimp only)

theorem keeps_enterRetrain {r : State} (p : PortRef) (s : State) (h_s : Keeps r s) :
    Keeps r (enterRetrain p s) := by
  unfold enterRetrain
  repeat' (first
      | with_reducible assumption | (with_reducible intro _)
      | (with_reducible (first
          | apply keeps_setPort | apply keeps_bumpPort | apply keeps_setPortState | apply keeps_reroute | apply keeps_ite
          | apply keeps_foldl))
      | split | (with_reducible apply keeps_free) | dsimp only)

theorem keeps_sendDescriptor {r : State} (p : PortRef) (s : State) (h_s : Keeps r s) :
    Keeps r (sendDescriptor p s) := by
  unfold sendDescriptor
  repeat' (first
      | with_reducible assumption | (with_reducible intro _)
      | (with_reducible (first
          | apply keeps_queueFlit | apply keeps_ite | apply keeps_foldl))
      | split | (with_reducible apply keeps_free) | dsimp only)

theorem keeps_announceSelf {r : State} (s : State) (h_s : Keeps r s) :
    Keeps r (announceSelf s) := by
  unfold announceSelf
  repeat' (first
      | with_reducible assumption | (with_reducible intro _)
      | (with_reducible (first
          | apply keeps_sendDescriptor | apply keeps_ite | apply keeps_foldl))
      | split | (with_reducible apply keeps_free) | dsimp only)

theorem keeps_sendTimestamp {r : State} (p : PortRef) (s : State) (h_s : Keeps r s) :
    Keeps r (sendTimestamp p s) := by
  unfold sendTimestamp
  repeat' (first
      | with_reducible assumption | (with_reducible intro _)
      | (with_reducible (first
          | apply keeps_sendFlit | apply keeps_tick | apply keeps_ite | apply keeps_foldl))
      | split | (with_reducible apply keeps_free) | dsimp only)

theorem keeps_writePortCtrl {r : State} (p : PortRef) (v : Nat) (s : State) (h_s : Keeps r s) :
    Keeps r (writePortCtrl p v s) := by
  unfold writePortCtrl
  repeat' (first
      | with_reducible assumption | (with_reducible intro _)
      | (with_reducible (first
          | apply keeps_setPortF | apply keeps_turnOff | apply keeps_setPortState | apply keeps_enterRetrain | apply keeps_ite
          | apply keeps_foldl))
      | split | (with_reducible apply keeps_free) | dsimp only)

theorem keeps_sendRetry {r : State} (p : PortRef) (s : State) (h_s : Keeps r s) :
    Keeps r (sendRetry p s) := by
  unfold sendRetry
  repeat' (first
      | with_reducible assumption | (with_reducible intro _)
      | (with_reducible (first
          | apply keeps_sendFlit | apply keeps_ite | apply keeps_foldl))
      | split | (with_reducible apply keeps_free) | dsimp only)

theorem keeps_addCredits {r : State} (p : PortRef) (tc : Nat) (n : Nat) (s : State) (h_s : Keeps r s) :
    Keeps r (addCredits p tc n s) := by
  unfold addCredits
  repeat' (first
      | with_reducible assumption | (with_reducible intro _)
      | (with_reducible (first
          | apply keeps_setPort | apply keeps_ite | apply keeps_foldl))
      | split | (with_reducible apply keeps_free) | dsimp only)

theorem keeps_countPseq {r : State} (dst : Nat) (s : State) (h_s : Keeps r s) :
    Keeps r (countPseq dst s) := by
  unfold countPseq
  repeat' (first
      | with_reducible assumption | (with_reducible intro _)
      | (with_reducible (first
          | apply keeps_ite | apply keeps_foldl))
      | split | (with_reducible apply keeps_free) | dsimp only)

theorem keeps_sendPacketAs {r : State} (epoch tc : Nat) (pkind dst : Nat) (payload : List Byte) (s : State) (h_s : Keeps r s) :
    Keeps r (sendPacketAs epoch tc pkind dst payload s) := by
  unfold sendPacketAs
  repeat' (first
      | with_reducible assumption | (with_reducible intro _)
      | (with_reducible (first
          | apply keeps_routePacket | apply keeps_countPseq | apply keeps_ite | apply keeps_foldl))
      | split | (with_reducible apply keeps_free) | dsimp only)

theorem keeps_sendPacket {r : State} (tc : Nat) (pkind : Nat) (dst : Nat) (payload : List Byte) (s : State) (h_s : Keeps r s) :
    Keeps r (sendPacket tc pkind dst payload s) := by
  unfold sendPacket
  repeat' (first
      | with_reducible assumption | (with_reducible intro _)
      | (with_reducible (first
          | apply keeps_sendPacketAs | apply keeps_ite | apply keeps_foldl))
      | split | (with_reducible apply keeps_free) | dsimp only)

theorem keeps_sendToRank {r : State} (tc : Nat) (pkind : Nat) (rank : Nat) (payload : List Byte) (s : State) (h_s : Keeps r s) :
    Keeps r (sendToRank tc pkind rank payload s) := by
  unfold sendToRank
  repeat' (first
      | with_reducible assumption | (with_reducible intro _)
      | (with_reducible (first
          | apply keeps_sendPacket | apply keeps_ite | apply keeps_foldl))
      | split | (with_reducible apply keeps_free) | dsimp only)

theorem keeps_sendToMembers {r : State} (tc : Nat) (pkind : Nat) (payload : List Byte) (s : State) (h_s : Keeps r s) :
    Keeps r (sendToMembers tc pkind payload s) := by
  unfold sendToMembers
  repeat' (first
      | with_reducible assumption | (with_reducible intro _)
      | (with_reducible (first
          | apply keeps_sendToRank | apply keeps_ite | apply keeps_foldl))
      | split | (with_reducible apply keeps_free) | dsimp only)

theorem keeps_arrive {r : State} (pk : List Byte) (s : State) (h_s : Keeps r s) :
    ArrKeeps r (arrive pk s) := by
  unfold arrive
  repeat' (first
      | with_reducible assumption | (with_reducible intro _)
      | (with_reducible (first
          | apply keeps_bump | apply keeps_emit | apply keeps_ite | apply unitOk_ite | apply unitOk_foldl | apply keeps_foldl
          | apply keeps_foldl_fst | apply keeps_foldl_snd | apply ctlKeeps_done | apply ctlKeeps_wait | apply ctlKeeps_refuse
          | apply ctlKeeps_ite | apply arrKeeps_gone | apply arrKeeps_later | apply arrKeeps_here | apply arrKeeps_ite
          | apply keeps_foldl_CollEnd | apply keeps_ite_CollEnd | apply keeps_foldl_Commit | apply keeps_ite_Commit
          | apply keeps_foldl_DrainSum | apply keeps_ite_DrainSum | apply keeps_foldl_Effect | apply keeps_ite_Effect
          | apply keeps_foldl_LayerDecision | apply keeps_ite_LayerDecision | apply keeps_foldl_MmaSum | apply keeps_ite_MmaSum
          | apply keeps_foldl_QSum | apply keeps_ite_QSum | apply keeps_foldl_QTile | apply keeps_ite_QTile | apply keeps_foldl_UpdSum
          | apply keeps_ite_UpdSum | apply keeps_foldl_VecSum | apply keeps_ite_VecSum | apply keeps_units_map | apply unitOk_getUnit
          | apply unitOk_idle | apply unitOk_advance | apply queueOk_getQueue | apply unitOk_setG | apply unitOk_setT | apply unitOk_setK
          | apply unitOk_setC | apply unitOk_setSt | apply unitOk_setP))
      | split | (with_reducible (first
          | apply keeps_free | apply unitOk_fewer | apply unitOk_mapped
          | apply unitOk_emptied | apply unitOk_free | apply queueOk_map | apply queueOk_free)) | dsimp only)

theorem keeps_setBoxBit {r : State} (s : State) (box : Nat) (off : Nat) (i : Nat) (b : Bool) (h_s : Keeps r s) :
    Keeps r (setBoxBit s box off i b) := by
  unfold setBoxBit
  repeat' (first
      | with_reducible assumption | (with_reducible intro _)
      | (with_reducible (first
          | apply keeps_setBox | apply keeps_ite | apply keeps_foldl))
      | split | (with_reducible apply keeps_free) | dsimp only)

theorem keeps_setSlotState {r : State} (s : State) (box : Nat) (n : Nat) (v : Nat) (h_s : Keeps r s) :
    Keeps r (setSlotState s box n v) := by
  unfold setSlotState
  repeat' (first
      | with_reducible assumption | (with_reducible intro _)
      | (with_reducible (first
          | apply keeps_slotWrite | apply keeps_ite | apply keeps_foldl))
      | split | (with_reducible apply keeps_free) | dsimp only)

theorem keeps_freeSlot {r : State} (s : State) (box : Nat) (n : Nat) (h_s : Keeps r s) :
    Keeps r (freeSlot s box n) := by
  unfold freeSlot
  repeat' (first
      | with_reducible assumption | (with_reducible intro _)
      | (with_reducible (first
          | apply keeps_slotWrite | apply keeps_ite | apply keeps_foldl))
      | split | (with_reducible apply keeps_free) | dsimp only)

theorem keeps_signalReceiver {r : State} (box : Nat) (s : State) (h_s : Keeps r s) :
    Keeps r (signalReceiver box s) := by
  unfold signalReceiver
  repeat' (first
      | with_reducible assumption | (with_reducible intro _)
      | (with_reducible (first
          | apply keeps_sendMsi | apply keeps_emit | apply keeps_ite | apply keeps_foldl))
      | split | (with_reducible apply keeps_free) | dsimp only)

theorem keeps_signalSender {r : State} (box : Nat) (n : Nat) (s : State) (h_s : Keeps r s) :
    Keeps r (signalSender box n s) := by
  unfold signalSender
  repeat' (first
      | with_reducible assumption | (with_reducible intro _)
      | (with_reducible (first
          | apply keeps_emit | apply keeps_sendMsi | apply keeps_ite | apply keeps_foldl))
      | split | (with_reducible apply keeps_free) | dsimp only)

theorem keeps_ackSlot {r : State} (box : Nat) (n : Nat) (code : Nat) (s : State) (h_s : Keeps r s) :
    Keeps r (ackSlot box n code s) := by
  unfold ackSlot
  repeat' (first
      | with_reducible assumption | (with_reducible intro _)
      | (with_reducible (first
          | apply keeps_slotWrite | apply keeps_setSlotState | apply keeps_signalSender | apply keeps_setBoxBit | apply keeps_ite
          | apply keeps_foldl))
      | split | (with_reducible apply keeps_free) | dsimp only)

theorem keeps_claim {r : State} (box : Nat) (sender : Nat) (s : State) (h_s : Keeps r s) :
    Keeps r (claim box sender s) := by
  unfold claim
  repeat' (first
      | with_reducible assumption | (with_reducible intro _)
      | (with_reducible (first
          | apply keeps_setBox | apply keeps_slotWrite | apply keeps_ite | apply keeps_foldl))
      | split | (with_reducible apply keeps_free) | dsimp only)

theorem keeps_setBell {r : State} (box : Nat) (i : Nat) (s : State) (h_s : Keeps r s) :
    Keeps r (setBell box i s) := by
  unfold setBell
  repeat' (first
      | with_reducible assumption | (with_reducible intro _)
      | (with_reducible (first
          | apply keeps_setBoxBit | apply keeps_signalReceiver | apply keeps_ite | apply keeps_foldl))
      | split | (with_reducible apply keeps_free) | dsimp only)

theorem keeps_sendTc2 {r : State} (dst : Nat) (payload : List Byte) (s : State) (h_s : Keeps r s) :
    Keeps r (sendTc2 dst payload s) := by
  unfold sendTc2
  repeat' (first
      | with_reducible assumption | (with_reducible intro _)
      | (with_reducible (first
          | apply keeps_sendPacket | apply keeps_ite | apply keeps_foldl))
      | split | (with_reducible apply keeps_free) | dsimp only)

theorem keeps_returnAck {r : State} (dst : Nat) (seq : Nat) (code : Nat) (s : State) (h_s : Keeps r s) :
    Keeps r (returnAck dst seq code s) := by
  unfold returnAck
  repeat' (first
      | with_reducible assumption | (with_reducible intro _)
      | (with_reducible (first
          | apply keeps_sendTc2 | apply keeps_emit | apply keeps_ite | apply keeps_foldl))
      | split | (with_reducible apply keeps_free) | dsimp only)

theorem keeps_sendLetter {r : State} (n : Nat) (s : State) (h_s : Keeps r s) :
    Keeps r (sendLetter n s) := by
  unfold sendLetter
  repeat' (first
      | with_reducible assumption | (with_reducible intro _)
      | (with_reducible (first
          | apply keeps_ackSlot | apply keeps_sendTc2 | apply keeps_emit | apply keeps_ite | apply keeps_foldl))
      | split | (with_reducible apply keeps_free) | dsimp only)

theorem keeps_ring {r : State} (box : Nat) (sender : Nat) (n : Nat) (src : Nat) (s : State) (h_s : Keeps r s) :
    Keeps r (ring box sender n src s) := by
  unfold ring
  repeat' (first
      | with_reducible assumption | (with_reducible intro _)
      | (with_reducible (first
          | apply keeps_setBell | apply keeps_slotWrite | apply keeps_setSlotState | apply keeps_sendLetter | apply keeps_ackSlot
          | apply keeps_setBoxBit | apply keeps_ite | apply keeps_foldl))
      | split | (with_reducible apply keeps_free) | dsimp only)

theorem keeps_fillIn {r : State} (src : Nat) (seq : Nat) (payload : List Byte) (n : Nat) (s : State) (h_s : Keeps r s) :
    Keeps r (fillIn src seq payload n s) := by
  unfold fillIn
  repeat' (first
      | with_reducible assumption | (with_reducible intro _)
      | (with_reducible (first
          | apply keeps_slotWrite | apply keeps_signalReceiver | apply keeps_sendMsi | apply keeps_ite | apply keeps_foldl))
      | split | (with_reducible apply keeps_free) | dsimp only)

theorem keeps_answerLost {r : State} (src : Nat) (seq : Nat) (s : State) (h_s : Keeps r s) :
    Keeps r (answerLost src seq s) := by
  unfold answerLost
  repeat' (first
      | with_reducible assumption | (with_reducible intro _)
      | (with_reducible (first
          | apply keeps_returnAck | apply keeps_ite | apply keeps_foldl))
      | split | (with_reducible apply keeps_free) | dsimp only)

theorem keeps_serveHeld {r : State} (s : State) (h_s : Keeps r s) :
    Keeps r (serveHeld s) := by
  unfold serveHeld
  repeat' (first
      | with_reducible assumption | (with_reducible intro _)
      | (with_reducible (first
          | apply keeps_releaseDue | apply keeps_fillIn | apply keeps_ite | apply keeps_foldl))
      | split | (with_reducible apply keeps_free) | dsimp only)

theorem keeps_acknowledge {r : State} (box : Nat) (n : Nat) (seq : Nat) (code : Nat) (s : State) (h_s : Keeps r s) :
    Keeps r (acknowledge box n seq code s) := by
  unfold acknowledge
  repeat' (first
      | with_reducible assumption | (with_reducible intro _)
      | (with_reducible (first
          | apply keeps_serveHeld | apply keeps_freeSlot | apply keeps_returnAck | apply keeps_ackSlot | apply keeps_setBoxBit
          | apply keeps_ite | apply keeps_foldl))
      | split | (with_reducible apply keeps_free) | dsimp only)

theorem keeps_releaseSlot {r : State} (box : Nat) (n : Nat) (sender : Nat) (s : State) (h_s : Keeps r s) :
    Keeps r (releaseSlot box n sender s) := by
  unfold releaseSlot
  repeat' (first
      | with_reducible assumption | (with_reducible intro _)
      | (with_reducible (first
          | apply keeps_freeSlot | apply keeps_setBoxBit | apply keeps_ite | apply keeps_foldl))
      | split | (with_reducible apply keeps_free) | dsimp only)

theorem keeps_maskWrite {r : State} (box : Nat) (v : Nat) (s : State) (h_s : Keeps r s) :
    Keeps r (maskWrite box v s) := by
  unfold maskWrite
  repeat' (first
      | with_reducible assumption | (with_reducible intro _)
      | (with_reducible (first
          | apply keeps_setBox | apply keeps_signalReceiver | apply keeps_ite | apply keeps_foldl))
      | split | (with_reducible apply keeps_free) | dsimp only)

theorem keeps_resetSlot {r : State} (box : Nat) (s : State) (n : Nat) (h_s : Keeps r s) :
    Keeps r (resetSlot box s n) := by
  unfold resetSlot
  repeat' (first
      | with_reducible assumption | (with_reducible intro _)
      | (with_reducible (first
          | apply keeps_freeSlot | apply keeps_returnAck | apply keeps_ackSlot | apply keeps_slotWrite | apply keeps_ite | apply keeps_foldl))
      | split | (with_reducible apply keeps_free) | dsimp only)

theorem keeps_resetBoxes {r : State} (dom : Nat) (s : State) (h_s : Keeps r s) :
    Keeps r (resetBoxes dom s) := by
  unfold resetBoxes
  repeat' (first
      | with_reducible assumption | (with_reducible intro _)
      | (with_reducible (first
          | apply keeps_setBox | apply keeps_resetSlot | apply keeps_freeSlot | apply keeps_serveHeld | apply keeps_ite | apply keeps_foldl))
      | split | (with_reducible apply keeps_free) | dsimp only)

theorem keeps_answerHeld {r : State} (s : State) (h_s : Keeps r s) :
    Keeps r (answerHeld s) := by
  unfold answerHeld
  repeat' (first
      | with_reducible assumption | (with_reducible intro _)
      | (with_reducible (first
          | apply keeps_releaseDue | apply keeps_answerLost | apply keeps_ite | apply keeps_foldl))
      | split | (with_reducible apply keeps_free) | dsimp only)

theorem keeps_answerPosted {r : State} (box : Nat) (s : State) (h_s : Keeps r s) :
    Keeps r (answerPosted box s) := by
  unfold answerPosted
  repeat' (first
      | with_reducible assumption | (with_reducible intro _)
      | (with_reducible (first
          | apply keeps_resetSlot | apply keeps_ite | apply keeps_foldl))
      | split | (with_reducible apply keeps_free) | dsimp only)

theorem keeps_setReceiverLost {r : State} (dom : Nat) (b : Bool) (s : State) (h_s : Keeps r s) :
    Keeps r (setReceiverLost dom b s) := by
  unfold setReceiverLost
  repeat' (first
      | with_reducible assumption | (with_reducible intro _)
      | (with_reducible (first
          | apply keeps_setBoxBit | apply keeps_answerPosted | apply keeps_answerHeld | apply keeps_ite | apply keeps_foldl))
      | split | (with_reducible apply keeps_free) | dsimp only)

theorem keeps_answerDeparted {r : State} (addr : Nat) (s : State) (h_s : Keeps r s) :
    Keeps r (answerDeparted addr s) := by
  unfold answerDeparted
  repeat' (first
      | with_reducible assumption | (with_reducible intro _)
      | (with_reducible (first
          | apply keeps_ackSlot | apply keeps_ite | apply keeps_foldl))
      | split | (with_reducible apply keeps_free) | dsimp only)

theorem keeps_showRates {r : State} (s : State) (h_s : Keeps r s) :
    Keeps r (showRates s) := by
  unfold showRates
  repeat' (first
      | with_reducible assumption | (with_reducible intro _)
      | (with_reducible (first
          | apply keeps_setRf | apply keeps_ite | apply keeps_foldl))
      | split | (with_reducible apply keeps_free) | dsimp only)

theorem keeps_setLimiter {r : State} (r1 : Nat) (s : State) (h_s : Keeps r s) :
    Keeps r (setLimiter r1 s) := by
  unfold setLimiter
  repeat' (first
      | with_reducible assumption | (with_reducible intro _)
      | (with_reducible (first
          | apply keeps_showRates | apply keeps_setPf | apply keeps_ite | apply keeps_foldl))
      | split | (with_reducible apply keeps_free) | dsimp only)

theorem keeps_showGrants {r : State} (s : State) (h_s : Keeps r s) :
    Keeps r (showGrants s) := by
  unfold showGrants
  repeat' (first
      | with_reducible assumption | (with_reducible intro _)
      | (with_reducible (first
          | apply keeps_setPf | apply keeps_ite | apply keeps_foldl))
      | split | (with_reducible apply keeps_free) | dsimp only)

theorem keeps_admitLoop {r : State} (a0 : List Nat) (a1 : State) (h_a1 : Keeps r a1) :
    Keeps r (admitLoop a0 a1) := by
  induction a0 generalizing a1 with
  | nil => exact h_a1
  | cons n rest ih =>
    unfold admitLoop
    split
    · exact ih _ h_a1
    · split
      · refine ih _ ?_
        repeat' (first
            | with_reducible assumption | (with_reducible intro _)
            | (with_reducible (first
                | apply keeps_bump | apply keeps_ite | apply unitOk_ite | apply unitOk_foldl | apply keeps_foldl | apply keeps_foldl_fst
                | apply keeps_foldl_snd | apply ctlKeeps_done | apply ctlKeeps_wait | apply ctlKeeps_refuse | apply ctlKeeps_ite
                | apply arrKeeps_gone | apply arrKeeps_later | apply arrKeeps_here | apply arrKeeps_ite | apply keeps_foldl_CollEnd
                | apply keeps_ite_CollEnd | apply keeps_foldl_Commit | apply keeps_ite_Commit | apply keeps_foldl_DrainSum
                | apply keeps_ite_DrainSum | apply keeps_foldl_Effect | apply keeps_ite_Effect | apply keeps_foldl_LayerDecision
                | apply keeps_ite_LayerDecision | apply keeps_foldl_MmaSum | apply keeps_ite_MmaSum | apply keeps_foldl_QSum
                | apply keeps_ite_QSum | apply keeps_foldl_QTile | apply keeps_ite_QTile | apply keeps_foldl_UpdSum | apply keeps_ite_UpdSum
                | apply keeps_foldl_VecSum | apply keeps_ite_VecSum | apply keeps_units_map | apply unitOk_getUnit | apply unitOk_idle
                | apply unitOk_advance | apply queueOk_getQueue | apply unitOk_setG | apply unitOk_setT | apply unitOk_setK
                | apply unitOk_setC | apply unitOk_setSt | apply unitOk_setP))
            | split | (with_reducible (first
                | apply keeps_free | apply unitOk_fewer | apply unitOk_mapped
                | apply unitOk_emptied | apply unitOk_free | apply queueOk_map | apply queueOk_free)) | dsimp only)
      · exact h_a1

theorem keeps_letIn {r : State} (s : State) (h_s : Keeps r s) :
    Keeps r (letIn s) := by
  unfold letIn
  repeat' (first
      | with_reducible assumption | (with_reducible intro _)
      | (with_reducible (first
          | apply keeps_showGrants | apply keeps_admitLoop | apply keeps_ite | apply keeps_foldl))
      | split | (with_reducible apply keeps_free) | dsimp only)

theorem keeps_request {r : State} (u : UnitRef) (watts : Nat) (source : GrantSource) (landing : Option Nat) (s : State) (h_s : Keeps r s) :
    Keeps r (request u watts source landing s).1 := by
  unfold request
  repeat' (first
      | with_reducible assumption | (with_reducible intro _)
      | (with_reducible (first
          | apply keeps_letIn | apply keeps_bump | apply keeps_ite | apply keeps_foldl))
      | split | (with_reducible apply keeps_free) | dsimp only)

theorem keeps_dropGrants {r : State} (p : Grant → Bool) (s : State) (h_s : Keeps r s) :
    Keeps r (dropGrants p s) := by
  unfold dropGrants
  repeat' (first
      | with_reducible assumption | (with_reducible intro _)
      | (with_reducible (first
          | apply keeps_showGrants | apply keeps_ite | apply keeps_foldl))
      | split | (with_reducible apply keeps_free) | dsimp only)

theorem keeps_withdrawGrants {r : State} (s : State) (h_s : Keeps r s) :
    Keeps r (withdrawGrants s) := by
  unfold withdrawGrants
  repeat' (first
      | with_reducible assumption | (with_reducible intro _)
      | (with_reducible (first
          | apply keeps_bump | apply keeps_dropGrants | apply keeps_ite | apply unitOk_ite | apply unitOk_foldl | apply keeps_foldl
          | apply keeps_foldl_fst | apply keeps_foldl_snd | apply ctlKeeps_done | apply ctlKeeps_wait | apply ctlKeeps_refuse
          | apply ctlKeeps_ite | apply arrKeeps_gone | apply arrKeeps_later | apply arrKeeps_here | apply arrKeeps_ite
          | apply keeps_foldl_CollEnd | apply keeps_ite_CollEnd | apply keeps_foldl_Commit | apply keeps_ite_Commit
          | apply keeps_foldl_DrainSum | apply keeps_ite_DrainSum | apply keeps_foldl_Effect | apply keeps_ite_Effect
          | apply keeps_foldl_LayerDecision | apply keeps_ite_LayerDecision | apply keeps_foldl_MmaSum | apply keeps_ite_MmaSum
          | apply keeps_foldl_QSum | apply keeps_ite_QSum | apply keeps_foldl_QTile | apply keeps_ite_QTile | apply keeps_foldl_UpdSum
          | apply keeps_ite_UpdSum | apply keeps_foldl_VecSum | apply keeps_ite_VecSum | apply keeps_units_map | apply unitOk_getUnit
          | apply unitOk_idle | apply unitOk_advance | apply queueOk_getQueue | apply unitOk_setG | apply unitOk_setT | apply unitOk_setK
          | apply unitOk_setC | apply unitOk_setSt | apply unitOk_setP))
      | split | (with_reducible (first
          | apply keeps_free | apply unitOk_fewer | apply unitOk_mapped
          | apply unitOk_emptied | apply unitOk_free | apply queueOk_map | apply queueOk_free)) | dsimp only)

theorem keeps_addEnergy {r : State} (off : Nat) (r1 : Nat) (nj : Nat) (s : State) (h_s : Keeps r s) :
    Keeps r (addEnergy off r1 nj s).1 := by
  exact keeps_bump _ _ _ _ h_s

theorem keeps_addIdle {r : State} (nj : Nat) (s : State) (h_s : Keeps r s) :
    Keeps r (addIdle nj s) := by
  unfold addIdle
  repeat' (first
      | with_reducible assumption | (with_reducible intro _)
      | (with_reducible (first
          | apply keeps_addEnergy | apply keeps_ite | apply keeps_foldl))
      | split | (with_reducible apply keeps_free) | dsimp only)

theorem keeps_addOverhead {r : State} (nj : Nat) (s : State) (h_s : Keeps r s) :
    Keeps r (addOverhead nj s) := by
  unfold addOverhead
  repeat' (first
      | with_reducible assumption | (with_reducible intro _)
      | (with_reducible (first
          | apply keeps_addEnergy | apply keeps_ite | apply keeps_foldl))
      | split | (with_reducible apply keeps_free) | dsimp only)

theorem keeps_addTotal {r : State} (nj : Nat) (s : State) (h_s : Keeps r s) :
    Keeps r (addTotal nj s) := by
  unfold addTotal
  repeat' (first
      | with_reducible assumption | (with_reducible intro _)
      | (with_reducible (first
          | apply keeps_addEnergy | apply keeps_ite | apply keeps_foldl))
      | split | (with_reducible apply keeps_free) | dsimp only)

theorem keeps_addJob {r : State} (nj : Nat) (s : State) (h_s : Keeps r s) :
    Keeps r (addJob nj s) := by
  unfold addJob
  repeat' (first
      | with_reducible assumption | (with_reducible intro _)
      | (with_reducible (first
          | apply keeps_addEnergy | apply keeps_ite | apply keeps_foldl))
      | split | (with_reducible apply keeps_free) | dsimp only)

theorem keeps_showFallback {r : State} (s : State) (h_s : Keeps r s) :
    Keeps r (showFallback s) := by
  unfold showFallback
  repeat' (first
      | with_reducible assumption | (with_reducible intro _)
      | (with_reducible (first
          | apply keeps_setPf | apply keeps_ite | apply keeps_foldl))
      | split | (with_reducible apply keeps_free) | dsimp only)

theorem keeps_showSupply {r : State} (dom : Nat) (s : State) (h_s : Keeps r s) :
    Keeps r (showSupply dom s) := by
  unfold showSupply
  repeat' (first
      | with_reducible assumption | (with_reducible intro _)
      | (with_reducible (first
          | apply keeps_setRf | apply keeps_ite | apply keeps_foldl))
      | split | (with_reducible apply keeps_free) | dsimp only)

theorem keeps_startRamp {r : State} (dom : Nat) (s : State) (h_s : Keeps r s) :
    Keeps r (startRamp dom s) := by
  unfold startRamp
  repeat' (first
      | with_reducible assumption | (with_reducible intro _)
      | (with_reducible (first
          | apply keeps_setRf | apply keeps_ite | apply keeps_foldl))
      | split | (with_reducible apply keeps_free) | dsimp only)

theorem keeps_liftLoop {r : State} (a0 : Nat) (a1 : State) (h_a1 : Keeps r a1) :
    Keeps r (liftLoop a0 a1) := by
  induction a0 generalizing a1 with
  | zero => exact h_a1
  | succ n ih =>
    unfold liftLoop
    split
    · exact h_a1
    · refine ih _ ?_
      repeat' (first
          | with_reducible assumption | (with_reducible intro _)
          | (with_reducible (first
              | apply keeps_ite | apply unitOk_ite | apply unitOk_foldl | apply keeps_foldl | apply keeps_foldl_fst | apply keeps_foldl_snd
              | apply ctlKeeps_done | apply ctlKeeps_wait | apply ctlKeeps_refuse | apply ctlKeeps_ite | apply arrKeeps_gone
              | apply arrKeeps_later | apply arrKeeps_here | apply arrKeeps_ite | apply keeps_foldl_CollEnd | apply keeps_ite_CollEnd
              | apply keeps_foldl_Commit | apply keeps_ite_Commit | apply keeps_foldl_DrainSum | apply keeps_ite_DrainSum
              | apply keeps_foldl_Effect | apply keeps_ite_Effect | apply keeps_foldl_LayerDecision | apply keeps_ite_LayerDecision
              | apply keeps_foldl_MmaSum | apply keeps_ite_MmaSum | apply keeps_foldl_QSum | apply keeps_ite_QSum | apply keeps_foldl_QTile
              | apply keeps_ite_QTile | apply keeps_foldl_UpdSum | apply keeps_ite_UpdSum | apply keeps_foldl_VecSum
              | apply keeps_ite_VecSum | apply keeps_units_map | apply unitOk_getUnit | apply unitOk_idle | apply unitOk_advance
              | apply queueOk_getQueue | apply unitOk_setG | apply unitOk_setT | apply unitOk_setK | apply unitOk_setC | apply unitOk_setSt
              | apply unitOk_setP))
          | split | (with_reducible (first
              | apply keeps_free | apply unitOk_fewer | apply unitOk_mapped
              | apply unitOk_emptied | apply unitOk_free | apply queueOk_map | apply queueOk_free)) | dsimp only)

theorem keeps_relift {r : State} (s : State) (h_s : Keeps r s) :
    Keeps r (relift s) := by
  unfold relift
  repeat' (first
      | with_reducible assumption | (with_reducible intro _)
      | (with_reducible (first
          | apply keeps_liftLoop | apply keeps_bump | apply keeps_ite | apply keeps_foldl))
      | split | (with_reducible apply keeps_free) | dsimp only)

theorem keeps_retarget {r : State} (s : State) (h_s : Keeps r s) :
    Keeps r (retarget s) := by
  unfold retarget
  repeat' (first
      | with_reducible assumption | (with_reducible intro _)
      | (with_reducible (first
          | apply keeps_relift | apply keeps_showFallback | apply keeps_startRamp | apply keeps_ite | apply keeps_foldl))
      | split | (with_reducible apply keeps_free) | dsimp only)

theorem keeps_setTarget {r : State} (dom : Nat) (point : Nat) (s : State) (h_s : Keeps r s) :
    Keeps r (setTarget dom point s) := by
  unfold setTarget
  repeat' (first
      | with_reducible assumption | (with_reducible intro _)
      | (with_reducible (first
          | apply keeps_retarget | apply keeps_setRf | apply keeps_ite | apply keeps_foldl))
      | split | (with_reducible apply keeps_free) | dsimp only)

theorem keeps_recordWrite {r : State} (l : Landing) (off : Nat) (bs : List Byte) (s : State) (h_s : Keeps r s) :
    Keeps r (recordWrite l off bs s) := by
  unfold recordWrite
  repeat' (first
      | with_reducible assumption | (with_reducible intro _)
      | (with_reducible (first
          | apply keeps_writeMem | apply keeps_ite | apply keeps_foldl))
      | split | (with_reducible apply keeps_free) | dsimp only)

theorem keeps_closeLanding {r : State} (l : Landing) (state : Nat) (status : Nat) (s : State) (h_s : Keeps r s) :
    Keeps r (closeLanding l state status s) := by
  unfold closeLanding
  repeat' (first
      | with_reducible assumption | (with_reducible intro _)
      | (with_reducible (first
          | apply keeps_recordWrite | apply keeps_ite | apply keeps_foldl))
      | split | (with_reducible apply keeps_free) | dsimp only)

theorem keeps_endLanding {r : State} (n : Nat) (status : Nat) (s : State) (h_s : Keeps r s) :
    Keeps r (endLanding n status s) := by
  unfold endLanding
  repeat' (first
      | with_reducible assumption | (with_reducible intro _)
      | (with_reducible (first
          | apply keeps_closeLanding | apply keeps_ite | apply keeps_foldl))
      | split | (with_reducible apply keeps_free) | dsimp only)

theorem keeps_abortLandings {r : State} (s : State) (h_s : Keeps r s) :
    Keeps r (abortLandings s) := by
  unfold abortLandings
  repeat' (first
      | with_reducible assumption | (with_reducible intro _)
      | (with_reducible (first
          | apply keeps_closeLanding | apply keeps_ite | apply keeps_foldl))
      | split | (with_reducible apply keeps_free) | dsimp only)

theorem keeps_loseLandings {r : State} (dom : Nat) (s : State) (h_s : Keeps r s) :
    Keeps r (loseLandings dom s) := by
  unfold loseLandings
  repeat' (first
      | with_reducible assumption | (with_reducible intro _)
      | (with_reducible (first
          | apply keeps_setDomain | apply keeps_ite | apply keeps_foldl))
      | split | (with_reducible apply keeps_free) | dsimp only)

theorem keeps_writeLostLandings {r : State} (dom : Nat) (s : State) (h_s : Keeps r s) :
    Keeps r (writeLostLandings dom s) := by
  unfold writeLostLandings
  repeat' (first
      | with_reducible assumption | (with_reducible intro _)
      | (with_reducible (first
          | apply keeps_writeServed | apply keeps_setDomain | apply keeps_ite | apply keeps_foldl))
      | split | (with_reducible apply keeps_free) | dsimp only)

theorem unitOk_stopUnit {r : State} (x : ProgUnit) (h_x : UnitOk r x) :
    UnitOk r (stopUnit x) := by
  unfold stopUnit
  repeat' (first
      | with_reducible assumption | (with_reducible intro _)
      | (with_reducible (first
          | apply unitOk_idleUnit | apply keeps_ite | apply unitOk_ite | apply unitOk_foldl | apply keeps_foldl | apply keeps_foldl_fst
          | apply keeps_foldl_snd | apply ctlKeeps_done | apply ctlKeeps_wait | apply ctlKeeps_refuse | apply ctlKeeps_ite
          | apply arrKeeps_gone | apply arrKeeps_later | apply arrKeeps_here | apply arrKeeps_ite | apply keeps_foldl_CollEnd
          | apply keeps_ite_CollEnd | apply keeps_foldl_Commit | apply keeps_ite_Commit | apply keeps_foldl_DrainSum
          | apply keeps_ite_DrainSum | apply keeps_foldl_Effect | apply keeps_ite_Effect | apply keeps_foldl_LayerDecision
          | apply keeps_ite_LayerDecision | apply keeps_foldl_MmaSum | apply keeps_ite_MmaSum | apply keeps_foldl_QSum
          | apply keeps_ite_QSum | apply keeps_foldl_QTile | apply keeps_ite_QTile | apply keeps_foldl_UpdSum | apply keeps_ite_UpdSum
          | apply keeps_foldl_VecSum | apply keeps_ite_VecSum | apply keeps_units_map | apply unitOk_getUnit | apply unitOk_idle
          | apply unitOk_advance | apply queueOk_getQueue | apply unitOk_setG | apply unitOk_setT | apply unitOk_setK | apply unitOk_setC
          | apply unitOk_setSt | apply unitOk_setP))
      | split | (with_reducible (first
          | apply keeps_free | apply unitOk_fewer | apply unitOk_mapped
          | apply unitOk_emptied | apply unitOk_free | apply queueOk_map | apply queueOk_free)) | dsimp only)

theorem keeps_keepCmd {r : State} (q : Nat) (seq : Nat) (s : State) (h_s : Keeps r s) :
    Keeps r (keepCmd q seq s) := by
  unfold keepCmd
  repeat' (first
      | with_reducible assumption | (with_reducible intro _)
      | (with_reducible (first
          | apply keeps_setQueue | apply keeps_ite | apply unitOk_ite | apply unitOk_foldl | apply keeps_foldl | apply keeps_foldl_fst
          | apply keeps_foldl_snd | apply ctlKeeps_done | apply ctlKeeps_wait | apply ctlKeeps_refuse | apply ctlKeeps_ite
          | apply arrKeeps_gone | apply arrKeeps_later | apply arrKeeps_here | apply arrKeeps_ite | apply keeps_foldl_CollEnd
          | apply keeps_ite_CollEnd | apply keeps_foldl_Commit | apply keeps_ite_Commit | apply keeps_foldl_DrainSum
          | apply keeps_ite_DrainSum | apply keeps_foldl_Effect | apply keeps_ite_Effect | apply keeps_foldl_LayerDecision
          | apply keeps_ite_LayerDecision | apply keeps_foldl_MmaSum | apply keeps_ite_MmaSum | apply keeps_foldl_QSum
          | apply keeps_ite_QSum | apply keeps_foldl_QTile | apply keeps_ite_QTile | apply keeps_foldl_UpdSum | apply keeps_ite_UpdSum
          | apply keeps_foldl_VecSum | apply keeps_ite_VecSum | apply keeps_units_map | apply unitOk_getUnit | apply unitOk_idle
          | apply unitOk_advance | apply queueOk_getQueue | apply unitOk_setG | apply unitOk_setT | apply unitOk_setK | apply unitOk_setC
          | apply unitOk_setSt | apply unitOk_setP))
      | split | (with_reducible (first
          | apply keeps_free | apply unitOk_fewer | apply unitOk_mapped
          | apply unitOk_emptied | apply unitOk_free | apply queueOk_map | apply queueOk_free)) | dsimp only)

theorem keeps_abortQueue {r : State} (cause : Nat) (s : State) (q : Nat) (h_s : Keeps r s) :
    Keeps r (abortQueue cause s q) := by
  unfold abortQueue
  repeat' (first
      | with_reducible assumption | (with_reducible intro _)
      | (with_reducible (first
          | apply keeps_finishCmd | apply keeps_logFault | apply keeps_ite | apply keeps_foldl))
      | split | (with_reducible apply keeps_free) | dsimp only)

theorem keeps_noteFlags {r : State} (s : State) (q : Nat) (h_s : Keeps r s) :
    Keeps r (noteFlags s q) := by
  unfold noteFlags
  repeat' (first
      | with_reducible assumption | (with_reducible intro _)
      | (with_reducible (first
          | apply keeps_setQueue | apply keeps_ite | apply unitOk_ite | apply unitOk_foldl | apply keeps_foldl | apply keeps_foldl_fst
          | apply keeps_foldl_snd | apply ctlKeeps_done | apply ctlKeeps_wait | apply ctlKeeps_refuse | apply ctlKeeps_ite
          | apply arrKeeps_gone | apply arrKeeps_later | apply arrKeeps_here | apply arrKeeps_ite | apply keeps_foldl_CollEnd
          | apply keeps_ite_CollEnd | apply keeps_foldl_Commit | apply keeps_ite_Commit | apply keeps_foldl_DrainSum
          | apply keeps_ite_DrainSum | apply keeps_foldl_Effect | apply keeps_ite_Effect | apply keeps_foldl_LayerDecision
          | apply keeps_ite_LayerDecision | apply keeps_foldl_MmaSum | apply keeps_ite_MmaSum | apply keeps_foldl_QSum
          | apply keeps_ite_QSum | apply keeps_foldl_QTile | apply keeps_ite_QTile | apply keeps_foldl_UpdSum | apply keeps_ite_UpdSum
          | apply keeps_foldl_VecSum | apply keeps_ite_VecSum | apply keeps_units_map | apply unitOk_getUnit | apply unitOk_idle
          | apply unitOk_advance | apply queueOk_getQueue | apply unitOk_setG | apply unitOk_setT | apply unitOk_setK | apply unitOk_setC
          | apply unitOk_setSt | apply unitOk_setP))
      | split | (with_reducible (first
          | apply keeps_free | apply unitOk_fewer | apply unitOk_mapped
          | apply unitOk_emptied | apply unitOk_free | apply queueOk_map | apply queueOk_free)) | dsimp only)

theorem keeps_endRestore {r : State} (status : Nat) (s : State) (h_s : Keeps r s) :
    Keeps r (endRestore status s) := by
  unfold endRestore
  repeat' (first
      | with_reducible assumption | (with_reducible intro _)
      | (with_reducible (first
          | apply keeps_setPf | apply keeps_sendMsi | apply keeps_ite | apply keeps_foldl))
      | split | (with_reducible apply keeps_free) | dsimp only)

theorem keeps_dropAnchorCopy {r : State} (s : State) (h_s : Keeps r s) :
    Keeps r (dropAnchorCopy s) := by
  unfold dropAnchorCopy
  repeat' (first
      | with_reducible assumption | (with_reducible intro _)
      | (with_reducible (first
          | apply keeps_ite | apply keeps_foldl))
      | split | (with_reducible apply keeps_free) | dsimp only)

theorem keeps_abortAll {r : State} (cause : Nat) (keep : Option (Nat × Nat)) (s : State) (h_s : Keeps r s) :
    Keeps r (abortAll cause keep s) := by
  unfold abortAll
  extract_lets s1 s2 s3 s4 late s5 src s6 s7
  have h1 : Keeps r s1 := keeps_foldl _ (fun _ _ h => keeps_abortQueue _ _ _ h) (by
    cases keep with
    | none => exact h_s
    | some c => exact keeps_keepCmd _ _ _ h_s)
  clear_value s1
  have h2 : Keeps r s2 := keeps_cancelMoves _ h1
  clear_value s2
  have h3 : Keeps r s3 := keeps_units_map (fun x hx => unitOk_ite hx (unitOk_stopUnit _ hx)) h2
  clear_value s3
  have h4 : Keeps r s4 := keeps_dropGrants _ _ (keeps_abortLandings _ h3)
  clear_value s4
  have h5 : Keeps r s5 := by with_reducible apply keeps_free; exact h4
  clear_value s5
  have h6 : Keeps r s6 := by with_reducible apply keeps_free; exact h5
  clear_value s6
  have h7 : Keeps r s7 := keeps_dropAnchorCopy _ (keeps_setPf _ _ _ _ _ h6)
  clear_value s7
  split
  · exact keeps_endRestore _ _ h7
  · exact h7

theorem keeps_sendRestart {r : State} (cause : Nat) (status : Nat) (s : State) (h_s : Keeps r s) :
    Keeps r (sendRestart cause status s) := by
  unfold sendRestart
  repeat' (first
      | with_reducible assumption | (with_reducible intro _)
      | (with_reducible (first
          | apply keeps_sendToMembers | apply keeps_ite | apply keeps_foldl))
      | split | (with_reducible apply keeps_free) | dsimp only)

theorem keeps_jobRestart {r : State} (cause : Nat) (status : Nat) (keep : Option (Nat × Nat)) (s : State) (h_s : Keeps r s) :
    Keeps r (jobRestart cause status keep s) := by
  unfold jobRestart
  repeat' (first
      | with_reducible assumption | (with_reducible intro _)
      | (with_reducible (first
          | apply keeps_bump | apply keeps_setFabState | apply keeps_abortAll | apply keeps_sendRestart | apply keeps_ite
          | apply keeps_foldl))
      | split | (with_reducible apply keeps_free) | dsimp only)

theorem keeps_joinRestart {r : State} (s : State) (h_s : Keeps r s) :
    Keeps r (joinRestart s) := by
  unfold joinRestart
  repeat' (first
      | with_reducible assumption | (with_reducible intro _)
      | (with_reducible (first
          | apply keeps_jobRestart | apply keeps_ite | apply keeps_foldl))
      | split | (with_reducible apply keeps_free) | dsimp only)

theorem keeps_restartFault {r : State} (f : FaultInfo) (keep : Option (Nat × Nat)) (s : State) (h_s : Keeps r s) :
    Keeps r (restartFault f keep s) := by
  unfold restartFault
  repeat' (first
      | with_reducible assumption | (with_reducible intro _)
      | (with_reducible (first
          | apply keeps_jobRestart | apply keeps_logFault | apply keeps_ite | apply keeps_foldl))
      | split | (with_reducible apply keeps_free) | dsimp only)

theorem keeps_leaveJob {r : State} (s : State) (h_s : Keeps r s) :
    Keeps r (leaveJob s) := by
  unfold leaveJob
  repeat' (first
      | with_reducible assumption | (with_reducible intro _)
      | (with_reducible (first
          | apply keeps_setPf | apply keeps_setFabState | apply keeps_ite | apply keeps_foldl))
      | split | (with_reducible apply keeps_free) | dsimp only)

theorem keeps_takeOut {r : State} (s : State) (h_s : Keeps r s) :
    Keeps r (takeOut s) := by
  unfold takeOut
  repeat' (first
      | with_reducible assumption | (with_reducible intro _)
      | (with_reducible (first
          | apply keeps_leaveJob | apply keeps_announceSelf | apply keeps_ite | apply keeps_foldl))
      | split | (with_reducible apply keeps_free) | dsimp only)

theorem keeps_closeAllStashes {r : State} (s : State) (h_s : Keeps r s) :
    Keeps r (closeAllStashes s) := by
  unfold closeAllStashes
  repeat' (first
      | with_reducible assumption | (with_reducible intro _)
      | (with_reducible (first
          | apply keeps_closeStashAt | apply keeps_ite | apply keeps_foldl))
      | split | (with_reducible apply keeps_free) | dsimp only)

theorem keeps_dropDomain {r : State} (dom : Nat) (s : State) (h_s : Keeps r s) :
    Keeps r (dropDomain dom s) := by
  unfold dropDomain
  repeat' (first
      | with_reducible assumption | (with_reducible intro _)
      | (with_reducible (first
          | apply keeps_loseLandings | apply keeps_resetBoxes | apply keeps_noteFlags | apply keeps_setDomain | apply unitOk_stopUnit
          | apply keeps_cancelMovesOf | apply keeps_dropGrants | apply keeps_closeAllStashes | apply keeps_reroute | apply keeps_ite
          | apply unitOk_ite | apply unitOk_foldl | apply keeps_foldl | apply keeps_foldl_fst | apply keeps_foldl_snd | apply ctlKeeps_done
          | apply ctlKeeps_wait | apply ctlKeeps_refuse | apply ctlKeeps_ite | apply arrKeeps_gone | apply arrKeeps_later
          | apply arrKeeps_here | apply arrKeeps_ite | apply keeps_foldl_CollEnd | apply keeps_ite_CollEnd | apply keeps_foldl_Commit
          | apply keeps_ite_Commit | apply keeps_foldl_DrainSum | apply keeps_ite_DrainSum | apply keeps_foldl_Effect
          | apply keeps_ite_Effect | apply keeps_foldl_LayerDecision | apply keeps_ite_LayerDecision | apply keeps_foldl_MmaSum
          | apply keeps_ite_MmaSum | apply keeps_foldl_QSum | apply keeps_ite_QSum | apply keeps_foldl_QTile | apply keeps_ite_QTile
          | apply keeps_foldl_UpdSum | apply keeps_ite_UpdSum | apply keeps_foldl_VecSum | apply keeps_ite_VecSum | apply keeps_units_map
          | apply unitOk_getUnit | apply unitOk_idle | apply unitOk_advance | apply queueOk_getQueue | apply unitOk_setG | apply unitOk_setT
          | apply unitOk_setK | apply unitOk_setC | apply unitOk_setSt | apply unitOk_setP))
      | split | (with_reducible (first
          | apply keeps_free | apply unitOk_fewer | apply unitOk_mapped
          | apply unitOk_emptied | apply unitOk_free | apply queueOk_map | apply queueOk_free)) | dsimp only)

theorem keeps_domainReset {r : State} (dom : Nat) (cause : Nat) (causeRec : Nat) (s : State) (h_s : Keeps r s) :
    Keeps r (domainReset dom cause causeRec s) := by
  unfold domainReset
  repeat' (first
      | with_reducible assumption | (with_reducible intro _)
      | (with_reducible (first
          | apply keeps_bump | apply keeps_setRb | apply keeps_logFault | apply keeps_setDomain | apply keeps_dropDomain
          | apply keeps_jobRestart | apply keeps_ite | apply keeps_foldl))
      | split | (with_reducible apply keeps_free) | dsimp only)

theorem keeps_placeWrite {r : State} (p : Place) (s : State) (a : Nat) (bs : List Byte) (h_s : Keeps r s) :
    Keeps r (placeWrite p s a bs) := by
  unfold placeWrite
  repeat' (first
      | with_reducible assumption | (with_reducible intro _)
      | (with_reducible (first
          | apply keeps_writeMem | apply keeps_writeEntryAt | apply keeps_ite | apply keeps_foldl))
      | split | (with_reducible apply keeps_free) | dsimp only)

theorem keeps_widePut {r : State} (v : View) (i : Nat) (j : Nat) (bits : Nat) (s : State) (h_s : Keeps r s) :
    Keeps r (widePut v i j bits s) := by
  unfold widePut
  repeat' (first
      | with_reducible assumption | (with_reducible intro _)
      | (with_reducible (first
          | apply keeps_placeWrite | apply keeps_ite | apply keeps_foldl))
      | split | (with_reducible apply keeps_free) | dsimp only)

theorem keeps_writeTile {r : State} (v : View) (f : Fmt) (ti tj : Nat) (words : List Nat) (word : Nat) (s : State) (h_s : Keeps r s) :
    Keeps r (writeTile v f ti tj words word s) := by
  unfold writeTile
  repeat' (first
      | with_reducible assumption | (with_reducible intro _)
      | (with_reducible (first
          | apply keeps_placeWrite | apply keeps_ite | apply keeps_foldl))
      | split | (with_reducible apply keeps_free) | dsimp only)

theorem keeps_setGen {r : State} (g : AnnexGen) (s : State) (h_s : Keeps r s) :
    Keeps r (setGen g s) := by
  unfold setGen
  repeat' (first
      | with_reducible assumption | (with_reducible intro _)
      | (with_reducible (first
          | apply keeps_ite | apply keeps_foldl))
      | split | (with_reducible apply keeps_free) | dsimp only)

theorem keeps_storePiece {r : State} (p : AnnexPiece) (s : State) (h_s : Keeps r s) :
    Keeps r (storePiece p s) := by
  unfold storePiece
  repeat' (first
      | with_reducible assumption | (with_reducible intro _)
      | (with_reducible (first
          | apply keeps_ite | apply keeps_foldl))
      | split | (with_reducible apply keeps_free) | dsimp only)

theorem keeps_owePiece {r : State} (addr : Nat) (header : List Byte) (data : List Byte) (s : State) (h_s : Keeps r s) :
    Keeps r (owePiece addr header data s) := by
  unfold owePiece
  repeat' (first
      | with_reducible assumption | (with_reducible intro _)
      | (with_reducible (first
          | apply keeps_bump | apply keeps_ite | apply keeps_foldl))
      | split | (with_reducible apply keeps_free) | dsimp only)

theorem keeps_sendPiece {r : State} (g : AnnexGen) (flags itemId holder : Nat) (c : Nat × List Byte) (s : State) (h_s : Keeps r s) :
    Keeps r (sendPiece g flags itemId holder c s) := by
  unfold sendPiece
  repeat' (first
      | with_reducible assumption | (with_reducible intro _)
      | (with_reducible (first
          | apply keeps_owePiece | apply keeps_sendPacket | apply keeps_ite | apply keeps_foldl))
      | split | (with_reducible apply keeps_free) | dsimp only)

theorem keeps_sendShard {r : State} (g : AnnexGen) (data : Bool) (i : AnnexItem) (bytes : List Byte) (s : State) (h_s : Keeps r s) :
    Keeps r (sendShard g data i bytes s) := by
  unfold sendShard
  repeat' (first
      | with_reducible assumption | (with_reducible intro _)
      | (with_reducible (first
          | apply keeps_sendPiece | apply keeps_ite | apply keeps_foldl))
      | split | (with_reducible apply keeps_free) | dsimp only)

theorem keeps_ridePiece {r : State} (holder : Nat) (room : Nat) (s : State) (h_s : Keeps r s) :
    Keeps r (ridePiece holder room s).2 := by
  unfold ridePiece
  extract_lets g had next
  clear_value next
  split
  · split
    · exact h_s
    · refine keeps_owePiece _ _ _ _ ?_
      with_reducible apply keeps_free
      exact h_s
  · exact h_s

theorem keeps_keepOwn {r : State} (itemId : Nat) (offset : Nat) (step : Nat) (bytes : List Byte) (s : State) (h_s : Keeps r s) :
    Keeps r (keepOwn itemId offset step bytes s) := by
  unfold keepOwn
  repeat' (first
      | with_reducible assumption | (with_reducible intro _)
      | (with_reducible (first
          | apply keeps_storePiece | apply keeps_ite | apply keeps_foldl))
      | split | (with_reducible apply keeps_free) | dsimp only)

theorem keeps_annexCapture {r : State} (step : Nat) (s : State) (h_s : Keeps r s) :
    Keeps r (annexCapture step s) := by
  unfold annexCapture
  repeat' (first
      | with_reducible assumption | (with_reducible intro _)
      | (with_reducible (first
          | apply keeps_sendShard | apply keeps_keepOwn | apply keeps_setGen | apply keeps_ite | apply keeps_foldl))
      | split | (with_reducible apply keeps_free) | dsimp only)

theorem keeps_takePiece {r : State} (src : Nat) (b : List Byte) (s : State) (h_s : Keeps r s) :
    Keeps r (takePiece src b s) := by
  unfold takePiece
  repeat' (first
      | with_reducible assumption | (with_reducible intro _)
      | (with_reducible (first
          | apply keeps_sendPacket | apply keeps_storePiece | apply keeps_ite | apply keeps_foldl))
      | split | (with_reducible apply keeps_free) | dsimp only)

theorem keeps_addSums {r : State} (x : AnnexSum) (final : Bool) (s : State) (h_s : Keeps r s) :
    Keeps r (addSums x final s) := by
  unfold addSums
  repeat' (first
      | with_reducible assumption | (with_reducible intro _)
      | (with_reducible (first
          | apply keeps_ite | apply keeps_foldl))
      | split | (with_reducible apply keeps_free) | dsimp only)

theorem keeps_sendSums {r : State} (step : Nat) (s : State) (h_s : Keeps r s) :
    Keeps r (sendSums step s) := by
  unfold sendSums
  repeat' (first
      | with_reducible assumption | (with_reducible intro _)
      | (with_reducible (first
          | apply keeps_addSums | apply keeps_sendToMembers | apply keeps_ite | apply keeps_foldl))
      | split | (with_reducible apply keeps_free) | dsimp only)

theorem keeps_annexCommit {r : State} (step : Nat) (s : State) (h_s : Keeps r s) :
    Keeps r (annexCommit step s) := by
  unfold annexCommit
  repeat' (first
      | with_reducible assumption | (with_reducible intro _)
      | (with_reducible (first
          | apply keeps_keepOwn | apply keeps_setPf | apply keeps_sendSums | apply keeps_ite | apply keeps_foldl))
      | split | (with_reducible apply keeps_free) | dsimp only)

theorem keeps_gatherPieces {r : State} (src step : Nat) (group : List Nat) (parts : List (List Byte)) (s : State) (h_s : Keeps r s) :
    Keeps r (gatherPieces src step group parts s) := by
  unfold gatherPieces
  repeat' (first
      | with_reducible assumption | (with_reducible intro _)
      | (with_reducible (first
          | apply keeps_storePiece | apply keeps_ite | apply keeps_foldl))
      | split | (with_reducible apply keeps_free) | dsimp only)

theorem keeps_keepAnchors {r : State} (steps : List Nat) (s : State) (h_s : Keeps r s) :
    Keeps r (keepAnchors steps s) := by
  unfold keepAnchors
  repeat' (first
      | with_reducible assumption | (with_reducible intro _)
      | (with_reducible (first
          | apply keeps_ite | apply keeps_foldl))
      | split | (with_reducible apply keeps_free) | dsimp only)

theorem keeps_addAnchor {r : State} (pos : Nat) (step : Nat) (final : Bool) (s : State) (h_s : Keeps r s) :
    Keeps r (addAnchor pos step final s) := by
  unfold addAnchor
  repeat' (first
      | with_reducible assumption | (with_reducible intro _)
      | (with_reducible (first
          | apply keeps_endLanding | apply keeps_setPf | apply keeps_keepAnchors | apply keeps_ite | apply keeps_foldl))
      | split | (with_reducible apply keeps_free) | dsimp only)

theorem keeps_anchorReady {r : State} (s : State) (h_s : Keeps r s) :
    Keeps r (anchorReady s) := by
  unfold anchorReady
  repeat' (first
      | with_reducible assumption | (with_reducible intro _)
      | (with_reducible (first
          | apply keeps_addAnchor | apply keeps_sendToMembers | apply keeps_ite | apply keeps_foldl))
      | split | (with_reducible apply keeps_free) | dsimp only)

theorem keeps_openAnchor {r : State} (n : Nat) (s : State) (h_s : Keeps r s) :
    Keeps r (openAnchor n s) := by
  unfold openAnchor
  repeat' (first
      | with_reducible assumption | (with_reducible intro _)
      | (with_reducible (first
          | apply keeps_setGen | apply keeps_keepAnchors | apply keeps_storePiece | apply keeps_sendShard | apply keeps_anchorReady
          | apply keeps_ite | apply keeps_foldl))
      | split | (with_reducible apply keeps_free) | dsimp only)

theorem keeps_contribute {r : State} (a : Nat) (maxMag : Nat) (sats : Nat) (s : State) (h_s : Keeps r s) :
    Keeps r (contribute a maxMag sats s) := by
  unfold contribute
  repeat' (first
      | with_reducible assumption | (with_reducible intro _)
      | (with_reducible (first
          | apply keeps_writeNat | apply keeps_ite | apply keeps_foldl))
      | split | (with_reducible apply keeps_free) | dsimp only)

theorem keeps_pushHistory {r : State} (a : Nat) (maxBits : Nat) (skipped : Bool) (s : State) (h_s : Keeps r s) :
    Keeps r (pushHistory a maxBits skipped s) := by
  unfold pushHistory
  repeat' (first
      | with_reducible assumption | (with_reducible intro _)
      | (with_reducible (first
          | apply keeps_writeNat | apply keeps_ite | apply keeps_foldl))
      | split | (with_reducible apply keeps_free) | dsimp only)

theorem keeps_commitFigures {r : State} (a step : Nat) (maxBits satSum : Nat) (skipped : Bool) (s : State) (h_s : Keeps r s) :
    Keeps r (commitFigures a step maxBits satSum skipped s) := by
  unfold commitFigures
  repeat' (first
      | with_reducible assumption | (with_reducible intro _)
      | (with_reducible (first
          | apply keeps_pushHistory | apply keeps_writeNat | apply keeps_ite | apply keeps_foldl))
      | split | (with_reducible apply keeps_free) | dsimp only)

theorem keeps_commitCoarse {r : State} (a : Nat) (s : State) (h_s : Keeps r s) :
    Keeps r (commitCoarse a s) := by
  unfold commitCoarse
  repeat' (first
      | with_reducible assumption | (with_reducible intro _)
      | (with_reducible (first
          | apply keeps_writeNat | apply keeps_logFault | apply keeps_ite | apply keeps_foldl))
      | split | (with_reducible apply keeps_free) | dsimp only)

theorem keeps_askFor {r : State} (itemId : Nat) (r1 : Restore) (src : List FetchNeed) (s : State) (h_s : Keeps r s) :
    Keeps r (askFor itemId r1 src s) := by
  unfold askFor
  repeat' (first
      | with_reducible assumption | (with_reducible intro _)
      | (with_reducible (first
          | apply keeps_sendPacket | apply keeps_ite | apply keeps_foldl))
      | split | (with_reducible apply keeps_free) | dsimp only)

theorem keeps_askSource {r : State} (s : State) (h_s : Keeps r s) :
    Keeps r (askSource s) := by
  unfold askSource
  repeat' (first
      | with_reducible assumption | (with_reducible intro _)
      | (with_reducible (first
          | apply keeps_askFor | apply keeps_ite | apply keeps_foldl))
      | split | (with_reducible apply keeps_free) | dsimp only)

theorem keeps_mismatchRecord {r : State} (g : BlockGoal) (src : List FetchNeed) (s : State) (h_s : Keeps r s) :
    Keeps r (mismatchRecord g src s) := by
  unfold mismatchRecord
  repeat' (first
      | with_reducible assumption | (with_reducible intro _)
      | (with_reducible (first
          | apply keeps_logFault | apply keeps_ite | apply keeps_foldl))
      | split | (with_reducible apply keeps_free) | dsimp only)

theorem keeps_rederive {r : State} (a : Nat) (s : State) (h_s : Keeps r s) :
    Keeps r (rederive a s) := by
  unfold rederive
  repeat' (first
      | with_reducible assumption | (with_reducible intro _)
      | (with_reducible (first
          | apply keeps_logFault | apply keeps_writeNat | apply keeps_ite | apply keeps_foldl))
      | split | (with_reducible apply keeps_free) | dsimp only)

theorem keeps_clearInStep {r : State} (s : State) (h_s : Keeps r s) :
    Keeps r (clearInStep s) := by
  unfold clearInStep
  repeat' (first
      | with_reducible assumption | (with_reducible intro _)
      | (with_reducible (first
          | apply keeps_writeNat | apply keeps_ite | apply keeps_foldl))
      | split | (with_reducible apply keeps_free) | dsimp only)

theorem keeps_restoreStep {r : State} (step : Nat) (s : State) (h_s : Keeps r s) :
    Keeps r (restoreStep step s) := by
  unfold restoreStep
  repeat' (first
      | with_reducible assumption | (with_reducible intro _)
      | (with_reducible (first
          | apply keeps_moveTo | apply keeps_ite | apply keeps_foldl))
      | split | (with_reducible apply keeps_free) | dsimp only)

theorem keeps_writePlan {r : State} (s : State) (h_s : Keeps r s) :
    Keeps r (writePlan s) := by
  unfold writePlan
  repeat' (first
      | with_reducible assumption | (with_reducible intro _)
      | (with_reducible (first
          | apply keeps_writeServed | apply keeps_ite | apply keeps_foldl))
      | split | (with_reducible apply keeps_free) | dsimp only)

theorem keeps_finishRestore {r : State} (s : State) (h_s : Keeps r s) :
    Keeps r (finishRestore s) := by
  unfold finishRestore
  repeat' (first
      | with_reducible assumption | (with_reducible intro _)
      | (with_reducible (first
          | apply keeps_rederive | apply keeps_setReg | apply keeps_restoreStep | apply keeps_clearInStep | apply keeps_setPf
          | apply keeps_endRestore | apply keeps_ite | apply keeps_foldl))
      | split | (with_reducible apply keeps_free) | dsimp only)

theorem keeps_finishExport {r : State} (s : State) (h_s : Keeps r s) :
    Keeps r (finishExport s) := by
  unfold finishExport
  repeat' (first
      | with_reducible assumption | (with_reducible intro _)
      | (with_reducible (first
          | apply keeps_writeServed | apply keeps_endRestore | apply keeps_setPf | apply keeps_ite | apply keeps_foldl))
      | split | (with_reducible apply keeps_free) | dsimp only)

theorem keeps_failRestore {r : State} (s : State) (h_s : Keeps r s) :
    Keeps r (failRestore s) := by
  unfold failRestore
  repeat' (first
      | with_reducible assumption | (with_reducible intro _)
      | (with_reducible (first
          | apply keeps_logFault | apply keeps_leaveJob | apply keeps_endRestore | apply keeps_ite | apply keeps_foldl))
      | split | (with_reducible apply keeps_free) | dsimp only)

theorem keeps_sendAgree {r : State} (need : Bool) (s : State) (h_s : Keeps r s) :
    Keeps r (sendAgree need s) := by
  unfold sendAgree
  repeat' (first
      | with_reducible assumption | (with_reducible intro _)
      | (with_reducible (first
          | apply keeps_sendToMembers | apply keeps_ite | apply keeps_foldl))
      | split | (with_reducible apply keeps_free) | dsimp only)

theorem keeps_takeBlock {r : State} (p : PlanRec) (g : BlockGoal) (part : List Byte) (s : State) (h_s : Keeps r s) :
    Keeps r (takeBlock p g part s) := by
  unfold takeBlock
  repeat' (first
      | with_reducible assumption | (with_reducible intro _)
      | (with_reducible (first
          | apply keeps_askSource | apply keeps_ite | apply keeps_foldl))
      | split | (with_reducible apply keeps_free) | dsimp only)

theorem keeps_skipGoal {r : State} (s : State) (h_s : Keeps r s) :
    Keeps r (skipGoal s) := by
  unfold skipGoal
  repeat' (first
      | with_reducible assumption | (with_reducible intro _)
      | (with_reducible (first
          | apply keeps_askSource | apply keeps_ite | apply keeps_foldl))
      | split | (with_reducible apply keeps_free) | dsimp only)

theorem keeps_fetchLoop {r : State} (a0 : Nat) (a1 : State) (h_a1 : Keeps r a1) :
    Keeps r (fetchLoop a0 a1) := by
  induction a0 generalizing a1 with
  | zero => exact h_a1
  | succ n ih =>
    have free : ∀ x : Restore, Keeps r { a1 with restore := x } := fun x => by with_reducible apply keeps_free; exact h_a1
    unfold fetchLoop
    extract_lets r0
    split
    · exact keeps_ite (keeps_finishExport _ h_a1) (keeps_sendAgree _ _ (free _))
    split
    · exact ih _ (keeps_skipGoal _ h_a1)
    next g _ =>
    refine keeps_ite (ih _ (keeps_skipGoal _ h_a1)) ?_
    split
    · exact ih _ (keeps_takeBlock _ _ _ _ h_a1)
    split
    · exact keeps_ite (ih _ (keeps_skipGoal _ h_a1)) (keeps_ite (keeps_endRestore _ _ h_a1) (keeps_sendAgree _ _ (free _)))
    have hn : ∀ z : State, Keeps r z → Keeps r (askSource { z with restore := { z.restore with source := z.restore.source + 1, fetched := [] } }) :=
      fun z hz => keeps_askSource _ (by with_reducible apply keeps_free; exact hz)
    split
    · exact ih _ (keeps_takeBlock _ _ _ _ h_a1)
    · exact ih _ (hn _ (keeps_mismatchRecord _ _ _ h_a1))
    · exact keeps_ite (ih _ (hn _ h_a1)) h_a1

theorem keeps_startFetch {r : State} (s : State) (h_s : Keeps r s) :
    Keeps r (startFetch s) := by
  unfold startFetch
  repeat' (first
      | with_reducible assumption | (with_reducible intro _)
      | (with_reducible (first
          | apply keeps_fetchLoop | apply keeps_askSource | apply keeps_ite | apply keeps_foldl))
      | split | (with_reducible apply keeps_free) | dsimp only)

theorem keeps_importRec {r : State} (k : Nat) (s : State) (h_s : Keeps r s) :
    Keeps r (importRec k s).2 := by
  unfold importRec
  dsimp only
  repeat' split
  all_goals (dsimp only; repeat' (first
      | with_reducible assumption | (with_reducible intro _)
      | (with_reducible (first
          | apply keeps_logFault | apply keeps_keepOwn | apply keeps_logFault | apply keeps_storePiece | apply keeps_ite | apply unitOk_ite
          | apply unitOk_foldl | apply keeps_foldl | apply keeps_foldl_fst | apply keeps_foldl_snd | apply ctlKeeps_done
          | apply ctlKeeps_wait | apply ctlKeeps_refuse | apply ctlKeeps_ite | apply arrKeeps_gone | apply arrKeeps_later
          | apply arrKeeps_here | apply arrKeeps_ite | apply keeps_foldl_CollEnd | apply keeps_ite_CollEnd | apply keeps_foldl_Commit
          | apply keeps_ite_Commit | apply keeps_foldl_DrainSum | apply keeps_ite_DrainSum | apply keeps_foldl_Effect
          | apply keeps_ite_Effect | apply keeps_foldl_LayerDecision | apply keeps_ite_LayerDecision | apply keeps_foldl_MmaSum
          | apply keeps_ite_MmaSum | apply keeps_foldl_QSum | apply keeps_ite_QSum | apply keeps_foldl_QTile | apply keeps_ite_QTile
          | apply keeps_foldl_UpdSum | apply keeps_ite_UpdSum | apply keeps_foldl_VecSum | apply keeps_ite_VecSum | apply keeps_units_map
          | apply unitOk_getUnit | apply unitOk_idle | apply unitOk_advance | apply queueOk_getQueue | apply unitOk_setG | apply unitOk_setT
          | apply unitOk_setK | apply unitOk_setC | apply unitOk_setSt | apply unitOk_setP))
      | split | (with_reducible (first
          | apply keeps_free | apply unitOk_fewer | apply unitOk_mapped
          | apply unitOk_emptied | apply unitOk_free | apply queueOk_map | apply queueOk_free)) | dsimp only))

theorem keeps_importLoop {r : State} (a0 : List Nat) (a1 : State) (h_a1 : Keeps r a1) :
    Keeps r (importLoop a0 a1) := by
  induction a0 generalizing a1 with
  | nil => unfold importLoop; repeat' (first
      | with_reducible assumption | (with_reducible intro _)
      | (with_reducible (first
          | apply keeps_sendMsi | apply keeps_endRestore | apply keeps_ite | apply unitOk_ite | apply unitOk_foldl | apply keeps_foldl
          | apply keeps_foldl_fst | apply keeps_foldl_snd | apply ctlKeeps_done | apply ctlKeeps_wait | apply ctlKeeps_refuse
          | apply ctlKeeps_ite | apply arrKeeps_gone | apply arrKeeps_later | apply arrKeeps_here | apply arrKeeps_ite
          | apply keeps_foldl_CollEnd | apply keeps_ite_CollEnd | apply keeps_foldl_Commit | apply keeps_ite_Commit
          | apply keeps_foldl_DrainSum | apply keeps_ite_DrainSum | apply keeps_foldl_Effect | apply keeps_ite_Effect
          | apply keeps_foldl_LayerDecision | apply keeps_ite_LayerDecision | apply keeps_foldl_MmaSum | apply keeps_ite_MmaSum
          | apply keeps_foldl_QSum | apply keeps_ite_QSum | apply keeps_foldl_QTile | apply keeps_ite_QTile | apply keeps_foldl_UpdSum
          | apply keeps_ite_UpdSum | apply keeps_foldl_VecSum | apply keeps_ite_VecSum | apply keeps_units_map | apply unitOk_getUnit
          | apply unitOk_idle | apply unitOk_advance | apply queueOk_getQueue | apply unitOk_setG | apply unitOk_setT | apply unitOk_setK
          | apply unitOk_setC | apply unitOk_setSt | apply unitOk_setP))
      | split | (with_reducible (first
          | apply keeps_free | apply unitOk_fewer | apply unitOk_mapped
          | apply unitOk_emptied | apply unitOk_free | apply queueOk_map | apply queueOk_free)) | dsimp only)
  | cons k rest ih =>
    unfold importLoop
    dsimp only
    split
    · exact ih _ (keeps_importRec _ _ h_a1)
    · exact keeps_endRestore _ _ (keeps_importRec _ _ h_a1)

theorem keeps_runRestore {r : State} (mode : Nat) (step : Nat) (s : State) (h_s : Keeps r s) :
    Keeps r (runRestore mode step s) := by
  unfold runRestore
  repeat' (first
      | with_reducible assumption | (with_reducible intro _)
      | (with_reducible (first
          | apply keeps_setPf | apply keeps_endRestore | apply keeps_importLoop | apply keeps_startFetch | apply keeps_ite
          | apply keeps_foldl))
      | split | (with_reducible apply keeps_free) | dsimp only)

theorem keeps_tryRestore {r : State} (s : State) (h_s : Keeps r s) :
    Keeps r (tryRestore s) := by
  unfold tryRestore
  repeat' (first
      | with_reducible assumption | (with_reducible intro _)
      | (with_reducible (first
          | apply keeps_runRestore | apply keeps_ite | apply keeps_foldl))
      | split | (with_reducible apply keeps_free) | dsimp only)

theorem keeps_goRestore {r : State} (v : Nat) (s : State) (h_s : Keeps r s) :
    Keeps r (goRestore v s) := by
  unfold goRestore
  repeat' (first
      | with_reducible assumption | (with_reducible intro _)
      | (with_reducible (first
          | apply keeps_endRestore | apply keeps_setPf | apply keeps_tryRestore | apply keeps_ite | apply keeps_foldl))
      | split | (with_reducible apply keeps_free) | dsimp only)

theorem keeps_dropAfter {r : State} (step : Nat) (s : State) (h_s : Keeps r s) :
    Keeps r (dropAfter step s) := by
  unfold dropAfter
  repeat' (first
      | with_reducible assumption | (with_reducible intro _)
      | (with_reducible (first
          | apply keeps_setPf | apply keeps_ite | apply keeps_foldl))
      | split | (with_reducible apply keeps_free) | dsimp only)

theorem keeps_applyAgree {r : State} (step : Nat) (anchor : Nat) (need : Bool) (s : State) (h_s : Keeps r s) :
    Keeps r (applyAgree step anchor need s) := by
  unfold applyAgree
  repeat' (first
      | with_reducible assumption | (with_reducible intro _)
      | (with_reducible (first
          | apply keeps_tryRestore | apply keeps_restoreStep | apply keeps_dropAfter | apply keeps_writePlan | apply keeps_failRestore
          | apply keeps_setPf | apply keeps_startFetch | apply keeps_ite | apply keeps_foldl))
      | split | (with_reducible apply keeps_free) | dsimp only)

theorem keeps_agreeOnce {r : State} (s : State) (h_s : Keeps r s) :
    Keeps r (agreeOnce s) := by
  unfold agreeOnce
  repeat' (first
      | with_reducible assumption | (with_reducible intro _)
      | (with_reducible (first
          | apply keeps_applyAgree | apply keeps_ite | apply keeps_foldl))
      | split | (with_reducible apply keeps_free) | dsimp only)

theorem keeps_tryAgree {r : State} (s : State) (h_s : Keeps r s) :
    Keeps r (tryAgree s) := by
  unfold tryAgree
  repeat' (first
      | with_reducible assumption | (with_reducible intro _)
      | (with_reducible (first
          | apply keeps_agreeOnce | apply keeps_ite | apply keeps_foldl))
      | split | (with_reducible apply keeps_free) | dsimp only)

theorem keeps_addOutliers {r : State} (a : Nat) (n : Nat) (s : State) (h_s : Keeps r s) :
    Keeps r (addOutliers a n s) := by
  unfold addOutliers
  repeat' (first
      | with_reducible assumption | (with_reducible intro _)
      | (with_reducible (first
          | apply keeps_writeNat | apply keeps_ite | apply keeps_foldl))
      | split | (with_reducible apply keeps_free) | dsimp only)

theorem keeps_decideLayer {r : State} (a : Nat) (outl : Nat) (usable : List Nat) (skipped : Bool) (s : State) (h_s : Keeps r s) :
    Keeps r (decideLayer a outl usable skipped s).s := by
  unfold decideLayer
  repeat' (first
      | with_reducible assumption | (with_reducible intro _)
      | (with_reducible (first
          | apply keeps_writeNat | apply keeps_ite | apply unitOk_ite | apply unitOk_foldl | apply keeps_foldl | apply keeps_foldl_fst
          | apply keeps_foldl_snd | apply ctlKeeps_done | apply ctlKeeps_wait | apply ctlKeeps_refuse | apply ctlKeeps_ite
          | apply arrKeeps_gone | apply arrKeeps_later | apply arrKeeps_here | apply arrKeeps_ite | apply keeps_foldl_CollEnd
          | apply keeps_ite_CollEnd | apply keeps_foldl_Commit | apply keeps_ite_Commit | apply keeps_foldl_DrainSum
          | apply keeps_ite_DrainSum | apply keeps_foldl_Effect | apply keeps_ite_Effect | apply keeps_foldl_LayerDecision
          | apply keeps_ite_LayerDecision | apply keeps_foldl_MmaSum | apply keeps_ite_MmaSum | apply keeps_foldl_QSum
          | apply keeps_ite_QSum | apply keeps_foldl_QTile | apply keeps_ite_QTile | apply keeps_foldl_UpdSum | apply keeps_ite_UpdSum
          | apply keeps_foldl_VecSum | apply keeps_ite_VecSum | apply keeps_units_map | apply unitOk_getUnit | apply unitOk_idle
          | apply unitOk_advance | apply queueOk_getQueue | apply unitOk_setG | apply unitOk_setT | apply unitOk_setK | apply unitOk_setC
          | apply unitOk_setSt | apply unitOk_setP))
      | split | (with_reducible (first
          | apply keeps_free | apply unitOk_fewer | apply unitOk_mapped
          | apply unitOk_emptied | apply unitOk_free | apply queueOk_map | apply queueOk_free)) | dsimp only)

theorem keeps_commitLayer {r : State} (a : Nat) (outlSum : Nat) (usable : List Nat) (skipped : Bool) (s : State) (h_s : Keeps r s) :
    Keeps r (commitLayer a outlSum usable skipped s).s := by
  unfold commitLayer
  repeat' (first
      | with_reducible assumption | (with_reducible intro _)
      | (with_reducible (first
          | apply keeps_writeNat | apply keeps_decideLayer | apply keeps_logFault | apply keeps_ite | apply unitOk_ite | apply unitOk_foldl
          | apply keeps_foldl | apply keeps_foldl_fst | apply keeps_foldl_snd | apply ctlKeeps_done | apply ctlKeeps_wait
          | apply ctlKeeps_refuse | apply ctlKeeps_ite | apply arrKeeps_gone | apply arrKeeps_later | apply arrKeeps_here
          | apply arrKeeps_ite | apply keeps_foldl_CollEnd | apply keeps_ite_CollEnd | apply keeps_foldl_Commit | apply keeps_ite_Commit
          | apply keeps_foldl_DrainSum | apply keeps_ite_DrainSum | apply keeps_foldl_Effect | apply keeps_ite_Effect
          | apply keeps_foldl_LayerDecision | apply keeps_ite_LayerDecision | apply keeps_foldl_MmaSum | apply keeps_ite_MmaSum
          | apply keeps_foldl_QSum | apply keeps_ite_QSum | apply keeps_foldl_QTile | apply keeps_ite_QTile | apply keeps_foldl_UpdSum
          | apply keeps_ite_UpdSum | apply keeps_foldl_VecSum | apply keeps_ite_VecSum | apply keeps_units_map | apply unitOk_getUnit
          | apply unitOk_idle | apply unitOk_advance | apply queueOk_getQueue | apply unitOk_setG | apply unitOk_setT | apply unitOk_setK
          | apply unitOk_setC | apply unitOk_setSt | apply unitOk_setP))
      | split | (with_reducible (first
          | apply keeps_free | apply unitOk_fewer | apply unitOk_mapped
          | apply unitOk_emptied | apply unitOk_free | apply queueOk_map | apply queueOk_free)) | dsimp only)

theorem keeps_linkFormat {r : State} (layers : List Nat) (d : Nat) (s : State) (h_s : Keeps r s) :
    Keeps r (linkFormat layers d s) := by
  unfold linkFormat
  repeat' (first
      | with_reducible assumption | (with_reducible intro _)
      | (with_reducible (first
          | apply keeps_writeNat | apply keeps_ite | apply keeps_foldl))
      | split | (with_reducible apply keeps_free) | dsimp only)

theorem keeps_setSkipKnown {r : State} (skip : Bool) (s : State) (h_s : Keeps r s) :
    Keeps r (setSkipKnown skip s) := by
  unfold setSkipKnown
  repeat' (first
      | with_reducible assumption | (with_reducible intro _)
      | (with_reducible (first
          | apply keeps_setRb | apply keeps_ite | apply keeps_foldl))
      | split | (with_reducible apply keeps_free) | dsimp only)

theorem keeps_sendPart {r : State} (b : Boundary) (x : BoundaryPart) (s : State) (h_s : Keeps r s) :
    Keeps r (sendPart b x s) := by
  unfold sendPart
  repeat' (first
      | with_reducible assumption | (with_reducible intro _)
      | (with_reducible (first
          | apply keeps_sendToMembers | apply keeps_ite | apply keeps_foldl))
      | split | (with_reducible apply keeps_free) | dsimp only)

theorem keeps_closeOps {r : State} (flags : Nat) (s : State) (h_s : Keeps r s) :
    Keeps r (closeOps flags s) := by
  unfold closeOps
  repeat' (first
      | with_reducible assumption | (with_reducible intro _)
      | (with_reducible (first
          | apply keeps_ite | apply unitOk_ite | apply unitOk_foldl | apply keeps_foldl | apply keeps_foldl_fst | apply keeps_foldl_snd
          | apply ctlKeeps_done | apply ctlKeeps_wait | apply ctlKeeps_refuse | apply ctlKeeps_ite | apply arrKeeps_gone
          | apply arrKeeps_later | apply arrKeeps_here | apply arrKeeps_ite | apply keeps_foldl_CollEnd | apply keeps_ite_CollEnd
          | apply keeps_foldl_Commit | apply keeps_ite_Commit | apply keeps_foldl_DrainSum | apply keeps_ite_DrainSum
          | apply keeps_foldl_Effect | apply keeps_ite_Effect | apply keeps_foldl_LayerDecision | apply keeps_ite_LayerDecision
          | apply keeps_foldl_MmaSum | apply keeps_ite_MmaSum | apply keeps_foldl_QSum | apply keeps_ite_QSum | apply keeps_foldl_QTile
          | apply keeps_ite_QTile | apply keeps_foldl_UpdSum | apply keeps_ite_UpdSum | apply keeps_foldl_VecSum | apply keeps_ite_VecSum
          | apply keeps_units_map | apply unitOk_getUnit | apply unitOk_idle | apply unitOk_advance | apply queueOk_getQueue
          | apply unitOk_setG | apply unitOk_setT | apply unitOk_setK | apply unitOk_setC | apply unitOk_setSt | apply unitOk_setP))
      | split | (with_reducible (first
          | apply keeps_free | apply unitOk_fewer | apply unitOk_mapped
          | apply unitOk_emptied | apply unitOk_free | apply queueOk_map | apply queueOk_free)) | dsimp only)

theorem keeps_commitOne {r : State} (usable : List Nat) (skipped : Bool) (c : Commit) (x : Nat × Nat × Nat) (h_c : Keeps r c.s) :
    Keeps r (commitOne usable skipped c x).s := by
  exact keeps_commit (d := commitLayer x.1 x.2.1 usable skipped c.s) (n := fun d => c.rose + b2n d.rose)
    (keeps_commitLayer _ _ _ _ _ h_c)

theorem keeps_commitRecords {r : State} (b : Boundary) (led : List (Nat × Nat)) (lay : List (Nat × Nat)) (skipped : Bool) (s : State)
    (h_s : Keeps r s) :
    Keeps r (commitRecords b led lay skipped s).s := by
  unfold commitRecords
  repeat' (first
      | with_reducible assumption | (with_reducible intro _)
      | (with_reducible (first
          | apply keeps_commitFigures | apply keeps_commitOne | apply keeps_linkFormat | apply keeps_commitCoarse | apply keeps_ite
          | apply unitOk_ite | apply unitOk_foldl | apply keeps_foldl | apply keeps_foldl_fst | apply keeps_foldl_snd | apply ctlKeeps_done
          | apply ctlKeeps_wait | apply ctlKeeps_refuse | apply ctlKeeps_ite | apply arrKeeps_gone | apply arrKeeps_later
          | apply arrKeeps_here | apply arrKeeps_ite | apply keeps_foldl_CollEnd | apply keeps_ite_CollEnd | apply keeps_foldl_Commit
          | apply keeps_ite_Commit | apply keeps_foldl_DrainSum | apply keeps_ite_DrainSum | apply keeps_foldl_Effect
          | apply keeps_ite_Effect | apply keeps_foldl_LayerDecision | apply keeps_ite_LayerDecision | apply keeps_foldl_MmaSum
          | apply keeps_ite_MmaSum | apply keeps_foldl_QSum | apply keeps_ite_QSum | apply keeps_foldl_QTile | apply keeps_ite_QTile
          | apply keeps_foldl_UpdSum | apply keeps_ite_UpdSum | apply keeps_foldl_VecSum | apply keeps_ite_VecSum | apply keeps_units_map
          | apply unitOk_getUnit | apply unitOk_idle | apply unitOk_advance | apply queueOk_getQueue | apply unitOk_setG | apply unitOk_setT
          | apply unitOk_setK | apply unitOk_setC | apply unitOk_setSt | apply unitOk_setP))
      | split | (with_reducible (first
          | apply keeps_free | apply unitOk_fewer | apply unitOk_mapped
          | apply unitOk_emptied | apply unitOk_free | apply queueOk_map | apply queueOk_free)) | dsimp only)

theorem keeps_commitStep {r : State} (b : Boundary) (led : List (Nat × Nat)) (lay : List (Nat × Nat)) (skipped : Bool) (s : State)
    (h_s : Keeps r s) :
    Keeps r (commitStep b led lay skipped s) := by
  unfold commitStep
  repeat' (first
      | with_reducible assumption | (with_reducible intro _)
      | (with_reducible (first
          | apply keeps_commitRecords | apply keeps_bump | apply keeps_setReg | apply keeps_annexCommit | apply keeps_closeOps
          | apply keeps_moveTo | apply keeps_setPf | apply keeps_ite | apply keeps_foldl))
      | split | (with_reducible apply keeps_free) | dsimp only)

theorem keeps_tryCommit {r : State} (s : State) (h_s : Keeps r s) :
    Keeps r (tryCommit s) := by
  unfold tryCommit
  repeat' (first
      | with_reducible assumption | (with_reducible intro _)
      | (with_reducible (first
          | apply keeps_commitStep | apply keeps_ite | apply keeps_foldl))
      | split | (with_reducible apply keeps_free) | dsimp only)

theorem keeps_contribution {r : State} (s : State) (h_s : Keeps r s) :
    Keeps r (contribution s) := by
  unfold contribution
  repeat' (first
      | with_reducible assumption | (with_reducible intro _)
      | (with_reducible (first
          | apply keeps_sendToMembers | apply keeps_sendPart | apply keeps_tryCommit | apply keeps_ite | apply keeps_foldl))
      | split | (with_reducible apply keeps_free) | dsimp only)

theorem keeps_headerFault {r : State} (s : State) (h_s : Keeps r s) :
    Keeps r (headerFault s) := by
  unfold headerFault
  repeat' (first
      | with_reducible assumption | (with_reducible intro _)
      | (with_reducible (first
          | apply keeps_restartFault | apply keeps_ite | apply keeps_foldl))
      | split | (with_reducible apply keeps_free) | dsimp only)

theorem keeps_beginBoundary {r : State} (s : State) (h_s : Keeps r s) :
    Keeps r (beginBoundary s) := by
  unfold beginBoundary
  repeat' (first
      | with_reducible assumption | (with_reducible intro _)
      | (with_reducible (first
          | apply keeps_setPf | apply keeps_restartFault | apply keeps_headerFault | apply keeps_contribution | apply keeps_annexCapture
          | apply keeps_ite | apply keeps_foldl))
      | split | (with_reducible apply keeps_free) | dsimp only)

theorem keeps_closeStep {r : State} (v : Nat) (s : State) (h_s : Keeps r s) :
    Keeps r (closeStep v s) := by
  unfold closeStep
  repeat' (first
      | with_reducible assumption | (with_reducible intro _)
      | (with_reducible (first
          | apply keeps_beginBoundary | apply keeps_setPf | apply keeps_ite | apply keeps_foldl))
      | split | (with_reducible apply keeps_free) | dsimp only)

theorem keeps_onPacket {r : State} (pk : List Byte) (kind : Nat) (f : List Byte → State → State) (s : State)
    (h_f : ∀ y0 z, Keeps r z → Keeps r (f y0 z)) (h_s : Keeps r s) :
    Keeps r (onPacket pk kind f s) := by
  unfold onPacket
  have ha := keeps_arrive pk s h_s
  generalize arrive pk s = a at ha ⊢
  cases a <;> (replace ha : Keeps r _ := ha)
  all_goals repeat' (first
      | with_reducible assumption | (with_reducible intro _)
      | (with_reducible (first
          | apply h_f | apply keeps_arrive | apply keeps_joinRestart | apply keeps_ite | apply unitOk_ite | apply unitOk_foldl
          | apply keeps_foldl | apply keeps_foldl_fst | apply keeps_foldl_snd | apply ctlKeeps_done | apply ctlKeeps_wait
          | apply ctlKeeps_refuse | apply ctlKeeps_ite | apply arrKeeps_gone | apply arrKeeps_later | apply arrKeeps_here
          | apply arrKeeps_ite | apply keeps_foldl_CollEnd | apply keeps_ite_CollEnd | apply keeps_foldl_Commit | apply keeps_ite_Commit
          | apply keeps_foldl_DrainSum | apply keeps_ite_DrainSum | apply keeps_foldl_Effect | apply keeps_ite_Effect
          | apply keeps_foldl_LayerDecision | apply keeps_ite_LayerDecision | apply keeps_foldl_MmaSum | apply keeps_ite_MmaSum
          | apply keeps_foldl_QSum | apply keeps_ite_QSum | apply keeps_foldl_QTile | apply keeps_ite_QTile | apply keeps_foldl_UpdSum
          | apply keeps_ite_UpdSum | apply keeps_foldl_VecSum | apply keeps_ite_VecSum | apply keeps_units_map | apply unitOk_getUnit
          | apply unitOk_idle | apply unitOk_advance | apply queueOk_getQueue | apply unitOk_setG | apply unitOk_setT | apply unitOk_setK
          | apply unitOk_setC | apply unitOk_setSt | apply unitOk_setP))
      | split | (with_reducible (first
          | apply keeps_free | apply unitOk_fewer | apply unitOk_mapped
          | apply unitOk_emptied | apply unitOk_free | apply queueOk_map | apply queueOk_free)) | dsimp only)

theorem keeps_refuseConfig {r : State} (status : Nat) (s : State) (h_s : Keeps r s) :
    Keeps r (refuseConfig status s) := by
  unfold refuseConfig
  repeat' (first
      | with_reducible assumption | (with_reducible intro _)
      | (with_reducible (first
          | apply keeps_setPf | apply keeps_ite | apply keeps_foldl))
      | split | (with_reducible apply keeps_free) | dsimp only)

theorem keeps_decideConfig {r : State} (s : State) (h_s : Keeps r s) :
    Keeps r (decideConfig s) := by
  unfold decideConfig
  repeat' (first
      | with_reducible assumption | (with_reducible intro _)
      | (with_reducible (first
          | apply keeps_refuseConfig | apply keeps_setPf | apply keeps_ite | apply keeps_foldl))
      | split | (with_reducible apply keeps_free) | dsimp only)

theorem keeps_enableAnnex {r : State} (s : State) (h_s : Keeps r s) :
    Keeps r (enableAnnex s) := by
  unfold enableAnnex
  repeat' (first
      | with_reducible assumption | (with_reducible intro _)
      | (with_reducible (first
          | apply keeps_setPf | apply keeps_refuseConfig | apply keeps_decideConfig | apply keeps_sendToMembers | apply keeps_ite
          | apply keeps_foldl))
      | split | (with_reducible apply keeps_free) | dsimp only)

theorem keeps_writeAnnexCtrl {r : State} (v : Nat) (s : State) (h_s : Keeps r s) :
    Keeps r (writeAnnexCtrl v s) := by
  unfold writeAnnexCtrl
  repeat' (first
      | with_reducible assumption | (with_reducible intro _)
      | (with_reducible (first
          | apply keeps_setPf | apply keeps_enableAnnex | apply keeps_ite | apply keeps_foldl))
      | split | (with_reducible apply keeps_free) | dsimp only)

theorem keeps_takeOffer {r : State} (b : List Byte) (s : State) (h_s : Keeps r s) :
    Keeps r (takeOffer b s) := by
  unfold takeOffer
  repeat' (first
      | with_reducible assumption | (with_reducible intro _)
      | (with_reducible (first
          | apply keeps_decideConfig | apply keeps_ite | apply keeps_foldl))
      | split | (with_reducible apply keeps_free) | dsimp only)

theorem keeps_execAnnexSumsPacket {r : State} (pk : List Byte) (s : State) (h_s : Keeps r s) :
    ∀ t, execAnnexSumsPacket pk s = .next t → Keeps r t := by
  unfold execAnnexSumsPacket
  rintro _ ⟨⟩
  repeat' (first
      | with_reducible assumption | (with_reducible intro _)
      | (with_reducible (first
          | apply keeps_onPacket | apply keeps_addSums | apply keeps_ite | apply keeps_foldl))
      | split | (with_reducible apply keeps_free) | dsimp only)

theorem keeps_execAnchorPacket {r : State} (pk : List Byte) (s : State) (h_s : Keeps r s) :
    ∀ t, execAnchorPacket pk s = .next t → Keeps r t := by
  unfold execAnchorPacket
  rintro _ ⟨⟩
  repeat' (first
      | with_reducible assumption | (with_reducible intro _)
      | (with_reducible (first
          | apply keeps_onPacket | apply keeps_addAnchor | apply keeps_ite | apply keeps_foldl))
      | split | (with_reducible apply keeps_free) | dsimp only)

theorem keeps_execAnnexPiece {r : State} (pk : List Byte) (s : State) (h_s : Keeps r s) :
    ∀ t, execAnnexPiece pk s = .next t → Keeps r t := by
  unfold execAnnexPiece
  rintro _ ⟨⟩
  repeat' (first
      | with_reducible assumption | (with_reducible intro _)
      | (with_reducible (first
          | apply keeps_onPacket | apply keeps_takePiece | apply keeps_ite | apply keeps_foldl))
      | split | (with_reducible apply keeps_free) | dsimp only)

theorem keeps_takeAck {r : State} (src : Nat) (b : List Byte) (s : State) (h_s : Keeps r s) :
    Keeps r (takeAck src b s) := by
  unfold takeAck
  repeat' (first
      | with_reducible assumption | (with_reducible intro _)
      | (with_reducible (first
          | apply keeps_anchorReady | apply keeps_contribution | apply keeps_ite | apply keeps_foldl))
      | split | (with_reducible apply keeps_free) | dsimp only)

theorem keeps_execAnnexAck {r : State} (pk : List Byte) (s : State) (h_s : Keeps r s) :
    ∀ t, execAnnexAck pk s = .next t → Keeps r t := by
  unfold execAnnexAck
  rintro _ ⟨⟩
  repeat' (first
      | with_reducible assumption | (with_reducible intro _)
      | (with_reducible (first
          | apply keeps_onPacket | apply keeps_takeAck | apply keeps_ite | apply keeps_foldl))
      | split | (with_reducible apply keeps_free) | dsimp only)

theorem keeps_execAnnexConfig {r : State} (pk : List Byte) (s : State) (h_s : Keeps r s) :
    ∀ t, execAnnexConfig pk s = .next t → Keeps r t := by
  unfold execAnnexConfig
  rintro _ ⟨⟩
  repeat' (first
      | with_reducible assumption | (with_reducible intro _)
      | (with_reducible (first
          | apply keeps_onPacket | apply keeps_takeOffer | apply keeps_ite | apply keeps_foldl))
      | split | (with_reducible apply keeps_free) | dsimp only)

theorem keeps_answerFetch {r : State} (src : Nat) (b : List Byte) (s : State) (h_s : Keeps r s) :
    Keeps r (answerFetch src b s) := by
  unfold answerFetch
  repeat' (first
      | with_reducible assumption | (with_reducible intro _)
      | (with_reducible (first
          | apply keeps_sendPacket | apply keeps_ite | apply keeps_foldl))
      | split | (with_reducible apply keeps_free) | dsimp only)

theorem keeps_execFetchReq {r : State} (pk : List Byte) (s : State) (h_s : Keeps r s) :
    ∀ t, execFetchReq pk s = .next t → Keeps r t := by
  unfold execFetchReq
  rintro _ ⟨⟩
  repeat' (first
      | with_reducible assumption | (with_reducible intro _)
      | (with_reducible (first
          | apply keeps_onPacket | apply keeps_answerFetch | apply keeps_ite | apply keeps_foldl))
      | split | (with_reducible apply keeps_free) | dsimp only)

theorem keeps_execFetchData {r : State} (pk : List Byte) (s : State) (h_s : Keeps r s) :
    ∀ t, execFetchData pk s = .next t → Keeps r t := by
  unfold execFetchData
  rintro _ ⟨⟩
  repeat' (first
      | with_reducible assumption | (with_reducible intro _)
      | (with_reducible (first
          | apply keeps_onPacket | apply keeps_tryAgree | apply keeps_fetchLoop | apply keeps_ite | apply keeps_foldl))
      | split | (with_reducible apply keeps_free) | dsimp only)

theorem keeps_nextSource {r : State} (s : State) (h_s : Keeps r s) :
    Keeps r (nextSource s) := by
  unfold nextSource
  repeat' (first
      | with_reducible assumption | (with_reducible intro _)
      | (with_reducible (first
          | apply keeps_askSource | apply keeps_tryAgree | apply keeps_fetchLoop | apply keeps_ite | apply keeps_foldl))
      | split | (with_reducible apply keeps_free) | dsimp only)

theorem keeps_execFetchRefused {r : State} (pk : List Byte) (s : State) (h_s : Keeps r s) :
    ∀ t, execFetchRefused pk s = .next t → Keeps r t := by
  unfold execFetchRefused
  rintro _ ⟨⟩
  repeat' (first
      | with_reducible assumption | (with_reducible intro _)
      | (with_reducible (first
          | apply keeps_onPacket | apply keeps_nextSource | apply keeps_ite | apply keeps_foldl))
      | split | (with_reducible apply keeps_free) | dsimp only)

theorem keeps_execAnnexAckTimeout {r : State} (s : State) (h_s : Keeps r s) :
    ∀ t, execAnnexAckTimeout s = .next t → Keeps r t := by
  unfold execAnnexAckTimeout
  rintro _ ⟨⟩
  repeat' (first
      | with_reducible assumption | (with_reducible intro _)
      | (with_reducible (first
          | apply keeps_restartFault | apply keeps_ite | apply keeps_foldl))
      | split | (with_reducible apply keeps_free) | dsimp only)

theorem keeps_writeRstCtrl {r : State} (v : Nat) (s : State) (h_s : Keeps r s) :
    Keeps r (writeRstCtrl v s) := by
  unfold writeRstCtrl
  repeat' (first
      | with_reducible assumption | (with_reducible intro _)
      | (with_reducible (first
          | apply keeps_tryAgree | apply keeps_goRestore | apply keeps_setPf | apply keeps_ite | apply keeps_foldl))
      | split | (with_reducible apply keeps_free) | dsimp only)

theorem keeps_execRestoreDone {r : State} (s : State) (h_s : Keeps r s) :
    ∀ t, execRestoreDone s = .next t → Keeps r t := by
  unfold execRestoreDone
  rintro _ ⟨⟩
  repeat' (first
      | with_reducible assumption | (with_reducible intro _)
      | (with_reducible (first
          | apply keeps_finishRestore | apply keeps_ite | apply keeps_foldl))
      | split | (with_reducible apply keeps_free) | dsimp only)

end Sys2Proof.Machine
end

