-- ==== Sys2Proof/Laws/KeepsPlans.lean ====
section
/-! SUPPORT. Keeps through issuing, and the operations of program units that read and write tiles, memory and records. -/
namespace Sys2Proof.Machine

theorem unitOk_failUnit {r : State} (id : Nat) (st : Nat) (x : ProgUnit) (h_x : UnitOk r x) :
    UnitOk r (failUnit id st x) := by
  unfold failUnit
  repeat' (first
      | with_reducible assumption | (with_reducible intro _)
      | (with_reducible (first
          | apply keeps_ite | apply unitOk_ite | apply unitOk_foldl | apply keeps_foldl | apply keeps_foldl_fst | apply keeps_foldl_snd
          | apply ctlKeeps_done | apply ctlKeeps_wait | apply ctlKeeps_refuse | apply ctlKeeps_ite | apply arrKeeps_gone
          | apply arrKeeps_later | apply arrKeeps_here | apply arrKeeps_ite | apply keeps_foldl_CollEnd | apply keeps_ite_CollEnd
          | apply keeps_foldl_Commit | apply keeps_ite_Commit | apply keeps_foldl_DrainSum | apply keeps_ite_DrainSum
          | apply keeps_foldl_Effect | apply keeps_ite_Effect | apply keeps_foldl_LayerDecision | apply keeps_ite_LayerDecision
          | apply keeps_foldl_MmaSum | apply keeps_ite_MmaSum | apply keeps_foldl_QSum | apply keeps_ite_QSum | apply keeps_foldl_QTile
          | apply keeps_ite_QTile | apply keeps_foldl_UpdSum | apply keeps_ite_UpdSum | apply keeps_foldl_VecSum | apply keeps_ite_VecSum
          | apply keeps_units_map | apply unitOk_getUnit | apply unitOk_idle | apply unitOk_advance | apply queueOk_getQueue
          | apply unitOk_setG | apply unitOk_setT | apply unitOk_setK | apply unitOk_setC | apply unitOk_setSt | apply unitOk_setP))
      | split | (with_reducible (first
          | apply keeps_free | apply unitOk_fewer | apply unitOk_mapped
          | apply unitOk_emptied | apply unitOk_free | apply queueOk_map | apply queueOk_free)) | dsimp only)

theorem keeps_refuse {r : State} (u : UnitRef) (st : Nat) (s : State) (h_s : Keeps r s) :
    Keeps r (refuse u st s) := by
  unfold refuse
  repeat' (first
      | with_reducible assumption | (with_reducible intro _)
      | (with_reducible (first
          | apply unitOk_getUnit | apply unitOk_failUnit | apply keeps_setUnit | apply keeps_logFault | apply keeps_ite | apply unitOk_ite
          | apply unitOk_foldl | apply keeps_foldl | apply keeps_foldl_fst | apply keeps_foldl_snd | apply ctlKeeps_done
          | apply ctlKeeps_wait | apply ctlKeeps_refuse | apply ctlKeeps_ite | apply arrKeeps_gone | apply arrKeeps_later
          | apply arrKeeps_here | apply arrKeeps_ite | apply keeps_foldl_CollEnd | apply keeps_ite_CollEnd | apply keeps_foldl_Commit
          | apply keeps_ite_Commit | apply keeps_foldl_DrainSum | apply keeps_ite_DrainSum | apply keeps_foldl_Effect
          | apply keeps_ite_Effect | apply keeps_foldl_LayerDecision | apply keeps_ite_LayerDecision | apply keeps_foldl_MmaSum
          | apply keeps_ite_MmaSum | apply keeps_foldl_QSum | apply keeps_ite_QSum | apply keeps_foldl_QTile | apply keeps_ite_QTile
          | apply keeps_foldl_UpdSum | apply keeps_ite_UpdSum | apply keeps_foldl_VecSum | apply keeps_ite_VecSum | apply keeps_units_map
          | apply unitOk_getUnit | apply unitOk_idle | apply unitOk_advance | apply queueOk_getQueue | apply unitOk_setG | apply unitOk_setT
          | apply unitOk_setK | apply unitOk_setC | apply unitOk_setSt | apply unitOk_setP))
      | split | (with_reducible (first
          | apply keeps_free | apply unitOk_fewer | apply unitOk_mapped
          | apply unitOk_emptied | apply unitOk_free | apply queueOk_map | apply queueOk_free)) | dsimp only)

theorem keeps_endOwner {r : State} (o : Owner) (st : Nat) (flags : Nat) (s : State) (h_s : Keeps r s) :
    Keeps r (endOwner o st flags s) := by
  unfold endOwner
  repeat' (first
      | with_reducible assumption | (with_reducible intro _)
      | (with_reducible (first
          | apply keeps_finishCmd | apply keeps_endLanding | apply keeps_ite | apply keeps_foldl))
      | split | (with_reducible apply keeps_free) | dsimp only)

theorem keeps_restartBy {r : State} (u : UnitRef) (f : FaultInfo) (flags : Nat) (s : State) (h_s : Keeps r s) :
    Keeps r (restartBy u f flags s) := by
  unfold restartBy
  repeat' (first
      | with_reducible assumption | (with_reducible intro _)
      | (with_reducible (first
          | apply unitOk_getUnit | apply keeps_endOwner | apply keeps_restartFault | apply keeps_ite | apply keeps_foldl))
      | split | (with_reducible apply keeps_free) | dsimp only)

theorem keeps_mapOp {r : State} (u : UnitRef) (id : Nat) (g : Op → Op) (s : State) (h_s : Keeps r s) :
    Keeps r (mapOp u id g s) := by
  unfold mapOp
  repeat' (first
      | with_reducible assumption | (with_reducible intro _)
      | (with_reducible (first
          | apply unitOk_getUnit | apply keeps_setUnit | apply keeps_ite | apply unitOk_ite | apply unitOk_foldl | apply keeps_foldl
          | apply keeps_foldl_fst | apply keeps_foldl_snd | apply ctlKeeps_done | apply ctlKeeps_wait | apply ctlKeeps_refuse
          | apply ctlKeeps_ite | apply arrKeeps_gone | apply arrKeeps_later | apply arrKeeps_here | apply arrKeeps_ite
          | apply keeps_foldl_CollEnd | apply keeps_ite_CollEnd | apply keeps_foldl_Commit | apply keeps_ite_Commit
          | apply keeps_foldl_DrainSum | apply keeps_ite_DrainSum | apply keeps_foldl_Effect | apply keeps_ite_Effect
          | apply keeps_foldl_LayerDecision | apply keeps_ite_LayerDecision | apply keeps_foldl_MmaSum | apply keeps_ite_MmaSum
          | apply keeps_foldl_QSum | apply keeps_ite_QSum | apply keeps_foldl_QTile | apply keeps_ite_QTile | apply keeps_foldl_UpdSum
          | apply keeps_ite_UpdSum | apply keeps_foldl_VecSum | apply keeps_ite_VecSum | apply keeps_units_map | apply unitOk_getUnit
          | apply unitOk_idle | apply unitOk_advance | apply queueOk_getQueue | apply unitOk_setG | apply unitOk_setT | apply unitOk_setK
          | apply unitOk_setC | apply unitOk_setSt | apply unitOk_setP))
      | split | (with_reducible (first
          | apply keeps_free | apply unitOk_fewer | apply unitOk_mapped
          | apply unitOk_emptied | apply unitOk_free | apply queueOk_map | apply queueOk_free)) | dsimp only)

theorem keeps_launch {r : State} (u : UnitRef) (p : Plan) (s : State) (h_p : PlanKeeps p) (h_s : Keeps r s)
    (hlen : (getUnit s u).inFlight.length < 32) :
    Keeps r (launch u p s) := by
  unfold launch
  extract_lets x id o s1
  have h1 : Keeps r s1 := keeps_setUnit (unitOk_advance _ (fun a => by
    have b := unitOk_getUnit u h_s a
    refine ⟨b.g, b.t, b.k, b.c, b.st, ?_⟩
    show (x.inFlight ++ [o]).length ≤ 32
    rw [List.length_append]
    exact hlen)) h_s
  clear_value s1
  split
  · exact keeps_mapOp _ _ _ _ h1
  · split
    · exact keeps_mapOp _ _ _ _ h1
    · exact keeps_mapOp _ _ _ _ (h_p _ _ _ h1)

theorem keeps_tryOp {r : State} (u : UnitRef) (i : Instr) (p : Plan) (s : State) (h_p : PlanKeeps p) (h_s : Keeps r s) :
    Keeps r (tryOp u i p s) := by
  unfold tryOp
  extract_lets x waits
  have hw : ∀ z, Keeps r z → Keeps r (waits z) := fun z h => keeps_setUnit (unitOk_free _ _ _ _ _ _ _ _ _ _ _ _ _ _ (unitOk_getUnit u h)) h
  clear_value waits
  split
  · exact hw _ h_s
  · next hm =>
    split
    · exact keeps_refuse _ _ _ h_s
    · split
      · exact hw _ h_s
      · split
        · exact hw _ h_s
        · exact hw _ (keeps_request _ _ _ _ _ h_s)
        · refine keeps_launch _ _ _ h_p h_s ?_
          simp only [mustWait, Bool.or_eq_true, decide_eq_true_eq, not_or, Nat.not_le] at hm
          exact hm.1.1

theorem keeps_attempt {r : State} (u : UnitRef) (i : Instr) (f : Fields) (d : OpDef) (s : State) (h_d : DefKeeps d) (h_s : Keeps r s) :
    Keeps r (attempt u i f d s) := by
  unfold attempt
  extract_lets x
  split
  · exact keeps_refuse _ _ _ h_s
  · unfold DefKeeps at h_d
    generalize d.body = b at h_d ⊢
    cases b with
    | op g => exact keeps_tryOp _ _ _ _ (h_d _ _ _) h_s
    | control g =>
      have h := h_d r s x f h_s (unitOk_getUnit u h_s)
      dsimp only
      generalize g s x f = c at h ⊢
      cases c with
      | done t => exact h
      | refuse st => exact keeps_refuse _ _ _ h_s
      | wait t => exact keeps_setUnit (unitOk_free _ _ _ _ _ _ _ _ _ _ _ _ _ _ (unitOk_getUnit u h)) h

theorem keeps_issue {r : State} (u : UnitRef) (i : Instr) (f : Fields) (d : OpDef) (s : State) (h_d : DefKeeps d) (h_s : Keeps r s) :
    Keeps r (issue u i f d s) := by
  unfold issue
  repeat' (first
      | with_reducible assumption | (with_reducible intro _)
      | (with_reducible (first
          | apply unitOk_getUnit | apply keeps_attempt | apply keeps_setUnit | apply unitOk_advance | apply keeps_refuse | apply keeps_ite
          | apply keeps_foldl))
      | split | (with_reducible apply keeps_free) | dsimp only)

theorem keeps_completeOp {r : State} (u : UnitRef) (id : Nat) (s : State) (h_s : Keeps r s) :
    Keeps r (completeOp u id s) := by
  unfold completeOp
  repeat' (first
      | with_reducible assumption | (with_reducible intro _)
      | (with_reducible (first
          | apply unitOk_getUnit | apply keeps_setUnit | apply keeps_logFault | apply unitOk_failUnit | apply keeps_ite | apply unitOk_ite
          | apply unitOk_foldl | apply keeps_foldl | apply keeps_foldl_fst | apply keeps_foldl_snd | apply ctlKeeps_done
          | apply ctlKeeps_wait | apply ctlKeeps_refuse | apply ctlKeeps_ite | apply arrKeeps_gone | apply arrKeeps_later
          | apply arrKeeps_here | apply arrKeeps_ite | apply keeps_foldl_CollEnd | apply keeps_ite_CollEnd | apply keeps_foldl_Commit
          | apply keeps_ite_Commit | apply keeps_foldl_DrainSum | apply keeps_ite_DrainSum | apply keeps_foldl_Effect
          | apply keeps_ite_Effect | apply keeps_foldl_LayerDecision | apply keeps_ite_LayerDecision | apply keeps_foldl_MmaSum
          | apply keeps_ite_MmaSum | apply keeps_foldl_QSum | apply keeps_ite_QSum | apply keeps_foldl_QTile | apply keeps_ite_QTile
          | apply keeps_foldl_UpdSum | apply keeps_ite_UpdSum | apply keeps_foldl_VecSum | apply keeps_ite_VecSum | apply keeps_units_map
          | apply unitOk_getUnit | apply unitOk_idle | apply unitOk_advance | apply queueOk_getQueue | apply unitOk_setG | apply unitOk_setT
          | apply unitOk_setK | apply unitOk_setC | apply unitOk_setSt | apply unitOk_setP))
      | split | (with_reducible (first
          | apply keeps_free | apply unitOk_fewer | apply unitOk_mapped
          | apply unitOk_emptied | apply unitOk_free | apply queueOk_map | apply queueOk_free)) | dsimp only)

theorem keeps_completeRun_endUnitGrantsp {r : State} (u : UnitRef) (s : State) (h_s : Keeps r s) :
    Keeps r (completeRun.endUnitGrants' u s) := by
  unfold completeRun.endUnitGrants'
  repeat' (first
      | with_reducible assumption | (with_reducible intro _)
      | (with_reducible (first
          | apply keeps_dropGrants | apply keeps_ite | apply keeps_foldl))
      | split | (with_reducible apply keeps_free) | dsimp only)

theorem keeps_completeRun {r : State} (u : UnitRef) (s : State) (h_s : Keeps r s) :
    Keeps r (completeRun u s) := by
  unfold completeRun
  repeat' (first
      | with_reducible assumption | (with_reducible intro _)
      | (with_reducible (first
          | apply unitOk_getUnit | apply keeps_setUnit | apply keeps_completeRun_endUnitGrantsp | apply keeps_endOwner
          | apply unitOk_stopUnit | apply keeps_ite | apply keeps_foldl))
      | split | (with_reducible apply keeps_free) | dsimp only)

theorem keeps_startMove {r : State} (h : Nat) (m : StashMove) (s : State) (h_s : Keeps r s) :
    Keeps r (startMove h m s) := by
  unfold startMove
  repeat' (first
      | with_reducible assumption | (with_reducible intro _)
      | (with_reducible (first
          | apply keeps_freeMover | apply keeps_bump | apply keeps_putStash | apply keeps_allocate | apply keeps_setEntState
          | apply keeps_writeMem | apply keeps_ite | apply keeps_foldl))
      | split | (with_reducible apply keeps_free) | dsimp only)

theorem keeps_wakeMove {r : State} (h : Nat) (s : State) (m : StashMove) (h_s : Keeps r s) :
    Keeps r (wakeMove h s m) := by
  unfold wakeMove
  repeat' (first
      | with_reducible assumption | (with_reducible intro _)
      | (with_reducible (first
          | apply keeps_startMove | apply keeps_freeMover | apply keeps_setStash | apply keeps_ite | apply keeps_foldl))
      | split | (with_reducible apply keeps_free) | dsimp only)

theorem keeps_wakeMoves {r : State} (h : Nat) (e : Nat) (s : State) (h_s : Keeps r s) :
    Keeps r (wakeMoves h e s) := by
  unfold wakeMoves
  repeat' (first
      | with_reducible assumption | (with_reducible intro _)
      | (with_reducible (first
          | apply keeps_wakeMove | apply keeps_ite | apply keeps_foldl))
      | split | (with_reducible apply keeps_free) | dsimp only)

theorem keeps_beginMove {r : State} (h : Nat) (e : Nat) (toAttic : Bool) (u : UnitRef) (op : Nat) (s : State) (h_s : Keeps r s) :
    Keeps r (beginMove h e toAttic u op s) := by
  unfold beginMove
  repeat' (first
      | with_reducible assumption | (with_reducible intro _)
      | (with_reducible (first
          | apply keeps_wakeMoves | apply keeps_setStash | apply keeps_freeMover | apply keeps_ite | apply keeps_foldl))
      | split | (with_reducible apply keeps_free) | dsimp only)

theorem keeps_switchMove {r : State} (h : Nat) (m : StashMove) (s : State) (h_s : Keeps r s) :
    Keeps r (switchMove h m s) := by
  unfold switchMove
  repeat' (first
      | with_reducible assumption | (with_reducible intro _)
      | (with_reducible (first
          | apply keeps_freeMover | apply keeps_setEntState | apply keeps_putStash | apply keeps_ite | apply keeps_foldl))
      | split | (with_reducible apply keeps_free) | dsimp only)

theorem keeps_markDet {r : State} (dom : Nat) (bit : Nat) (s : State) (h_s : Keeps r s) :
    Keeps r (markDet dom bit s) := by
  unfold markDet
  repeat' (first
      | with_reducible assumption | (with_reducible intro _)
      | (with_reducible (first
          | apply keeps_setRb | apply keeps_ite | apply keeps_foldl))
      | split | (with_reducible apply keeps_free) | dsimp only)

theorem keeps_markNonfinite {r : State} (dom : Nat) (s : State) (h_s : Keeps r s) :
    Keeps r (markNonfinite dom s) := by
  unfold markNonfinite
  repeat' (first
      | with_reducible assumption | (with_reducible intro _)
      | (with_reducible (first
          | apply keeps_setRb | apply keeps_markDet | apply keeps_ite | apply keeps_foldl))
      | split | (with_reducible apply keeps_free) | dsimp only)

theorem keeps_takeDraw {r : State} (d : DrawSrc) (drew : Bool) (s : State) (h_s : Keeps r s) :
    Keeps r (takeDraw d drew s) := by
  unfold takeDraw
  repeat' (first
      | with_reducible assumption | (with_reducible intro _)
      | (with_reducible (first
          | apply keeps_bump | apply keeps_tick | apply keeps_markDet | apply keeps_setLane | apply keeps_ite | apply keeps_foldl))
      | split | (with_reducible apply keeps_free) | dsimp only)

theorem keeps_rekey {r : State} (dom : Nat) (s : State) (h_s : Keeps r s) :
    Keeps r (rekey dom s) := by
  unfold rekey
  exact keeps_tick (keeps_setReg _ _ _ (keeps_lanes _ (fun b => tblWf_clear _ _ b) h_s))

theorem keeps_closeWrite {r : State} (v : View) (discard : Bool) (s : State) (h_s : Keeps r s) :
    Keeps r (closeWrite v discard s) := by
  unfold closeWrite
  repeat' (first
      | with_reducible assumption | (with_reducible intro _)
      | (with_reducible (first
          | apply keeps_wakeMoves | apply keeps_addWritten | apply keeps_ite | apply keeps_foldl))
      | split | (with_reducible apply keeps_free) | dsimp only)

theorem keeps_exhausted {r : State} (u : UnitRef) (h : Nat) (e : Nat) (flags : Nat) (s : State) (h_s : Keeps r s) :
    Keeps r (exhausted u h e flags s).s := by
  unfold exhausted
  repeat' (first
      | with_reducible assumption | (with_reducible intro _)
      | (with_reducible (first
          | apply keeps_restartBy | apply keeps_bump | apply keeps_ite | apply keeps_foldl))
      | split | (with_reducible apply keeps_free) | dsimp only)

theorem keeps_putRails {r : State} (bank : Nat) (k : BankKind) (i : Nat) (j : Nat) (r1 : Rails) (s : State) (h_s : Keeps r s) :
    Keeps r (putRails bank k i j r1 s) := by
  unfold putRails
  repeat' (first
      | with_reducible assumption | (with_reducible intro _)
      | (with_reducible (first
          | apply keeps_putEntry | apply keeps_ite | apply keeps_foldl))
      | split | (with_reducible apply keeps_free) | dsimp only)

theorem keeps_headroomEffects {r : State} (dom : Nat) (eng : Nat) (n : Nat) (s : State) (h_s : Keeps r s) :
    Keeps r (headroomEffects dom eng n s) := by
  unfold headroomEffects
  repeat' (first
      | with_reducible assumption | (with_reducible intro _)
      | (with_reducible (first
          | apply keeps_markDet | apply keeps_bump | apply keeps_ite | apply keeps_foldl))
      | split | (with_reducible apply keeps_free) | dsimp only)

theorem keeps_engCount {r : State} (dom : Nat) (eng : Nat) (off : Nat) (n : Nat) (s : State) (h_s : Keeps r s) :
    Keeps r (engCount dom eng off n s) := by
  unfold engCount
  repeat' (first
      | with_reducible assumption | (with_reducible intro _)
      | (with_reducible (first
          | apply keeps_bump | apply keeps_ite | apply keeps_foldl))
      | split | (with_reducible apply keeps_free) | dsimp only)

theorem keeps_addTile {r : State} (bank : Nat) (n : Nat) (a : Nat) (k : BankKind) (s : State) (h_s : Keeps r s) :
    Keeps r (addTile bank n a k s).1 := by
  unfold addTile
  repeat' (first
      | with_reducible assumption | (with_reducible intro _)
      | (with_reducible (first
          | apply keeps_putKind | apply keeps_putTileRec | apply keeps_putRails | apply keeps_ite | apply unitOk_ite | apply unitOk_foldl
          | apply keeps_foldl | apply keeps_foldl_fst | apply keeps_foldl_snd | apply ctlKeeps_done | apply ctlKeeps_wait
          | apply ctlKeeps_refuse | apply ctlKeeps_ite | apply arrKeeps_gone | apply arrKeeps_later | apply arrKeeps_here
          | apply arrKeeps_ite | apply keeps_foldl_CollEnd | apply keeps_ite_CollEnd | apply keeps_foldl_Commit | apply keeps_ite_Commit
          | apply keeps_foldl_DrainSum | apply keeps_ite_DrainSum | apply keeps_foldl_Effect | apply keeps_ite_Effect
          | apply keeps_foldl_LayerDecision | apply keeps_ite_LayerDecision | apply keeps_foldl_MmaSum | apply keeps_ite_MmaSum
          | apply keeps_foldl_QSum | apply keeps_ite_QSum | apply keeps_foldl_QTile | apply keeps_ite_QTile | apply keeps_foldl_UpdSum
          | apply keeps_ite_UpdSum | apply keeps_foldl_VecSum | apply keeps_ite_VecSum | apply keeps_units_map | apply unitOk_getUnit
          | apply unitOk_idle | apply unitOk_advance | apply queueOk_getQueue | apply unitOk_setG | apply unitOk_setT | apply unitOk_setK
          | apply unitOk_setC | apply unitOk_setSt | apply unitOk_setP))
      | split | (with_reducible (first
          | apply keeps_free | apply unitOk_fewer | apply unitOk_mapped
          | apply unitOk_emptied | apply unitOk_free | apply queueOk_map | apply queueOk_free)) | dsimp only)

theorem keeps_readTiles {r : State} (bank a : Nat) (first count gO : Nat) (k : BankKind) (s : State) (h_s : Keeps r s) :
    Keeps r (readTiles bank a first count gO k s) := by
  unfold readTiles
  repeat' (first
      | with_reducible assumption | (with_reducible intro _)
      | (with_reducible (first
          | apply keeps_writeMem | apply keeps_ite | apply keeps_foldl))
      | split | (with_reducible apply keeps_free) | dsimp only)

theorem keeps_cxferReadPlan (s : State) (x : ProgUnit) (sel : Nat) (a : Nat) (gT : Nat) (gO : Nat) (low : Nat) :
    PlanKeeps (cxferReadPlan s x sel a gT gO low) := by
  unfold cxferReadPlan PlanKeeps
  repeat' (first
      | with_reducible assumption | (with_reducible intro _)
      | (with_reducible (first
          | apply keeps_readTiles | apply keeps_markNonfinite | apply keeps_ite | apply keeps_foldl))
      | split | (with_reducible apply keeps_free) | dsimp only)

theorem keeps_addTiles {r : State} (bank : Nat) (a : Nat) (first : Nat) (count : Nat) (k : BankKind) (s : State) (h_s : Keeps r s) :
    Keeps r (addTiles bank a first count k s).1 := by
  unfold addTiles
  repeat' (first
      | with_reducible assumption | (with_reducible intro _)
      | (with_reducible (first
          | apply keeps_addTile | apply keeps_ite | apply unitOk_ite | apply unitOk_foldl | apply keeps_foldl | apply keeps_foldl_fst
          | apply keeps_foldl_snd | apply ctlKeeps_done | apply ctlKeeps_wait | apply ctlKeeps_refuse | apply ctlKeeps_ite
          | apply arrKeeps_gone | apply arrKeeps_later | apply arrKeeps_here | apply arrKeeps_ite | apply keeps_foldl_CollEnd
          | apply keeps_ite_CollEnd | apply keeps_foldl_Commit | apply keeps_ite_Commit | apply keeps_foldl_DrainSum
          | apply keeps_ite_DrainSum | apply keeps_foldl_Effect | apply keeps_ite_Effect | apply keeps_foldl_LayerDecision
          | apply keeps_ite_LayerDecision | apply keeps_foldl_MmaSum | apply keeps_ite_MmaSum | apply keeps_foldl_QSum
          | apply keeps_ite_QSum | apply keeps_foldl_QTile | apply keeps_ite_QTile | apply keeps_foldl_UpdSum | apply keeps_ite_UpdSum
          | apply keeps_foldl_VecSum | apply keeps_ite_VecSum | apply keeps_units_map | apply unitOk_getUnit | apply unitOk_idle
          | apply unitOk_advance | apply queueOk_getQueue | apply unitOk_setG | apply unitOk_setT | apply unitOk_setK | apply unitOk_setC
          | apply unitOk_setSt | apply unitOk_setP))
      | split | (with_reducible (first
          | apply keeps_free | apply unitOk_fewer | apply unitOk_mapped
          | apply unitOk_emptied | apply unitOk_free | apply queueOk_map | apply queueOk_free)) | dsimp only)

theorem keeps_cxferAddPlan (s : State) (x : ProgUnit) (sel : Nat) (a : Nat) (gT : Nat) (gO : Nat) :
    PlanKeeps (cxferAddPlan s x sel a gT gO) := by
  unfold cxferAddPlan PlanKeeps
  repeat' (first
      | with_reducible assumption | (with_reducible intro _)
      | (with_reducible (first
          | apply keeps_addTiles | apply keeps_headroomEffects | apply keeps_ite | apply keeps_foldl))
      | split | (with_reducible apply keeps_free) | dsimp only)

/-- A Stash page grant keeps. -/
def StashKeeps (r : State) : StashWrite → Prop
  | .ready s _ => Keeps r s
  | .exhausted => True

def PlaceKeeps (r : State) : Placement → Prop
  | .placed s => Keeps r s
  | .discarded s => Keeps r s
  | .exhausted => True

theorem keeps_placeEntry {r : State} (h e : Nat) (s : State) (hs : Keeps r s) : PlaceKeeps r (placeEntry h e s) := by
  unfold placeEntry
  dsimp only
  split
  · next hp => exact keeps_placeNow _ _ _ hs _ hp
  · split
    · exact keeps_dropEntry _ _ _ (keeps_takeSeq _ _ _ hs)
    · split
      · exact trivial
      · split
        · exact trivial
        · split
          · next hp => exact keeps_placeNow _ _ _ (keeps_foldl _ (fun t v ht => keeps_dropEntry _ _ _ ht) hs) _ hp
          · exact trivial

theorem keeps_openForWrite {r : State} (v : View) (s : State) (hs : Keeps r s) : StashKeeps r (openForWrite v s) := by
  unfold openForWrite
  split
  · exact hs
  · dsimp only
    split
    · exact hs
    · have h := keeps_placeEntry v.base v.entry s hs
      generalize placeEntry v.base v.entry s = p at h ⊢
      cases p <;> exact h

theorem keeps_encodeAll {r : State} (f : Fmt) (unit : Num) (src : DrawSrc) (pos : Nat → Nat) (a4 : List QIn) (a5 : Nat) (a6 : State)
    (h_a6 : Keeps r a6) :
    Keeps r (encodeAll f unit src pos a4 a5 a6).2.2 := by
  induction a4 generalizing a5 a6 with
  | nil => exact h_a6
  | cons x rest ih =>
    unfold encodeAll
    dsimp only
    split
    · exact ih _ _ (keeps_takeDraw _ _ _ h_a6)
    · exact ih _ _ (keeps_takeDraw _ _ _ h_a6)
    · exact ih _ _ h_a6

theorem keeps_quantTile {r : State} (f : Fmt) (scale : Num) (src : DrawSrc) (pos : Nat → Nat) (xs : List QIn) (s : State)
    (h_s : Keeps r s) :
    Keeps r (quantTile f scale src pos xs s).s := by
  unfold quantTile
  repeat' (first
      | with_reducible assumption | (with_reducible intro _)
      | (with_reducible (first
          | apply keeps_encodeAll | apply keeps_ite | apply unitOk_ite | apply unitOk_foldl | apply keeps_foldl | apply keeps_foldl_fst
          | apply keeps_foldl_snd | apply ctlKeeps_done | apply ctlKeeps_wait | apply ctlKeeps_refuse | apply ctlKeeps_ite
          | apply arrKeeps_gone | apply arrKeeps_later | apply arrKeeps_here | apply arrKeeps_ite | apply keeps_foldl_CollEnd
          | apply keeps_ite_CollEnd | apply keeps_foldl_Commit | apply keeps_ite_Commit | apply keeps_foldl_DrainSum
          | apply keeps_ite_DrainSum | apply keeps_foldl_Effect | apply keeps_ite_Effect | apply keeps_foldl_LayerDecision
          | apply keeps_ite_LayerDecision | apply keeps_foldl_MmaSum | apply keeps_ite_MmaSum | apply keeps_foldl_QSum
          | apply keeps_ite_QSum | apply keeps_foldl_QTile | apply keeps_ite_QTile | apply keeps_foldl_UpdSum | apply keeps_ite_UpdSum
          | apply keeps_foldl_VecSum | apply keeps_ite_VecSum | apply keeps_units_map | apply unitOk_getUnit | apply unitOk_idle
          | apply unitOk_advance | apply queueOk_getQueue | apply unitOk_setG | apply unitOk_setT | apply unitOk_setK | apply unitOk_setC
          | apply unitOk_setSt | apply unitOk_setP))
      | split | (with_reducible (first
          | apply keeps_free | apply unitOk_fewer | apply unitOk_mapped
          | apply unitOk_emptied | apply unitOk_free | apply queueOk_map | apply queueOk_free)) | dsimp only)

theorem keeps_takePool {r : State} (side kind : Nat) (s : State) (h_s : Keeps r s) :
    ∀ x, takePool side kind s = some x → Keeps r x.2 := by
  unfold takePool
  dsimp only
  intro x hx
  repeat' split at hx
  all_goals (first | (cases hx; done) | (obtain rfl := Option.some.inj hx; exact keeps_writeNat _ _ _ _ h_s))

theorem keeps_addQTile {r : State} (t : QSum) (q : QTile) (flags : Nat) (h_t : Keeps r t.s) (h_q : Keeps r q.s) :
    Keeps r (addQTile t q flags).s := by
  unfold addQTile
  repeat' (first
      | with_reducible assumption | (with_reducible intro _)
      | (with_reducible (first
          | apply keeps_ite | apply keeps_foldl))
      | split | (with_reducible apply keeps_free) | dsimp only)

theorem keeps_putTile {r : State} (v : View) (f : Fmt) (discard : Bool) (ti tj : Nat) (words : List Nat) (word : Nat) (s : State)
    (h_s : Keeps r s) :
    Keeps r (putTile v f discard ti tj words word s) := by
  unfold putTile
  repeat' (first
      | with_reducible assumption | (with_reducible intro _)
      | (with_reducible (first
          | apply keeps_writeTile | apply keeps_ite | apply keeps_foldl))
      | split | (with_reducible apply keeps_free) | dsimp only)

theorem keeps_putList {r : State} (v : View) (ti tj : Nat) (kind pool : Nat) (items : List (Nat × Nat)) (s : State) (h_s : Keeps r s) :
    Keeps r (putList v ti tj kind pool items s) := by
  unfold putList
  repeat' (first
      | with_reducible assumption | (with_reducible intro _)
      | (with_reducible (first
          | apply keeps_writeMem | apply keeps_ite | apply keeps_foldl))
      | split | (with_reducible apply keeps_free) | dsimp only)

theorem keeps_qntNormal {r : State} (a : QntArgs) (discard : Bool) (ti tj : Nat) (xs : List (Option FV)) (outs : List Nat) (t : QSum)
    (h_t : Keeps r t.s) :
    Keeps r (qntNormal a discard ti tj xs outs t).s := by
  unfold qntNormal
  repeat' (first
      | with_reducible assumption | (with_reducible intro _)
      | (with_reducible (first
          | apply keeps_quantTile | apply keeps_putTile | apply keeps_putList | apply keeps_addQTile | apply keeps_ite | apply unitOk_ite
          | apply unitOk_foldl | apply keeps_foldl | apply keeps_foldl_fst | apply keeps_foldl_snd | apply ctlKeeps_done
          | apply ctlKeeps_wait | apply ctlKeeps_refuse | apply ctlKeeps_ite | apply arrKeeps_gone | apply arrKeeps_later
          | apply arrKeeps_here | apply arrKeeps_ite | apply keeps_foldl_CollEnd | apply keeps_ite_CollEnd | apply keeps_foldl_Commit
          | apply keeps_ite_Commit | apply keeps_foldl_DrainSum | apply keeps_ite_DrainSum | apply keeps_foldl_Effect
          | apply keeps_ite_Effect | apply keeps_foldl_LayerDecision | apply keeps_ite_LayerDecision | apply keeps_foldl_MmaSum
          | apply keeps_ite_MmaSum | apply keeps_foldl_QSum | apply keeps_ite_QSum | apply keeps_foldl_QTile | apply keeps_ite_QTile
          | apply keeps_foldl_UpdSum | apply keeps_ite_UpdSum | apply keeps_foldl_VecSum | apply keeps_ite_VecSum | apply keeps_units_map
          | apply unitOk_getUnit | apply unitOk_idle | apply unitOk_advance | apply queueOk_getQueue | apply unitOk_setG | apply unitOk_setT
          | apply unitOk_setK | apply unitOk_setC | apply unitOk_setSt | apply unitOk_setP))
      | split | (with_reducible (first
          | apply keeps_free | apply unitOk_fewer | apply unitOk_mapped
          | apply unitOk_emptied | apply unitOk_free | apply queueOk_map | apply queueOk_free)) | dsimp only)

theorem keeps_qntPromote {r : State} (a : QntArgs) (discard : Bool) (ti tj pool : Nat) (xs : List (Option FV)) (t : QSum)
    (h_t : Keeps r t.s) :
    Keeps r (qntPromote a discard ti tj pool xs t).s := by
  unfold qntPromote
  repeat' (first
      | with_reducible assumption | (with_reducible intro _)
      | (with_reducible (first
          | apply keeps_quantTile | apply keeps_writeMem | apply keeps_putList | apply keeps_putTile | apply keeps_addQTile
          | apply keeps_bump | apply keeps_ite | apply unitOk_ite | apply unitOk_foldl | apply keeps_foldl | apply keeps_foldl_fst
          | apply keeps_foldl_snd | apply ctlKeeps_done | apply ctlKeeps_wait | apply ctlKeeps_refuse | apply ctlKeeps_ite
          | apply arrKeeps_gone | apply arrKeeps_later | apply arrKeeps_here | apply arrKeeps_ite | apply keeps_foldl_CollEnd
          | apply keeps_ite_CollEnd | apply keeps_foldl_Commit | apply keeps_ite_Commit | apply keeps_foldl_DrainSum
          | apply keeps_ite_DrainSum | apply keeps_foldl_Effect | apply keeps_ite_Effect | apply keeps_foldl_LayerDecision
          | apply keeps_ite_LayerDecision | apply keeps_foldl_MmaSum | apply keeps_ite_MmaSum | apply keeps_foldl_QSum
          | apply keeps_ite_QSum | apply keeps_foldl_QTile | apply keeps_ite_QTile | apply keeps_foldl_UpdSum | apply keeps_ite_UpdSum
          | apply keeps_foldl_VecSum | apply keeps_ite_VecSum | apply keeps_units_map | apply unitOk_getUnit | apply unitOk_idle
          | apply unitOk_advance | apply queueOk_getQueue | apply unitOk_setG | apply unitOk_setT | apply unitOk_setK | apply unitOk_setC
          | apply unitOk_setSt | apply unitOk_setP))
      | split | (with_reducible (first
          | apply keeps_free | apply unitOk_fewer | apply unitOk_mapped
          | apply unitOk_emptied | apply unitOk_free | apply queueOk_map | apply queueOk_free)) | dsimp only)

theorem keeps_qntRm {r : State} (a : QntArgs) (discard : Bool) (ti tj pool : Nat) (xs : List (Option FV)) (t : QSum) (h_t : Keeps r t.s) :
    Keeps r (qntRm a discard ti tj pool xs t).s := by
  unfold qntRm
  repeat' (first
      | with_reducible assumption | (with_reducible intro _)
      | (with_reducible (first
          | apply keeps_writeMem | apply keeps_putList | apply keeps_putTile | apply keeps_addQTile | apply keeps_bump | apply keeps_ite
          | apply keeps_foldl))
      | split | (with_reducible apply keeps_free) | dsimp only)

theorem keeps_qntTile {r : State} (a : QntArgs) (discard : Bool) (t : QSum) (ti tj : Nat) (h_t : Keeps r t.s) :
    Keeps r (qntTile a discard t ti tj).s := by
  unfold qntTile
  extract_lets xs skip outs c t1 kind
  have h1 : Keeps r t1.s := h_t
  have hp := keeps_takePool (r := r) a.td.side kind t1.s h1
  clear_value t1 kind c outs xs
  refine keeps_ite_QSum (keeps_qntNormal _ _ _ _ _ _ _ h1) ?_
  generalize takePool a.td.side kind t1.s = p at hp ⊢
  cases p with
  | none =>
    refine keeps_qntNormal _ _ _ _ _ _ _ ?_
    exact keeps_markDet _ _ _ (keeps_bump _ _ _ _ h1)
  | some y =>
    have hy := hp _ rfl
    clear hp
    obtain ⟨n, z⟩ := y
    refine keeps_ite_QSum ?_ ?_
    · exact keeps_qntPromote _ _ _ _ _ _ _ hy
    · exact keeps_qntRm _ _ _ _ _ _ _ hy

theorem keeps_qntIssue {r : State} (a : QntArgs) (td : Nat) (s : State) (h_s : Keeps r s) :
    Keeps r (qntIssue a td s) := by
  unfold qntIssue
  repeat' (first
      | with_reducible assumption | (with_reducible intro _)
      | (with_reducible (first
          | apply unitOk_getUnit | apply unitOk_setK | apply keeps_setUnit | apply unitOk_setT | apply keeps_ite | apply keeps_foldl))
      | split | (with_reducible apply keeps_free) | dsimp only)

theorem keeps_qntTotals {r : State} (dom : Nat) (grad : Bool) (ledger : Option Nat) (layer : Option Nat) (t : QSum) (h_t : Keeps r t.s) :
    Keeps r (qntTotals dom grad ledger layer t) := by
  unfold qntTotals
  repeat' (first
      | with_reducible assumption | (with_reducible intro _)
      | (with_reducible (first
          | apply keeps_contribute | apply keeps_bump | apply keeps_addOutliers | apply keeps_markNonfinite | apply keeps_ite
          | apply keeps_foldl))
      | split | (with_reducible apply keeps_free) | dsimp only)

theorem keeps_qntRun {r : State} (a : QntArgs) (td : Nat) (s : State) (h_s : Keeps r s) :
    Keeps r (qntRun a td s).s := by
  unfold qntRun
  dsimp only
  have h := keeps_openForWrite a.td s h_s
  generalize openForWrite a.td s = o at h ⊢
  cases o with
  | exhausted => exact keeps_exhausted _ _ _ _ _ (keeps_qntIssue _ _ _ h_s)
  | ready z discard =>
    refine keeps_closeWrite _ _ _ (keeps_qntTotals _ _ _ _ _ ?_)
    exact keeps_foldl_QSum _ (fun t p ht => keeps_qntTile _ _ _ _ _ ht) (keeps_qntIssue _ _ _ h)

theorem keeps_qntPlan (s : State) (x : ProgUnit) (f1 : Nat) (f2 : Nat) (f3 : Nat) (f4 : Nat) (rnd : Nat) :
    PlanKeeps (qntPlan s x f1 f2 f3 f4 rnd) := by
  unfold qntPlan PlanKeeps
  repeat' (first
      | with_reducible assumption | (with_reducible intro _)
      | (with_reducible (first
          | apply keeps_qntRun | apply keeps_ite | apply keeps_foldl))
      | split | (with_reducible apply keeps_free) | dsimp only)

theorem keeps_enterBlock {r : State} (bank : Nat) (i : Nat) (j : Nat) (acc : Acc) (t : MmaSum) (h_t : Keeps r t.s) :
    Keeps r (enterBlock bank i j acc t).s := by
  unfold enterBlock
  repeat' (first
      | with_reducible assumption | (with_reducible intro _)
      | (with_reducible (first
          | apply keeps_putRails | apply keeps_ite | apply keeps_foldl))
      | split | (with_reducible apply keeps_free) | dsimp only)

theorem keeps_tileBlock {r : State} (bank pass : Nat) (m n : Nat) (k ti : Nat) (tj kb : Nat) (a b : OpTile) (t : MmaSum)
    (h_t : Keeps r t.s) :
    Keeps r (tileBlock bank pass m n k ti tj kb a b t).s := by
  unfold tileBlock
  repeat' (first
      | with_reducible assumption | (with_reducible intro _)
      | (with_reducible (first
          | apply keeps_enterBlock | apply keeps_ite | apply unitOk_ite | apply unitOk_foldl | apply keeps_foldl | apply keeps_foldl_fst
          | apply keeps_foldl_snd | apply ctlKeeps_done | apply ctlKeeps_wait | apply ctlKeeps_refuse | apply ctlKeeps_ite
          | apply arrKeeps_gone | apply arrKeeps_later | apply arrKeeps_here | apply arrKeeps_ite | apply keeps_foldl_CollEnd
          | apply keeps_ite_CollEnd | apply keeps_foldl_Commit | apply keeps_ite_Commit | apply keeps_foldl_DrainSum
          | apply keeps_ite_DrainSum | apply keeps_foldl_Effect | apply keeps_ite_Effect | apply keeps_foldl_LayerDecision
          | apply keeps_ite_LayerDecision | apply keeps_foldl_MmaSum | apply keeps_ite_MmaSum | apply keeps_foldl_QSum
          | apply keeps_ite_QSum | apply keeps_foldl_QTile | apply keeps_ite_QTile | apply keeps_foldl_UpdSum | apply keeps_ite_UpdSum
          | apply keeps_foldl_VecSum | apply keeps_ite_VecSum | apply keeps_units_map | apply unitOk_getUnit | apply unitOk_idle
          | apply unitOk_advance | apply queueOk_getQueue | apply unitOk_setG | apply unitOk_setT | apply unitOk_setK | apply unitOk_setC
          | apply unitOk_setSt | apply unitOk_setP))
      | split | (with_reducible (first
          | apply keeps_free | apply unitOk_fewer | apply unitOk_mapped
          | apply unitOk_emptied | apply unitOk_free | apply queueOk_map | apply queueOk_free)) | dsimp only)

theorem keeps_recordTiles {r : State} (bank : Nat) (kind : BankKind) (tiles : List Nat) (p : Nat) (k : Nat) (s : State) (h_s : Keeps r s) :
    Keeps r (recordTiles bank kind tiles p k s) := by
  unfold recordTiles
  repeat' (first
      | with_reducible assumption | (with_reducible intro _)
      | (with_reducible (first
          | apply keeps_putTileRec | apply keeps_putKind | apply keeps_ite | apply keeps_foldl))
      | split | (with_reducible apply keeps_free) | dsimp only)

theorem keeps_mmaBlocks {r : State} (a : MmaArgs) (bank : Nat) (t : MmaSum) (h_t : Keeps r t.s) :
    Keeps r (mmaBlocks a bank t).s := by
  unfold mmaBlocks
  repeat' (first
      | with_reducible assumption | (with_reducible intro _)
      | (with_reducible (first
          | apply keeps_tileBlock | apply keeps_ite | apply unitOk_ite | apply unitOk_foldl | apply keeps_foldl | apply keeps_foldl_fst
          | apply keeps_foldl_snd | apply ctlKeeps_done | apply ctlKeeps_wait | apply ctlKeeps_refuse | apply ctlKeeps_ite
          | apply arrKeeps_gone | apply arrKeeps_later | apply arrKeeps_here | apply arrKeeps_ite | apply keeps_foldl_CollEnd
          | apply keeps_ite_CollEnd | apply keeps_foldl_Commit | apply keeps_ite_Commit | apply keeps_foldl_DrainSum
          | apply keeps_ite_DrainSum | apply keeps_foldl_Effect | apply keeps_ite_Effect | apply keeps_foldl_LayerDecision
          | apply keeps_ite_LayerDecision | apply keeps_foldl_MmaSum | apply keeps_ite_MmaSum | apply keeps_foldl_QSum
          | apply keeps_ite_QSum | apply keeps_foldl_QTile | apply keeps_ite_QTile | apply keeps_foldl_UpdSum | apply keeps_ite_UpdSum
          | apply keeps_foldl_VecSum | apply keeps_ite_VecSum | apply keeps_units_map | apply unitOk_getUnit | apply unitOk_idle
          | apply unitOk_advance | apply queueOk_getQueue | apply unitOk_setG | apply unitOk_setT | apply unitOk_setK | apply unitOk_setC
          | apply unitOk_setSt | apply unitOk_setP))
      | split | (with_reducible (first
          | apply keeps_free | apply unitOk_fewer | apply unitOk_mapped
          | apply unitOk_emptied | apply unitOk_free | apply queueOk_map | apply queueOk_free)) | dsimp only)

theorem keeps_mmaEnd {r : State} (dom : Nat) (sel : Nat) (t : MmaSum) (h_t : Keeps r t.s) :
    Keeps r (mmaEnd dom sel t).s := by
  unfold mmaEnd
  repeat' (first
      | with_reducible assumption | (with_reducible intro _)
      | (with_reducible (first
          | apply keeps_engCount | apply keeps_headroomEffects | apply keeps_ite | apply keeps_foldl))
      | split | (with_reducible apply keeps_free) | dsimp only)

theorem keeps_mmaRun {r : State} (a : MmaArgs) (s : State) (h_s : Keeps r s) :
    Keeps r (mmaRun a s).s := by
  unfold mmaRun
  repeat' (first
      | with_reducible assumption | (with_reducible intro _)
      | (with_reducible (first
          | apply keeps_mmaEnd | apply keeps_mmaBlocks | apply keeps_recordTiles | apply keeps_ite | apply keeps_foldl))
      | split | (with_reducible apply keeps_free) | dsimp only)

theorem keeps_rmBlock {r : State} (a : MmaArgs) (bank i : Nat) (j kb : Nat) (kind : BankKind) (t : MmaSum) (h_t : Keeps r t.s) :
    Keeps r (rmBlock a bank i j kb kind t).s := by
  unfold rmBlock
  repeat' (first
      | with_reducible assumption | (with_reducible intro _)
      | (with_reducible (first
          | apply keeps_putRails | apply keeps_ite | apply unitOk_ite | apply unitOk_foldl | apply keeps_foldl | apply keeps_foldl_fst
          | apply keeps_foldl_snd | apply ctlKeeps_done | apply ctlKeeps_wait | apply ctlKeeps_refuse | apply ctlKeeps_ite
          | apply arrKeeps_gone | apply arrKeeps_later | apply arrKeeps_here | apply arrKeeps_ite | apply keeps_foldl_CollEnd
          | apply keeps_ite_CollEnd | apply keeps_foldl_Commit | apply keeps_ite_Commit | apply keeps_foldl_DrainSum
          | apply keeps_ite_DrainSum | apply keeps_foldl_Effect | apply keeps_ite_Effect | apply keeps_foldl_LayerDecision
          | apply keeps_ite_LayerDecision | apply keeps_foldl_MmaSum | apply keeps_ite_MmaSum | apply keeps_foldl_QSum
          | apply keeps_ite_QSum | apply keeps_foldl_QTile | apply keeps_ite_QTile | apply keeps_foldl_UpdSum | apply keeps_ite_UpdSum
          | apply keeps_foldl_VecSum | apply keeps_ite_VecSum | apply keeps_units_map | apply unitOk_getUnit | apply unitOk_idle
          | apply unitOk_advance | apply queueOk_getQueue | apply unitOk_setG | apply unitOk_setT | apply unitOk_setK | apply unitOk_setC
          | apply unitOk_setSt | apply unitOk_setP))
      | split | (with_reducible (first
          | apply keeps_free | apply unitOk_fewer | apply unitOk_mapped
          | apply unitOk_emptied | apply unitOk_free | apply queueOk_map | apply queueOk_free)) | dsimp only)

theorem keeps_rmRun {r : State} (a : MmaArgs) (s : State) (h_s : Keeps r s) :
    Keeps r (rmRun a s).s := by
  unfold rmRun
  repeat' (first
      | with_reducible assumption | (with_reducible intro _)
      | (with_reducible (first
          | apply keeps_recordTiles | apply keeps_mmaEnd | apply keeps_rmBlock | apply keeps_ite | apply unitOk_ite | apply unitOk_foldl
          | apply keeps_foldl | apply keeps_foldl_fst | apply keeps_foldl_snd | apply ctlKeeps_done | apply ctlKeeps_wait
          | apply ctlKeeps_refuse | apply ctlKeeps_ite | apply arrKeeps_gone | apply arrKeeps_later | apply arrKeeps_here
          | apply arrKeeps_ite | apply keeps_foldl_CollEnd | apply keeps_ite_CollEnd | apply keeps_foldl_Commit | apply keeps_ite_Commit
          | apply keeps_foldl_DrainSum | apply keeps_ite_DrainSum | apply keeps_foldl_Effect | apply keeps_ite_Effect
          | apply keeps_foldl_LayerDecision | apply keeps_ite_LayerDecision | apply keeps_foldl_MmaSum | apply keeps_ite_MmaSum
          | apply keeps_foldl_QSum | apply keeps_ite_QSum | apply keeps_foldl_QTile | apply keeps_ite_QTile | apply keeps_foldl_UpdSum
          | apply keeps_ite_UpdSum | apply keeps_foldl_VecSum | apply keeps_ite_VecSum | apply keeps_units_map | apply unitOk_getUnit
          | apply unitOk_idle | apply unitOk_advance | apply queueOk_getQueue | apply unitOk_setG | apply unitOk_setT | apply unitOk_setK
          | apply unitOk_setC | apply unitOk_setSt | apply unitOk_setP))
      | split | (with_reducible (first
          | apply keeps_free | apply unitOk_fewer | apply unitOk_mapped
          | apply unitOk_emptied | apply unitOk_free | apply queueOk_map | apply queueOk_free)) | dsimp only)

theorem keeps_mmaPlan (s : State) (x : ProgUnit) (f1 : Nat) (f2 : Nat) (f3 : Nat) (f4 : Nat) (f5 : Nat) (low : Nat) :
    PlanKeeps (mmaPlan s x f1 f2 f3 f4 f5 low) := by
  unfold mmaPlan PlanKeeps
  repeat' (first
      | with_reducible assumption | (with_reducible intro _)
      | (with_reducible (first
          | apply keeps_rmRun | apply keeps_mmaRun | apply keeps_ite | apply unitOk_ite | apply unitOk_foldl | apply keeps_foldl
          | apply keeps_foldl_fst | apply keeps_foldl_snd | apply ctlKeeps_done | apply ctlKeeps_wait | apply ctlKeeps_refuse
          | apply ctlKeeps_ite | apply arrKeeps_gone | apply arrKeeps_later | apply arrKeeps_here | apply arrKeeps_ite
          | apply keeps_foldl_CollEnd | apply keeps_ite_CollEnd | apply keeps_foldl_Commit | apply keeps_ite_Commit
          | apply keeps_foldl_DrainSum | apply keeps_ite_DrainSum | apply keeps_foldl_Effect | apply keeps_ite_Effect
          | apply keeps_foldl_LayerDecision | apply keeps_ite_LayerDecision | apply keeps_foldl_MmaSum | apply keeps_ite_MmaSum
          | apply keeps_foldl_QSum | apply keeps_ite_QSum | apply keeps_foldl_QTile | apply keeps_ite_QTile | apply keeps_foldl_UpdSum
          | apply keeps_ite_UpdSum | apply keeps_foldl_VecSum | apply keeps_ite_VecSum | apply keeps_units_map | apply unitOk_getUnit
          | apply unitOk_idle | apply unitOk_advance | apply queueOk_getQueue | apply unitOk_setG | apply unitOk_setT | apply unitOk_setK
          | apply unitOk_setC | apply unitOk_setSt | apply unitOk_setP))
      | split | (with_reducible (first
          | apply keeps_free | apply unitOk_fewer | apply unitOk_mapped
          | apply unitOk_emptied | apply unitOk_free | apply queueOk_map | apply queueOk_free)) | dsimp only)

theorem keeps_closeWide {r : State} (v : View) (discard : Bool) (rows : Nat) (cols : Nat) (s : State) (h_s : Keeps r s) :
    Keeps r (closeWide v discard rows cols s) := by
  unfold closeWide
  repeat' (first
      | with_reducible assumption | (with_reducible intro _)
      | (with_reducible (first
          | apply keeps_wakeMoves | apply keeps_addWritten | apply keeps_ite | apply keeps_foldl))
      | split | (with_reducible apply keeps_free) | dsimp only)

theorem keeps_ldownRun {r : State} (u : UnitRef) (a : LdownArgs) (s : State) (h_s : Keeps r s) :
    Keeps r (ldownRun u a s).s := by
  unfold ldownRun
  dsimp only
  have h := keeps_openForWrite a.td s h_s
  generalize openForWrite a.td s = o at h ⊢
  cases o with
  | exhausted => exact keeps_exhausted _ _ _ _ _ h_s
  | ready z discard =>
    have hc : ∀ w, Keeps r w → Keeps r (closeWide a.td discard a.m a.r w) := fun w hw => keeps_closeWide _ _ _ _ _ hw
    refine keeps_ite (keeps_markNonfinite _ _ (hc _ ?_)) (hc _ ?_)
    all_goals
      refine keeps_ite (keeps_bump _ _ _ _ h) (keeps_foldl _ (fun t p ht => keeps_foldl _ (fun t p ht => ?_) ht) (keeps_bump _ _ _ _ h))
      exact keeps_widePut _ _ _ _ _ ht

theorem keeps_ldownPlan (s : State) (x : ProgUnit) (f1 : Nat) (f2 : Nat) (f3 : Nat) (f4 : Nat) :
    PlanKeeps (ldownPlan s x f1 f2 f3 f4) := by
  unfold ldownPlan PlanKeeps
  repeat' (first
      | with_reducible assumption | (with_reducible intro _)
      | (with_reducible (first
          | apply keeps_ldownRun | apply keeps_ite | apply keeps_foldl))
      | split | (with_reducible apply keeps_free) | dsimp only)

theorem keeps_entryReport {r : State} (bank : Nat) (k : BankKind) (i : Nat) (j : Nat) (d : DrainIn) (t : DrainSum) (h_t : Keeps r t.s) :
    Keeps r (entryReport bank k i j d t).s := by
  unfold entryReport
  repeat' (first
      | with_reducible assumption | (with_reducible intro _)
      | (with_reducible (first
          | apply keeps_putRails | apply keeps_ite | apply keeps_foldl))
      | split | (with_reducible apply keeps_free) | dsimp only)

theorem keeps_drainWideOne {r : State} (a : DrainArgs) (discard : Bool) (bank : Nat) (k : BankKind) (t : DrainSum) (i j : Nat)
    (h_t : Keeps r t.s) :
    Keeps r (drainWideOne a discard bank k t i j).s := by
  unfold drainWideOne
  repeat' (first
      | with_reducible assumption | (with_reducible intro _)
      | (with_reducible (first
          | apply keeps_entryReport | apply keeps_widePut | apply keeps_takeDraw | apply keeps_ite | apply unitOk_ite | apply unitOk_foldl
          | apply keeps_foldl | apply keeps_foldl_fst | apply keeps_foldl_snd | apply ctlKeeps_done | apply ctlKeeps_wait
          | apply ctlKeeps_refuse | apply ctlKeeps_ite | apply arrKeeps_gone | apply arrKeeps_later | apply arrKeeps_here
          | apply arrKeeps_ite | apply keeps_foldl_CollEnd | apply keeps_ite_CollEnd | apply keeps_foldl_Commit | apply keeps_ite_Commit
          | apply keeps_foldl_DrainSum | apply keeps_ite_DrainSum | apply keeps_foldl_Effect | apply keeps_ite_Effect
          | apply keeps_foldl_LayerDecision | apply keeps_ite_LayerDecision | apply keeps_foldl_MmaSum | apply keeps_ite_MmaSum
          | apply keeps_foldl_QSum | apply keeps_ite_QSum | apply keeps_foldl_QTile | apply keeps_ite_QTile | apply keeps_foldl_UpdSum
          | apply keeps_ite_UpdSum | apply keeps_foldl_VecSum | apply keeps_ite_VecSum | apply keeps_units_map | apply unitOk_getUnit
          | apply unitOk_idle | apply unitOk_advance | apply queueOk_getQueue | apply unitOk_setG | apply unitOk_setT | apply unitOk_setK
          | apply unitOk_setC | apply unitOk_setSt | apply unitOk_setP))
      | split | (with_reducible (first
          | apply keeps_free | apply unitOk_fewer | apply unitOk_mapped
          | apply unitOk_emptied | apply unitOk_free | apply queueOk_map | apply queueOk_free)) | dsimp only)

theorem keeps_drainNarrowTile {r : State} (a : DrainArgs) (discard : Bool) (bank : Nat) (k : BankKind) (t : DrainSum) (ti tj : Nat)
    (h_t : Keeps r t.s) :
    Keeps r (drainNarrowTile a discard bank k t ti tj).s := by
  unfold drainNarrowTile
  repeat' (first
      | with_reducible assumption | (with_reducible intro _)
      | (with_reducible (first
          | apply keeps_entryReport | apply keeps_quantTile | apply keeps_putTile | apply keeps_ite | apply unitOk_ite | apply unitOk_foldl
          | apply keeps_foldl | apply keeps_foldl_fst | apply keeps_foldl_snd | apply ctlKeeps_done | apply ctlKeeps_wait
          | apply ctlKeeps_refuse | apply ctlKeeps_ite | apply arrKeeps_gone | apply arrKeeps_later | apply arrKeeps_here
          | apply arrKeeps_ite | apply keeps_foldl_CollEnd | apply keeps_ite_CollEnd | apply keeps_foldl_Commit | apply keeps_ite_Commit
          | apply keeps_foldl_DrainSum | apply keeps_ite_DrainSum | apply keeps_foldl_Effect | apply keeps_ite_Effect
          | apply keeps_foldl_LayerDecision | apply keeps_ite_LayerDecision | apply keeps_foldl_MmaSum | apply keeps_ite_MmaSum
          | apply keeps_foldl_QSum | apply keeps_ite_QSum | apply keeps_foldl_QTile | apply keeps_ite_QTile | apply keeps_foldl_UpdSum
          | apply keeps_ite_UpdSum | apply keeps_foldl_VecSum | apply keeps_ite_VecSum | apply keeps_units_map | apply unitOk_getUnit
          | apply unitOk_idle | apply unitOk_advance | apply queueOk_getQueue | apply unitOk_setG | apply unitOk_setT | apply unitOk_setK
          | apply unitOk_setC | apply unitOk_setSt | apply unitOk_setP))
      | split | (with_reducible (first
          | apply keeps_free | apply unitOk_fewer | apply unitOk_mapped
          | apply unitOk_emptied | apply unitOk_free | apply queueOk_map | apply queueOk_free)) | dsimp only)

theorem keeps_drainEnd {r : State} (a : DrainArgs) (t : DrainSum) (h_t : Keeps r t.s) :
    Keeps r (drainEnd a t).s := by
  unfold drainEnd
  repeat' (first
      | with_reducible assumption | (with_reducible intro _)
      | (with_reducible (first
          | apply keeps_engCount | apply keeps_contribute | apply keeps_markNonfinite | apply keeps_ite | apply keeps_foldl))
      | split | (with_reducible apply keeps_free) | dsimp only)

theorem keeps_drainRun {r : State} (a : DrainArgs) (s : State) (h_s : Keeps r s) : Keeps r (drainRun a s).s := by
  unfold drainRun
  extract_lets bank k s1
  have h1 : Keeps r s1 := keeps_ite (keeps_setUnit (unitOk_setK _ _ (unitOk_getUnit _ h_s)) h_s) h_s
  have h := keeps_openForWrite a.td s1 h1
  clear_value s1 k bank
  generalize openForWrite a.td s1 = o at h ⊢
  cases o with
  | exhausted => exact keeps_exhausted _ _ _ _ _ h1
  | ready z discard =>
    refine keeps_ite_Effect (keeps_drainEnd _ _ ?_) (keeps_drainEnd _ _ ?_)
    · exact keeps_closeWide _ _ _ _ _ (keeps_foldl_DrainSum _ (fun t i ht => keeps_foldl_DrainSum _ (fun t j ht => keeps_drainWideOne _ _ _ _ _ _ _ ht) ht) h)
    · exact keeps_closeWrite _ _ _ (keeps_foldl_DrainSum _ (fun t i ht => keeps_foldl_DrainSum _ (fun t j ht => keeps_drainNarrowTile _ _ _ _ _ _ _ ht) ht) h)

theorem keeps_drainPlan (s : State) (x : ProgUnit) (f1 f2 f3 f4 f5 f6 low : Nat) : PlanKeeps (drainPlan s x f1 f2 f3 f4 f5 f6 low) :=
  fun _ _ _ h => keeps_drainRun _ _ h

theorem keeps_vecPut {r : State} (td : View) (src : DrawSrc) (fn inBits : Nat) (discard : Bool) (t : VecSum) (i j : Nat) (v : VRes)
    (h_t : Keeps r t.s) :
    Keeps r (vecPut td src fn inBits discard t i j v).s := by
  unfold vecPut
  repeat' (first
      | with_reducible assumption | (with_reducible intro _)
      | (with_reducible (first
          | apply keeps_takeDraw | apply keeps_widePut | apply keeps_ite | apply keeps_foldl))
      | split | (with_reducible apply keeps_free) | dsimp only)

theorem keeps_wideOp {r : State} (u : UnitRef) (td : View) (s : State) (put : Bool → VecSum → Nat → Nat → VecSum) (fin : VecSum → State)
    (h_s : Keeps r s) (h_put : ∀ d t i j, Keeps r t.s → Keeps r (put d t i j).s) (h_fin : ∀ t, Keeps r t.s → Keeps r (fin t)) :
    Keeps r (wideOp u td s put fin).s := by
  unfold wideOp
  have h := keeps_openForWrite td s h_s
  generalize openForWrite td s = o at h ⊢
  cases o with
  | exhausted => exact keeps_exhausted _ _ _ _ _ h_s
  | ready z discard =>
    have hc : Keeps r (closeWrite td discard (fin ((seenCells td).foldl (fun t c => put discard t c.1 c.2) ⟨z, 0, 0, false⟩))) :=
      keeps_closeWrite _ _ _ (h_fin _ (keeps_foldl_VecSum _ (fun t c ht => h_put _ _ _ _ ht) h))
    exact keeps_ite (keeps_markNonfinite _ _ hc) hc

theorem keeps_vopRun {r : State} (u : UnitRef) (fn rnd : Nat) (td ta tb : View) (sc : FV) (s0 : State) (h_s0 : Keeps r s0) :
    Keeps r (vopRun u fn rnd td ta tb sc s0).s := by
  unfold vopRun
  repeat' (first
      | with_reducible assumption | (with_reducible intro _)
      | (with_reducible (first
          | apply keeps_vecPut | apply keeps_wideOp | apply keeps_tick | apply keeps_ite | apply keeps_foldl))
      | split | (with_reducible apply keeps_free) | dsimp only)

theorem keeps_vopPlan (s : State) (x : ProgUnit) (f1 : Nat) (f2 : Nat) (f3 : Nat) (f4 : Nat) (low : Nat) :
    PlanKeeps (vopPlan s x f1 f2 f3 f4 low) := by
  unfold vopPlan PlanKeeps
  repeat' (first
      | with_reducible assumption | (with_reducible intro _)
      | (with_reducible (first
          | apply keeps_vopRun | apply keeps_ite | apply keeps_foldl))
      | split | (with_reducible apply keeps_free) | dsimp only)

theorem keeps_setHearth {r : State} (dom : Nat) (slot : Nat) (ws : List Word) (s : State) (h_s : Keeps r s) :
    Keeps r (setHearth dom slot ws s) := by
  unfold setHearth
  repeat' (first
      | with_reducible assumption | (with_reducible intro _)
      | (with_reducible (first
          | apply keeps_ite | apply keeps_foldl))
      | split | (with_reducible apply keeps_free) | dsimp only)

theorem keeps_momentOut {r : State} (used : Bool) (base : Nat) (code : Nat) (i : Nat) (v : Option FV) (s : State) (h_s : Keeps r s) :
    Keeps r (momentOut used base code i v s).1 := by
  unfold momentOut
  repeat' (first
      | with_reducible assumption | (with_reducible intro _)
      | (with_reducible (first
          | apply keeps_writeNat | apply keeps_ite | apply keeps_foldl))
      | split | (with_reducible apply keeps_free) | dsimp only)

theorem keeps_updElem {r : State} (dom free : Nat) (d : Update) (t : Nat) (c1 c2 : Option FV) (z : UpdSum) (i : Nat) (h_z : Keeps r z.s) :
    Keeps r (updElem dom free d t c1 c2 z i).s := by
  unfold updElem
  extract_lets s second w0 e pv w x
  clear_value x w pv e w0
  split
  · exact h_z
  · next o _ =>
    refine keeps_ite_UpdSum h_z ?_
    extract_lets src p s2 a b
    have h2 : Keeps r s2 := keeps_writeNat _ _ _ _ (keeps_writeNat _ _ _ _ (keeps_takeDraw _ _ _ h_z))
    exact keeps_momentOut _ _ _ _ _ _ (keeps_momentOut _ _ _ _ _ _ h2)

theorem keeps_putRecord {r : State} (d : Update) (flags changed : Nat) (pairs sats bad : Nat) (s : State) (h_s : Keeps r s) :
    Keeps r (putRecord d flags changed pairs sats bad s) := by
  unfold putRecord
  repeat' (first
      | with_reducible assumption | (with_reducible intro _)
      | (with_reducible (first
          | apply keeps_writeNat | apply keeps_ite | apply keeps_foldl))
      | split | (with_reducible apply keeps_free) | dsimp only)

theorem keeps_countElems {r : State} (dom : Nat) (n : Nat) (second : Nat) (s : State) (h_s : Keeps r s) :
    Keeps r (countElems dom n second s) := by
  unfold countElems
  repeat' (first
      | with_reducible assumption | (with_reducible intro _)
      | (with_reducible (first
          | apply keeps_bump | apply keeps_ite | apply keeps_foldl))
      | split | (with_reducible apply keeps_free) | dsimp only)

theorem keeps_updateRun {r : State} (u : UnitRef) (d : Update) (skip : Bool) (s : State) (h_s : Keeps r s) : Keeps r
    (updateRun u d skip s).s := by
  unfold updateRun
  refine keeps_ite_Effect (keeps_putRecord _ _ _ _ _ _ _ h_s) ?_
  extract_lets applied t bias c1 c2 z flags s1 s2
  have hz : Keeps r z.s := keeps_foldl_UpdSum _ (fun t i ht => keeps_updElem _ _ _ _ _ _ _ _ ht) h_s
  have h1 : Keeps r s1 := keeps_putRecord _ _ _ _ _ _ _ hz
  have h2 : Keeps r s2 := keeps_ite (keeps_writeNat _ _ _ _ (keeps_writeNat _ _ _ _ h1))
    (keeps_countElems _ _ _ _ (keeps_writeNat _ _ _ _ h1))
  exact keeps_tick (keeps_bump _ _ _ _ h2)

theorem keeps_hupdPlan (s : State) (x : ProgUnit) (f1 : Nat) :
    PlanKeeps (hupdPlan s x f1) := by
  unfold hupdPlan PlanKeeps
  repeat' (first
      | with_reducible assumption | (with_reducible intro _)
      | (with_reducible (first
          | apply keeps_ite | apply keeps_foldl))
      | split | (with_reducible apply keeps_free) | dsimp only)

theorem keeps_serveUpdate {r : State} (u : UnitRef) (id : Nat) (s : State) (h_s : Keeps r s) :
    Keeps r (serveUpdate u id s) := by
  unfold serveUpdate
  repeat' (first
      | with_reducible assumption | (with_reducible intro _)
      | (with_reducible (first
          | apply unitOk_getUnit | apply keeps_mapOp | apply keeps_updateRun | apply keeps_ite | apply unitOk_ite | apply unitOk_foldl
          | apply keeps_foldl | apply keeps_foldl_fst | apply keeps_foldl_snd | apply ctlKeeps_done | apply ctlKeeps_wait
          | apply ctlKeeps_refuse | apply ctlKeeps_ite | apply arrKeeps_gone | apply arrKeeps_later | apply arrKeeps_here
          | apply arrKeeps_ite | apply keeps_foldl_CollEnd | apply keeps_ite_CollEnd | apply keeps_foldl_Commit | apply keeps_ite_Commit
          | apply keeps_foldl_DrainSum | apply keeps_ite_DrainSum | apply keeps_foldl_Effect | apply keeps_ite_Effect
          | apply keeps_foldl_LayerDecision | apply keeps_ite_LayerDecision | apply keeps_foldl_MmaSum | apply keeps_ite_MmaSum
          | apply keeps_foldl_QSum | apply keeps_ite_QSum | apply keeps_foldl_QTile | apply keeps_ite_QTile | apply keeps_foldl_UpdSum
          | apply keeps_ite_UpdSum | apply keeps_foldl_VecSum | apply keeps_ite_VecSum | apply keeps_units_map | apply unitOk_getUnit
          | apply unitOk_idle | apply unitOk_advance | apply queueOk_getQueue | apply unitOk_setG | apply unitOk_setT | apply unitOk_setK
          | apply unitOk_setC | apply unitOk_setSt | apply unitOk_setP))
      | split | (with_reducible (first
          | apply keeps_free | apply unitOk_fewer | apply unitOk_mapped
          | apply unitOk_emptied | apply unitOk_free | apply queueOk_map | apply queueOk_free)) | dsimp only)

theorem keeps_hloadPlan (s : State) (x : ProgUnit) (f1 : Nat) (f2 : Nat) (low : Nat) :
    PlanKeeps (hloadPlan s x f1 f2 low) := by
  unfold hloadPlan PlanKeeps
  repeat' (first
      | with_reducible assumption | (with_reducible intro _)
      | (with_reducible (first
          | apply keeps_setHearth | apply keeps_ite | apply keeps_foldl))
      | split | (with_reducible apply keeps_free) | dsimp only)

theorem keeps_putRsum {r : State} (a : Nat) (i : Nat) (v : Nat) (s : State) (h_s : Keeps r s) :
    Keeps r (putRsum a i v s) := by
  unfold putRsum
  repeat' (first
      | with_reducible assumption | (with_reducible intro _)
      | (with_reducible (first
          | apply keeps_writeNat | apply keeps_ite | apply keeps_foldl))
      | split | (with_reducible apply keeps_free) | dsimp only)

theorem keeps_rsumAccRun {r : State} (ga : Nat) (n : Nat) (ta : View) (s0 : State) (h_s0 : Keeps r s0) :
    Keeps r (rsumAccRun ga n ta s0).s := by
  unfold rsumAccRun
  repeat' (first
      | with_reducible assumption | (with_reducible intro _)
      | (with_reducible (first
          | apply keeps_putRsum | apply keeps_ite | apply unitOk_ite | apply unitOk_foldl | apply keeps_foldl | apply keeps_foldl_fst
          | apply keeps_foldl_snd | apply ctlKeeps_done | apply ctlKeeps_wait | apply ctlKeeps_refuse | apply ctlKeeps_ite
          | apply arrKeeps_gone | apply arrKeeps_later | apply arrKeeps_here | apply arrKeeps_ite | apply keeps_foldl_CollEnd
          | apply keeps_ite_CollEnd | apply keeps_foldl_Commit | apply keeps_ite_Commit | apply keeps_foldl_DrainSum
          | apply keeps_ite_DrainSum | apply keeps_foldl_Effect | apply keeps_ite_Effect | apply keeps_foldl_LayerDecision
          | apply keeps_ite_LayerDecision | apply keeps_foldl_MmaSum | apply keeps_ite_MmaSum | apply keeps_foldl_QSum
          | apply keeps_ite_QSum | apply keeps_foldl_QTile | apply keeps_ite_QTile | apply keeps_foldl_UpdSum | apply keeps_ite_UpdSum
          | apply keeps_foldl_VecSum | apply keeps_ite_VecSum | apply keeps_units_map | apply unitOk_getUnit | apply unitOk_idle
          | apply unitOk_advance | apply queueOk_getQueue | apply unitOk_setG | apply unitOk_setT | apply unitOk_setK | apply unitOk_setC
          | apply unitOk_setSt | apply unitOk_setP))
      | split | (with_reducible (first
          | apply keeps_free | apply unitOk_fewer | apply unitOk_mapped
          | apply unitOk_emptied | apply unitOk_free | apply queueOk_map | apply queueOk_free)) | dsimp only)

theorem keeps_rsumCombRun {r : State} (ga : Nat) (gb : Nat) (n : Nat) (s : State) (h_s : Keeps r s) :
    Keeps r (rsumCombRun ga gb n s).s := by
  unfold rsumCombRun
  repeat' (first
      | with_reducible assumption | (with_reducible intro _)
      | (with_reducible (first
          | apply keeps_putRsum | apply keeps_ite | apply keeps_foldl))
      | split | (with_reducible apply keeps_free) | dsimp only)

theorem keeps_rsumOutRun {r : State} (ga : Nat) (gb : Nat) (n : Nat) (s : State) (h_s : Keeps r s) :
    Keeps r (rsumOutRun ga gb n s).s := by
  unfold rsumOutRun
  repeat' (first
      | with_reducible assumption | (with_reducible intro _)
      | (with_reducible (first
          | apply keeps_writeNat | apply keeps_ite | apply keeps_foldl))
      | split | (with_reducible apply keeps_free) | dsimp only)

theorem keeps_rsumPlan (s : State) (x : ProgUnit) (op : Nat) (f1 : Nat) (f2 : Nat) (f3 : Nat) (f4 : Nat) :
    PlanKeeps (rsumPlan s x op f1 f2 f3 f4) := by
  unfold rsumPlan PlanKeeps
  repeat' (first
      | with_reducible assumption | (with_reducible intro _)
      | (with_reducible (first
          | apply keeps_rsumAccRun | apply keeps_rsumCombRun | apply keeps_rsumOutRun | apply keeps_ite | apply keeps_foldl))
      | split | (with_reducible apply keeps_free) | dsimp only)

theorem keeps_rotRun {r : State} (u : UnitRef) (reg : Nat) (a : RotArgs) (td : View) (ts : View) (s : State) (h_s : Keeps r s) :
    Keeps r (rotRun u reg a td ts s).s := by
  unfold rotRun
  repeat' (first
      | with_reducible assumption | (with_reducible intro _)
      | (with_reducible (first
          | apply unitOk_getUnit | apply keeps_setUnit | apply unitOk_setT | apply keeps_wideOp | apply keeps_vecPut | apply keeps_bump
          | apply keeps_ite | apply keeps_foldl))
      | split | (with_reducible apply keeps_free) | dsimp only)

theorem keeps_rotPlan (s : State) (x : ProgUnit) (f1 : Nat) (f2 : Nat) (f3 : Nat) (low : Nat) :
    PlanKeeps (rotPlan s x f1 f2 f3 low) := by
  unfold rotPlan PlanKeeps
  repeat' (first
      | with_reducible assumption | (with_reducible intro _)
      | (with_reducible (first
          | apply keeps_rotRun | apply keeps_ite | apply keeps_foldl))
      | split | (with_reducible apply keeps_free) | dsimp only)

theorem keeps_dropRun {r : State} (u : UnitRef) (site thr c : Nat) (td ts : View) (s0 : State) (h_s0 : Keeps r s0) :
    Keeps r (dropRun u site thr c td ts s0).s := by
  unfold dropRun
  repeat' (first
      | with_reducible assumption | (with_reducible intro _)
      | (with_reducible (first
          | apply keeps_wideOp | apply keeps_vecPut | apply keeps_ite | apply keeps_foldl))
      | split | (with_reducible apply keeps_free) | dsimp only)

theorem keeps_dropPlan (s : State) (x : ProgUnit) (f1 : Nat) (f2 : Nat) (f3 : Nat) (f4 : Nat) :
    PlanKeeps (dropPlan s x f1 f2 f3 f4) := by
  unfold dropPlan PlanKeeps
  repeat' (first
      | with_reducible assumption | (with_reducible intro _)
      | (with_reducible (first
          | apply keeps_dropRun | apply keeps_ite | apply keeps_foldl))
      | split | (with_reducible apply keeps_free) | dsimp only)

theorem keeps_sampleRun {r : State} (ts : View) (a : Nat) (out : Nat) (tau : Nat) (s0 : State) (h_s0 : Keeps r s0) :
    Keeps r (sampleRun ts a out tau s0).s := by
  unfold sampleRun
  repeat' (first
      | with_reducible assumption | (with_reducible intro _)
      | (with_reducible (first
          | apply keeps_writeNat | apply keeps_writeMem | apply keeps_ite | apply unitOk_ite | apply unitOk_foldl | apply keeps_foldl
          | apply keeps_foldl_fst | apply keeps_foldl_snd | apply ctlKeeps_done | apply ctlKeeps_wait | apply ctlKeeps_refuse
          | apply ctlKeeps_ite | apply arrKeeps_gone | apply arrKeeps_later | apply arrKeeps_here | apply arrKeeps_ite
          | apply keeps_foldl_CollEnd | apply keeps_ite_CollEnd | apply keeps_foldl_Commit | apply keeps_ite_Commit
          | apply keeps_foldl_DrainSum | apply keeps_ite_DrainSum | apply keeps_foldl_Effect | apply keeps_ite_Effect
          | apply keeps_foldl_LayerDecision | apply keeps_ite_LayerDecision | apply keeps_foldl_MmaSum | apply keeps_ite_MmaSum
          | apply keeps_foldl_QSum | apply keeps_ite_QSum | apply keeps_foldl_QTile | apply keeps_ite_QTile | apply keeps_foldl_UpdSum
          | apply keeps_ite_UpdSum | apply keeps_foldl_VecSum | apply keeps_ite_VecSum | apply keeps_units_map | apply unitOk_getUnit
          | apply unitOk_idle | apply unitOk_advance | apply queueOk_getQueue | apply unitOk_setG | apply unitOk_setT | apply unitOk_setK
          | apply unitOk_setC | apply unitOk_setSt | apply unitOk_setP))
      | split | (with_reducible (first
          | apply keeps_free | apply unitOk_fewer | apply unitOk_mapped
          | apply unitOk_emptied | apply unitOk_free | apply queueOk_map | apply queueOk_free)) | dsimp only)

theorem keeps_samplePlan (s : State) (x : ProgUnit) (f1 : Nat) (f2 : Nat) (f3 : Nat) (f4 : Nat) :
    PlanKeeps (samplePlan s x f1 f2 f3 f4) := by
  unfold samplePlan PlanKeeps
  repeat' (first
      | with_reducible assumption | (with_reducible intro _)
      | (with_reducible (first
          | apply keeps_sampleRun | apply keeps_ite | apply keeps_foldl))
      | split | (with_reducible apply keeps_free) | dsimp only)

theorem keeps_rngRun {r : State} (mode : Nat) (dst : Nat) (id : Nat) (w : Nat) (start : Nat) (count : Nat) (s : State) (h_s : Keeps r s) :
    Keeps r (rngRun mode dst id w start count s).s := by
  unfold rngRun
  repeat' (first
      | with_reducible assumption | (with_reducible intro _)
      | (with_reducible (first
          | apply keeps_writeMem | apply keeps_ite | apply keeps_foldl))
      | split | (with_reducible apply keeps_free) | dsimp only)

theorem keeps_rngPlan (s : State) (x : ProgUnit) (f1 : Nat) (f2 : Nat) (f3 : Nat) (f4 : Nat) (f5 : Nat) (low : Nat) :
    PlanKeeps (rngPlan s x f1 f2 f3 f4 f5 low) := by
  unfold rngPlan PlanKeeps
  repeat' (first
      | with_reducible assumption | (with_reducible intro _)
      | (with_reducible (first
          | apply keeps_rngRun | apply keeps_ite | apply keeps_foldl))
      | split | (with_reducible apply keeps_free) | dsimp only)

theorem keeps_copyView {r : State} (ts : View) (td : View) (s0 : State) (s : State) (h_s0 : Keeps r s0) (h_s : Keeps r s) :
    Keeps r (copyView ts td s0 s) := by
  unfold copyView
  repeat' (first
      | with_reducible assumption | (with_reducible intro _)
      | (with_reducible (first
          | apply keeps_placeWrite | apply keeps_ite | apply keeps_foldl))
      | split | (with_reducible apply keeps_free) | dsimp only)

theorem keeps_copyRun {r : State} (u : UnitRef) (ts td : View) (s0 : State) (h_s0 : Keeps r s0) : Keeps r (copyRun u ts td s0).s := by
  unfold copyRun
  have h := keeps_openForWrite td s0 h_s0
  generalize openForWrite td s0 = o at h ⊢
  cases o with
  | exhausted => exact keeps_exhausted _ _ _ _ _ h_s0
  | ready z discard =>
    have hc : Keeps r (closeWrite td discard (if discard then z else copyView ts td s0 z)) :=
      keeps_closeWrite _ _ _ (keeps_ite h (keeps_copyView _ _ _ _ h_s0 h))
    exact keeps_ite (keeps_markNonfinite _ _ hc) hc

theorem keeps_tileCopyPlan (load : Bool) (s : State) (x : ProgUnit) (f1 : Nat) (f2 : Nat) :
    PlanKeeps (tileCopyPlan load s x f1 f2) := by
  unfold tileCopyPlan PlanKeeps
  repeat' (first
      | with_reducible assumption | (with_reducible intro _)
      | (with_reducible (first
          | apply keeps_copyRun | apply keeps_ite | apply keeps_foldl))
      | split | (with_reducible apply keeps_free) | dsimp only)

theorem keeps_xferRun {r : State} (u : UnitRef) (dst src : Side) (n : Nat) (s : State) (h_s : Keeps r s) :
    Keeps r (xferRun u dst src n s).s := by
  unfold xferRun
  extract_lets bytes
  clear_value bytes
  split
  · exact keeps_writeMem _ _ h_s
  · next h e _ =>
    extract_lets st put
    have hput : ∀ z, Keeps r z → Keeps r (put z) := fun z hz =>
      keeps_wakeMoves _ _ _ (keeps_addWritten _ _ _ _ (keeps_writeEntryAt _ _ _ _ _ hz))
    clear_value st put
    refine keeps_ite_Effect (hput _ h_s) ?_
    have hp := keeps_placeEntry h e s h_s
    generalize placeEntry h e s = p at hp ⊢
    cases p with
    | placed z => exact hput _ hp
    | discarded z => exact hp
    | exhausted => exact keeps_exhausted _ _ _ _ _ h_s

theorem keeps_xferPlan (s : State) (x : ProgUnit) (f1 : Nat) (f2 : Nat) (f3 : Nat) (f4 : Nat) (f5 : Nat) (low : Nat) :
    PlanKeeps (xferPlan s x f1 f2 f3 f4 f5 low) := by
  unfold xferPlan PlanKeeps
  repeat' (first
      | with_reducible assumption | (with_reducible intro _)
      | (with_reducible (first
          | apply keeps_xferRun | apply keeps_ite | apply keeps_foldl))
      | split | (with_reducible apply keeps_free) | dsimp only)

theorem keeps_setColl {r : State} (c : Coll) (s : State) (h_s : Keeps r s) :
    Keeps r (setColl c s) := by
  unfold setColl
  repeat' (first
      | with_reducible assumption | (with_reducible intro _)
      | (with_reducible (first
          | apply keeps_ite | apply keeps_foldl))
      | split | (with_reducible apply keeps_free) | dsimp only)

theorem keeps_reviewColl {r : State} (c : Coll) (s : State) (h_s : Keeps r s) :
    Keeps r (reviewColl c s) := by
  unfold reviewColl
  repeat' (first
      | with_reducible assumption | (with_reducible intro _)
      | (with_reducible (first
          | apply keeps_setColl | apply keeps_setSkipKnown | apply keeps_ite | apply keeps_foldl))
      | split | (with_reducible apply keeps_free) | dsimp only)

theorem keeps_sendColl {r : State} (key : Nat) (tc : Nat) (rank : Nat) (payload : List Byte) (s : State) (h_s : Keeps r s) :
    Keeps r (sendColl key tc rank payload s) := by
  unfold sendColl
  repeat' (first
      | with_reducible assumption | (with_reducible intro _)
      | (with_reducible (first
          | apply keeps_sendPacket | apply keeps_setColl | apply keeps_ite | apply keeps_foldl))
      | split | (with_reducible apply keeps_free) | dsimp only)

theorem keeps_sendUnits {r : State} (c : Coll) (me : Nat) (j : Nat) (s : State) (h_s : Keeps r s) :
    Keeps r (sendUnits c me j s) := by
  unfold sendUnits
  repeat' (first
      | with_reducible assumption | (with_reducible intro _)
      | (with_reducible (first
          | apply keeps_sendColl | apply keeps_ridePiece | apply keeps_ite | apply keeps_foldl))
      | split | (with_reducible apply keeps_free) | dsimp only)

theorem keeps_sendOwn {r : State} (c : Coll) (s : State) (h_s : Keeps r s) :
    Keeps r (sendOwn c s) := by
  unfold sendOwn
  repeat' (first
      | with_reducible assumption | (with_reducible intro _)
      | (with_reducible (first
          | apply keeps_sendColl | apply keeps_sendUnits | apply keeps_ite | apply keeps_foldl))
      | split | (with_reducible apply keeps_free) | dsimp only)

theorem keeps_takeColl {r : State} (rank : Nat) (b : List Byte) (s : State) (h_s : Keeps r s) :
    Keeps r (takeColl rank b s).2 := by
  unfold takeColl
  repeat' (first
      | with_reducible assumption | (with_reducible intro _)
      | (with_reducible (first
          | apply keeps_setColl | apply keeps_reviewColl | apply keeps_ite | apply keeps_foldl))
      | split | (with_reducible apply keeps_free) | dsimp only)

theorem keeps_keepColl {r : State} (e : EarlyColl) (s : State) (h_s : Keeps r s) :
    Keeps r (keepColl e s) := by
  unfold keepColl
  repeat' (first
      | with_reducible assumption | (with_reducible intro _)
      | (with_reducible (first
          | apply keeps_ite | apply keeps_foldl))
      | split | (with_reducible apply keeps_free) | dsimp only)

theorem keeps_takeTail {r : State} (e : EarlyColl) (s : State) (h_s : Keeps r s) :
    Keeps r (takeTail e s).2 := by
  unfold takeTail
  extract_lets n
  split
  · exact keeps_takePiece _ _ _ h_s
  · exact h_s

theorem keeps_collIn {r : State} (e : EarlyColl) (s : State) (h_s : Keeps r s) :
    Keeps r (collIn e s) := by
  unfold collIn
  repeat' (first
      | with_reducible assumption | (with_reducible intro _)
      | (with_reducible (first
          | apply keeps_takeTail | apply keeps_takeColl | apply keeps_keepColl | apply keeps_ite | apply keeps_foldl))
      | split | (with_reducible apply keeps_free) | dsimp only)

theorem keeps_serveEarly {r : State} (s : State) (h_s : Keeps r s) :
    Keeps r (serveEarly s) := by
  unfold serveEarly
  repeat' (first
      | with_reducible assumption | (with_reducible intro _)
      | (with_reducible (first
          | apply keeps_keepColl | apply keeps_collIn | apply keeps_ite | apply keeps_foldl))
      | split | (with_reducible apply keeps_free) | dsimp only)

theorem keeps_startColl {r : State} (a : Nat) (issuer : UnitRef) (op : Nat) (landing : Option Nat) (s : State) (h_s : Keeps r s) :
    Keeps r (startColl a issuer op landing s) := by
  unfold startColl
  repeat' (first
      | with_reducible assumption | (with_reducible intro _)
      | (with_reducible (first
          | apply keeps_setColl | apply keeps_sendOwn | apply keeps_serveEarly | apply keeps_reviewColl | apply keeps_ite
          | apply keeps_foldl))
      | split | (with_reducible apply keeps_free) | dsimp only)

theorem keeps_decideSkip {r : State} (c : Coll) (s : State) (h_s : Keeps r s) :
    Keeps r (decideSkip c s) := by
  unfold decideSkip
  repeat' (first
      | with_reducible assumption | (with_reducible intro _)
      | (with_reducible (first
          | apply keeps_setSkipKnown | apply keeps_ite | apply keeps_foldl))
      | split | (with_reducible apply keeps_free) | dsimp only)

theorem keeps_endColl {r : State} (c : Coll) (f : FaultInfo) (s : State) (h_s : Keeps r s) :
    ∀ x, endColl c f s = some x → Keeps r x.s := by
  intro x hx
  unfold endColl at hx
  extract_lets gone at hx
  have hg : ∀ z, Keeps r z → Keeps r (gone z) := fun z hz => keeps_free _ _ _ _ _ _ _ _ _ _ _ _ _ _ _ _ _ _ _ _ _ _ _ _ _ hz
  clear_value gone
  cases hb : c.bad with
  | some j =>
    rw [hb] at hx
    obtain rfl := Option.some.inj hx
    exact keeps_logFault _ _ (hg _ h_s)
  | none =>
    rw [hb] at hx
    dsimp only at hx
    split at hx
    · cases hx
    generalize collResult s c = p at hx
    cases p with
    | none => cases hx
    | some y =>
      obtain ⟨bytes, sat⟩ := y
      have h2 : Keeps r (decideSkip c (tick (writeMem (gone s) c.dst bytes))) :=
        keeps_decideSkip _ _ (keeps_tick (keeps_writeMem c.dst bytes (hg _ h_s)))
      dsimp only at hx
      generalize decideSkip c (tick (writeMem (gone s) c.dst bytes)) = s2 at hx h2
      generalize needsDown s c.dst bytes.length = nd at hx
      cases nd
      · obtain rfl := Option.some.inj hx
        exact keeps_ite (keeps_gatherPieces _ _ _ _ _ h2) h2
      · obtain rfl := Option.some.inj hx
        exact hg _ h_s

theorem keeps_collPlan (s : State) (x : ProgUnit) (f1 : Nat) :
    PlanKeeps (collPlan s x f1) := by
  unfold collPlan PlanKeeps
  repeat' (first
      | with_reducible assumption | (with_reducible intro _)
      | (with_reducible (first
          | apply keeps_startColl | apply keeps_ite | apply keeps_foldl))
      | split | (with_reducible apply keeps_free) | dsimp only)

theorem keeps_writeQCtrl {r : State} (q : Nat) (v : Nat) (s : State) (h_s : Keeps r s) :
    Keeps r (writeQCtrl q v s) := by
  unfold writeQCtrl
  repeat' (first
      | with_reducible assumption | (with_reducible intro _)
      | (with_reducible (first
          | apply keeps_setQf | apply keeps_setQueue | apply keeps_ite | apply unitOk_ite | apply unitOk_foldl | apply keeps_foldl
          | apply keeps_foldl_fst | apply keeps_foldl_snd | apply ctlKeeps_done | apply ctlKeeps_wait | apply ctlKeeps_refuse
          | apply ctlKeeps_ite | apply arrKeeps_gone | apply arrKeeps_later | apply arrKeeps_here | apply arrKeeps_ite
          | apply keeps_foldl_CollEnd | apply keeps_ite_CollEnd | apply keeps_foldl_Commit | apply keeps_ite_Commit
          | apply keeps_foldl_DrainSum | apply keeps_ite_DrainSum | apply keeps_foldl_Effect | apply keeps_ite_Effect
          | apply keeps_foldl_LayerDecision | apply keeps_ite_LayerDecision | apply keeps_foldl_MmaSum | apply keeps_ite_MmaSum
          | apply keeps_foldl_QSum | apply keeps_ite_QSum | apply keeps_foldl_QTile | apply keeps_ite_QTile | apply keeps_foldl_UpdSum
          | apply keeps_ite_UpdSum | apply keeps_foldl_VecSum | apply keeps_ite_VecSum | apply keeps_units_map | apply unitOk_getUnit
          | apply unitOk_idle | apply unitOk_advance | apply queueOk_getQueue | apply unitOk_setG | apply unitOk_setT | apply unitOk_setK
          | apply unitOk_setC | apply unitOk_setSt | apply unitOk_setP))
      | split | (with_reducible (first
          | apply keeps_free | apply unitOk_fewer | apply unitOk_mapped
          | apply unitOk_emptied | apply unitOk_free | apply queueOk_map | apply queueOk_free)) | dsimp only)

theorem keeps_writeQTail {r : State} (q : Nat) (v : Nat) (s : State) (h_s : Keeps r s) :
    Keeps r (writeQTail q v s) := by
  unfold writeQTail
  repeat' (first
      | with_reducible assumption | (with_reducible intro _)
      | (with_reducible (first
          | apply keeps_setQf | apply keeps_setQueue | apply keeps_ite | apply unitOk_ite | apply unitOk_foldl | apply keeps_foldl
          | apply keeps_foldl_fst | apply keeps_foldl_snd | apply ctlKeeps_done | apply ctlKeeps_wait | apply ctlKeeps_refuse
          | apply ctlKeeps_ite | apply arrKeeps_gone | apply arrKeeps_later | apply arrKeeps_here | apply arrKeeps_ite
          | apply keeps_foldl_CollEnd | apply keeps_ite_CollEnd | apply keeps_foldl_Commit | apply keeps_ite_Commit
          | apply keeps_foldl_DrainSum | apply keeps_ite_DrainSum | apply keeps_foldl_Effect | apply keeps_ite_Effect
          | apply keeps_foldl_LayerDecision | apply keeps_ite_LayerDecision | apply keeps_foldl_MmaSum | apply keeps_ite_MmaSum
          | apply keeps_foldl_QSum | apply keeps_ite_QSum | apply keeps_foldl_QTile | apply keeps_ite_QTile | apply keeps_foldl_UpdSum
          | apply keeps_ite_UpdSum | apply keeps_foldl_VecSum | apply keeps_ite_VecSum | apply keeps_units_map | apply unitOk_getUnit
          | apply unitOk_idle | apply unitOk_advance | apply queueOk_getQueue | apply unitOk_setG | apply unitOk_setT | apply unitOk_setK
          | apply unitOk_setC | apply unitOk_setSt | apply unitOk_setP))
      | split | (with_reducible (first
          | apply keeps_free | apply unitOk_fewer | apply unitOk_mapped
          | apply unitOk_emptied | apply unitOk_free | apply queueOk_map | apply queueOk_free)) | dsimp only)

theorem keeps_acceptCmd {r : State} (q : Nat) (s : State) (h_s : Keeps r s) (hlen : (getQueue s q).cmds.length < 64) :
    Keeps r (acceptCmd q s) := by
  unfold acceptCmd
  extract_lets n a c x flaw s1 s2
  have h1 : Keeps r s1 := keeps_setQf _ _ _ _ _ _ h_s
  have h2 : Keeps r s2 := keeps_setQueue (fun _ => by
    show (x.cmds ++ [c]).length ≤ 64
    rw [List.length_append]
    exact hlen) h1
  clear_value s2
  exact keeps_ite h2 (keeps_finishCmd _ _ _ _ _ (keeps_logFault _ _ h2))

theorem keeps_setStage {r : State} (q : Nat) (seq : Nat) (g : CmdStage) (s : State) (h_s : Keeps r s) :
    Keeps r (setStage q seq g s) := by
  unfold setStage
  repeat' (first
      | with_reducible assumption | (with_reducible intro _)
      | (with_reducible (first
          | apply keeps_setQueue | apply keeps_ite | apply unitOk_ite | apply unitOk_foldl | apply keeps_foldl | apply keeps_foldl_fst
          | apply keeps_foldl_snd | apply ctlKeeps_done | apply ctlKeeps_wait | apply ctlKeeps_refuse | apply ctlKeeps_ite
          | apply arrKeeps_gone | apply arrKeeps_later | apply arrKeeps_here | apply arrKeeps_ite | apply keeps_foldl_CollEnd
          | apply keeps_ite_CollEnd | apply keeps_foldl_Commit | apply keeps_ite_Commit | apply keeps_foldl_DrainSum
          | apply keeps_ite_DrainSum | apply keeps_foldl_Effect | apply keeps_ite_Effect | apply keeps_foldl_LayerDecision
          | apply keeps_ite_LayerDecision | apply keeps_foldl_MmaSum | apply keeps_ite_MmaSum | apply keeps_foldl_QSum
          | apply keeps_ite_QSum | apply keeps_foldl_QTile | apply keeps_ite_QTile | apply keeps_foldl_UpdSum | apply keeps_ite_UpdSum
          | apply keeps_foldl_VecSum | apply keeps_ite_VecSum | apply keeps_units_map | apply unitOk_getUnit | apply unitOk_idle
          | apply unitOk_advance | apply queueOk_getQueue | apply unitOk_setG | apply unitOk_setT | apply unitOk_setK | apply unitOk_setC
          | apply unitOk_setSt | apply unitOk_setP))
      | split | (with_reducible (first
          | apply keeps_free | apply unitOk_fewer | apply unitOk_mapped
          | apply unitOk_emptied | apply unitOk_free | apply queueOk_map | apply queueOk_free)) | dsimp only)

theorem keeps_startProgram {r : State} (u : UnitRef) (owner : Owner) (base arg len id : Nat) (s : State) (h_s : Keeps r s) :
    Keeps r (startProgram u owner base arg len id s) := by
  unfold startProgram
  exact keeps_setUnit (fun _ => ⟨by simp only [startRegs, List.length_map, List.length_append, List.length_cons, List.length_nil, List.length_replicate], rfl, rfl, rfl, rfl, Nat.zero_le _⟩) h_s

theorem keeps_endUnitGrants {r : State} (u : UnitRef) (s : State) (h_s : Keeps r s) :
    Keeps r (endUnitGrants u s) := by
  unfold endUnitGrants
  repeat' (first
      | with_reducible assumption | (with_reducible intro _)
      | (with_reducible (first
          | apply keeps_dropGrants | apply keeps_ite | apply keeps_foldl))
      | split | (with_reducible apply keeps_free) | dsimp only)

theorem keeps_writeCompletion {r : State} (q : Nat) (s : State) (h_s : Keeps r s) : Keeps r (writeCompletion q s) := by
  unfold writeCompletion
  extract_lets x
  have hx : QueueOk r x := queueOk_getQueue q h_s
  split
  · exact h_s
  · next c rest hc =>
    refine keeps_ite h_s ?_
    extract_lets a s1 s2 bad u1 u2 s3 s4 s5
    have h1 : Keeps r s1 := keeps_ite (keeps_writeMem _ _ h_s) h_s
    have h2 : Keeps r s2 := keeps_addOverhead _ _ (keeps_setQf _ _ _ _ _ _ h1)
    have hu : Keeps r u2 := keeps_ite (keeps_setQf _ _ _ _ _ _ h2) (keeps_setQf _ _ _ _ _ _ (keeps_setQf _ _ _ _ _ _ h2))
    have h3 : Keeps r s3 := keeps_ite (keeps_ite (keeps_setQf _ _ _ _ _ _ hu) hu) h2
    have h4 : Keeps r s4 := keeps_setQueue (fun a => by
      have := hx a
      rw [hc] at this
      exact Nat.le_of_succ_le this) h3
    have h5 : Keeps r s5 := keeps_ite (keeps_setQf _ _ _ _ _ _ h4) h4
    exact keeps_ite (keeps_sendMsi _ _ h5) h5

theorem keeps_wakeFor {r : State} (dom : Nat) (target : Pos) (s : State) (h_s : Keeps r s) :
    Keeps r (wakeFor dom target s) := by
  unfold wakeFor
  repeat' (first
      | with_reducible assumption | (with_reducible intro _)
      | (with_reducible (first
          | apply keeps_startWake | apply keeps_setLp | apply keeps_ite | apply keeps_foldl))
      | split | (with_reducible apply keeps_free) | dsimp only)

theorem keeps_schedule {r : State} (u : UnitRef) (kind table : Nat) (target : Pos) (record : Option Nat) (ps : List Word) (op : Option Nat)
    (s : State) (h_s : Keeps r s) :
    Keeps r (schedule u kind table target record ps op s) := by
  unfold schedule
  repeat' (first
      | with_reducible assumption | (with_reducible intro _)
      | (with_reducible (first
          | apply keeps_wakeFor | apply keeps_recordWrite | apply keeps_ite | apply keeps_foldl))
      | split | (with_reducible apply keeps_free) | dsimp only)

theorem keeps_landingPlan (s : State) (x : ProgUnit) (f1 : Nat) (f2 : Nat) (low : Nat) :
    PlanKeeps (landingPlan s x f1 f2 low) := by
  unfold landingPlan PlanKeeps
  repeat' (first
      | with_reducible assumption | (with_reducible intro _)
      | (with_reducible (first
          | apply keeps_schedule | apply keeps_ite | apply keeps_foldl))
      | split | (with_reducible apply keeps_free) | dsimp only)

theorem keeps_cancelPlan (s : State) (x : ProgUnit) (f2 : Nat) : PlanKeeps (cancelPlan s x f2) := by
  intro r id z hz
  unfold cancelPlan
  dsimp only
  split
  · exact keeps_closeLanding _ _ _ _ hz
  · exact hz

theorem keeps_releaseGrants {r : State} (u : UnitRef) (s : State) (h_s : Keeps r s) :
    Keeps r (releaseGrants u s) := by
  unfold releaseGrants
  repeat' (first
      | with_reducible assumption | (with_reducible intro _)
      | (with_reducible (first
          | apply unitOk_getUnit | apply keeps_dropGrants | apply keeps_setUnit | apply keeps_ite | apply unitOk_ite | apply unitOk_foldl
          | apply keeps_foldl | apply keeps_foldl_fst | apply keeps_foldl_snd | apply ctlKeeps_done | apply ctlKeeps_wait
          | apply ctlKeeps_refuse | apply ctlKeeps_ite | apply arrKeeps_gone | apply arrKeeps_later | apply arrKeeps_here
          | apply arrKeeps_ite | apply keeps_foldl_CollEnd | apply keeps_ite_CollEnd | apply keeps_foldl_Commit | apply keeps_ite_Commit
          | apply keeps_foldl_DrainSum | apply keeps_ite_DrainSum | apply keeps_foldl_Effect | apply keeps_ite_Effect
          | apply keeps_foldl_LayerDecision | apply keeps_ite_LayerDecision | apply keeps_foldl_MmaSum | apply keeps_ite_MmaSum
          | apply keeps_foldl_QSum | apply keeps_ite_QSum | apply keeps_foldl_QTile | apply keeps_ite_QTile | apply keeps_foldl_UpdSum
          | apply keeps_ite_UpdSum | apply keeps_foldl_VecSum | apply keeps_ite_VecSum | apply keeps_units_map | apply unitOk_getUnit
          | apply unitOk_idle | apply unitOk_advance | apply queueOk_getQueue | apply unitOk_setG | apply unitOk_setT | apply unitOk_setK
          | apply unitOk_setC | apply unitOk_setSt | apply unitOk_setP))
      | split | (with_reducible (first
          | apply keeps_free | apply unitOk_fewer | apply unitOk_mapped
          | apply unitOk_emptied | apply unitOk_free | apply queueOk_map | apply queueOk_free)) | dsimp only)

theorem keeps_pgrantPlan (s : State) (x : ProgUnit) (f1 : Nat) (f2 : Nat) (low : Nat) :
    PlanKeeps (pgrantPlan s x f1 f2 low) := by
  unfold pgrantPlan PlanKeeps
  repeat' (first
      | with_reducible assumption | (with_reducible intro _)
      | (with_reducible (first
          | apply keeps_releaseGrants | apply keeps_schedule | apply keeps_request | apply keeps_ite | apply unitOk_ite | apply unitOk_foldl
          | apply keeps_foldl | apply keeps_foldl_fst | apply keeps_foldl_snd | apply ctlKeeps_done | apply ctlKeeps_wait
          | apply ctlKeeps_refuse | apply ctlKeeps_ite | apply arrKeeps_gone | apply arrKeeps_later | apply arrKeeps_here
          | apply arrKeeps_ite | apply keeps_foldl_CollEnd | apply keeps_ite_CollEnd | apply keeps_foldl_Commit | apply keeps_ite_Commit
          | apply keeps_foldl_DrainSum | apply keeps_ite_DrainSum | apply keeps_foldl_Effect | apply keeps_ite_Effect
          | apply keeps_foldl_LayerDecision | apply keeps_ite_LayerDecision | apply keeps_foldl_MmaSum | apply keeps_ite_MmaSum
          | apply keeps_foldl_QSum | apply keeps_ite_QSum | apply keeps_foldl_QTile | apply keeps_ite_QTile | apply keeps_foldl_UpdSum
          | apply keeps_ite_UpdSum | apply keeps_foldl_VecSum | apply keeps_ite_VecSum | apply keeps_units_map | apply unitOk_getUnit
          | apply unitOk_idle | apply unitOk_advance | apply queueOk_getQueue | apply unitOk_setG | apply unitOk_setT | apply unitOk_setK
          | apply unitOk_setC | apply unitOk_setSt | apply unitOk_setP))
      | split | (with_reducible (first
          | apply keeps_free | apply unitOk_fewer | apply unitOk_mapped
          | apply unitOk_emptied | apply unitOk_free | apply queueOk_map | apply queueOk_free)) | dsimp only)

theorem keeps_failLanding {r : State} (l : Landing) (f : FaultInfo) (s : State) (h_s : Keeps r s) :
    Keeps r (failLanding l f s) := by
  unfold failLanding
  repeat' (first
      | with_reducible assumption | (with_reducible intro _)
      | (with_reducible (first
          | apply keeps_endLanding | apply keeps_logFault | apply keeps_ite | apply keeps_foldl))
      | split | (with_reducible apply keeps_free) | dsimp only)

theorem keeps_fireProgram {r : State} (l : Landing) (s : State) (h_s : Keeps r s) :
    Keeps r (fireProgram l s) := by
  unfold fireProgram
  repeat' (first
      | with_reducible assumption | (with_reducible intro _)
      | (with_reducible (first
          | apply keeps_failLanding | apply keeps_endLanding | apply keeps_startProgram | apply keeps_ite | apply keeps_foldl))
      | split | (with_reducible apply keeps_free) | dsimp only)

theorem keeps_fireColl {r : State} (l : Landing) (s : State) (h_s : Keeps r s) :
    Keeps r (fireColl l s) := by
  unfold fireColl
  repeat' (first
      | with_reducible assumption | (with_reducible intro _)
      | (with_reducible (first
          | apply keeps_failLanding | apply keeps_endLanding | apply keeps_startColl | apply keeps_ite | apply keeps_foldl))
      | split | (with_reducible apply keeps_free) | dsimp only)

theorem keeps_firePoint {r : State} (l : Landing) (s : State) (h_s : Keeps r s) :
    Keeps r (firePoint l s) := by
  unfold firePoint
  repeat' (first
      | with_reducible assumption | (with_reducible intro _)
      | (with_reducible (first
          | apply keeps_endLanding | apply keeps_failLanding | apply keeps_setTarget | apply keeps_ite | apply keeps_foldl))
      | split | (with_reducible apply keeps_free) | dsimp only)

theorem keeps_fireRefresh {r : State} (l : Landing) (s : State) (h_s : Keeps r s) :
    Keeps r (fireRefresh l s) := by
  unfold fireRefresh
  repeat' (first
      | with_reducible assumption | (with_reducible intro _)
      | (with_reducible (first
          | apply keeps_setDomain | apply keeps_ite | apply keeps_foldl))
      | split | (with_reducible apply keeps_free) | dsimp only)

theorem keeps_fireAction {r : State} (l : Landing) (s : State) (h_s : Keeps r s) :
    Keeps r (fireAction l s) := by
  unfold fireAction
  repeat' (first
      | with_reducible assumption | (with_reducible intro _)
      | (with_reducible (first
          | apply keeps_fireProgram | apply keeps_fireColl | apply keeps_endLanding | apply keeps_openAnchor | apply keeps_request
          | apply keeps_mapOp | apply keeps_firePoint | apply keeps_fireRefresh | apply keeps_ite | apply keeps_foldl))
      | split | (with_reducible apply keeps_free) | dsimp only)

theorem keeps_fireLanding {r : State} (l : Landing) (s : State) (h_s : Keeps r s) :
    Keeps r (fireLanding l s) := by
  unfold fireLanding
  repeat' (first
      | with_reducible assumption | (with_reducible intro _)
      | (with_reducible (first
          | apply keeps_recordWrite | apply keeps_fireAction | apply keeps_bump | apply keeps_ite | apply keeps_foldl))
      | split | (with_reducible apply keeps_free) | dsimp only)

theorem keeps_landingDone {r : State} (l : Landing) (s : State) (h_s : Keeps r s) :
    Keeps r (landingDone l s) := by
  unfold landingDone
  repeat' (first
      | with_reducible assumption | (with_reducible intro _)
      | (with_reducible (first
          | apply keeps_endColl | apply keeps_failLanding | apply keeps_endLanding | apply keeps_setDomain | apply keeps_ite
          | apply keeps_foldl))
      | split | (with_reducible apply keeps_free) | dsimp only)

theorem keeps_openPlan (s : State) (x : ProgUnit) (f1 : Nat) :
    PlanKeeps (openPlan s x f1) := by
  unfold openPlan PlanKeeps
  repeat' (first
      | with_reducible assumption | (with_reducible intro _)
      | (with_reducible (first
          | apply keeps_ite | apply keeps_foldl))
      | split | (with_reducible apply keeps_free) | dsimp only)

theorem keeps_openNow {r : State} (h : Nat) (s : State) (h_s : Keeps r s) :
    Keeps r (openNow h s).s := by
  unfold openNow
  repeat' (first
      | with_reducible assumption | (with_reducible intro _)
      | (with_reducible (first
          | apply keeps_ite | apply keeps_foldl))
      | split | (with_reducible apply keeps_free) | dsimp only)

theorem keeps_releasePlan (s : State) (x : ProgUnit) (f1 : Nat) (f2 : Nat) :
    PlanKeeps (releasePlan s x f1 f2) := by
  unfold releasePlan PlanKeeps
  repeat' (first
      | with_reducible assumption | (with_reducible intro _)
      | (with_reducible (first
          | apply keeps_releaseEntry | apply keeps_ite | apply keeps_foldl))
      | split | (with_reducible apply keeps_free) | dsimp only)

theorem keeps_closePlan (s : State) (x : ProgUnit) (f1 : Nat) :
    PlanKeeps (closePlan s x f1) := by
  unfold closePlan PlanKeeps
  repeat' (first
      | with_reducible assumption | (with_reducible intro _)
      | (with_reducible (first
          | apply keeps_closeStashAt | apply keeps_ite | apply keeps_foldl))
      | split | (with_reducible apply keeps_free) | dsimp only)

theorem keeps_movePlan (toAttic : Bool) (s : State) (x : ProgUnit) (f1 : Nat) (f2 : Nat) :
    PlanKeeps (movePlan toAttic s x f1 f2) := by
  unfold movePlan PlanKeeps
  repeat' (first
      | with_reducible assumption | (with_reducible intro _)
      | (with_reducible (first
          | apply keeps_beginMove | apply keeps_ite | apply keeps_foldl))
      | split | (with_reducible apply keeps_free) | dsimp only)

theorem keeps_tldDef :
    DefKeeps tldDef := by
  unfold tldDef
  try unfold opBody
  try unfold ctlDef
  unfold DefKeeps BodyKeeps
  try dsimp only
  repeat' (first
      | with_reducible assumption | (with_reducible intro _)
      | (with_reducible (first
          | apply keeps_tileCopyPlan | apply keeps_ite | apply keeps_foldl))
      | split | (with_reducible apply keeps_free) | dsimp only)

theorem keeps_tstDef :
    DefKeeps tstDef := by
  unfold tstDef
  try unfold opBody
  try unfold ctlDef
  unfold DefKeeps BodyKeeps
  try dsimp only
  repeat' (first
      | with_reducible assumption | (with_reducible intro _)
      | (with_reducible (first
          | apply keeps_tileCopyPlan | apply keeps_ite | apply keeps_foldl))
      | split | (with_reducible apply keeps_free) | dsimp only)

theorem keeps_qntDef :
    DefKeeps qntDef := by
  unfold qntDef
  try unfold opBody
  try unfold ctlDef
  unfold DefKeeps BodyKeeps
  try dsimp only
  repeat' (first
      | with_reducible assumption | (with_reducible intro _)
      | (with_reducible (first
          | apply keeps_qntPlan | apply keeps_ite | apply keeps_foldl))
      | split | (with_reducible apply keeps_free) | dsimp only)

theorem keeps_mmaDef :
    DefKeeps mmaDef := by
  unfold mmaDef
  try unfold opBody
  try unfold ctlDef
  unfold DefKeeps BodyKeeps
  try dsimp only
  repeat' (first
      | with_reducible assumption | (with_reducible intro _)
      | (with_reducible (first
          | apply keeps_mmaPlan | apply keeps_ite | apply keeps_foldl))
      | split | (with_reducible apply keeps_free) | dsimp only)

theorem keeps_ldownDef :
    DefKeeps ldownDef := by
  unfold ldownDef
  try unfold opBody
  try unfold ctlDef
  unfold DefKeeps BodyKeeps
  try dsimp only
  repeat' (first
      | with_reducible assumption | (with_reducible intro _)
      | (with_reducible (first
          | apply keeps_ldownPlan | apply keeps_ite | apply keeps_foldl))
      | split | (with_reducible apply keeps_free) | dsimp only)

theorem keeps_drainDef :
    DefKeeps drainDef := by
  unfold drainDef
  try unfold opBody
  try unfold ctlDef
  unfold DefKeeps BodyKeeps
  try dsimp only
  repeat' (first
      | with_reducible assumption | (with_reducible intro _)
      | (with_reducible (first
          | apply keeps_drainPlan | apply keeps_ite | apply keeps_foldl))
      | split | (with_reducible apply keeps_free) | dsimp only)

theorem keeps_czeroPlan (a0 : State) (x : ProgUnit) (f1 : Nat) :
    PlanKeeps (czeroPlan a0 x f1) := by
  unfold czeroPlan PlanKeeps
  repeat' (first
      | with_reducible assumption | (with_reducible intro _)
      | (with_reducible (first
          | apply keeps_zeroBank | apply keeps_ite | apply keeps_foldl))
      | split | (with_reducible apply keeps_free) | dsimp only)

theorem keeps_czeroDef :
    DefKeeps czeroDef := by
  unfold czeroDef
  try unfold opBody
  try unfold ctlDef
  unfold DefKeeps BodyKeeps
  try dsimp only
  repeat' (first
      | with_reducible assumption | (with_reducible intro _)
      | (with_reducible (first
          | apply keeps_czeroPlan | apply keeps_ite | apply keeps_foldl))
      | split | (with_reducible apply keeps_free) | dsimp only)

theorem keeps_cxferReadDef :
    DefKeeps cxferReadDef := by
  unfold cxferReadDef
  try unfold opBody
  try unfold ctlDef
  unfold DefKeeps BodyKeeps
  try dsimp only
  repeat' (first
      | with_reducible assumption | (with_reducible intro _)
      | (with_reducible (first
          | apply keeps_cxferReadPlan | apply keeps_ite | apply keeps_foldl))
      | split | (with_reducible apply keeps_free) | dsimp only)

theorem keeps_cxferAddDef :
    DefKeeps cxferAddDef := by
  unfold cxferAddDef
  try unfold opBody
  try unfold ctlDef
  unfold DefKeeps BodyKeeps
  try dsimp only
  repeat' (first
      | with_reducible assumption | (with_reducible intro _)
      | (with_reducible (first
          | apply keeps_cxferAddPlan | apply keeps_ite | apply keeps_foldl))
      | split | (with_reducible apply keeps_free) | dsimp only)

theorem keeps_vopDef :
    DefKeeps vopDef := by
  unfold vopDef
  try unfold opBody
  try unfold ctlDef
  unfold DefKeeps BodyKeeps
  try dsimp only
  repeat' (first
      | with_reducible assumption | (with_reducible intro _)
      | (with_reducible (first
          | apply keeps_vopPlan | apply keeps_ite | apply keeps_foldl))
      | split | (with_reducible apply keeps_free) | dsimp only)

theorem keeps_rsumDef (names : Nat → Bool) : DefKeeps (rsumDef names) := fun _ _ _ => keeps_rsumPlan _ _ _ _ _ _ _

theorem keeps_rsumAccDef : DefKeeps rsumAccDef := keeps_rsumDef _

theorem keeps_rsumCombDef : DefKeeps rsumCombDef := keeps_rsumDef _

theorem keeps_rsumOutDef : DefKeeps rsumOutDef := keeps_rsumDef _

theorem keeps_rotDef :
    DefKeeps rotDef := by
  unfold rotDef
  try unfold opBody
  try unfold ctlDef
  unfold DefKeeps BodyKeeps
  try dsimp only
  repeat' (first
      | with_reducible assumption | (with_reducible intro _)
      | (with_reducible (first
          | apply keeps_rotPlan | apply keeps_ite | apply keeps_foldl))
      | split | (with_reducible apply keeps_free) | dsimp only)

theorem keeps_dropDef :
    DefKeeps dropDef := by
  unfold dropDef
  try unfold opBody
  try unfold ctlDef
  unfold DefKeeps BodyKeeps
  try dsimp only
  repeat' (first
      | with_reducible assumption | (with_reducible intro _)
      | (with_reducible (first
          | apply keeps_dropPlan | apply keeps_ite | apply keeps_foldl))
      | split | (with_reducible apply keeps_free) | dsimp only)

theorem keeps_sampleDef :
    DefKeeps sampleDef := by
  unfold sampleDef
  try unfold opBody
  try unfold ctlDef
  unfold DefKeeps BodyKeeps
  try dsimp only
  repeat' (first
      | with_reducible assumption | (with_reducible intro _)
      | (with_reducible (first
          | apply keeps_samplePlan | apply keeps_ite | apply keeps_foldl))
      | split | (with_reducible apply keeps_free) | dsimp only)

theorem keeps_rngDef :
    DefKeeps rngDef := by
  unfold rngDef
  try unfold opBody
  try unfold ctlDef
  unfold DefKeeps BodyKeeps
  try dsimp only
  repeat' (first
      | with_reducible assumption | (with_reducible intro _)
      | (with_reducible (first
          | apply keeps_rngPlan | apply keeps_ite | apply keeps_foldl))
      | split | (with_reducible apply keeps_free) | dsimp only)

theorem keeps_hupdDef :
    DefKeeps hupdDef := by
  unfold hupdDef
  try unfold opBody
  try unfold ctlDef
  unfold DefKeeps BodyKeeps
  try dsimp only
  repeat' (first
      | with_reducible assumption | (with_reducible intro _)
      | (with_reducible (first
          | apply keeps_hupdPlan | apply keeps_ite | apply keeps_foldl))
      | split | (with_reducible apply keeps_free) | dsimp only)

theorem keeps_hloadDef :
    DefKeeps hloadDef := by
  unfold hloadDef
  try unfold opBody
  try unfold ctlDef
  unfold DefKeeps BodyKeeps
  try dsimp only
  repeat' (first
      | with_reducible assumption | (with_reducible intro _)
      | (with_reducible (first
          | apply keeps_hloadPlan | apply keeps_ite | apply keeps_foldl))
      | split | (with_reducible apply keeps_free) | dsimp only)

theorem keeps_xferDef :
    DefKeeps xferDef := by
  unfold xferDef
  try unfold opBody
  try unfold ctlDef
  unfold DefKeeps BodyKeeps
  try dsimp only
  repeat' (first
      | with_reducible assumption | (with_reducible intro _)
      | (with_reducible (first
          | apply keeps_xferPlan | apply keeps_ite | apply keeps_foldl))
      | split | (with_reducible apply keeps_free) | dsimp only)

theorem keeps_collDef :
    DefKeeps collDef := by
  unfold collDef
  try unfold opBody
  try unfold ctlDef
  unfold DefKeeps BodyKeeps
  try dsimp only
  repeat' (first
      | with_reducible assumption | (with_reducible intro _)
      | (with_reducible (first
          | apply keeps_collPlan | apply keeps_ite | apply keeps_foldl))
      | split | (with_reducible apply keeps_free) | dsimp only)

theorem keeps_landingDef :
    DefKeeps landingDef := by
  unfold landingDef
  try unfold opBody
  try unfold ctlDef
  unfold DefKeeps BodyKeeps
  try dsimp only
  repeat' (first
      | with_reducible assumption | (with_reducible intro _)
      | (with_reducible (first
          | apply keeps_landingPlan | apply keeps_ite | apply keeps_foldl))
      | split | (with_reducible apply keeps_free) | dsimp only)

theorem keeps_landingCancelDef :
    DefKeeps landingCancelDef := by
  unfold landingCancelDef
  try unfold opBody
  try unfold ctlDef
  unfold DefKeeps BodyKeeps
  try dsimp only
  repeat' (first
      | with_reducible assumption | (with_reducible intro _)
      | (with_reducible (first
          | apply keeps_cancelPlan | apply keeps_ite | apply keeps_foldl))
      | split | (with_reducible apply keeps_free) | dsimp only)

theorem keeps_pgrantDef :
    DefKeeps pgrantDef := by
  unfold pgrantDef
  try unfold opBody
  try unfold ctlDef
  unfold DefKeeps BodyKeeps
  try dsimp only
  repeat' (first
      | with_reducible assumption | (with_reducible intro _)
      | (with_reducible (first
          | apply keeps_pgrantPlan | apply keeps_ite | apply keeps_foldl))
      | split | (with_reducible apply keeps_free) | dsimp only)

theorem keeps_openDef :
    DefKeeps openDef := by
  unfold openDef
  try unfold opBody
  try unfold ctlDef
  unfold DefKeeps BodyKeeps
  try dsimp only
  repeat' (first
      | with_reducible assumption | (with_reducible intro _)
      | (with_reducible (first
          | apply keeps_openPlan | apply keeps_ite | apply keeps_foldl))
      | split | (with_reducible apply keeps_free) | dsimp only)

theorem keeps_releaseDef :
    DefKeeps releaseDef := by
  unfold releaseDef
  try unfold opBody
  try unfold ctlDef
  unfold DefKeeps BodyKeeps
  try dsimp only
  repeat' (first
      | with_reducible assumption | (with_reducible intro _)
      | (with_reducible (first
          | apply keeps_releasePlan | apply keeps_ite | apply keeps_foldl))
      | split | (with_reducible apply keeps_free) | dsimp only)

theorem keeps_closeDef :
    DefKeeps closeDef := by
  unfold closeDef
  try unfold opBody
  try unfold ctlDef
  unfold DefKeeps BodyKeeps
  try dsimp only
  repeat' (first
      | with_reducible assumption | (with_reducible intro _)
      | (with_reducible (first
          | apply keeps_closePlan | apply keeps_ite | apply keeps_foldl))
      | split | (with_reducible apply keeps_free) | dsimp only)

theorem keeps_offloadDef :
    DefKeeps offloadDef := by
  unfold offloadDef
  try unfold opBody
  try unfold ctlDef
  unfold DefKeeps BodyKeeps
  try dsimp only
  repeat' (first
      | with_reducible assumption | (with_reducible intro _)
      | (with_reducible (first
          | apply keeps_movePlan | apply keeps_ite | apply keeps_foldl))
      | split | (with_reducible apply keeps_free) | dsimp only)

theorem keeps_prefetchDef :
    DefKeeps prefetchDef := by
  unfold prefetchDef
  try unfold opBody
  try unfold ctlDef
  unfold DefKeeps BodyKeeps
  try dsimp only
  repeat' (first
      | with_reducible assumption | (with_reducible intro _)
      | (with_reducible (first
          | apply keeps_movePlan | apply keeps_ite | apply keeps_foldl))
      | split | (with_reducible apply keeps_free) | dsimp only)

end Sys2Proof.Machine
end

