-- ==== Sys2Proof/Laws/KeepsEvents.lean ====
section
/-! SUPPORT. Keeps through power, domain, job, boot and port events, register and box writes. -/
namespace Sys2Proof.Machine

theorem keeps_raisePower {r : State} (bit : Nat) (s : State) (h_s : Keeps r s) :
    Keeps r (raisePower bit s) := by
  unfold raisePower
  repeat' (first
      | with_reducible assumption | (with_reducible intro _)
      | (with_reducible (first
          | apply keeps_sendMsi | apply keeps_setPf | apply keeps_ite | apply keeps_foldl))
      | split | (with_reducible apply keeps_free) | dsimp only)

theorem keeps_endWithdrawn {r : State} (s : State) (g : Grant) (h_s : Keeps r s) :
    Keeps r (endWithdrawn s g) := by
  unfold endWithdrawn
  repeat' (first
      | with_reducible assumption | (with_reducible intro _)
      | (with_reducible (first
          | apply keeps_failLanding | apply keeps_ite | apply keeps_foldl))
      | split | (with_reducible apply keeps_free) | dsimp only)

theorem keeps_withdrawAll {r : State} (s : State) (h_s : Keeps r s) :
    Keeps r (withdrawAll s) := by
  unfold withdrawAll
  repeat' (first
      | with_reducible assumption | (with_reducible intro _)
      | (with_reducible (first
          | apply keeps_endWithdrawn | apply keeps_withdrawGrants | apply keeps_refuse | apply keeps_ite | apply keeps_foldl))
      | split | (with_reducible apply keeps_free) | dsimp only)

theorem keeps_showMeasure {r : State} (s : State) (h_s : Keeps r s) :
    Keeps r (showMeasure s) := by
  unfold showMeasure
  repeat' (first
      | with_reducible assumption | (with_reducible intro _)
      | (with_reducible (first
          | apply keeps_setPf | apply keeps_ite | apply keeps_foldl))
      | split | (with_reducible apply keeps_free) | dsimp only)

theorem keeps_chargeCmd {r : State} (q : Nat) (seq : Nat) (nj : Nat) (s : State) (h_s : Keeps r s) :
    Keeps r (chargeCmd q seq nj s) := by
  unfold chargeCmd
  repeat' (first
      | with_reducible assumption | (with_reducible intro _)
      | (with_reducible (first
          | apply keeps_setQueue | apply keeps_ite | apply unitOk_ite | apply unitOk_foldl | apply keeps_foldl | apply keeps_foldl_fst
          | apply keeps_foldl_snd | apply ctlKeeps_done | apply ctlKeeps_wait | apply ctlKeeps_refuse | apply ctlKeeps_ite
          | apply arrKeeps_gone | apply arrKeeps_later | apply arrKeeps_here | apply arrKeeps_ite | apply keeps_foldl_CollEnd
          | apply keeps_ite_CollEnd | apply keeps_foldl_Commit | apply keeps_ite_Commit | apply keeps_foldl_DrainSum
          | apply keeps_ite_DrainSum | apply keeps_foldl_Effect | apply keeps_ite_Effect | apply keeps_foldl_LayerDecision
          | apply keeps_ite_LayerDecision | apply keeps_foldl_MmaSum | apply keeps_ite_MmaSum | apply keeps_foldl_QSum
          | apply keeps_ite_QSum | apply keeps_foldl_QTile | apply keeps_ite_QTile | apply keeps_foldl_UpdSum | apply keeps_ite_UpdSum
          | apply keeps_foldl_VecSum | apply keeps_ite_VecSum | apply keeps_units_map | apply unitOk_getUnit | apply unitOk_idle
          | apply unitOk_advance | apply queueOk_getQueue | apply unitOk_setG | apply unitOk_setT | apply unitOk_setK | apply unitOk_setC
          | apply unitOk_setSt | apply unitOk_setP))
      | split | (with_reducible (first
          | apply keeps_free | apply unitOk_fewer | apply unitOk_mapped
          | apply unitOk_emptied | apply unitOk_free | apply queueOk_map | apply queueOk_free)) | dsimp only)

theorem keeps_chargeDomain {r : State} (dom : Nat) (nj : Nat) (s : State) (h_s : Keeps r s) :
    Keeps r (chargeDomain dom nj s) := by
  unfold chargeDomain
  repeat' (first
      | with_reducible assumption | (with_reducible intro _)
      | (with_reducible (first
          | apply keeps_addOverhead | apply keeps_addIdle | apply keeps_chargeCmd | apply keeps_ite | apply keeps_foldl))
      | split | (with_reducible apply keeps_free) | dsimp only)

theorem keeps_chargeSample {r : State} (mw : Nat) (s : State) (h_s : Keeps r s) :
    Keeps r (chargeSample mw s) := by
  unfold chargeSample
  repeat' (first
      | with_reducible assumption | (with_reducible intro _)
      | (with_reducible (first
          | apply keeps_addOverhead | apply keeps_chargeDomain | apply keeps_addTotal | apply keeps_addJob | apply keeps_ite
          | apply keeps_foldl))
      | split | (with_reducible apply keeps_free) | dsimp only)

theorem keeps_powerSample {r : State} (mw : Nat) (s : State) (h_s : Keeps r s) :
    Keeps r (powerSample mw s) := by
  unfold powerSample
  repeat' (first
      | with_reducible assumption | (with_reducible intro _)
      | (with_reducible (first
          | apply keeps_showMeasure | apply keeps_chargeSample | apply keeps_raisePower | apply keeps_bump | apply keeps_setLimiter
          | apply keeps_setPf | apply keeps_letIn | apply keeps_ite | apply keeps_foldl))
      | split | (with_reducible apply keeps_free) | dsimp only)

theorem keeps_lowerBy {r : State} (g : Nat → Nat) (s : State) (h_s : Keeps r s) :
    Keeps r (lowerBy g s) := by
  unfold lowerBy
  repeat' (first
      | with_reducible assumption | (with_reducible intro _)
      | (with_reducible (first
          | apply keeps_retarget | apply keeps_ite | apply keeps_foldl))
      | split | (with_reducible apply keeps_free) | dsimp only)

theorem keeps_lowerAll {r : State} (s : State) (h_s : Keeps r s) :
    Keeps r (lowerAll s) := by
  unfold lowerAll
  repeat' (first
      | with_reducible assumption | (with_reducible intro _)
      | (with_reducible (first
          | apply keeps_lowerBy | apply keeps_ite | apply keeps_foldl))
      | split | (with_reducible apply keeps_free) | dsimp only)

theorem keeps_raiseAll {r : State} (s : State) (h_s : Keeps r s) :
    Keeps r (raiseAll s) := by
  unfold raiseAll
  repeat' (first
      | with_reducible assumption | (with_reducible intro _)
      | (with_reducible (first
          | apply keeps_lowerBy | apply keeps_ite | apply keeps_foldl))
      | split | (with_reducible apply keeps_free) | dsimp only)

theorem keeps_limiterStep {r : State} (s : State) (h_s : Keeps r s) :
    Keeps r (limiterStep s) := by
  unfold limiterStep
  repeat' (first
      | with_reducible assumption | (with_reducible intro _)
      | (with_reducible (first
          | apply keeps_setLimiter | apply keeps_lowerAll | apply keeps_raiseAll | apply keeps_ite | apply keeps_foldl))
      | split | (with_reducible apply keeps_free) | dsimp only)

theorem keeps_grantInForce {r : State} (n : Nat) (s : State) (h_s : Keeps r s) :
    Keeps r (grantInForce n s) := by
  unfold grantInForce
  repeat' (first
      | with_reducible assumption | (with_reducible intro _)
      | (with_reducible (first
          | apply keeps_endLanding | apply keeps_showGrants | apply keeps_ite | apply unitOk_ite | apply unitOk_foldl | apply keeps_foldl
          | apply keeps_foldl_fst | apply keeps_foldl_snd | apply ctlKeeps_done | apply ctlKeeps_wait | apply ctlKeeps_refuse
          | apply ctlKeeps_ite | apply arrKeeps_gone | apply arrKeeps_later | apply arrKeeps_here | apply arrKeeps_ite
          | apply keeps_foldl_CollEnd | apply keeps_ite_CollEnd | apply keeps_foldl_Commit | apply keeps_ite_Commit
          | apply keeps_foldl_DrainSum | apply keeps_ite_DrainSum | apply keeps_foldl_Effect | apply keeps_ite_Effect
          | apply keeps_foldl_LayerDecision | apply keeps_ite_LayerDecision | apply keeps_foldl_MmaSum | apply keeps_ite_MmaSum
          | apply keeps_foldl_QSum | apply keeps_ite_QSum | apply keeps_foldl_QTile | apply keeps_ite_QTile | apply keeps_foldl_UpdSum
          | apply keeps_ite_UpdSum | apply keeps_foldl_VecSum | apply keeps_ite_VecSum | apply keeps_units_map | apply unitOk_getUnit
          | apply unitOk_idle | apply unitOk_advance | apply queueOk_getQueue | apply unitOk_setG | apply unitOk_setT | apply unitOk_setK
          | apply unitOk_setC | apply unitOk_setSt | apply unitOk_setP))
      | split | (with_reducible (first
          | apply keeps_free | apply unitOk_fewer | apply unitOk_mapped
          | apply unitOk_emptied | apply unitOk_free | apply queueOk_map | apply queueOk_free)) | dsimp only)

theorem keeps_releaseAuto {r : State} (u : UnitRef) (s : State) (h_s : Keeps r s) :
    Keeps r (releaseAuto u s) := by
  unfold releaseAuto
  repeat' (first
      | with_reducible assumption | (with_reducible intro _)
      | (with_reducible (first
          | apply unitOk_getUnit | apply keeps_showGrants | apply keeps_ite | apply keeps_foldl))
      | split | (with_reducible apply keeps_free) | dsimp only)

theorem keeps_ageing {r s : State} (l : List (Nat × Nat)) (h : Keeps r s) : Keeps r { s with mram := { s.mram with ageing := l } } :=
  keeps_mram _ _ _ _ _ _ _ (Nat.le_refl _) h

theorem keeps_saveAgeing {r : State} (dom : Nat) (s : State) (h_s : Keeps r s) : Keeps r (saveAgeing dom s) := by
  unfold saveAgeing
  exact keeps_ageing _ h_s

theorem keeps_ageingCheck {r : State} (dom : Nat) (margin : Nat) (s : State) (h_s : Keeps r s) :
    Keeps r (ageingCheck dom margin s) := by
  unfold ageingCheck
  repeat' (first
      | with_reducible assumption | (with_reducible intro _)
      | (with_reducible (first
          | apply keeps_setRf | apply keeps_retarget | apply keeps_showSupply | apply keeps_saveAgeing | apply keeps_ite | apply keeps_foldl))
      | split | (with_reducible apply keeps_free) | dsimp only)

theorem keeps_droopTrip {r : State} (dom : Nat) (s : State) (h_s : Keeps r s) :
    Keeps r (droopTrip dom s) := by
  unfold droopTrip
  repeat' (first
      | with_reducible assumption | (with_reducible intro _)
      | (with_reducible (first
          | apply keeps_bump | apply keeps_showRates | apply keeps_setRf | apply keeps_ite | apply keeps_foldl))
      | split | (with_reducible apply keeps_free) | dsimp only)

theorem keeps_droopClose {r : State} (dom : Nat) (s : State) (h_s : Keeps r s) :
    Keeps r (droopClose dom s) := by
  unfold droopClose
  repeat' (first
      | with_reducible assumption | (with_reducible intro _)
      | (with_reducible (first
          | apply keeps_showRates | apply keeps_ite | apply keeps_foldl))
      | split | (with_reducible apply keeps_free) | dsimp only)

theorem keeps_resumeRamp {r : State} (dom : Nat) (s : State) (h_s : Keeps r s) :
    Keeps r (resumeRamp dom s) := by
  unfold resumeRamp
  repeat' (first
      | with_reducible assumption | (with_reducible intro _)
      | (with_reducible (first
          | apply keeps_setRf | apply keeps_ite | apply keeps_foldl))
      | split | (with_reducible apply keeps_free) | dsimp only)

theorem keeps_rampDone {r : State} (dom : Nat) (s : State) (h_s : Keeps r s) :
    Keeps r (rampDone dom s) := by
  unfold rampDone
  repeat' (first
      | with_reducible assumption | (with_reducible intro _)
      | (with_reducible (first
          | apply keeps_showSupply | apply keeps_setRf | apply keeps_endLanding | apply keeps_ite | apply keeps_foldl))
      | split | (with_reducible apply keeps_free) | dsimp only)

theorem keeps_takeTemps {r : State} (temps : List (Nat × Nat)) (s : State) (h_s : Keeps r s) :
    Keeps r (takeTemps temps s) := by
  unfold takeTemps
  repeat' (first
      | with_reducible assumption | (with_reducible intro _)
      | (with_reducible (first
          | apply keeps_setRf | apply keeps_raisePower | apply keeps_setPf | apply keeps_ite | apply keeps_foldl))
      | split | (with_reducible apply keeps_free) | dsimp only)

theorem keeps_convergenceStep {r : State} (temps : List (Nat × Nat)) (s : State) (h_s : Keeps r s) :
    Keeps r (convergenceStep temps s) := by
  unfold convergenceStep
  repeat' (first
      | with_reducible assumption | (with_reducible intro _)
      | (with_reducible (first
          | apply keeps_takeTemps | apply keeps_showRates | apply keeps_bump | apply keeps_ite | apply keeps_foldl))
      | split | (with_reducible apply keeps_free) | dsimp only)

theorem keeps_thermalStep {r : State} (temps : List (Nat × Nat)) (s : State) (h_s : Keeps r s) :
    Keeps r (thermalStep temps s) := by
  unfold thermalStep
  repeat' (first
      | with_reducible assumption | (with_reducible intro _)
      | (with_reducible (first
          | apply keeps_takeTemps | apply keeps_showRates | apply keeps_ite | apply keeps_foldl))
      | split | (with_reducible apply keeps_free) | dsimp only)

theorem keeps_thermalEmergency {r : State} (dom : Nat) (temp : Nat) (s : State) (h_s : Keeps r s) :
    Keeps r (thermalEmergency dom temp s) := by
  unfold thermalEmergency
  repeat' (first
      | with_reducible assumption | (with_reducible intro _)
      | (with_reducible (first
          | apply keeps_takeTemps | apply keeps_withdrawAll | apply keeps_emit | apply keeps_raisePower | apply keeps_retarget
          | apply keeps_showRates | apply keeps_ite | apply keeps_foldl))
      | split | (with_reducible apply keeps_free) | dsimp only)

theorem keeps_emergencyEnd {r : State} (temps : List (Nat × Nat)) (s : State) (h_s : Keeps r s) :
    Keeps r (emergencyEnd temps s) := by
  unfold emergencyEnd
  repeat' (first
      | with_reducible assumption | (with_reducible intro _)
      | (with_reducible (first
          | apply keeps_takeTemps | apply keeps_retarget | apply keeps_setPf | apply keeps_ite | apply keeps_foldl))
      | split | (with_reducible apply keeps_free) | dsimp only)

theorem keeps_sendNotice {r : State} (arr : Nat) (active : Bool) (s : State) (h_s : Keeps r s) :
    Keeps r (sendNotice arr active s) := by
  unfold sendNotice
  repeat' (first
      | with_reducible assumption | (with_reducible intro _)
      | (with_reducible (first
          | apply keeps_bump | apply keeps_sendToMembers | apply keeps_ite | apply keeps_foldl))
      | split | (with_reducible apply keeps_free) | dsimp only)

theorem keeps_slowSend {r : State} (s : State) (h_s : Keeps r s) :
    Keeps r (slowSend s) := by
  unfold slowSend
  repeat' (first
      | with_reducible assumption | (with_reducible intro _)
      | (with_reducible (first
          | apply keeps_sendNotice | apply keeps_ite | apply keeps_foldl))
      | split | (with_reducible apply keeps_free) | dsimp only)

theorem keeps_takeNotice {r : State} (b : List Byte) (s : State) (h_s : Keeps r s) :
    Keeps r (takeNotice b s) := by
  unfold takeNotice
  repeat' (first
      | with_reducible assumption | (with_reducible intro _)
      | (with_reducible (first
          | apply keeps_bump | apply keeps_setReg | apply keeps_setRf | apply keeps_ite | apply keeps_foldl))
      | split | (with_reducible apply keeps_free) | dsimp only)

theorem keeps_requestReset {r : State} (v : Nat) (s : State) (h_s : Keeps r s) :
    Keeps r (requestReset v s) := by
  unfold requestReset
  repeat' (first
      | with_reducible assumption | (with_reducible intro _)
      | (with_reducible (first
          | apply keeps_domainReset | apply keeps_setPf | apply keeps_ite | apply keeps_foldl))
      | split | (with_reducible apply keeps_free) | dsimp only)

theorem keeps_failDomain {r : State} (dom : Nat) (cause : Nat) (causeRec : Nat) (s : State) (h_s : Keeps r s) :
    Keeps r (failDomain dom cause causeRec s) := by
  unfold failDomain
  repeat' (first
      | with_reducible assumption | (with_reducible intro _)
      | (with_reducible (first
          | apply keeps_domainReset | apply keeps_ite | apply keeps_foldl))
      | split | (with_reducible apply keeps_free) | dsimp only)

theorem keeps_abandonWork {r : State} (u : UnitRef) (op : Nat) (need : OpNeed) (s : State) (h_s : Keeps r s) :
    Keeps r (abandonWork u op need s) := by
  unfold abandonWork
  repeat' (first
      | with_reducible assumption | (with_reducible intro _)
      | (with_reducible (first
          | apply keeps_cancelMovesOf | apply keeps_ite | apply keeps_foldl))
      | split | (with_reducible apply keeps_free) | dsimp only)

theorem keeps_failOp {r : State} (u : UnitRef) (op : Nat) (s : State) (h_s : Keeps r s) :
    Keeps r (failOp u op s) := by
  unfold failOp
  repeat' (first
      | with_reducible assumption | (with_reducible intro _)
      | (with_reducible (first
          | apply unitOk_getUnit | apply keeps_mapOp | apply keeps_abandonWork | apply keeps_ite | apply keeps_foldl))
      | split | (with_reducible apply keeps_free) | dsimp only)

theorem keeps_corridorFail {r : State} (src dst : Nat) (siteA siteB : Nat) (u : UnitRef) (op : Nat) (s : State) (h_s : Keeps r s) :
    Keeps r (corridorFail src dst siteA siteB u op s) := by
  unfold corridorFail
  repeat' (first
      | with_reducible assumption | (with_reducible intro _)
      | (with_reducible (first
          | apply unitOk_getUnit | apply keeps_logFault | apply keeps_failOp | apply keeps_failDomain | apply keeps_ite | apply keeps_foldl))
      | split | (with_reducible apply keeps_free) | dsimp only)

theorem keeps_copyRecord {r : State} (v : Nat) (s : State) (h_s : Keeps r s) :
    Keeps r (copyRecord v s) := by
  unfold copyRecord
  repeat' (first
      | with_reducible assumption | (with_reducible intro _)
      | (with_reducible (first
          | apply keeps_writeMem | apply keeps_ite | apply keeps_foldl))
      | split | (with_reducible apply keeps_free) | dsimp only)

theorem keeps_loadIdentity {r : State} (dom : Nat) (s : State) (h_s : Keeps r s) :
    Keeps r (loadIdentity dom s) := by
  unfold loadIdentity
  repeat' (first
      | with_reducible assumption | (with_reducible intro _)
      | (with_reducible (first
          | apply keeps_setRf | apply keeps_setReg | apply keeps_ite | apply keeps_foldl))
      | split | (with_reducible apply keeps_free) | dsimp only)

theorem keeps_resetRegs {r : State} (dom : Nat) (s : State) (h_s : Keeps r s) :
    Keeps r (resetRegs dom s) := by
  unfold resetRegs
  repeat' (first
      | with_reducible assumption | (with_reducible intro _)
      | (with_reducible (first
          | apply keeps_setReg | apply keeps_ite | apply keeps_foldl))
      | split | (with_reducible apply keeps_free) | dsimp only)

theorem keeps_scrub {r : State} (dom : Nat) (s : State) (h_s : Keeps r s) : Keeps r (scrub dom s) := by
  unfold scrub
  have h1 : Keeps r { s with mem := tblClear s.mem (slotBase dom) (sramSize dom) } := keeps_mem _ (fun b => tblWf_clear _ _ b) h_s
  generalize { s with mem := tblClear s.mem (slotBase dom) (sramSize dom) } = s1 at h1
  dsimp only
  split
  · refine keeps_rekey _ _ ?_
    have h2 : Keeps r ((List.range 32).foldl (fun s b => zeroBank ((dom - 0x10) * 32 + b) s) s1) := keeps_foldl _ (fun t b ht => keeps_zeroBank _ ht) h1
    generalize (List.range 32).foldl (fun s b => zeroBank ((dom - 0x10) * 32 + b) s) s1 = s2 at h2
    with_reducible apply keeps_free
    exact h2
  · exact h1

theorem keeps_freshDomain {r : State} (dom : Nat) (s : State) (h_s : Keeps r s) :
    Keeps r (freshDomain dom s) := by
  unfold freshDomain
  repeat' (first
      | with_reducible assumption | (with_reducible intro _)
      | (with_reducible (first
          | apply keeps_loadIdentity | apply keeps_resetRegs | apply keeps_setDomain | apply keeps_setReg | apply keeps_setRf
          | apply keeps_showSupply | apply keeps_showRates | apply keeps_ite | apply keeps_foldl))
      | split | (with_reducible apply keeps_free) | dsimp only)

theorem keeps_writeAborted {r : State} (dom : Nat) (s : State) (h_s : Keeps r s) :
    Keeps r (writeAborted dom s) := by
  unfold writeAborted
  repeat' (first
      | with_reducible assumption | (with_reducible intro _)
      | (with_reducible (first
          | apply keeps_writeCompletion | apply keeps_finishCmd | apply keeps_logFault | apply keeps_setDomain | apply keeps_ite
          | apply keeps_foldl))
      | split | (with_reducible apply keeps_free) | dsimp only)

theorem keeps_freshPorts {r : State} (dom : Nat) (s : State) (h_s : Keeps r s) :
    Keeps r (freshPorts dom s) := by
  unfold freshPorts
  repeat' (first
      | with_reducible assumption | (with_reducible intro _)
      | (with_reducible (first
          | apply keeps_setPort | apply keeps_setPortState | apply keeps_ite | apply keeps_foldl))
      | split | (with_reducible apply keeps_free) | dsimp only)

theorem keeps_endRampLandings {r : State} (dom : Nat) (s : State) (h_s : Keeps r s) :
    Keeps r (endRampLandings dom s) := by
  unfold endRampLandings
  repeat' (first
      | with_reducible assumption | (with_reducible intro _)
      | (with_reducible (first
          | apply keeps_endLanding | apply keeps_ite | apply keeps_foldl))
      | split | (with_reducible apply keeps_free) | dsimp only)

theorem keeps_placeTree {r : State} (load : Nat) (len : Nat) (s : State) (h_s : Keeps r s) :
    Keeps r (placeTree load len s) := by
  unfold placeTree
  repeat' (first
      | with_reducible assumption | (with_reducible intro _)
      | (with_reducible (first
          | apply keeps_writeServed | apply keeps_ite | apply keeps_foldl))
      | split | (with_reducible apply keeps_free) | dsimp only)

theorem keeps_hallBoot {r : State} (s : State) (h_s : Keeps r s) :
    Keeps r (hallBoot s) := by
  unfold hallBoot
  repeat' (first
      | with_reducible assumption | (with_reducible intro _)
      | (with_reducible (first
          | apply keeps_placeTree | apply keeps_writeMem | apply keeps_emit | apply keeps_tick | apply keeps_logFault | apply keeps_ite
          | apply keeps_foldl))
      | split | (with_reducible apply keeps_free) | dsimp only)

theorem keeps_loseDomain {r : State} (dom : Nat) (s : State) (h_s : Keeps r s) :
    Keeps r (loseDomain dom s) := by
  unfold loseDomain
  repeat' (first
      | with_reducible assumption | (with_reducible intro _)
      | (with_reducible (first
          | apply keeps_setRb | apply keeps_writeAborted | apply keeps_setReceiverLost | apply keeps_setPortState | apply keeps_takeOut
          | apply keeps_ite | apply keeps_foldl))
      | split | (with_reducible apply keeps_free) | dsimp only)

theorem keeps_endReset {r : State} (dom : Nat) (selfTest : Bool) (failed : List Nat) (s : State) (h_s : Keeps r s) :
    Keeps r (endReset dom selfTest failed s) := by
  unfold endReset
  repeat' (first
      | with_reducible assumption | (with_reducible intro _)
      | (with_reducible (first
          | apply keeps_freshDomain | apply keeps_scrub | apply keeps_setDomain | apply keeps_setRb | apply keeps_writeAborted
          | apply keeps_writeLostLandings | apply keeps_setReceiverLost | apply keeps_freshPorts | apply keeps_endRampLandings
          | apply keeps_retarget | apply keeps_hallBoot | apply keeps_loseDomain | apply keeps_logFault | apply keeps_ite
          | apply keeps_foldl))
      | split | (with_reducible apply keeps_free) | dsimp only)

theorem keeps_spareChannel {r : State} (dom : Nat) (code : Nat) (a : Nat) (s : State) (h_s : Keeps r s) :
    Keeps r (spareChannel dom code a s) := by
  unfold spareChannel
  repeat' (first
      | with_reducible assumption | (with_reducible intro _)
      | (with_reducible (first
          | apply keeps_writeMem | apply keeps_setDomain | apply keeps_loseDomain | apply keeps_dropDomain | apply keeps_logFault
          | apply keeps_ite | apply keeps_foldl))
      | split | (with_reducible apply keeps_free) | dsimp only)

theorem keeps_eccHit {r : State} (dom : Nat) (code : Nat) (a : Nat) (u : UnitRef) (op : Nat) (s : State) (h_s : Keeps r s) :
    Keeps r (eccHit dom code a u op s) := by
  unfold eccHit
  repeat' (first
      | with_reducible assumption | (with_reducible intro _)
      | (with_reducible (first
          | apply unitOk_getUnit | apply keeps_restartBy | apply keeps_spareChannel | apply keeps_ite | apply keeps_foldl))
      | split | (with_reducible apply keeps_free) | dsimp only)

theorem keeps_eccData {r : State} (a : Nat) (u : UnitRef) (op : Nat) (s : State) (h_s : Keeps r s) : Keeps r (eccData a u op s) := by
  unfold eccData
  cases eccPlace s a with
  | none => exact h_s
  | some x => exact keeps_eccHit _ _ _ _ _ _ h_s

theorem keeps_showConflict {r : State} (s : State) (h_s : Keeps r s) :
    Keeps r (showConflict s) := by
  unfold showConflict
  repeat' (first
      | with_reducible assumption | (with_reducible intro _)
      | (with_reducible (first
          | apply keeps_setPf | apply keeps_ite | apply keeps_foldl))
      | split | (with_reducible apply keeps_free) | dsimp only)

theorem keeps_writeFabJob {r : State} (v : Nat) (s : State) (h_s : Keeps r s) :
    Keeps r (writeFabJob v s) := by
  unfold writeFabJob
  repeat' (first
      | with_reducible assumption | (with_reducible intro _)
      | (with_reducible (first
          | apply keeps_leaveJob | apply keeps_setPf | apply keeps_setReg | apply keeps_announceSelf | apply keeps_setFabState
          | apply keeps_showConflict | apply keeps_ite | apply keeps_foldl))
      | split | (with_reducible apply keeps_free) | dsimp only)

theorem keeps_formJob {r : State} (s : State) (h_s : Keeps r s) :
    Keeps r (formJob s) := by
  unfold formJob
  repeat' (first
      | with_reducible assumption | (with_reducible intro _)
      | (with_reducible (first
          | apply keeps_setPf | apply keeps_setReg | apply keeps_setFabState | apply keeps_moveTo | apply keeps_ite | apply keeps_foldl))
      | split | (with_reducible apply keeps_free) | dsimp only)

theorem keeps_mirror {r : State} (present : Bool) (p : Partner) (s : State) (h_s : Keeps r s) :
    Keeps r (mirror present p s) := by
  unfold mirror
  repeat' (first
      | with_reducible assumption | (with_reducible intro _)
      | (with_reducible (first
          | apply keeps_writeMem | apply keeps_ite | apply keeps_foldl))
      | split | (with_reducible apply keeps_free) | dsimp only)

theorem keeps_memberGone {r : State} (old : Partner) (s : State) (h_s : Keeps r s) :
    Keeps r (memberGone old s) := by
  unfold memberGone
  repeat' (first
      | with_reducible assumption | (with_reducible intro _)
      | (with_reducible (first
          | apply keeps_jobRestart | apply keeps_ite | apply keeps_foldl))
      | split | (with_reducible apply keeps_free) | dsimp only)

theorem keeps_applyChange {r : State} (s : State) (c : Change) (h_s : Keeps r s) :
    Keeps r (applyChange s c) := by
  unfold applyChange
  repeat' (first
      | with_reducible assumption | (with_reducible intro _)
      | (with_reducible (first
          | apply keeps_answerDeparted | apply keeps_mirror | apply keeps_memberGone | apply keeps_ite | apply keeps_foldl))
      | split | (with_reducible apply keeps_free) | dsimp only)

theorem keeps_bumpGen {r : State} (s : State) (h_s : Keeps r s) :
    Keeps r (bumpGen s) := by
  unfold bumpGen
  repeat' (first
      | with_reducible assumption | (with_reducible intro _)
      | (with_reducible (first
          | apply keeps_setPf | apply keeps_ite | apply keeps_foldl))
      | split | (with_reducible apply keeps_free) | dsimp only)

theorem keeps_replaceRoster {r : State} (number : Nat) (s : State) (h_s : Keeps r s) :
    Keeps r (replaceRoster number s) := by
  unfold replaceRoster
  repeat' (first
      | with_reducible assumption | (with_reducible intro _)
      | (with_reducible (first
          | apply keeps_applyChange | apply keeps_bumpGen | apply keeps_ite | apply keeps_foldl))
      | split | (with_reducible apply keeps_free) | dsimp only)

theorem keeps_requestResend {r : State} (p : PortRef) (s : State) (h_s : Keeps r s) :
    Keeps r (requestResend p s) := by
  unfold requestResend
  repeat' (first
      | with_reducible assumption | (with_reducible intro _)
      | (with_reducible (first
          | apply keeps_queueFlit | apply keeps_ite | apply keeps_foldl))
      | split | (with_reducible apply keeps_free) | dsimp only)

theorem keeps_applyNews {r : State} (b : List Byte) (s : State) (h_s : Keeps r s) :
    Keeps r (applyNews b s) := by
  unfold applyNews
  repeat' (first
      | with_reducible assumption | (with_reducible intro _)
      | (with_reducible (first
          | apply keeps_showConflict | apply keeps_bumpGen | apply keeps_applyChange | apply keeps_ite | apply keeps_foldl))
      | split | (with_reducible apply keeps_free) | dsimp only)

theorem keeps_catchUp {r : State} (p : PortRef) (a1 : Nat) (a2 : State) (h_a2 : Keeps r a2) :
    Keeps r (catchUp p a1 a2) := by
  induction a1 generalizing a2 with
  | zero => exact h_a2
  | succ n ih =>
    unfold catchUp
    split
    · exact ih _ (keeps_applyNews _ _ (by with_reducible apply keeps_free; exact h_a2))
    · extract_lets ahead src s1
      have h1 : Keeps r s1 := by with_reducible apply keeps_free; exact h_a2
      exact keeps_ite h1 (keeps_requestResend _ _ h1)

theorem keeps_announce {r : State} (p : PortRef) (b : List Byte) (s : State) (h_s : Keeps r s) :
    Keeps r (announce p b s) := by
  unfold announce
  repeat' (first
      | with_reducible assumption | (with_reducible intro _)
      | (with_reducible (first
          | apply keeps_catchUp | apply keeps_showConflict | apply keeps_replaceRoster | apply keeps_applyNews | apply keeps_requestResend
          | apply keeps_ite | apply keeps_foldl))
      | split | (with_reducible apply keeps_free) | dsimp only)

theorem keeps_addVote {r : State} (v : Vote) (s : State) (h_s : Keeps r s) :
    Keeps r (addVote v s) := by
  unfold addVote
  repeat' (first
      | with_reducible assumption | (with_reducible intro _)
      | (with_reducible (first
          | apply keeps_ite | apply keeps_foldl))
      | split | (with_reducible apply keeps_free) | dsimp only)

theorem keeps_castVote {r : State} (s : State) (h_s : Keeps r s) :
    Keeps r (castVote s) := by
  unfold castVote
  repeat' (first
      | with_reducible assumption | (with_reducible intro _)
      | (with_reducible (first
          | apply keeps_addVote | apply keeps_sendToRank | apply keeps_ite | apply keeps_foldl))
      | split | (with_reducible apply keeps_free) | dsimp only)

theorem keeps_takeMembership {r : State} (epoch keystone coordinator : Nat) (ranks : List Nat) (s : State) (h_s : Keeps r s) :
    Keeps r (takeMembership epoch keystone coordinator ranks s) := by
  unfold takeMembership
  repeat' (first
      | with_reducible assumption | (with_reducible intro _)
      | (with_reducible (first
          | apply keeps_setPf | apply keeps_moveTo | apply keeps_tryAgree | apply keeps_sendAgree | apply keeps_setFabState
          | apply keeps_ite | apply keeps_foldl))
      | split | (with_reducible apply keeps_free) | dsimp only)

theorem keeps_stopMinority {r : State} (voters : Nat) (s : State) (h_s : Keeps r s) :
    Keeps r (stopMinority voters s) := by
  unfold stopMinority
  repeat' (first
      | with_reducible assumption | (with_reducible intro _)
      | (with_reducible (first
          | apply keeps_setFabState | apply keeps_logFault | apply keeps_ite | apply keeps_foldl))
      | split | (with_reducible apply keeps_free) | dsimp only)

theorem keeps_tally {r : State} (s : State) (h_s : Keeps r s) :
    Keeps r (tally s) := by
  unfold tally
  repeat' (first
      | with_reducible assumption | (with_reducible intro _)
      | (with_reducible (first
          | apply keeps_takeMembership | apply keeps_sendToRank | apply keeps_stopMinority | apply keeps_ite | apply keeps_foldl))
      | split | (with_reducible apply keeps_free) | dsimp only)

theorem keeps_restartBody {r : State} (rkind : Nat) (pk : List Byte) (s : State) (h_s : Keeps r s) :
    Keeps r (restartBody rkind pk s).1 := by
  unfold restartBody
  extract_lets b look
  have hl : ∀ z, Keeps r z → Keeps r (look z).1 := fun z hz => by
    show Keeps r (if _ then _ else _ : State × Option (List Byte)).1
    split <;> exact hz
  have ha := keeps_arrive pk s h_s
  clear_value look
  generalize arrive pk s = a at ha ⊢
  cases a with
  | gone z =>
    dsimp only
    split
    · exact hl _ h_s
    · exact ha
  | later z => exact hl _ (keeps_joinRestart _ ha)
  | here z => exact hl _ ha

theorem keeps_execJobFormed {r : State} (s : State) (h_s : Keeps r s) :
    ∀ t, execJobFormed s = .next t → Keeps r t := by
  unfold execJobFormed
  rintro _ ⟨⟩
  repeat' (first
      | with_reducible assumption | (with_reducible intro _)
      | (with_reducible (first
          | apply keeps_showConflict | apply keeps_formJob | apply keeps_ite | apply keeps_foldl))
      | split | (with_reducible apply keeps_free) | dsimp only)

theorem keeps_execRestartPacket {r : State} (pk : List Byte) (s : State)
    (h : Keeps r s) : ∀ t, execRestartPacket pk s = .next t → Keeps r t := by
  unfold execRestartPacket
  rintro _ ⟨⟩
  have ha := keeps_restartBody 1 pk s h
  generalize restartBody 1 pk s = a at ha ⊢
  obtain ⟨z, o⟩ := a
  cases o with
  | none => exact ha
  | some b => exact keeps_ite (keeps_jobRestart _ _ _ _ ha) ha

theorem keeps_execVoteSend {r : State} (s : State) (h_s : Keeps r s) :
    ∀ t, execVoteSend s = .next t → Keeps r t := by
  unfold execVoteSend
  rintro _ ⟨⟩
  repeat' (first
      | with_reducible assumption | (with_reducible intro _)
      | (with_reducible (first
          | apply keeps_castVote | apply keeps_ite | apply keeps_foldl))
      | split | (with_reducible apply keeps_free) | dsimp only)

theorem keeps_execVotePacket {r : State} (pk : List Byte) (s : State) (h : Keeps r s) : ∀ t, execVotePacket pk s = .next t → Keeps r t := by
  unfold execVotePacket
  rintro _ ⟨⟩
  have ha := keeps_restartBody 2 pk s h
  generalize restartBody 2 pk s = a at ha ⊢
  obtain ⟨z, o⟩ := a
  cases o with
  | none => exact ha
  | some b => exact keeps_ite (keeps_addVote _ _ ha) ha

theorem keeps_execVoteTally {r : State} (s : State) (h_s : Keeps r s) :
    ∀ t, execVoteTally s = .next t → Keeps r t := by
  unfold execVoteTally
  rintro _ ⟨⟩
  repeat' (first
      | with_reducible assumption | (with_reducible intro _)
      | (with_reducible (first
          | apply keeps_tally | apply keeps_ite | apply keeps_foldl))
      | split | (with_reducible apply keeps_free) | dsimp only)

theorem keeps_execMembershipPacket {r : State} (pk : List Byte) (s : State) (h : Keeps r s) :
    ∀ t, execMembershipPacket pk s = .next t → Keeps r t := by
  unfold execMembershipPacket
  rintro _ ⟨⟩
  have ha := keeps_restartBody 3 pk s h
  generalize restartBody 3 pk s = a at ha ⊢
  obtain ⟨z, o⟩ := a
  cases o with
  | none => exact ha
  | some b => exact keeps_ite (keeps_takeMembership _ _ _ _ _ ha) ha

theorem keeps_execStopPacket {r : State} (pk : List Byte) (s : State) (h : Keeps r s) : ∀ t, execStopPacket pk s = .next t → Keeps r t := by
  unfold execStopPacket
  rintro _ ⟨⟩
  have ha := keeps_restartBody 4 pk s h
  generalize restartBody 4 pk s = a at ha ⊢
  obtain ⟨z, o⟩ := a
  cases o with
  | none => exact ha
  | some b => exact keeps_ite (keeps_stopMinority _ _ ha) ha

theorem keeps_execVoteTimeout {r : State} (s : State) (h_s : Keeps r s) :
    ∀ t, execVoteTimeout s = .next t → Keeps r t := by
  unfold execVoteTimeout
  rintro _ ⟨⟩
  repeat' (first
      | with_reducible assumption | (with_reducible intro _)
      | (with_reducible (first
          | apply keeps_stopMinority | apply keeps_ite | apply keeps_foldl))
      | split | (with_reducible apply keeps_free) | dsimp only)

theorem keeps_execAgreePacket {r : State} (pk : List Byte) (s : State)
    (h : Keeps r s) : ∀ t, execAgreePacket pk s = .next t → Keeps r t := by
  unfold execAgreePacket
  rintro _ ⟨⟩
  have ha := keeps_restartBody 5 pk s h
  generalize restartBody 5 pk s = a at ha ⊢
  obtain ⟨z, o⟩ := a
  cases o with
  | none => exact ha
  | some b =>
    refine keeps_ite (keeps_ite (keeps_tryAgree _ (keeps_applyAgree _ _ _ _ ha)) ha) (keeps_tryAgree _ ?_)
    exact keeps_free _ _ _ _ _ _ _ _ _ _ _ _ _ _ _ _ _ _ _ _ _ _ _ _ _ ha

theorem keeps_boundaryIn {r : State} (epoch : Nat) (b : List Byte) (s : State) (h_s : Keeps r s) :
    Keeps r (boundaryIn epoch b s) := by
  unfold boundaryIn
  repeat' (first
      | with_reducible assumption | (with_reducible intro _)
      | (with_reducible (first
          | apply keeps_tryCommit | apply keeps_headerFault | apply keeps_ite | apply keeps_foldl))
      | split | (with_reducible apply keeps_free) | dsimp only)

theorem keeps_execBoundaryPacket {r : State} (pk : List Byte) (s : State)
    (h : Keeps r s) : ∀ t, execBoundaryPacket pk s = .next t → Keeps r t := by
  unfold execBoundaryPacket
  rintro _ ⟨⟩
  have ha := keeps_arrive pk s h
  generalize arrive pk s = a at ha ⊢
  cases a with
  | gone z => exact ha
  | later z => exact keeps_ite (keeps_boundaryIn _ _ _ (keeps_joinRestart _ ha)) (keeps_joinRestart _ ha)
  | here z => exact keeps_ite (keeps_boundaryIn _ _ _ ha) ha

theorem keeps_refuseDesc {r : State} (d : Nat) (s : State) (h_s : Keeps r s) :
    Keeps r (refuseDesc d s) := by
  unfold refuseDesc
  repeat' (first
      | with_reducible assumption | (with_reducible intro _)
      | (with_reducible (first
          | apply keeps_writeNat | apply keeps_ite | apply keeps_foldl))
      | split | (with_reducible apply keeps_free) | dsimp only)

theorem keeps_sendFrame {r : State} (p : PortRef) (frame : List Byte) (s : State) (h_s : Keeps r s) :
    Keeps r (sendFrame p frame s) := by
  unfold sendFrame
  repeat' (first
      | with_reducible assumption | (with_reducible intro _)
      | (with_reducible (first
          | apply keeps_queuePacket | apply keeps_emit | apply keeps_countPseq | apply keeps_ite | apply keeps_foldl))
      | split | (with_reducible apply keeps_free) | dsimp only)

theorem keeps_sendOne {r : State} (p : PortRef) (s : State) (h_s : Keeps r s) :
    Keeps r (sendOne p s) := by
  unfold sendOne
  repeat' (first
      | with_reducible assumption | (with_reducible intro _)
      | (with_reducible (first
          | apply keeps_bumpPort | apply keeps_refuseDesc | apply keeps_sendFrame | apply keeps_writeNat | apply keeps_setPortF
          | apply keeps_ite | apply keeps_foldl))
      | split | (with_reducible apply keeps_free) | dsimp only)

theorem keeps_serveTx {r : State} (p : PortRef) (s : State) (h_s : Keeps r s) :
    Keeps r (serveTx p s) := by
  unfold serveTx
  repeat' (first
      | with_reducible assumption | (with_reducible intro _)
      | (with_reducible (first
          | apply keeps_sendOne | apply keeps_ite | apply keeps_foldl))
      | split | (with_reducible apply keeps_free) | dsimp only)

theorem keeps_dropFrame {r : State} (p : PortRef) (s : State) (h_s : Keeps r s) :
    Keeps r (dropFrame p s) := by
  unfold dropFrame
  repeat' (first
      | with_reducible assumption | (with_reducible intro _)
      | (with_reducible (first
          | apply keeps_bumpPort | apply keeps_ite | apply keeps_foldl))
      | split | (with_reducible apply keeps_free) | dsimp only)

theorem keeps_fillFrame {r : State} (p : PortRef) (data : List Byte) (a2 : Nat) (a3 : State) (h_a3 : Keeps r a3) :
    Keeps r (fillFrame p data a2 a3) := by
  induction a2 generalizing a3 with
  | zero => exact keeps_dropFrame _ _ h_a3
  | succ k ih =>
    unfold fillFrame
    extract_lets head
    refine keeps_ite (keeps_dropFrame _ _ h_a3) ?_
    split
    · exact keeps_dropFrame _ _ h_a3
    · have hn : ∀ z : State, Keeps r z → Keeps r (setPortF z p Reg.FRAME_RX_HEAD 31 0 ((head + 1) % 2 ^ 32)) :=
        fun z hz => keeps_setPortF _ _ _ _ _ _ hz
      exact keeps_ite (ih _ (hn _ (keeps_refuseDesc _ _ h_a3))) (keeps_ite (keeps_dropFrame _ _ h_a3)
        (hn _ (keeps_writeNat _ _ _ _ (keeps_writeNat _ _ _ _ (keeps_writeMem _ _ h_a3)))))

theorem keeps_receiveFrame {r : State} (p : PortRef) (f : List Byte) (s : State) (h_s : Keeps r s) :
    Keeps r (receiveFrame p f s) := by
  unfold receiveFrame
  repeat' (first
      | with_reducible assumption | (with_reducible intro _)
      | (with_reducible (first
          | apply keeps_dropFrame | apply keeps_bumpPort | apply keeps_fillFrame | apply keeps_ite | apply keeps_foldl))
      | split | (with_reducible apply keeps_free) | dsimp only)

theorem keeps_setBoot {r : State} (v : Nat) (s : State) (h_s : Keeps r s) :
    Keeps r (setBoot v s) := by
  unfold setBoot
  repeat' (first
      | with_reducible assumption | (with_reducible intro _)
      | (with_reducible (first
          | apply keeps_emit | apply keeps_setPf | apply keeps_ite | apply keeps_foldl))
      | split | (with_reducible apply keeps_free) | dsimp only)

theorem keeps_showSet {r : State} (s : State) (h_s : Keeps r s) :
    Keeps r (showSet s) := by
  unfold showSet
  repeat' (first
      | with_reducible assumption | (with_reducible intro _)
      | (with_reducible (first
          | apply keeps_setPf | apply keeps_ite | apply keeps_foldl))
      | split | (with_reducible apply keeps_free) | dsimp only)

theorem sound_cold {s : State} (h : memWf s.store = true) : Sound (cold s) :=
  ⟨rfl, h, rfl, rfl, rfl, rfl, rfl, rfl, rfl, Nat.zero_le _, fun _ h => (by cases h), fun _ h => (by cases h), fun _ h => (by cases h)⟩

theorem keeps_cold {r : State} (s : State) (h : Keeps r s) : Keeps r (cold s) :=
  ⟨fun a => sound_cold (h.sound a).store, h.pending, h.variant, h.minSvn, h.factory, h.freeCtr, h.out⟩

theorem keeps_loadDie {r : State} (s : State) (dom : Nat) (h_s : Keeps r s) :
    Keeps r (loadDie s dom) := by
  unfold loadDie
  repeat' (first
      | with_reducible assumption | (with_reducible intro _)
      | (with_reducible (first
          | apply keeps_loadIdentity | apply keeps_setReg | apply keeps_showSupply | apply keeps_setRf | apply keeps_ite | apply keeps_foldl))
      | split | (with_reducible apply keeps_free) | dsimp only)

theorem keeps_bootDie {r : State} (b : BootInputs) (s : State) (dom : Nat) (h_s : Keeps r s) :
    Keeps r (bootDie b s dom) := by
  unfold bootDie
  repeat' (first
      | with_reducible assumption | (with_reducible intro _)
      | (with_reducible (first
          | apply keeps_logFault | apply keeps_setReceiverLost | apply keeps_setRb | apply keeps_setDomain | apply keeps_rekey
          | apply keeps_ite | apply keeps_foldl))
      | split | (with_reducible apply keeps_free) | dsimp only)

theorem keeps_writeHeld {r : State} (s : State) (h : Keeps r s) : Keeps r (writeHeld s) := by
  unfold writeHeld
  extract_lets s1 s2
  have h1 : Keeps r s1 := keeps_foldl _ (fun t b ht => keeps_logFault _ _ ht) h
  have h2 : Keeps r s2 := keeps_foldl _ (fun t b ht => keeps_logFault _ _ ht) h1
  clear_value s2
  have h3 : Keeps r { s2 with boot := { s2.boot with records := [] } } := keeps_free _ _ _ _ _ _ _ _ _ _ _ _ _ _ _ _ _ _ _ _ _ _ _ _ _ h2
  exact keeps_mram _ _ _ _ _ _ _ (Nat.le_refl _) h3

theorem keeps_startFirmware {r : State} (b : BootInputs) (s : State) (h_s : Keeps r s) :
    Keeps r (startFirmware b s) := by
  unfold startFirmware
  repeat' (first
      | with_reducible assumption | (with_reducible intro _)
      | (with_reducible (first
          | apply keeps_setBoot | apply keeps_showSet | apply keeps_loadDie | apply keeps_writeHeld | apply keeps_bootDie
          | apply keeps_retarget | apply keeps_showRates | apply keeps_hallBoot | apply keeps_tick | apply keeps_setPf | apply keeps_ite
          | apply keeps_foldl))
      | split | (with_reducible apply keeps_free) | dsimp only)

theorem keeps_sendMgmt {r : State} (lane : Nat) (dst : List Byte) (payload : List Byte) (s : State) (h_s : Keeps r s) :
    Keeps r (sendMgmt lane dst payload s) := by
  unfold sendMgmt
  repeat' (first
      | with_reducible assumption | (with_reducible intro _)
      | (with_reducible (first
          | apply keeps_emit | apply keeps_ite | apply keeps_foldl))
      | split | (with_reducible apply keeps_free) | dsimp only)

theorem keeps_sendRecoveryReq {r : State} (s : State) (h_s : Keeps r s) :
    Keeps r (sendRecoveryReq s) := by
  unfold sendRecoveryReq
  repeat' (first
      | with_reducible assumption | (with_reducible intro _)
      | (with_reducible (first
          | apply keeps_sendMgmt | apply keeps_ite | apply keeps_foldl))
      | split | (with_reducible apply keeps_free) | dsimp only)

theorem keeps_beginRecovery {r : State} (s : State) (h_s : Keeps r s) :
    Keeps r (beginRecovery s) := by
  unfold beginRecovery
  repeat' (first
      | with_reducible assumption | (with_reducible intro _)
      | (with_reducible (first
          | apply keeps_sendRecoveryReq | apply keeps_ite | apply keeps_foldl))
      | split | (with_reducible apply keeps_free) | dsimp only)

theorem keeps_endAttempt {r : State} (s : State) (h_s : Keeps r s) :
    Keeps r (endAttempt s) := by
  unfold endAttempt
  repeat' (first
      | with_reducible assumption | (with_reducible intro _)
      | (with_reducible (first
          | apply keeps_ite | apply keeps_foldl))
      | split | (with_reducible apply keeps_free) | dsimp only)

theorem keeps_verifySet {r : State} (b : BootInputs) (s : State) (h_s : Keeps r s) :
    Keeps r (verifySet b s) := by
  unfold verifySet
  repeat' (first
      | with_reducible assumption | (with_reducible intro _)
      | (with_reducible (first
          | apply keeps_setBoot | apply keeps_startFirmware | apply keeps_beginRecovery | apply keeps_ite | apply keeps_foldl))
      | split | (with_reducible apply keeps_free) | dsimp only)

theorem keeps_powerOn {r : State} (b : BootInputs) (s : State) (h : Keeps r s) : Keeps r (powerOn b s) := by
  unfold powerOn
  have h1 := keeps_cold s h
  generalize cold s = s1 at h1
  refine keeps_ite (keeps_setPf _ _ _ _ _ h1) (keeps_ite (keeps_setBoot _ _ h1) ?_)
  have h2 := keeps_mram s1.mram.minSvn ((s1.mram.bootCount + 1) % 2 ^ 32) s1.mram.ageing s1.mram.lastTrip s1.mram.shutdown s1.mram.unlogged
    s1.mram.set (Nat.le_refl _) h1
  refine keeps_verifySet _ _ (keeps_ite (keeps_setPf _ _ _ _ _ ?_) ?_)
  · with_reducible apply keeps_free
    exact keeps_setPf _ _ _ _ _ (keeps_setPf _ _ _ _ _ h2)
  · exact keeps_setPf _ _ _ _ _ (keeps_setPf _ _ _ _ _ h2)

theorem keeps_finishRecovery {r : State} (b : BootInputs) (s : State) (h : Keeps r s) : Keeps r (finishRecovery b s) := by
  unfold finishRecovery
  refine keeps_ite ?_ (keeps_endAttempt _ h)
  have h2 : Keeps r { s with mram := { s.mram with minSvn := max s.mram.minSvn (setSvn s.mram.set) } } :=
    keeps_mram _ _ _ _ _ _ _ (Nat.le_max_left _ _) h
  exact keeps_startFirmware _ _ (keeps_setPf _ _ _ _ _ (keeps_free _ _ _ _ _ _ _ _ _ _ _ _ _ _ _ _ _ _ _ _ _ _ _ _ _ h2))

theorem keeps_image {r s : State} (l : List Byte) (h : Keeps r s) : Keeps r { s with mram := { s.mram with set := l } } :=
  keeps_mram _ _ _ _ _ _ _ (Nat.le_refl _) h

theorem keeps_recoveryData {r : State} (b : BootInputs) (f : List Byte) (s : State) (h : Keeps r s) : Keeps r (recoveryData b f s) := by
  unfold recoveryData
  split
  · refine keeps_ite h ?_
    extract_lets total src1 s1 n set src2 s2
    have h1 : Keeps r s1 := keeps_free _ _ _ _ _ _ _ _ _ _ _ _ _ _ _ _ _ _ _ _ _ _ _ _ _ h
    have h2 : Keeps r s2 := keeps_image _ h1
    clear_value s2 set n
    refine keeps_ite (keeps_endAttempt _ h) (keeps_ite h1 (keeps_ite (keeps_sendRecoveryReq _ ?_) (keeps_finishRecovery _ _ (keeps_image _ h2))))
    exact keeps_free _ _ _ _ _ _ _ _ _ _ _ _ _ _ _ _ _ _ _ _ _ _ _ _ _ h2
  · exact h

theorem keeps_setUpd {r : State} (state : Nat) (status : Nat) (version : Nat) (s : State) (h_s : Keeps r s) :
    Keeps r (setUpd state status version s) := by
  unfold setUpd
  repeat' (first
      | with_reducible assumption | (with_reducible intro _)
      | (with_reducible (first
          | apply keeps_setPf | apply keeps_ite | apply keeps_foldl))
      | split | (with_reducible apply keeps_free) | dsimp only)

theorem keeps_answerSlot {r : State} (slot : Nat) (status : Nat) (s : State) (h_s : Keeps r s) :
    Keeps r (answerSlot slot status s) := by
  unfold answerSlot
  repeat' (first
      | with_reducible assumption | (with_reducible intro _)
      | (with_reducible (first
          | apply keeps_ackSlot | apply keeps_ite | apply keeps_foldl))
      | split | (with_reducible apply keeps_free) | dsimp only)

theorem keeps_updateNext {r : State} (l : List Nat) (s : State) (h : Keeps r s) : Keeps r (updateNext l s) := by
  induction l generalizing s with
  | nil =>
    unfold updateNext
    extract_lets held src s1 s2
    have h1 : Keeps r s1 := keeps_free _ _ _ _ _ _ _ _ _ _ _ _ _ _ _ _ _ _ _ _ _ _ _ _ _ h
    have h2 : Keeps r s2 := keeps_answerSlot _ _ _ (keeps_setPf _ _ _ _ _ h1)
    clear_value s2 held
    split
    · exact keeps_writeFabJob _ _ h2
    · exact h2
  | cons d rest ih =>
    unfold updateNext
    extract_lets src s1
    have h1 : Keeps r s1 := keeps_free _ _ _ _ _ _ _ _ _ _ _ _ _ _ _ _ _ _ _ _ _ _ _ _ _ h
    clear_value s1
    exact keeps_ite h1 (keeps_ite (ih _ h1) (keeps_domainReset _ _ _ _ h1))

theorem keeps_updateOn {r : State} (s : State) (h_s : Keeps r s) :
    Keeps r (updateOn s) := by
  unfold updateOn
  repeat' (first
      | with_reducible assumption | (with_reducible intro _)
      | (with_reducible (first
          | apply keeps_updateNext | apply keeps_ite | apply keeps_foldl))
      | split | (with_reducible apply keeps_free) | dsimp only)

theorem keeps_updateBad {r : State} (slot : Nat) (version : Nat) (s : State) (h_s : Keeps r s) :
    Keeps r (updateBad slot version s) := by
  unfold updateBad
  repeat' (first
      | with_reducible assumption | (with_reducible intro _)
      | (with_reducible (first
          | apply keeps_answerSlot | apply keeps_setUpd | apply keeps_logFault | apply keeps_ite | apply keeps_foldl))
      | split | (with_reducible apply keeps_free) | dsimp only)

theorem keeps_stageUpdate {r : State} (set : List Byte) (s : State) (h_s : Keeps r s) :
    Keeps r (stageUpdate set s) := by
  unfold stageUpdate
  repeat' (first
      | with_reducible assumption | (with_reducible intro _)
      | (with_reducible (first
          | apply keeps_setUpd | apply keeps_ite | apply keeps_foldl))
      | split | (with_reducible apply keeps_free) | dsimp only)

theorem keeps_writeSet {r : State} (set : List Byte) (s : State) (h_s : Keeps r s) :
    Keeps r (writeSet set s) := by
  unfold writeSet
  exact keeps_setUpd _ _ _ _ (keeps_mram _ _ _ _ _ _ _ (Nat.le_refl _) h_s)

theorem keeps_commitSet {r : State} (s : State) (h_s : Keeps r s) :
    Keeps r (commitSet s) := by
  unfold commitSet
  refine keeps_showSet _ ?_
  have h0 : Keeps r { s with mram := { s.mram with minSvn := max s.mram.minSvn (setSvn s.mram.set) } } :=
    keeps_mram _ _ _ _ _ _ _ (Nat.le_max_left _ _) h_s
  exact keeps_free _ _ _ _ _ _ _ _ _ _ _ _ _ _ _ _ _ _ _ _ _ _ _ _ _ h0

theorem keeps_commitUpdate {r : State} (slot mode : Nat) (b : List Byte) (s : State) (h : Keeps r s) :
    Keeps r (commitUpdate slot mode b s) := by
  unfold commitUpdate
  extract_lets set version s1 s2 ds
  have h1 : Keeps r s1 := keeps_writeSet _ _ (keeps_stageUpdate _ _ h)
  clear_value s1
  have h2 : Keeps r s2 := keeps_commitSet _ h1
  clear_value s2 ds
  refine keeps_ite (keeps_updateBad _ _ _ h1)
    (keeps_ite (keeps_answerSlot _ _ _ (keeps_setUpd _ _ _ _ h2)) (keeps_updateNext _ _ (keeps_setUpd _ _ _ _ ?_)))
  exact keeps_free _ _ _ _ _ _ _ _ _ _ _ _ _ _ _ _ _ _ _ _ _ _ _ _ _ h2

theorem keeps_fabJobWrite {r : State} (v : Nat) (s : State) (h_s : Keeps r s) :
    Keeps r (fabJobWrite v s) := by
  unfold fabJobWrite
  repeat' (first
      | with_reducible assumption | (with_reducible intro _)
      | (with_reducible (first
          | apply keeps_writeFabJob | apply keeps_ite | apply keeps_foldl))
      | split | (with_reducible apply keeps_free) | dsimp only)

theorem keeps_serveAttest {r : State} (slot : Nat) (m : Service) (s : State) (h_s : Keeps r s) :
    Keeps r (serveAttest slot m s) := by
  unfold serveAttest
  repeat' (first
      | with_reducible assumption | (with_reducible intro _)
      | (with_reducible (first
          | apply keeps_answerSlot | apply keeps_tick | apply keeps_writeMem | apply keeps_ite | apply keeps_foldl))
      | split | (with_reducible apply keeps_free) | dsimp only)

theorem keeps_serveCert {r : State} (slot : Nat) (m : Service) (s : State) (h_s : Keeps r s) :
    Keeps r (serveCert slot m s) := by
  unfold serveCert
  repeat' (first
      | with_reducible assumption | (with_reducible intro _)
      | (with_reducible (first
          | apply keeps_answerSlot | apply keeps_writeMem | apply keeps_ite | apply keeps_foldl))
      | split | (with_reducible apply keeps_free) | dsimp only)

theorem keeps_serveStoreWrite {r : State} (slot : Nat) (m : Service) (s : State) (h : Keeps r s) :
    Keeps r (serveStoreWrite slot m s) := by
  unfold serveStoreWrite
  exact keeps_answerSlot _ _ _ (keeps_ite (keeps_store _ (fun b => tblWf_setRun _ _ b) h) h)

theorem keeps_serveStoreRead {r : State} (slot : Nat) (m : Service) (s : State) (h_s : Keeps r s) :
    Keeps r (serveStoreRead slot m s) := by
  unfold serveStoreRead
  repeat' (first
      | with_reducible assumption | (with_reducible intro _)
      | (with_reducible (first
          | apply keeps_answerSlot | apply keeps_writeMem | apply keeps_ite | apply keeps_foldl))
      | split | (with_reducible apply keeps_free) | dsimp only)

theorem keeps_serveUpdateMsg {r : State} (slot : Nat) (m : Service) (s : State) (h_s : Keeps r s) :
    Keeps r (serveUpdateMsg slot m s) := by
  unfold serveUpdateMsg
  repeat' (first
      | with_reducible assumption | (with_reducible intro _)
      | (with_reducible (first
          | apply keeps_answerSlot | apply keeps_setUpd | apply keeps_updateBad | apply keeps_commitUpdate | apply keeps_ite
          | apply keeps_foldl))
      | split | (with_reducible apply keeps_free) | dsimp only)

theorem keeps_serveReset {r : State} (slot : Nat) (a1 : Service) (s : State) (h_s : Keeps r s) :
    Keeps r (serveReset slot a1 s) := by
  unfold serveReset
  repeat' (first
      | with_reducible assumption | (with_reducible intro _)
      | (with_reducible (first
          | apply keeps_answerSlot | apply keeps_ite | apply keeps_foldl))
      | split | (with_reducible apply keeps_free) | dsimp only)

theorem keeps_serviceMsg {r : State} (op slot : Nat) (serve : Nat → Service → State → State) (s : State)
    (h_serve : ∀ y0 y1 z, Keeps r z → Keeps r (serve y0 y1 z)) (h_s : Keeps r s) :
    Keeps r (serviceMsg op slot serve s) := by
  unfold serviceMsg
  repeat' (first
      | with_reducible assumption | (with_reducible intro _)
      | (with_reducible (first
          | apply h_serve | apply keeps_answerSlot | apply keeps_ite | apply keeps_foldl))
      | split | (with_reducible apply keeps_free) | dsimp only)

theorem keeps_mgmtAnswer {r : State} (dst : List Byte) (status : Nat) (data : List Byte) (s : State) (h_s : Keeps r s) :
    Keeps r (mgmtAnswer dst status data s) := by
  unfold mgmtAnswer
  repeat' (first
      | with_reducible assumption | (with_reducible intro _)
      | (with_reducible (first
          | apply keeps_sendMgmt | apply keeps_ite | apply keeps_foldl))
      | split | (with_reducible apply keeps_free) | dsimp only)

theorem keeps_mgmtService {r : State} (frame : List Byte) (s : State) (h_s : Keeps r s) :
    Keeps r (mgmtService frame s) := by
  unfold mgmtService
  repeat' (first
      | with_reducible assumption | (with_reducible intro _)
      | (with_reducible (first
          | apply keeps_mgmtAnswer | apply keeps_tick | apply keeps_ite | apply keeps_foldl))
      | split | (with_reducible apply keeps_free) | dsimp only)

theorem keeps_powerOff {r : State} (s : State) (h_s : Keeps r s) :
    Keeps r (powerOff s) := by
  unfold powerOff
  repeat' (first
      | with_reducible assumption | (with_reducible intro _)
      | (with_reducible (first
          | apply keeps_cold | apply keeps_ite | apply keeps_foldl))
      | split | (with_reducible apply keeps_free) | dsimp only)

theorem keeps_owe {r : State} (dom : Nat) (s : State) (h : Keeps r s) : Keeps r (owe dom s) :=
  keeps_mram _ _ _ _ _ _ _ (Nat.le_refl _) h

theorem keeps_execPwrGoodRise {r : State} (b : BootInputs) (s : State) (h_s : Keeps r s) :
    ∀ t, execPwrGoodRise b s = .next t → Keeps r t := by
  unfold execPwrGoodRise
  rintro _ ⟨⟩
  repeat' (first
      | with_reducible assumption | (with_reducible intro _)
      | (with_reducible (first
          | apply keeps_powerOn | apply keeps_ite | apply keeps_foldl))
      | split | (with_reducible apply keeps_free) | dsimp only)

theorem keeps_feedLost {r : State} (s : State) (h_s : Keeps r s) :
    Keeps r (feedLost s) := by
  unfold feedLost
  repeat' (first
      | with_reducible assumption | (with_reducible intro _)
      | (with_reducible (first
          | apply keeps_powerOff | apply keeps_ite | apply keeps_foldl))
      | split | (with_reducible apply keeps_free) | dsimp only)

theorem keeps_execPwrGoodFall {r : State} (s : State) (h_s : Keeps r s) :
    ∀ t, execPwrGoodFall s = .next t → Keeps r t := by
  unfold execPwrGoodFall
  rintro _ ⟨⟩
  repeat' (first
      | with_reducible assumption | (with_reducible intro _)
      | (with_reducible (first
          | apply keeps_feedLost | apply keeps_ite | apply keeps_foldl))
      | split | (with_reducible apply keeps_free) | dsimp only)

theorem keeps_resetPin {r : State} (high : Bool) (b : BootInputs) (s : State) (h_s : Keeps r s) :
    Keeps r (resetPin high b s) := by
  unfold resetPin
  repeat' (first
      | with_reducible assumption | (with_reducible intro _)
      | (with_reducible (first
          | apply keeps_powerOn | apply keeps_cold | apply keeps_ite | apply keeps_foldl))
      | split | (with_reducible apply keeps_free) | dsimp only)

theorem keeps_execResetN {r : State} (high : Bool) (b : BootInputs) (s : State) (h_s : Keeps r s) :
    ∀ t, execResetN high b s = .next t → Keeps r t := by
  unfold execResetN
  rintro _ ⟨⟩
  repeat' (first
      | with_reducible assumption | (with_reducible intro _)
      | (with_reducible (first
          | apply keeps_resetPin | apply keeps_ite | apply keeps_foldl))
      | split | (with_reducible apply keeps_free) | dsimp only)

theorem keeps_execModuleResetTimer {r : State} (b : BootInputs) (s : State) (h_s : Keeps r s) :
    ∀ t, execModuleResetTimer b s = .next t → Keeps r t := by
  unfold execModuleResetTimer
  rintro _ ⟨⟩
  repeat' (first
      | with_reducible assumption | (with_reducible intro _)
      | (with_reducible (first
          | apply keeps_powerOn | apply keeps_ite | apply keeps_foldl))
      | split | (with_reducible apply keeps_free) | dsimp only)

theorem keeps_execVinShutdown {r : State} (cause : Nat) (s : State)
    (h : Keeps r s) : ∀ t, execVinShutdown cause s = .next t → Keeps r t := by
  unfold execVinShutdown
  rintro _ ⟨⟩
  exact keeps_ite (keeps_feedLost _ (keeps_owe _ _ (keeps_mram _ _ _ _ _ _ _ (Nat.le_refl _) h))) h

theorem keeps_execRecoveryData {r : State} (b : BootInputs) (frame : List Byte) (s : State) (h_s : Keeps r s) :
    ∀ t, execRecoveryData b frame s = .next t → Keeps r t := by
  unfold execRecoveryData
  rintro _ ⟨⟩
  repeat' (first
      | with_reducible assumption | (with_reducible intro _)
      | (with_reducible (first
          | apply keeps_recoveryData | apply keeps_ite | apply keeps_foldl))
      | split | (with_reducible apply keeps_free) | dsimp only)

theorem keeps_execRecoveryReqTimeout {r : State} (s : State) (h_s : Keeps r s) :
    ∀ t, execRecoveryReqTimeout s = .next t → Keeps r t := by
  unfold execRecoveryReqTimeout
  rintro _ ⟨⟩
  repeat' (first
      | with_reducible assumption | (with_reducible intro _)
      | (with_reducible (first
          | apply keeps_sendRecoveryReq | apply keeps_ite | apply keeps_foldl))
      | split | (with_reducible apply keeps_free) | dsimp only)

theorem keeps_execRecoveryRetry {r : State} (s : State) (h_s : Keeps r s) :
    ∀ t, execRecoveryRetry s = .next t → Keeps r t := by
  unfold execRecoveryRetry
  rintro _ ⟨⟩
  repeat' (first
      | with_reducible assumption | (with_reducible intro _)
      | (with_reducible (first
          | apply keeps_beginRecovery | apply keeps_ite | apply keeps_foldl))
      | split | (with_reducible apply keeps_free) | dsimp only)

theorem keeps_execAttest {r : State} (slot : Nat) (s : State) (h_s : Keeps r s) :
    ∀ t, execAttest slot s = .next t → Keeps r t := by
  unfold execAttest
  rintro _ ⟨⟩
  repeat' (first
      | with_reducible assumption | (with_reducible intro _)
      | (with_reducible (first
          | apply keeps_serviceMsg | apply keeps_serveAttest | apply keeps_ite | apply keeps_foldl))
      | split | (with_reducible apply keeps_free) | dsimp only)

theorem keeps_execCertRead {r : State} (slot : Nat) (s : State) (h_s : Keeps r s) :
    ∀ t, execCertRead slot s = .next t → Keeps r t := by
  unfold execCertRead
  rintro _ ⟨⟩
  repeat' (first
      | with_reducible assumption | (with_reducible intro _)
      | (with_reducible (first
          | apply keeps_serviceMsg | apply keeps_serveCert | apply keeps_ite | apply keeps_foldl))
      | split | (with_reducible apply keeps_free) | dsimp only)

theorem keeps_execUpdate {r : State} (slot : Nat) (s : State) (h_s : Keeps r s) :
    ∀ t, execUpdate slot s = .next t → Keeps r t := by
  unfold execUpdate
  rintro _ ⟨⟩
  repeat' (first
      | with_reducible assumption | (with_reducible intro _)
      | (with_reducible (first
          | apply keeps_serviceMsg | apply keeps_serveUpdateMsg | apply keeps_ite | apply keeps_foldl))
      | split | (with_reducible apply keeps_free) | dsimp only)

theorem keeps_execStoreWrite {r : State} (slot : Nat) (s : State) (h_s : Keeps r s) :
    ∀ t, execStoreWrite slot s = .next t → Keeps r t := by
  unfold execStoreWrite
  rintro _ ⟨⟩
  repeat' (first
      | with_reducible assumption | (with_reducible intro _)
      | (with_reducible (first
          | apply keeps_serviceMsg | apply keeps_serveStoreWrite | apply keeps_ite | apply keeps_foldl))
      | split | (with_reducible apply keeps_free) | dsimp only)

theorem keeps_execStoreRead {r : State} (slot : Nat) (s : State) (h_s : Keeps r s) :
    ∀ t, execStoreRead slot s = .next t → Keeps r t := by
  unfold execStoreRead
  rintro _ ⟨⟩
  repeat' (first
      | with_reducible assumption | (with_reducible intro _)
      | (with_reducible (first
          | apply keeps_serviceMsg | apply keeps_serveStoreRead | apply keeps_ite | apply keeps_foldl))
      | split | (with_reducible apply keeps_free) | dsimp only)

theorem keeps_execModuleReset {r : State} (slot : Nat) (s : State) (h_s : Keeps r s) :
    ∀ t, execModuleReset slot s = .next t → Keeps r t := by
  unfold execModuleReset
  rintro _ ⟨⟩
  repeat' (first
      | with_reducible assumption | (with_reducible intro _)
      | (with_reducible (first
          | apply keeps_serviceMsg | apply keeps_serveReset | apply keeps_ite | apply keeps_foldl))
      | split | (with_reducible apply keeps_free) | dsimp only)

theorem keeps_execMgmtServiceFrame {r : State} (frame : List Byte) (s : State) (h_s : Keeps r s) :
    ∀ t, execMgmtServiceFrame frame s = .next t → Keeps r t := by
  unfold execMgmtServiceFrame
  rintro _ ⟨⟩
  repeat' (first
      | with_reducible assumption | (with_reducible intro _)
      | (with_reducible (first
          | apply keeps_mgmtService | apply keeps_ite | apply keeps_foldl))
      | split | (with_reducible apply keeps_free) | dsimp only)

theorem keeps_execI3cPrivateRead {r : State} (inlet : BitVec 8) (outlet : BitVec 8) (s : State) (h_s : Keeps r s) :
    ∀ t, execI3cPrivateRead inlet outlet s = .next t → Keeps r t := by
  unfold execI3cPrivateRead
  rintro _ ⟨⟩
  repeat' (first
      | with_reducible assumption | (with_reducible intro _)
      | (with_reducible (first
          | apply keeps_emit | apply keeps_ite | apply keeps_foldl))
      | split | (with_reducible apply keeps_free) | dsimp only)

theorem keeps_execI3cDynamicAddress {r : State} (a : BitVec 7) (s : State) (h_s : Keeps r s) :
    ∀ t, execI3cDynamicAddress a s = .next t → Keeps r t := by
  unfold execI3cDynamicAddress
  rintro _ ⟨⟩
  repeat' (first
      | with_reducible assumption | (with_reducible intro _)
      | (with_reducible (first
          | apply keeps_ite | apply keeps_foldl))
      | split | (with_reducible apply keeps_free) | dsimp only)

theorem keeps_tap {r : State} (ir : Nat) (out : Nat) (s : State) (h_s : Keeps r s) :
    Keeps r (tap ir out s) := by
  unfold tap
  repeat' (first
      | with_reducible assumption | (with_reducible intro _)
      | (with_reducible (first
          | apply keeps_emit | apply keeps_ite | apply keeps_foldl))
      | split | (with_reducible apply keeps_free) | dsimp only)

theorem keeps_execJtagBypass {r : State} (s : State) (h_s : Keeps r s) :
    ∀ t, execJtagBypass s = .next t → Keeps r t := by
  unfold execJtagBypass
  rintro _ ⟨⟩
  repeat' (first
      | with_reducible assumption | (with_reducible intro _)
      | (with_reducible (first
          | apply keeps_tap | apply keeps_ite | apply keeps_foldl))
      | split | (with_reducible apply keeps_free) | dsimp only)

theorem keeps_execJtagIdcode {r : State} (s : State) (h_s : Keeps r s) :
    ∀ t, execJtagIdcode s = .next t → Keeps r t := by
  unfold execJtagIdcode
  rintro _ ⟨⟩
  repeat' (first
      | with_reducible assumption | (with_reducible intro _)
      | (with_reducible (first
          | apply keeps_tap | apply keeps_ite | apply keeps_foldl))
      | split | (with_reducible apply keeps_free) | dsimp only)

theorem keeps_execJtagSamplePreload {r : State} (pins : BitVec 22) (preload : BitVec 22) (s : State) (h_s : Keeps r s) :
    ∀ t, execJtagSamplePreload pins preload s = .next t → Keeps r t := by
  unfold execJtagSamplePreload
  rintro _ ⟨⟩
  repeat' (first
      | with_reducible assumption | (with_reducible intro _)
      | (with_reducible (first
          | apply keeps_tap | apply keeps_ite | apply keeps_foldl))
      | split | (with_reducible apply keeps_free) | dsimp only)

theorem keeps_execJtagExtest {r : State} (pins : BitVec 22) (s : State) (h_s : Keeps r s) :
    ∀ t, execJtagExtest pins s = .next t → Keeps r t := by
  unfold execJtagExtest
  rintro _ ⟨⟩
  repeat' (first
      | with_reducible assumption | (with_reducible intro _)
      | (with_reducible (first
          | apply keeps_tap | apply keeps_ite | apply keeps_foldl))
      | split | (with_reducible apply keeps_free) | dsimp only)

theorem keeps_writeImage {r : State} (w : Walk) (s : State) (h_s : Keeps r s) :
    Keeps r (writeImage w s) := by
  unfold writeImage
  repeat' (first
      | with_reducible assumption | (with_reducible intro _)
      | (with_reducible (first
          | apply keeps_writeServed | apply keeps_tick | apply keeps_ite | apply keeps_foldl))
      | split | (with_reducible apply keeps_free) | dsimp only)

theorem keeps_endWalk {r : State} (dom : Nat) (status : Nat) (s : State) (h_s : Keeps r s) :
    Keeps r (endWalk dom status s) := by
  unfold endWalk
  repeat' (first
      | with_reducible assumption | (with_reducible intro _)
      | (with_reducible (first
          | apply keeps_setRf | apply keeps_ite | apply keeps_foldl))
      | split | (with_reducible apply keeps_free) | dsimp only)

theorem keeps_pauseUnits {r : State} (dom : Nat) (b : Bool) (s : State) (h_s : Keeps r s) :
    Keeps r (pauseUnits dom b s) := by
  unfold pauseUnits
  repeat' (first
      | with_reducible assumption | (with_reducible intro _)
      | (with_reducible (first
          | apply keeps_ite | apply unitOk_ite | apply unitOk_foldl | apply keeps_foldl | apply keeps_foldl_fst | apply keeps_foldl_snd
          | apply ctlKeeps_done | apply ctlKeeps_wait | apply ctlKeeps_refuse | apply ctlKeeps_ite | apply arrKeeps_gone
          | apply arrKeeps_later | apply arrKeeps_here | apply arrKeeps_ite | apply keeps_foldl_CollEnd | apply keeps_ite_CollEnd
          | apply keeps_foldl_Commit | apply keeps_ite_Commit | apply keeps_foldl_DrainSum | apply keeps_ite_DrainSum
          | apply keeps_foldl_Effect | apply keeps_ite_Effect | apply keeps_foldl_LayerDecision | apply keeps_ite_LayerDecision
          | apply keeps_foldl_MmaSum | apply keeps_ite_MmaSum | apply keeps_foldl_QSum | apply keeps_ite_QSum | apply keeps_foldl_QTile
          | apply keeps_ite_QTile | apply keeps_foldl_UpdSum | apply keeps_ite_UpdSum | apply keeps_foldl_VecSum | apply keeps_ite_VecSum
          | apply keeps_units_map | apply unitOk_getUnit | apply unitOk_idle | apply unitOk_advance | apply queueOk_getQueue
          | apply unitOk_setG | apply unitOk_setT | apply unitOk_setK | apply unitOk_setC | apply unitOk_setSt | apply unitOk_setP))
      | split | (with_reducible (first
          | apply keeps_free | apply unitOk_fewer | apply unitOk_mapped
          | apply unitOk_emptied | apply unitOk_free | apply queueOk_map | apply queueOk_free)) | dsimp only)

theorem keeps_startWalk {r : State} (dom : Nat) (v : Nat) (s : State) (h_s : Keeps r s) :
    Keeps r (startWalk dom v s) := by
  unfold startWalk
  repeat' (first
      | with_reducible assumption | (with_reducible intro _)
      | (with_reducible (first
          | apply keeps_setRf | apply keeps_endWalk | apply keeps_pauseUnits | apply keeps_writeImage | apply keeps_ite | apply keeps_foldl))
      | split | (with_reducible apply keeps_free) | dsimp only)

theorem keeps_walkDone {r : State} (dom : Nat) (s : State) (h_s : Keeps r s) :
    Keeps r (walkDone dom s) := by
  unfold walkDone
  repeat' (first
      | with_reducible assumption | (with_reducible intro _)
      | (with_reducible (first
          | apply keeps_pauseUnits | apply keeps_writeImage | apply keeps_serveWaits | apply keeps_endWalk | apply keeps_writeServed
          | apply keeps_ite | apply keeps_foldl))
      | split | (with_reducible apply keeps_free) | dsimp only)

theorem keeps_enterLp {r : State} (dom : Nat) (s : State) (h_s : Keeps r s) :
    Keeps r (enterLp dom s) := by
  unfold enterLp
  repeat' (first
      | with_reducible assumption | (with_reducible intro _)
      | (with_reducible (first
          | apply keeps_setLp | apply keeps_ite | apply keeps_foldl))
      | split | (with_reducible apply keeps_free) | dsimp only)

theorem keeps_execLpEnter {r : State} (dom : Nat) (s : State) (h_s : Keeps r s) :
    ∀ t, execLpEnter dom s = .next t → Keeps r t := by
  unfold execLpEnter
  rintro _ ⟨⟩
  repeat' (first
      | with_reducible assumption | (with_reducible intro _)
      | (with_reducible (first
          | apply keeps_enterLp | apply keeps_ite | apply keeps_foldl))
      | split | (with_reducible apply keeps_free) | dsimp only)

theorem keeps_execLpEntryComplete {r : State} (dom : Nat) (s : State) (h_s : Keeps r s) :
    ∀ t, execLpEntryComplete dom s = .next t → Keeps r t := by
  unfold execLpEntryComplete
  rintro _ ⟨⟩
  repeat' (first
      | with_reducible assumption | (with_reducible intro _)
      | (with_reducible (first
          | apply keeps_setLp | apply keeps_ite | apply keeps_foldl))
      | split | (with_reducible apply keeps_free) | dsimp only)

theorem keeps_execLpWakeStart {r : State} (dom : Nat) (s : State) (h_s : Keeps r s) :
    ∀ t, execLpWakeStart dom s = .next t → Keeps r t := by
  unfold execLpWakeStart
  rintro _ ⟨⟩
  repeat' (first
      | with_reducible assumption | (with_reducible intro _)
      | (with_reducible (first
          | apply keeps_startWake | apply keeps_ite | apply keeps_foldl))
      | split | (with_reducible apply keeps_free) | dsimp only)

theorem keeps_execLpWakeEvent {r : State} (dom : Nat) (s : State) (h_s : Keeps r s) :
    ∀ t, execLpWakeEvent dom s = .next t → Keeps r t := by
  unfold execLpWakeEvent
  rintro _ ⟨⟩
  repeat' (first
      | with_reducible assumption | (with_reducible intro _)
      | (with_reducible (first
          | apply keeps_lateEvent | apply keeps_ite | apply keeps_foldl))
      | split | (with_reducible apply keeps_free) | dsimp only)

theorem keeps_execLpWakeComplete {r : State} (dom : Nat) (s : State) (h_s : Keeps r s) :
    ∀ t, execLpWakeComplete dom s = .next t → Keeps r t := by
  unfold execLpWakeComplete
  rintro _ ⟨⟩
  repeat' (first
      | with_reducible assumption | (with_reducible intro _)
      | (with_reducible (first
          | apply keeps_serveWaits | apply keeps_setLp | apply keeps_ite | apply keeps_foldl))
      | split | (with_reducible apply keeps_free) | dsimp only)

theorem keeps_writeTxTail {r : State} (p : PortRef) (v : Nat) (s : State) (h_s : Keeps r s) :
    Keeps r (writeTxTail p v s) := by
  unfold writeTxTail
  repeat' (first
      | with_reducible assumption | (with_reducible intro _)
      | (with_reducible (first
          | apply keeps_serveTx | apply keeps_setPortF | apply keeps_ite | apply keeps_foldl))
      | split | (with_reducible apply keeps_free) | dsimp only)

theorem keeps_writeRxTail {r : State} (p : PortRef) (v : Nat) (s : State) (h_s : Keeps r s) :
    Keeps r (writeRxTail p v s) := by
  unfold writeRxTail
  repeat' (first
      | with_reducible assumption | (with_reducible intro _)
      | (with_reducible (first
          | apply keeps_setPortF | apply keeps_ite | apply keeps_foldl))
      | split | (with_reducible apply keeps_free) | dsimp only)

theorem keeps_execFrameReceive {r : State} (p : PortRef) (frame : List Byte) (s : State) (h_s : Keeps r s) :
    ∀ t, execFrameReceive p frame s = .next t → Keeps r t := by
  unfold execFrameReceive
  rintro _ ⟨⟩
  repeat' (first
      | with_reducible assumption | (with_reducible intro _)
      | (with_reducible (first
          | apply keeps_receiveFrame | apply keeps_ite | apply keeps_foldl))
      | split | (with_reducible apply keeps_free) | dsimp only)

theorem keeps_inState {r : State} (p : PortRef) (states : List Nat) (f : State → State) (s : State) (h_f : ∀  z, Keeps r z → Keeps r (f  z))
    (h_s : Keeps r s) :
    Keeps r (inState p states f s) := by
  unfold inState
  repeat' (first
      | with_reducible assumption | (with_reducible intro _)
      | (with_reducible (first
          | apply h_f | apply keeps_ite | apply keeps_foldl))
      | split | (with_reducible apply keeps_free) | dsimp only)

theorem keeps_execPortSignalDetect {r : State} (p : PortRef) (lanes : BitVec 8) (s : State) (h_s : Keeps r s) :
    ∀ t, execPortSignalDetect p lanes s = .next t → Keeps r t := by
  unfold execPortSignalDetect
  rintro _ ⟨⟩
  repeat' (first
      | with_reducible assumption | (with_reducible intro _)
      | (with_reducible (first
          | apply keeps_inState | apply keeps_setPortState | apply keeps_ite | apply keeps_foldl))
      | split | (with_reducible apply keeps_free) | dsimp only)

theorem keeps_execPortDetectTimeout {r : State} (p : PortRef) (s : State) (h_s : Keeps r s) :
    ∀ t, execPortDetectTimeout p s = .next t → Keeps r t := by
  unfold execPortDetectTimeout
  rintro _ ⟨⟩
  repeat' (first
      | with_reducible assumption | (with_reducible intro _)
      | (with_reducible (first
          | apply keeps_inState | apply keeps_setPortState | apply keeps_ite | apply keeps_foldl))
      | split | (with_reducible apply keeps_free) | dsimp only)

theorem keeps_execPortDetectAttempt {r : State} (p : PortRef) (s : State) (h_s : Keeps r s) :
    ∀ t, execPortDetectAttempt p s = .next t → Keeps r t := by
  unfold execPortDetectAttempt
  rintro _ ⟨⟩
  repeat' (first
      | with_reducible assumption | (with_reducible intro _)
      | (with_reducible (first
          | apply keeps_inState | apply keeps_setPortState | apply keeps_ite | apply keeps_foldl))
      | split | (with_reducible apply keeps_free) | dsimp only)

theorem keeps_execPortEqualiseDone {r : State} (p : PortRef) (ok : Bool) (s : State) (h_s : Keeps r s) :
    ∀ t, execPortEqualiseDone p ok s = .next t → Keeps r t := by
  unfold execPortEqualiseDone
  rintro _ ⟨⟩
  repeat' (first
      | with_reducible assumption | (with_reducible intro _)
      | (with_reducible (first
          | apply keeps_inState | apply keeps_setPortState | apply keeps_enterRetrain | apply keeps_ite | apply keeps_foldl))
      | split | (with_reducible apply keeps_free) | dsimp only)

theorem keeps_lockDone {r : State} (p : PortRef) (m : Nat) (s : State) (h_s : Keeps r s) :
    Keeps r (lockDone p m s) := by
  unfold lockDone
  repeat' (first
      | with_reducible assumption | (with_reducible intro _)
      | (with_reducible (first
          | apply keeps_setPortF | apply keeps_setPortState | apply keeps_sendTimestamp | apply keeps_setPort | apply keeps_enterRetrain
          | apply keeps_ite | apply keeps_foldl))
      | split | (with_reducible apply keeps_free) | dsimp only)

theorem keeps_execPortLockDone {r : State} (p : PortRef) (lanes : BitVec 8) (s : State) (h_s : Keeps r s) :
    ∀ t, execPortLockDone p lanes s = .next t → Keeps r t := by
  unfold execPortLockDone
  rintro _ ⟨⟩
  repeat' (first
      | with_reducible assumption | (with_reducible intro _)
      | (with_reducible (first
          | apply keeps_inState | apply keeps_lockDone | apply keeps_ite | apply keeps_foldl))
      | split | (with_reducible apply keeps_free) | dsimp only)

theorem keeps_execPortMeasureDone {r : State} (p : PortRef) (s : State) (h_s : Keeps r s) :
    ∀ t, execPortMeasureDone p s = .next t → Keeps r t := by
  unfold execPortMeasureDone
  rintro _ ⟨⟩
  repeat' (first
      | with_reducible assumption | (with_reducible intro _)
      | (with_reducible (first
          | apply keeps_inState | apply keeps_sendDescriptor | apply keeps_setPortState | apply keeps_setPortF | apply keeps_ite
          | apply keeps_foldl))
      | split | (with_reducible apply keeps_free) | dsimp only)

theorem keeps_execAddrConflictRetry {r : State} (p : PortRef) (s : State) (h_s : Keeps r s) :
    ∀ t, execAddrConflictRetry p s = .next t → Keeps r t := by
  unfold execAddrConflictRetry
  rintro _ ⟨⟩
  repeat' (first
      | with_reducible assumption | (with_reducible intro _)
      | (with_reducible (first
          | apply keeps_inState | apply keeps_sendDescriptor | apply keeps_ite | apply keeps_foldl))
      | split | (with_reducible apply keeps_free) | dsimp only)

theorem keeps_laneFault {r : State} (p : PortRef) (lane : Nat) (s : State) (h_s : Keeps r s) :
    Keeps r (laneFault p lane s) := by
  unfold laneFault
  repeat' (first
      | with_reducible assumption | (with_reducible intro _)
      | (with_reducible (first
          | apply keeps_enterRetrain | apply keeps_setPortF | apply keeps_bumpPort | apply keeps_ite | apply keeps_foldl))
      | split | (with_reducible apply keeps_free) | dsimp only)

theorem keeps_execLaneFault {r : State} (p : PortRef) (lane : Nat) (s : State) (h_s : Keeps r s) :
    ∀ t, execLaneFault p lane s = .next t → Keeps r t := by
  unfold execLaneFault
  rintro _ ⟨⟩
  repeat' (first
      | with_reducible assumption | (with_reducible intro _)
      | (with_reducible (first
          | apply keeps_inState | apply keeps_laneFault | apply keeps_ite | apply keeps_foldl))
      | split | (with_reducible apply keeps_free) | dsimp only)

theorem keeps_execPortRxTimeout {r : State} (p : PortRef) (s : State) (h_s : Keeps r s) :
    ∀ t, execPortRxTimeout p s = .next t → Keeps r t := by
  unfold execPortRxTimeout
  rintro _ ⟨⟩
  repeat' (first
      | with_reducible assumption | (with_reducible intro _)
      | (with_reducible (first
          | apply keeps_inState | apply keeps_enterRetrain | apply keeps_ite | apply keeps_foldl))
      | split | (with_reducible apply keeps_free) | dsimp only)

theorem keeps_storePlain {r : State} (dom : Nat) (off : Nat) (m : Nat) (v : Nat) (r1 : RegDef) (s : State) (h_s : Keeps r s) :
    Keeps r (storePlain dom off m v r1 s) := by
  unfold storePlain
  repeat' (first
      | with_reducible assumption | (with_reducible intro _)
      | (with_reducible (first
          | apply keeps_setReg | apply keeps_ite | apply keeps_foldl))
      | split | (with_reducible apply keeps_free) | dsimp only)

theorem keeps_keyWritten {r : State} (s : State) (h_s : Keeps r s) :
    Keeps r (keyWritten s) := by
  unfold keyWritten
  repeat' (first
      | with_reducible assumption | (with_reducible intro _)
      | (with_reducible (first
          | apply keeps_setReg | apply keeps_ite | apply keeps_foldl))
      | split | (with_reducible apply keeps_free) | dsimp only)

theorem keeps_requestSkip {r : State} (v : Nat) (s : State) (h_s : Keeps r s) :
    Keeps r (requestSkip v s) := by
  unfold requestSkip
  repeat' (first
      | with_reducible assumption | (with_reducible intro _)
      | (with_reducible (first
          | apply keeps_setRf | apply keeps_ite | apply keeps_foldl))
      | split | (with_reducible apply keeps_free) | dsimp only)

theorem keeps_porchWrite {r : State} (off : Nat) (v : Nat) (acts : Bool) (s0 : State) (s : State) (h_s0 : Keeps r s0) (h_s : Keeps r s) :
    Keeps r (porchWrite off v acts s0 s) := by
  unfold porchWrite
  repeat' (first
      | with_reducible assumption | (with_reducible intro _)
      | (with_reducible (first
          | apply keeps_keyWritten | apply keeps_fabJobWrite | apply keeps_writeAnnexCtrl | apply keeps_stairSet | apply keeps_closeStep
          | apply keeps_requestReset | apply keeps_copyRecord | apply keeps_writeRstCtrl | apply keeps_withdrawAll | apply keeps_startWalk
          | apply keeps_ite | apply keeps_foldl))
      | split | (with_reducible apply keeps_free) | dsimp only)

theorem keeps_queueWrite {r : State} (q off v : Nat) (acts : Bool) (s0 s : State) (h_s0 : Keeps r s0) (h_s : Keeps r s) :
    Keeps r (queueWrite q off v acts s0 s) := by
  unfold queueWrite
  repeat' (first
      | with_reducible assumption | (with_reducible intro _)
      | (with_reducible (first
          | apply keeps_writeQCtrl | apply keeps_writeQTail | apply keeps_ite | apply keeps_foldl))
      | split | (with_reducible apply keeps_free) | dsimp only)

theorem keeps_portWrite {r : State} (p : PortRef) (off v : Nat) (acts : Bool) (s0 s : State) (h_s0 : Keeps r s0) (h_s : Keeps r s) :
    Keeps r (portWrite p off v acts s0 s) := by
  unfold portWrite
  repeat' (first
      | with_reducible assumption | (with_reducible intro _)
      | (with_reducible (first
          | apply keeps_serveTx | apply keeps_writePortCtrl | apply keeps_writeTxTail | apply keeps_writeRxTail | apply keeps_ite
          | apply keeps_foldl))
      | split | (with_reducible apply keeps_free) | dsimp only)

theorem keeps_dieWrite {r : State} (dom off v : Nat) (acts : Bool) (s0 s : State) (h_s0 : Keeps r s0) (h_s : Keeps r s) :
    Keeps r (dieWrite dom off v acts s0 s) := by
  unfold dieWrite
  repeat' (first
      | with_reducible assumption | (with_reducible intro _)
      | (with_reducible (first
          | apply keeps_startWalk | apply keeps_queueWrite | apply keeps_retarget | apply keeps_requestSkip | apply keeps_shareWritten
          | apply keeps_portWrite | apply keeps_ite | apply keeps_foldl))
      | split | (with_reducible apply keeps_free) | dsimp only)

theorem keeps_keepTriggers {r : State} (r1 : RegDef) (dom : Nat) (o : Nat) (m : Nat) (old : Nat) (s : State) (h_s : Keeps r s) :
    Keeps r (keepTriggers r1 dom o m old s) := by
  unfold keepTriggers
  repeat' (first
      | with_reducible assumption | (with_reducible intro _)
      | (with_reducible (first
          | apply keeps_setReg | apply keeps_ite | apply keeps_foldl))
      | split | (with_reducible apply keeps_free) | dsimp only)

theorem keeps_writeReg {r : State} (dom : Nat) (off : Nat) (size : Nat) (v : Nat) (s : State) (h_s : Keeps r s) :
    Keeps r (writeReg dom off size v s) := by
  unfold writeReg
  repeat' (first
      | with_reducible assumption | (with_reducible intro _)
      | (with_reducible (first
          | apply keeps_storePlain | apply keeps_keepTriggers | apply keeps_porchWrite | apply keeps_dieWrite | apply keeps_ite
          | apply keeps_foldl))
      | split | (with_reducible apply keeps_free) | dsimp only)

theorem keeps_wakeAccess {r : State} (dom : Nat) (off : Nat) (read : Bool) (s : State) (h_s : Keeps r s) :
    Keeps r (wakeAccess dom off read s) := by
  unfold wakeAccess
  repeat' (first
      | with_reducible assumption | (with_reducible intro _)
      | (with_reducible (first
          | apply keeps_lateEvent | apply keeps_ite | apply keeps_foldl))
      | split | (with_reducible apply keeps_free) | dsimp only)

theorem keeps_fileWrite {r : State} (off : Nat) (size : Nat) (v : Nat) (s : State) (h_s : Keeps r s) :
    Keeps r (fileWrite off size v s) := by
  unfold fileWrite
  repeat' (first
      | with_reducible assumption | (with_reducible intro _)
      | (with_reducible (first
          | apply keeps_pend | apply keeps_ite | apply keeps_foldl))
      | split | (with_reducible apply keeps_free) | dsimp only)

theorem keeps_writeControl {r : State} (dom : Nat) (off : Nat) (size : Nat) (v : Nat) (s : State) (h_s : Keeps r s) :
    Keeps r (writeControl dom off size v s) := by
  unfold writeControl
  repeat' (first
      | with_reducible assumption | (with_reducible intro _)
      | (with_reducible (first
          | apply keeps_fileWrite | apply keeps_writeReg | apply keeps_wakeAccess | apply keeps_ite | apply keeps_foldl))
      | split | (with_reducible apply keeps_free) | dsimp only)

theorem keeps_latchPosition {r : State} (s : State) (h_s : Keeps r s) :
    Keeps r (latchPosition s) := by
  unfold latchPosition
  repeat' (first
      | with_reducible assumption | (with_reducible intro _)
      | (with_reducible (first
          | apply keeps_setReg | apply keeps_ite | apply keeps_foldl))
      | split | (with_reducible apply keeps_free) | dsimp only)

theorem keeps_readControl {r : State} (dom : Nat) (off : Nat) (s : State) (h_s : Keeps r s) :
    Keeps r (readControl dom off s).s := by
  unfold readControl
  repeat' (first
      | with_reducible assumption | (with_reducible intro _)
      | (with_reducible (first
          | apply keeps_wakeAccess | apply keeps_latchPosition | apply keeps_ite | apply keeps_foldl))
      | split | (with_reducible apply keeps_free) | dsimp only)

theorem keeps_claimBox {r : State} (box : Nat) (sender : Nat) (s : State) (h_s : Keeps r s) :
    Keeps r (claimBox box sender s) := by
  unfold claimBox
  repeat' (first
      | with_reducible assumption | (with_reducible intro _)
      | (with_reducible (first
          | apply keeps_setBox | apply keeps_claim | apply keeps_ite | apply keeps_foldl))
      | split | (with_reducible apply keeps_free) | dsimp only)

theorem keeps_writeBox {r : State} (box : Nat) (off : Nat) (v : Nat) (src : Nat) (s : State) (h_s : Keeps r s) :
    Keeps r (writeBox box off v src s) := by
  unfold writeBox
  repeat' (first
      | with_reducible assumption | (with_reducible intro _)
      | (with_reducible (first
          | apply keeps_setBox | apply keeps_claimBox | apply keeps_ring | apply keeps_acknowledge | apply keeps_releaseSlot
          | apply keeps_maskWrite | apply keeps_ite | apply keeps_foldl))
      | split | (with_reducible apply keeps_free) | dsimp only)

theorem keeps_storeSlot {r : State} (box off : Nat) (bs : List Byte) (s : State) (h_s : Keeps r s) : Keeps r (storeSlot box off bs s) :=
  keeps_foldl _ (fun t b ht => keeps_ite (keeps_boxMem _ (fun a => tblWf_set _ _ a) ht) ht) h_s

theorem keeps_wakeBox {r : State} (box : Nat) (s : State) (h_s : Keeps r s) :
    Keeps r (wakeBox box s) := by
  unfold wakeBox
  repeat' (first
      | with_reducible assumption | (with_reducible intro _)
      | (with_reducible (first
          | apply keeps_lateEvent | apply keeps_ite | apply keeps_foldl))
      | split | (with_reducible apply keeps_free) | dsimp only)

theorem keeps_storeBox {r : State} (box : Nat) (off : Nat) (size : Nat) (v : Nat) (src : Nat) (s : State) (h_s : Keeps r s) :
    Keeps r (storeBox box off size v src s) := by
  unfold storeBox
  repeat' (first
      | with_reducible assumption | (with_reducible intro _)
      | (with_reducible (first
          | apply keeps_wakeBox | apply keeps_storeSlot | apply keeps_writeBox | apply keeps_ite | apply keeps_foldl))
      | split | (with_reducible apply keeps_free) | dsimp only)

theorem keeps_hallFault {r : State} (hart : Nat) (addr : Nat) (store : Bool) (s : State) (h_s : Keeps r s) :
    Keeps r (hallFault hart addr store s) := by
  unfold hallFault
  repeat' (first
      | with_reducible assumption | (with_reducible intro _)
      | (with_reducible (first
          | apply keeps_logFault | apply keeps_setReg | apply keeps_sendMsi | apply keeps_bump | apply keeps_ite | apply keeps_foldl))
      | split | (with_reducible apply keeps_free) | dsimp only)

theorem keeps_agentStore {r : State} (g : Agent) (addr : Nat) (size : Nat) (v : Nat) (s : State) (h_s : Keeps r s) :
    Keeps r (agentStore g addr size v s) := by
  unfold agentStore
  repeat' (first
      | with_reducible assumption | (with_reducible intro _)
      | (with_reducible (first
          | apply keeps_writeNat | apply keeps_hallFault | apply keeps_writeControl | apply keeps_storeBox | apply keeps_ite
          | apply keeps_foldl))
      | split | (with_reducible apply keeps_free) | dsimp only)

theorem keeps_boxCommand {r : State} (g : Agent) (addr : Nat) (reg : Nat) (v : Nat) (s : State) (h_s : Keeps r s) :
    Keeps r (boxCommand g addr reg v s) := by
  unfold boxCommand
  repeat' (first
      | with_reducible assumption | (with_reducible intro _)
      | (with_reducible (first
          | apply keeps_writeBox | apply keeps_wakeBox | apply keeps_hallFault | apply keeps_ite | apply keeps_foldl))
      | split | (with_reducible apply keeps_free) | dsimp only)

end Sys2Proof.Machine
end

