-- ==== Sys2Proof/Laws/KeepsCmds.lean ====
section
/-! SUPPORT. Keeps through the remaining commands, each meaning by its name. -/
namespace Sys2Proof.Machine

theorem keeps_goOn {r : State} (s : State) (x : ProgUnit) (h_s : Keeps r s) (h_x : UnitOk r x) :
    CtlKeeps r (goOn s x) := by
  unfold goOn
  repeat' (first
      | with_reducible assumption | (with_reducible intro _)
      | (with_reducible (first
          | apply keeps_setUnit | apply unitOk_advance | apply keeps_ite | apply unitOk_ite | apply unitOk_foldl | apply keeps_foldl
          | apply keeps_foldl_fst | apply keeps_foldl_snd | apply ctlKeeps_done | apply ctlKeeps_wait | apply ctlKeeps_refuse
          | apply ctlKeeps_ite | apply arrKeeps_gone | apply arrKeeps_later | apply arrKeeps_here | apply arrKeeps_ite
          | apply keeps_foldl_CollEnd | apply keeps_ite_CollEnd | apply keeps_foldl_Commit | apply keeps_ite_Commit
          | apply keeps_foldl_DrainSum | apply keeps_ite_DrainSum | apply keeps_foldl_Effect | apply keeps_ite_Effect
          | apply keeps_foldl_LayerDecision | apply keeps_ite_LayerDecision | apply keeps_foldl_MmaSum | apply keeps_ite_MmaSum
          | apply keeps_foldl_QSum | apply keeps_ite_QSum | apply keeps_foldl_QTile | apply keeps_ite_QTile | apply keeps_foldl_UpdSum
          | apply keeps_ite_UpdSum | apply keeps_foldl_VecSum | apply keeps_ite_VecSum | apply keeps_units_map | apply unitOk_getUnit
          | apply unitOk_idle | apply unitOk_advance | apply queueOk_getQueue | apply unitOk_setG | apply unitOk_setT | apply unitOk_setK
          | apply unitOk_setC | apply unitOk_setSt | apply unitOk_setP))
      | split | (with_reducible (first
          | apply keeps_free | apply unitOk_fewer | apply unitOk_mapped
          | apply unitOk_emptied | apply unitOk_free | apply queueOk_map | apply queueOk_free)) | dsimp only)

theorem keeps_nopCtl {r : State} (s : State) (x : ProgUnit) (a2 : Fields) (h_s : Keeps r s) (h_x : UnitOk r x) :
    CtlKeeps r (nopCtl s x a2) := by
  unfold nopCtl
  repeat' (first
      | with_reducible assumption | (with_reducible intro _)
      | (with_reducible (first
          | apply keeps_goOn | apply keeps_ite | apply keeps_foldl))
      | split | (with_reducible apply keeps_free) | dsimp only)

theorem keeps_endCtl {r : State} (s : State) (x : ProgUnit) (a2 : Fields) (h_s : Keeps r s) (h_x : UnitOk r x) :
    CtlKeeps r (endCtl s x a2) := by
  unfold endCtl
  repeat' (first
      | with_reducible assumption | (with_reducible intro _)
      | (with_reducible (first
          | apply keeps_setUnit | apply keeps_ite | apply unitOk_ite | apply unitOk_foldl | apply keeps_foldl | apply keeps_foldl_fst
          | apply keeps_foldl_snd | apply ctlKeeps_done | apply ctlKeeps_wait | apply ctlKeeps_refuse | apply ctlKeeps_ite
          | apply arrKeeps_gone | apply arrKeeps_later | apply arrKeeps_here | apply arrKeeps_ite | apply keeps_foldl_CollEnd
          | apply keeps_ite_CollEnd | apply keeps_foldl_Commit | apply keeps_ite_Commit | apply keeps_foldl_DrainSum
          | apply keeps_ite_DrainSum | apply keeps_foldl_Effect | apply keeps_ite_Effect | apply keeps_foldl_LayerDecision
          | apply keeps_ite_LayerDecision | apply keeps_foldl_MmaSum | apply keeps_ite_MmaSum | apply keeps_foldl_QSum
          | apply keeps_ite_QSum | apply keeps_foldl_QTile | apply keeps_ite_QTile | apply keeps_foldl_UpdSum | apply keeps_ite_UpdSum
          | apply keeps_foldl_VecSum | apply keeps_ite_VecSum | apply keeps_units_map | apply unitOk_getUnit | apply unitOk_idle
          | apply unitOk_advance | apply queueOk_getQueue | apply unitOk_setG | apply unitOk_setT | apply unitOk_setK | apply unitOk_setC
          | apply unitOk_setSt | apply unitOk_setP))
      | split | (with_reducible (first
          | apply keeps_free | apply unitOk_fewer | apply unitOk_mapped
          | apply unitOk_emptied | apply unitOk_free | apply queueOk_map | apply queueOk_free)) | dsimp only)

theorem keeps_brCtl {r : State} (s : State) (x : ProgUnit) (f : Fields) (h_s : Keeps r s) (h_x : UnitOk r x) :
    CtlKeeps r (brCtl s x f) := by
  unfold brCtl
  repeat' (first
      | with_reducible assumption | (with_reducible intro _)
      | (with_reducible (first
          | apply keeps_setUnit | apply keeps_ite | apply unitOk_ite | apply unitOk_foldl | apply keeps_foldl | apply keeps_foldl_fst
          | apply keeps_foldl_snd | apply ctlKeeps_done | apply ctlKeeps_wait | apply ctlKeeps_refuse | apply ctlKeeps_ite
          | apply arrKeeps_gone | apply arrKeeps_later | apply arrKeeps_here | apply arrKeeps_ite | apply keeps_foldl_CollEnd
          | apply keeps_ite_CollEnd | apply keeps_foldl_Commit | apply keeps_ite_Commit | apply keeps_foldl_DrainSum
          | apply keeps_ite_DrainSum | apply keeps_foldl_Effect | apply keeps_ite_Effect | apply keeps_foldl_LayerDecision
          | apply keeps_ite_LayerDecision | apply keeps_foldl_MmaSum | apply keeps_ite_MmaSum | apply keeps_foldl_QSum
          | apply keeps_ite_QSum | apply keeps_foldl_QTile | apply keeps_ite_QTile | apply keeps_foldl_UpdSum | apply keeps_ite_UpdSum
          | apply keeps_foldl_VecSum | apply keeps_ite_VecSum | apply keeps_units_map | apply unitOk_getUnit | apply unitOk_idle
          | apply unitOk_advance | apply queueOk_getQueue | apply unitOk_setG | apply unitOk_setT | apply unitOk_setK | apply unitOk_setC
          | apply unitOk_setSt | apply unitOk_setP))
      | split | (with_reducible (first
          | apply keeps_free | apply unitOk_fewer | apply unitOk_mapped
          | apply unitOk_emptied | apply unitOk_free | apply queueOk_map | apply queueOk_free)) | dsimp only)

theorem keeps_liCtl {r : State} (s : State) (x : ProgUnit) (f : Fields) (h_s : Keeps r s) (h_x : UnitOk r x) :
    CtlKeeps r (liCtl s x f) := by
  unfold liCtl
  repeat' (first
      | with_reducible assumption | (with_reducible intro _)
      | (with_reducible (first
          | apply keeps_goOn | apply unitOk_setG | apply keeps_ite | apply keeps_foldl))
      | split | (with_reducible apply keeps_free) | dsimp only)

theorem keeps_gopCtl {r : State} (s : State) (x : ProgUnit) (f : Fields) (h_s : Keeps r s) (h_x : UnitOk r x) :
    CtlKeeps r (gopCtl s x f) := by
  unfold gopCtl
  repeat' (first
      | with_reducible assumption | (with_reducible intro _)
      | (with_reducible (first
          | apply keeps_goOn | apply unitOk_setG | apply keeps_ite | apply unitOk_ite | apply unitOk_foldl | apply keeps_foldl
          | apply keeps_foldl_fst | apply keeps_foldl_snd | apply ctlKeeps_done | apply ctlKeeps_wait | apply ctlKeeps_refuse
          | apply ctlKeeps_ite | apply arrKeeps_gone | apply arrKeeps_later | apply arrKeeps_here | apply arrKeeps_ite
          | apply keeps_foldl_CollEnd | apply keeps_ite_CollEnd | apply keeps_foldl_Commit | apply keeps_ite_Commit
          | apply keeps_foldl_DrainSum | apply keeps_ite_DrainSum | apply keeps_foldl_Effect | apply keeps_ite_Effect
          | apply keeps_foldl_LayerDecision | apply keeps_ite_LayerDecision | apply keeps_foldl_MmaSum | apply keeps_ite_MmaSum
          | apply keeps_foldl_QSum | apply keeps_ite_QSum | apply keeps_foldl_QTile | apply keeps_ite_QTile | apply keeps_foldl_UpdSum
          | apply keeps_ite_UpdSum | apply keeps_foldl_VecSum | apply keeps_ite_VecSum | apply keeps_units_map | apply unitOk_getUnit
          | apply unitOk_idle | apply unitOk_advance | apply queueOk_getQueue | apply unitOk_setG | apply unitOk_setT | apply unitOk_setK
          | apply unitOk_setC | apply unitOk_setSt | apply unitOk_setP))
      | split | (with_reducible (first
          | apply keeps_free | apply unitOk_fewer | apply unitOk_mapped
          | apply unitOk_emptied | apply unitOk_free | apply queueOk_map | apply queueOk_free)) | dsimp only)

theorem keeps_gopiCtl {r : State} (s : State) (x : ProgUnit) (f : Fields) (h_s : Keeps r s) (h_x : UnitOk r x) :
    CtlKeeps r (gopiCtl s x f) := by
  unfold gopiCtl
  repeat' (first
      | with_reducible assumption | (with_reducible intro _)
      | (with_reducible (first
          | apply keeps_goOn | apply unitOk_setG | apply keeps_ite | apply unitOk_ite | apply unitOk_foldl | apply keeps_foldl
          | apply keeps_foldl_fst | apply keeps_foldl_snd | apply ctlKeeps_done | apply ctlKeeps_wait | apply ctlKeeps_refuse
          | apply ctlKeeps_ite | apply arrKeeps_gone | apply arrKeeps_later | apply arrKeeps_here | apply arrKeeps_ite
          | apply keeps_foldl_CollEnd | apply keeps_ite_CollEnd | apply keeps_foldl_Commit | apply keeps_ite_Commit
          | apply keeps_foldl_DrainSum | apply keeps_ite_DrainSum | apply keeps_foldl_Effect | apply keeps_ite_Effect
          | apply keeps_foldl_LayerDecision | apply keeps_ite_LayerDecision | apply keeps_foldl_MmaSum | apply keeps_ite_MmaSum
          | apply keeps_foldl_QSum | apply keeps_ite_QSum | apply keeps_foldl_QTile | apply keeps_ite_QTile | apply keeps_foldl_UpdSum
          | apply keeps_ite_UpdSum | apply keeps_foldl_VecSum | apply keeps_ite_VecSum | apply keeps_units_map | apply unitOk_getUnit
          | apply unitOk_idle | apply unitOk_advance | apply queueOk_getQueue | apply unitOk_setG | apply unitOk_setT | apply unitOk_setK
          | apply unitOk_setC | apply unitOk_setSt | apply unitOk_setP))
      | split | (with_reducible (first
          | apply keeps_free | apply unitOk_fewer | apply unitOk_mapped
          | apply unitOk_emptied | apply unitOk_free | apply queueOk_map | apply queueOk_free)) | dsimp only)

theorem keeps_psetCtl {r : State} (s : State) (x : ProgUnit) (f : Fields) (h_s : Keeps r s) (h_x : UnitOk r x) :
    CtlKeeps r (psetCtl s x f) := by
  unfold psetCtl
  repeat' (first
      | with_reducible assumption | (with_reducible intro _)
      | (with_reducible (first
          | apply keeps_goOn | apply unitOk_setP | apply keeps_ite | apply unitOk_ite | apply unitOk_foldl | apply keeps_foldl
          | apply keeps_foldl_fst | apply keeps_foldl_snd | apply ctlKeeps_done | apply ctlKeeps_wait | apply ctlKeeps_refuse
          | apply ctlKeeps_ite | apply arrKeeps_gone | apply arrKeeps_later | apply arrKeeps_here | apply arrKeeps_ite
          | apply keeps_foldl_CollEnd | apply keeps_ite_CollEnd | apply keeps_foldl_Commit | apply keeps_ite_Commit
          | apply keeps_foldl_DrainSum | apply keeps_ite_DrainSum | apply keeps_foldl_Effect | apply keeps_ite_Effect
          | apply keeps_foldl_LayerDecision | apply keeps_ite_LayerDecision | apply keeps_foldl_MmaSum | apply keeps_ite_MmaSum
          | apply keeps_foldl_QSum | apply keeps_ite_QSum | apply keeps_foldl_QTile | apply keeps_ite_QTile | apply keeps_foldl_UpdSum
          | apply keeps_ite_UpdSum | apply keeps_foldl_VecSum | apply keeps_ite_VecSum | apply keeps_units_map | apply unitOk_getUnit
          | apply unitOk_idle | apply unitOk_advance | apply queueOk_getQueue | apply unitOk_setG | apply unitOk_setT | apply unitOk_setK
          | apply unitOk_setC | apply unitOk_setSt | apply unitOk_setP))
      | split | (with_reducible (first
          | apply keeps_free | apply unitOk_fewer | apply unitOk_mapped
          | apply unitOk_emptied | apply unitOk_free | apply queueOk_map | apply queueOk_free)) | dsimp only)

theorem keeps_gldCtl {r : State} (s : State) (x : ProgUnit) (f : Fields) (h_s : Keeps r s) (h_x : UnitOk r x) :
    CtlKeeps r (gldCtl s x f) := by
  unfold gldCtl
  repeat' (first
      | with_reducible assumption | (with_reducible intro _)
      | (with_reducible (first
          | apply keeps_goOn | apply unitOk_setG | apply keeps_readControl | apply keeps_ite | apply unitOk_ite | apply unitOk_foldl
          | apply keeps_foldl | apply keeps_foldl_fst | apply keeps_foldl_snd | apply ctlKeeps_done | apply ctlKeeps_wait
          | apply ctlKeeps_refuse | apply ctlKeeps_ite | apply arrKeeps_gone | apply arrKeeps_later | apply arrKeeps_here
          | apply arrKeeps_ite | apply keeps_foldl_CollEnd | apply keeps_ite_CollEnd | apply keeps_foldl_Commit | apply keeps_ite_Commit
          | apply keeps_foldl_DrainSum | apply keeps_ite_DrainSum | apply keeps_foldl_Effect | apply keeps_ite_Effect
          | apply keeps_foldl_LayerDecision | apply keeps_ite_LayerDecision | apply keeps_foldl_MmaSum | apply keeps_ite_MmaSum
          | apply keeps_foldl_QSum | apply keeps_ite_QSum | apply keeps_foldl_QTile | apply keeps_ite_QTile | apply keeps_foldl_UpdSum
          | apply keeps_ite_UpdSum | apply keeps_foldl_VecSum | apply keeps_ite_VecSum | apply keeps_units_map | apply unitOk_getUnit
          | apply unitOk_idle | apply unitOk_advance | apply queueOk_getQueue | apply unitOk_setG | apply unitOk_setT | apply unitOk_setK
          | apply unitOk_setC | apply unitOk_setSt | apply unitOk_setP))
      | split | (with_reducible (first
          | apply keeps_free | apply unitOk_fewer | apply unitOk_mapped
          | apply unitOk_emptied | apply unitOk_free | apply queueOk_map | apply queueOk_free)) | dsimp only)

theorem keeps_gstCtl {r : State} (s : State) (x : ProgUnit) (f : Fields) (h_s : Keeps r s) (h_x : UnitOk r x) :
    CtlKeeps r (gstCtl s x f) := by
  unfold gstCtl
  repeat' (first
      | with_reducible assumption | (with_reducible intro _)
      | (with_reducible (first
          | apply keeps_setUnit | apply unitOk_advance | apply keeps_writeNat | apply keeps_writeControl | apply keeps_storeBox
          | apply keeps_ite | apply unitOk_ite | apply unitOk_foldl | apply keeps_foldl | apply keeps_foldl_fst | apply keeps_foldl_snd
          | apply ctlKeeps_done | apply ctlKeeps_wait | apply ctlKeeps_refuse | apply ctlKeeps_ite | apply arrKeeps_gone
          | apply arrKeeps_later | apply arrKeeps_here | apply arrKeeps_ite | apply keeps_foldl_CollEnd | apply keeps_ite_CollEnd
          | apply keeps_foldl_Commit | apply keeps_ite_Commit | apply keeps_foldl_DrainSum | apply keeps_ite_DrainSum
          | apply keeps_foldl_Effect | apply keeps_ite_Effect | apply keeps_foldl_LayerDecision | apply keeps_ite_LayerDecision
          | apply keeps_foldl_MmaSum | apply keeps_ite_MmaSum | apply keeps_foldl_QSum | apply keeps_ite_QSum | apply keeps_foldl_QTile
          | apply keeps_ite_QTile | apply keeps_foldl_UpdSum | apply keeps_ite_UpdSum | apply keeps_foldl_VecSum | apply keeps_ite_VecSum
          | apply keeps_units_map | apply unitOk_getUnit | apply unitOk_idle | apply unitOk_advance | apply queueOk_getQueue
          | apply unitOk_setG | apply unitOk_setT | apply unitOk_setK | apply unitOk_setC | apply unitOk_setSt | apply unitOk_setP))
      | split | (with_reducible (first
          | apply keeps_free | apply unitOk_fewer | apply unitOk_mapped
          | apply unitOk_emptied | apply unitOk_free | apply queueOk_map | apply queueOk_free)) | dsimp only)

theorem keeps_dldCtl {r : State} (s : State) (x : ProgUnit) (f : Fields) (h_s : Keeps r s) (h_x : UnitOk r x) :
    CtlKeeps r (dldCtl s x f) := by
  unfold dldCtl
  repeat' (first
      | with_reducible assumption | (with_reducible intro _)
      | (with_reducible (first
          | apply keeps_goOn | apply unitOk_setT | apply keeps_ite | apply unitOk_ite | apply unitOk_foldl | apply keeps_foldl
          | apply keeps_foldl_fst | apply keeps_foldl_snd | apply ctlKeeps_done | apply ctlKeeps_wait | apply ctlKeeps_refuse
          | apply ctlKeeps_ite | apply arrKeeps_gone | apply arrKeeps_later | apply arrKeeps_here | apply arrKeeps_ite
          | apply keeps_foldl_CollEnd | apply keeps_ite_CollEnd | apply keeps_foldl_Commit | apply keeps_ite_Commit
          | apply keeps_foldl_DrainSum | apply keeps_ite_DrainSum | apply keeps_foldl_Effect | apply keeps_ite_Effect
          | apply keeps_foldl_LayerDecision | apply keeps_ite_LayerDecision | apply keeps_foldl_MmaSum | apply keeps_ite_MmaSum
          | apply keeps_foldl_QSum | apply keeps_ite_QSum | apply keeps_foldl_QTile | apply keeps_ite_QTile | apply keeps_foldl_UpdSum
          | apply keeps_ite_UpdSum | apply keeps_foldl_VecSum | apply keeps_ite_VecSum | apply keeps_units_map | apply unitOk_getUnit
          | apply unitOk_idle | apply unitOk_advance | apply queueOk_getQueue | apply unitOk_setG | apply unitOk_setT | apply unitOk_setK
          | apply unitOk_setC | apply unitOk_setSt | apply unitOk_setP))
      | split | (with_reducible (first
          | apply keeps_free | apply unitOk_fewer | apply unitOk_mapped
          | apply unitOk_emptied | apply unitOk_free | apply queueOk_map | apply queueOk_free)) | dsimp only)

theorem keeps_dstCtl {r : State} (s : State) (x : ProgUnit) (f : Fields) (h_s : Keeps r s) (h_x : UnitOk r x) :
    CtlKeeps r (dstCtl s x f) := by
  unfold dstCtl
  repeat' (first
      | with_reducible assumption | (with_reducible intro _)
      | (with_reducible (first
          | apply keeps_goOn | apply keeps_writeNat | apply keeps_ite | apply unitOk_ite | apply unitOk_foldl | apply keeps_foldl
          | apply keeps_foldl_fst | apply keeps_foldl_snd | apply ctlKeeps_done | apply ctlKeeps_wait | apply ctlKeeps_refuse
          | apply ctlKeeps_ite | apply arrKeeps_gone | apply arrKeeps_later | apply arrKeeps_here | apply arrKeeps_ite
          | apply keeps_foldl_CollEnd | apply keeps_ite_CollEnd | apply keeps_foldl_Commit | apply keeps_ite_Commit
          | apply keeps_foldl_DrainSum | apply keeps_ite_DrainSum | apply keeps_foldl_Effect | apply keeps_ite_Effect
          | apply keeps_foldl_LayerDecision | apply keeps_ite_LayerDecision | apply keeps_foldl_MmaSum | apply keeps_ite_MmaSum
          | apply keeps_foldl_QSum | apply keeps_ite_QSum | apply keeps_foldl_QTile | apply keeps_ite_QTile | apply keeps_foldl_UpdSum
          | apply keeps_ite_UpdSum | apply keeps_foldl_VecSum | apply keeps_ite_VecSum | apply keeps_units_map | apply unitOk_getUnit
          | apply unitOk_idle | apply unitOk_advance | apply queueOk_getQueue | apply unitOk_setG | apply unitOk_setT | apply unitOk_setK
          | apply unitOk_setC | apply unitOk_setSt | apply unitOk_setP))
      | split | (with_reducible (first
          | apply keeps_free | apply unitOk_fewer | apply unitOk_mapped
          | apply unitOk_emptied | apply unitOk_free | apply queueOk_map | apply queueOk_free)) | dsimp only)

theorem keeps_dsetCtl {r : State} (s : State) (x : ProgUnit) (f : Fields) (h_s : Keeps r s) (h_x : UnitOk r x) :
    CtlKeeps r (dsetCtl s x f) := by
  unfold dsetCtl
  repeat' (first
      | with_reducible assumption | (with_reducible intro _)
      | (with_reducible (first
          | apply keeps_goOn | apply unitOk_setT | apply keeps_ite | apply unitOk_ite | apply unitOk_foldl | apply keeps_foldl
          | apply keeps_foldl_fst | apply keeps_foldl_snd | apply ctlKeeps_done | apply ctlKeeps_wait | apply ctlKeeps_refuse
          | apply ctlKeeps_ite | apply arrKeeps_gone | apply arrKeeps_later | apply arrKeeps_here | apply arrKeeps_ite
          | apply keeps_foldl_CollEnd | apply keeps_ite_CollEnd | apply keeps_foldl_Commit | apply keeps_ite_Commit
          | apply keeps_foldl_DrainSum | apply keeps_ite_DrainSum | apply keeps_foldl_Effect | apply keeps_ite_Effect
          | apply keeps_foldl_LayerDecision | apply keeps_ite_LayerDecision | apply keeps_foldl_MmaSum | apply keeps_ite_MmaSum
          | apply keeps_foldl_QSum | apply keeps_ite_QSum | apply keeps_foldl_QTile | apply keeps_ite_QTile | apply keeps_foldl_UpdSum
          | apply keeps_ite_UpdSum | apply keeps_foldl_VecSum | apply keeps_ite_VecSum | apply keeps_units_map | apply unitOk_getUnit
          | apply unitOk_idle | apply unitOk_advance | apply queueOk_getQueue | apply unitOk_setG | apply unitOk_setT | apply unitOk_setK
          | apply unitOk_setC | apply unitOk_setSt | apply unitOk_setP))
      | split | (with_reducible (first
          | apply keeps_free | apply unitOk_fewer | apply unitOk_mapped
          | apply unitOk_emptied | apply unitOk_free | apply queueOk_map | apply queueOk_free)) | dsimp only)

theorem keeps_ksetCtl {r : State} (s : State) (x : ProgUnit) (f : Fields) (h_s : Keeps r s) (h_x : UnitOk r x) :
    CtlKeeps r (ksetCtl s x f) := by
  unfold ksetCtl
  repeat' (first
      | with_reducible assumption | (with_reducible intro _)
      | (with_reducible (first
          | apply keeps_goOn | apply unitOk_setK | apply keeps_ite | apply keeps_foldl))
      | split | (with_reducible apply keeps_free) | dsimp only)

theorem keeps_kgetCtl {r : State} (s : State) (x : ProgUnit) (f : Fields) (h_s : Keeps r s) (h_x : UnitOk r x) :
    CtlKeeps r (kgetCtl s x f) := by
  unfold kgetCtl
  repeat' (first
      | with_reducible assumption | (with_reducible intro _)
      | (with_reducible (first
          | apply keeps_goOn | apply unitOk_setG | apply keeps_ite | apply keeps_foldl))
      | split | (with_reducible apply keeps_free) | dsimp only)

theorem keeps_csetCtl {r : State} (s : State) (x : ProgUnit) (f : Fields) (h_s : Keeps r s) (h_x : UnitOk r x) :
    CtlKeeps r (csetCtl s x f) := by
  unfold csetCtl
  repeat' (first
      | with_reducible assumption | (with_reducible intro _)
      | (with_reducible (first
          | apply keeps_goOn | apply unitOk_setC | apply keeps_ite | apply keeps_foldl))
      | split | (with_reducible apply keeps_free) | dsimp only)

theorem keeps_strdCtl {r : State} (s : State) (x : ProgUnit) (f : Fields) (h_s : Keeps r s) (h_x : UnitOk r x) :
    CtlKeeps r (strdCtl s x f) := by
  unfold strdCtl
  repeat' (first
      | with_reducible assumption | (with_reducible intro _)
      | (with_reducible (first
          | apply keeps_goOn | apply unitOk_setSt | apply keeps_ite | apply keeps_foldl))
      | split | (with_reducible apply keeps_free) | dsimp only)

theorem keeps_stldCtl {r : State} (s : State) (x : ProgUnit) (f : Fields) (h_s : Keeps r s) (h_x : UnitOk r x) :
    CtlKeeps r (stldCtl s x f) := by
  unfold stldCtl
  repeat' (first
      | with_reducible assumption | (with_reducible intro _)
      | (with_reducible (first
          | apply keeps_goOn | apply unitOk_setSt | apply keeps_ite | apply unitOk_ite | apply unitOk_foldl | apply keeps_foldl
          | apply keeps_foldl_fst | apply keeps_foldl_snd | apply ctlKeeps_done | apply ctlKeeps_wait | apply ctlKeeps_refuse
          | apply ctlKeeps_ite | apply arrKeeps_gone | apply arrKeeps_later | apply arrKeeps_here | apply arrKeeps_ite
          | apply keeps_foldl_CollEnd | apply keeps_ite_CollEnd | apply keeps_foldl_Commit | apply keeps_ite_Commit
          | apply keeps_foldl_DrainSum | apply keeps_ite_DrainSum | apply keeps_foldl_Effect | apply keeps_ite_Effect
          | apply keeps_foldl_LayerDecision | apply keeps_ite_LayerDecision | apply keeps_foldl_MmaSum | apply keeps_ite_MmaSum
          | apply keeps_foldl_QSum | apply keeps_ite_QSum | apply keeps_foldl_QTile | apply keeps_ite_QTile | apply keeps_foldl_UpdSum
          | apply keeps_ite_UpdSum | apply keeps_foldl_VecSum | apply keeps_ite_VecSum | apply keeps_units_map | apply unitOk_getUnit
          | apply unitOk_idle | apply unitOk_advance | apply queueOk_getQueue | apply unitOk_setG | apply unitOk_setT | apply unitOk_setK
          | apply unitOk_setC | apply unitOk_setSt | apply unitOk_setP))
      | split | (with_reducible (first
          | apply keeps_free | apply unitOk_fewer | apply unitOk_mapped
          | apply unitOk_emptied | apply unitOk_free | apply queueOk_map | apply queueOk_free)) | dsimp only)

theorem keeps_ststCtl {r : State} (s : State) (x : ProgUnit) (f : Fields) (h_s : Keeps r s) (h_x : UnitOk r x) :
    CtlKeeps r (ststCtl s x f) := by
  unfold ststCtl
  repeat' (first
      | with_reducible assumption | (with_reducible intro _)
      | (with_reducible (first
          | apply keeps_goOn | apply keeps_writeMem | apply keeps_ite | apply unitOk_ite | apply unitOk_foldl | apply keeps_foldl
          | apply keeps_foldl_fst | apply keeps_foldl_snd | apply ctlKeeps_done | apply ctlKeeps_wait | apply ctlKeeps_refuse
          | apply ctlKeeps_ite | apply arrKeeps_gone | apply arrKeeps_later | apply arrKeeps_here | apply arrKeeps_ite
          | apply keeps_foldl_CollEnd | apply keeps_ite_CollEnd | apply keeps_foldl_Commit | apply keeps_ite_Commit
          | apply keeps_foldl_DrainSum | apply keeps_ite_DrainSum | apply keeps_foldl_Effect | apply keeps_ite_Effect
          | apply keeps_foldl_LayerDecision | apply keeps_ite_LayerDecision | apply keeps_foldl_MmaSum | apply keeps_ite_MmaSum
          | apply keeps_foldl_QSum | apply keeps_ite_QSum | apply keeps_foldl_QTile | apply keeps_ite_QTile | apply keeps_foldl_UpdSum
          | apply keeps_ite_UpdSum | apply keeps_foldl_VecSum | apply keeps_ite_VecSum | apply keeps_units_map | apply unitOk_getUnit
          | apply unitOk_idle | apply unitOk_advance | apply queueOk_getQueue | apply unitOk_setG | apply unitOk_setT | apply unitOk_setK
          | apply unitOk_setC | apply unitOk_setSt | apply unitOk_setP))
      | split | (with_reducible (first
          | apply keeps_free | apply unitOk_fewer | apply unitOk_mapped
          | apply unitOk_emptied | apply unitOk_free | apply queueOk_map | apply queueOk_free)) | dsimp only)

theorem keeps_waitstCtl {r : State} (s : State) (x : ProgUnit) (f : Fields) (h_s : Keeps r s) (h_x : UnitOk r x) :
    CtlKeeps r (waitstCtl s x f) := by
  unfold waitstCtl
  repeat' (first
      | with_reducible assumption | (with_reducible intro _)
      | (with_reducible (first
          | apply keeps_goOn | apply unitOk_setP | apply keeps_ite | apply unitOk_ite | apply unitOk_foldl | apply keeps_foldl
          | apply keeps_foldl_fst | apply keeps_foldl_snd | apply ctlKeeps_done | apply ctlKeeps_wait | apply ctlKeeps_refuse
          | apply ctlKeeps_ite | apply arrKeeps_gone | apply arrKeeps_later | apply arrKeeps_here | apply arrKeeps_ite
          | apply keeps_foldl_CollEnd | apply keeps_ite_CollEnd | apply keeps_foldl_Commit | apply keeps_ite_Commit
          | apply keeps_foldl_DrainSum | apply keeps_ite_DrainSum | apply keeps_foldl_Effect | apply keeps_ite_Effect
          | apply keeps_foldl_LayerDecision | apply keeps_ite_LayerDecision | apply keeps_foldl_MmaSum | apply keeps_ite_MmaSum
          | apply keeps_foldl_QSum | apply keeps_ite_QSum | apply keeps_foldl_QTile | apply keeps_ite_QTile | apply keeps_foldl_UpdSum
          | apply keeps_ite_UpdSum | apply keeps_foldl_VecSum | apply keeps_ite_VecSum | apply keeps_units_map | apply unitOk_getUnit
          | apply unitOk_idle | apply unitOk_advance | apply queueOk_getQueue | apply unitOk_setG | apply unitOk_setT | apply unitOk_setK
          | apply unitOk_setC | apply unitOk_setSt | apply unitOk_setP))
      | split | (with_reducible (first
          | apply keeps_free | apply unitOk_fewer | apply unitOk_mapped
          | apply unitOk_emptied | apply unitOk_free | apply queueOk_map | apply queueOk_free)) | dsimp only)

theorem keeps_fenceCtl {r : State} (s : State) (x : ProgUnit) (a2 : Fields) (h_s : Keeps r s) (h_x : UnitOk r x) :
    CtlKeeps r (fenceCtl s x a2) := by
  unfold fenceCtl
  repeat' (first
      | with_reducible assumption | (with_reducible intro _)
      | (with_reducible (first
          | apply keeps_goOn | apply keeps_ite | apply unitOk_ite | apply unitOk_foldl | apply keeps_foldl | apply keeps_foldl_fst
          | apply keeps_foldl_snd | apply ctlKeeps_done | apply ctlKeeps_wait | apply ctlKeeps_refuse | apply ctlKeeps_ite
          | apply arrKeeps_gone | apply arrKeeps_later | apply arrKeeps_here | apply arrKeeps_ite | apply keeps_foldl_CollEnd
          | apply keeps_ite_CollEnd | apply keeps_foldl_Commit | apply keeps_ite_Commit | apply keeps_foldl_DrainSum
          | apply keeps_ite_DrainSum | apply keeps_foldl_Effect | apply keeps_ite_Effect | apply keeps_foldl_LayerDecision
          | apply keeps_ite_LayerDecision | apply keeps_foldl_MmaSum | apply keeps_ite_MmaSum | apply keeps_foldl_QSum
          | apply keeps_ite_QSum | apply keeps_foldl_QTile | apply keeps_ite_QTile | apply keeps_foldl_UpdSum | apply keeps_ite_UpdSum
          | apply keeps_foldl_VecSum | apply keeps_ite_VecSum | apply keeps_units_map | apply unitOk_getUnit | apply unitOk_idle
          | apply unitOk_advance | apply queueOk_getQueue | apply unitOk_setG | apply unitOk_setT | apply unitOk_setK | apply unitOk_setC
          | apply unitOk_setSt | apply unitOk_setP))
      | split | (with_reducible (first
          | apply keeps_free | apply unitOk_fewer | apply unitOk_mapped
          | apply unitOk_emptied | apply unitOk_free | apply queueOk_map | apply queueOk_free)) | dsimp only)

theorem keeps_ringRun {r : State} (u : UnitRef) (a : Nat) (v : Nat) (id : Nat) (s : State) (h_s : Keeps r s) :
    Keeps r (ringRun u a v id s).s := by
  unfold ringRun
  repeat' (first
      | with_reducible assumption | (with_reducible intro _)
      | (with_reducible (first
          | apply keeps_mapOp | apply keeps_writeControl | apply keeps_storeBox | apply keeps_ite | apply unitOk_ite | apply unitOk_foldl
          | apply keeps_foldl | apply keeps_foldl_fst | apply keeps_foldl_snd | apply ctlKeeps_done | apply ctlKeeps_wait
          | apply ctlKeeps_refuse | apply ctlKeeps_ite | apply arrKeeps_gone | apply arrKeeps_later | apply arrKeeps_here
          | apply arrKeeps_ite | apply keeps_foldl_CollEnd | apply keeps_ite_CollEnd | apply keeps_foldl_Commit | apply keeps_ite_Commit
          | apply keeps_foldl_DrainSum | apply keeps_ite_DrainSum | apply keeps_foldl_Effect | apply keeps_ite_Effect
          | apply keeps_foldl_LayerDecision | apply keeps_ite_LayerDecision | apply keeps_foldl_MmaSum | apply keeps_ite_MmaSum
          | apply keeps_foldl_QSum | apply keeps_ite_QSum | apply keeps_foldl_QTile | apply keeps_ite_QTile | apply keeps_foldl_UpdSum
          | apply keeps_ite_UpdSum | apply keeps_foldl_VecSum | apply keeps_ite_VecSum | apply keeps_units_map | apply unitOk_getUnit
          | apply unitOk_idle | apply unitOk_advance | apply queueOk_getQueue | apply unitOk_setG | apply unitOk_setT | apply unitOk_setK
          | apply unitOk_setC | apply unitOk_setSt | apply unitOk_setP))
      | split | (with_reducible (first
          | apply keeps_free | apply unitOk_fewer | apply unitOk_mapped
          | apply unitOk_emptied | apply unitOk_free | apply queueOk_map | apply queueOk_free)) | dsimp only)

theorem keeps_ringPlan (s : State) (x : ProgUnit) (f1 : Nat) (f2 : Nat) :
    PlanKeeps (ringPlan s x f1 f2) := by
  unfold ringPlan PlanKeeps
  repeat' (first
      | with_reducible assumption | (with_reducible intro _)
      | (with_reducible (first
          | apply keeps_ringRun | apply keeps_ite | apply keeps_foldl))
      | split | (with_reducible apply keeps_free) | dsimp only)

theorem keeps_ctlDef (opc mask : Nat) (g : State → ProgUnit → Fields → Ctl)
    (h : ∀ r s x f, Keeps r s → UnitOk r x → CtlKeeps r (g s x f)) : DefKeeps (ctlDef opc mask g) := h

theorem keeps_nopDef :
    DefKeeps nopDef := by
  unfold nopDef
  try unfold opBody
  try unfold ctlDef
  unfold DefKeeps BodyKeeps
  try dsimp only
  repeat' (first
      | with_reducible assumption | (with_reducible intro _)
      | (with_reducible (first
          | apply keeps_ctlDef | apply keeps_nopCtl | apply keeps_ite | apply keeps_foldl))
      | split | (with_reducible apply keeps_free) | dsimp only)

theorem keeps_endDef :
    DefKeeps endDef := by
  unfold endDef
  try unfold opBody
  try unfold ctlDef
  unfold DefKeeps BodyKeeps
  try dsimp only
  repeat' (first
      | with_reducible assumption | (with_reducible intro _)
      | (with_reducible (first
          | apply keeps_ctlDef | apply keeps_endCtl | apply keeps_ite | apply keeps_foldl))
      | split | (with_reducible apply keeps_free) | dsimp only)

theorem keeps_brDef :
    DefKeeps brDef := by
  unfold brDef
  try unfold opBody
  try unfold ctlDef
  unfold DefKeeps BodyKeeps
  try dsimp only
  repeat' (first
      | with_reducible assumption | (with_reducible intro _)
      | (with_reducible (first
          | apply keeps_ctlDef | apply keeps_brCtl | apply keeps_ite | apply keeps_foldl))
      | split | (with_reducible apply keeps_free) | dsimp only)

theorem keeps_liDef :
    DefKeeps liDef := by
  unfold liDef
  try unfold opBody
  try unfold ctlDef
  unfold DefKeeps BodyKeeps
  try dsimp only
  repeat' (first
      | with_reducible assumption | (with_reducible intro _)
      | (with_reducible (first
          | apply keeps_ctlDef | apply keeps_liCtl | apply keeps_ite | apply keeps_foldl))
      | split | (with_reducible apply keeps_free) | dsimp only)

theorem keeps_gopDef :
    DefKeeps gopDef := by
  unfold gopDef
  try unfold opBody
  try unfold ctlDef
  unfold DefKeeps BodyKeeps
  try dsimp only
  repeat' (first
      | with_reducible assumption | (with_reducible intro _)
      | (with_reducible (first
          | apply keeps_ctlDef | apply keeps_gopCtl | apply keeps_ite | apply keeps_foldl))
      | split | (with_reducible apply keeps_free) | dsimp only)

theorem keeps_gopiDef :
    DefKeeps gopiDef := by
  unfold gopiDef
  try unfold opBody
  try unfold ctlDef
  unfold DefKeeps BodyKeeps
  try dsimp only
  repeat' (first
      | with_reducible assumption | (with_reducible intro _)
      | (with_reducible (first
          | apply keeps_ctlDef | apply keeps_gopiCtl | apply keeps_ite | apply keeps_foldl))
      | split | (with_reducible apply keeps_free) | dsimp only)

theorem keeps_psetDef :
    DefKeeps psetDef := by
  unfold psetDef
  try unfold opBody
  try unfold ctlDef
  unfold DefKeeps BodyKeeps
  try dsimp only
  repeat' (first
      | with_reducible assumption | (with_reducible intro _)
      | (with_reducible (first
          | apply keeps_ctlDef | apply keeps_psetCtl | apply keeps_ite | apply keeps_foldl))
      | split | (with_reducible apply keeps_free) | dsimp only)

theorem keeps_gldDef :
    DefKeeps gldDef := by
  unfold gldDef
  try unfold opBody
  try unfold ctlDef
  unfold DefKeeps BodyKeeps
  try dsimp only
  repeat' (first
      | with_reducible assumption | (with_reducible intro _)
      | (with_reducible (first
          | apply keeps_ctlDef | apply keeps_gldCtl | apply keeps_ite | apply keeps_foldl))
      | split | (with_reducible apply keeps_free) | dsimp only)

theorem keeps_gstDef :
    DefKeeps gstDef := by
  unfold gstDef
  try unfold opBody
  try unfold ctlDef
  unfold DefKeeps BodyKeeps
  try dsimp only
  repeat' (first
      | with_reducible assumption | (with_reducible intro _)
      | (with_reducible (first
          | apply keeps_ctlDef | apply keeps_gstCtl | apply keeps_ite | apply keeps_foldl))
      | split | (with_reducible apply keeps_free) | dsimp only)

theorem keeps_dldDef :
    DefKeeps dldDef := by
  unfold dldDef
  try unfold opBody
  try unfold ctlDef
  unfold DefKeeps BodyKeeps
  try dsimp only
  repeat' (first
      | with_reducible assumption | (with_reducible intro _)
      | (with_reducible (first
          | apply keeps_ctlDef | apply keeps_dldCtl | apply keeps_ite | apply keeps_foldl))
      | split | (with_reducible apply keeps_free) | dsimp only)

theorem keeps_dstDef :
    DefKeeps dstDef := by
  unfold dstDef
  try unfold opBody
  try unfold ctlDef
  unfold DefKeeps BodyKeeps
  try dsimp only
  repeat' (first
      | with_reducible assumption | (with_reducible intro _)
      | (with_reducible (first
          | apply keeps_ctlDef | apply keeps_dstCtl | apply keeps_ite | apply keeps_foldl))
      | split | (with_reducible apply keeps_free) | dsimp only)

theorem keeps_dsetDef :
    DefKeeps dsetDef := by
  unfold dsetDef
  try unfold opBody
  try unfold ctlDef
  unfold DefKeeps BodyKeeps
  try dsimp only
  repeat' (first
      | with_reducible assumption | (with_reducible intro _)
      | (with_reducible (first
          | apply keeps_ctlDef | apply keeps_dsetCtl | apply keeps_ite | apply keeps_foldl))
      | split | (with_reducible apply keeps_free) | dsimp only)

theorem keeps_ksetDef :
    DefKeeps ksetDef := by
  unfold ksetDef
  try unfold opBody
  try unfold ctlDef
  unfold DefKeeps BodyKeeps
  try dsimp only
  repeat' (first
      | with_reducible assumption | (with_reducible intro _)
      | (with_reducible (first
          | apply keeps_ctlDef | apply keeps_ksetCtl | apply keeps_ite | apply keeps_foldl))
      | split | (with_reducible apply keeps_free) | dsimp only)

theorem keeps_kgetDef :
    DefKeeps kgetDef := by
  unfold kgetDef
  try unfold opBody
  try unfold ctlDef
  unfold DefKeeps BodyKeeps
  try dsimp only
  repeat' (first
      | with_reducible assumption | (with_reducible intro _)
      | (with_reducible (first
          | apply keeps_ctlDef | apply keeps_kgetCtl | apply keeps_ite | apply keeps_foldl))
      | split | (with_reducible apply keeps_free) | dsimp only)

theorem keeps_csetDef :
    DefKeeps csetDef := by
  unfold csetDef
  try unfold opBody
  try unfold ctlDef
  unfold DefKeeps BodyKeeps
  try dsimp only
  repeat' (first
      | with_reducible assumption | (with_reducible intro _)
      | (with_reducible (first
          | apply keeps_ctlDef | apply keeps_csetCtl | apply keeps_ite | apply keeps_foldl))
      | split | (with_reducible apply keeps_free) | dsimp only)

theorem keeps_strdDef :
    DefKeeps strdDef := by
  unfold strdDef
  try unfold opBody
  try unfold ctlDef
  unfold DefKeeps BodyKeeps
  try dsimp only
  repeat' (first
      | with_reducible assumption | (with_reducible intro _)
      | (with_reducible (first
          | apply keeps_ctlDef | apply keeps_strdCtl | apply keeps_ite | apply keeps_foldl))
      | split | (with_reducible apply keeps_free) | dsimp only)

theorem keeps_stldDef :
    DefKeeps stldDef := by
  unfold stldDef
  try unfold opBody
  try unfold ctlDef
  unfold DefKeeps BodyKeeps
  try dsimp only
  repeat' (first
      | with_reducible assumption | (with_reducible intro _)
      | (with_reducible (first
          | apply keeps_ctlDef | apply keeps_stldCtl | apply keeps_ite | apply keeps_foldl))
      | split | (with_reducible apply keeps_free) | dsimp only)

theorem keeps_ststDef :
    DefKeeps ststDef := by
  unfold ststDef
  try unfold opBody
  try unfold ctlDef
  unfold DefKeeps BodyKeeps
  try dsimp only
  repeat' (first
      | with_reducible assumption | (with_reducible intro _)
      | (with_reducible (first
          | apply keeps_ctlDef | apply keeps_ststCtl | apply keeps_ite | apply keeps_foldl))
      | split | (with_reducible apply keeps_free) | dsimp only)

theorem keeps_waitstDef :
    DefKeeps waitstDef := by
  unfold waitstDef
  try unfold opBody
  try unfold ctlDef
  unfold DefKeeps BodyKeeps
  try dsimp only
  repeat' (first
      | with_reducible assumption | (with_reducible intro _)
      | (with_reducible (first
          | apply keeps_ctlDef | apply keeps_waitstCtl | apply keeps_ite | apply keeps_foldl))
      | split | (with_reducible apply keeps_free) | dsimp only)

theorem keeps_fenceDef :
    DefKeeps fenceDef := by
  unfold fenceDef
  try unfold opBody
  try unfold ctlDef
  unfold DefKeeps BodyKeeps
  try dsimp only
  repeat' (first
      | with_reducible assumption | (with_reducible intro _)
      | (with_reducible (first
          | apply keeps_ctlDef | apply keeps_fenceCtl | apply keeps_ite | apply keeps_foldl))
      | split | (with_reducible apply keeps_free) | dsimp only)

theorem keeps_ringDef :
    DefKeeps ringDef := by
  unfold ringDef
  try unfold opBody
  try unfold ctlDef
  unfold DefKeeps BodyKeeps
  try dsimp only
  repeat' (first
      | with_reducible assumption | (with_reducible intro _)
      | (with_reducible (first
          | apply keeps_ringPlan | apply keeps_ite | apply keeps_foldl))
      | split | (with_reducible apply keeps_free) | dsimp only)

theorem keeps_some {d : OpDef} {f : Fields} {w : Waiting} (h : some (Waiting.mk f d) = some w) (k : DefKeeps d) : DefKeeps w.d := by
  obtain rfl := Option.some.inj h
  exact k

theorem keeps_opOf {i : Instr} {w : Waiting} (h : opOf i = some w) : DefKeeps w.d := by
  cases i
  case tld => exact keeps_some h keeps_tldDef
  case tst => exact keeps_some h keeps_tstDef
  case qnt => exact keeps_some h keeps_qntDef
  case mma => exact keeps_some h keeps_mmaDef
  case ldown => exact keeps_some h keeps_ldownDef
  case drain => exact keeps_some h keeps_drainDef
  case czero => exact keeps_some h keeps_czeroDef
  case cxferRead => exact keeps_some h keeps_cxferReadDef
  case cxferAdd => exact keeps_some h keeps_cxferAddDef
  case vop => exact keeps_some h keeps_vopDef
  case rsumAcc => exact keeps_some h keeps_rsumAccDef
  case rsumComb => exact keeps_some h keeps_rsumCombDef
  case rsumOut => exact keeps_some h keeps_rsumOutDef
  case rot => exact keeps_some h keeps_rotDef
  case drop => exact keeps_some h keeps_dropDef
  case sample => exact keeps_some h keeps_sampleDef
  case rng => exact keeps_some h keeps_rngDef
  case hupd => exact keeps_some h keeps_hupdDef
  case hload => exact keeps_some h keeps_hloadDef
  case xfer => exact keeps_some h keeps_xferDef
  case coll => exact keeps_some h keeps_collDef
  case landing => exact keeps_some h keeps_landingDef
  case landingCancel => exact keeps_some h keeps_landingCancelDef
  case pgrant => exact keeps_some h keeps_pgrantDef
  case openStash => exact keeps_some h keeps_openDef
  case release => exact keeps_some h keeps_releaseDef
  case closeStash => exact keeps_some h keeps_closeDef
  case offload => exact keeps_some h keeps_offloadDef
  case prefetch => exact keeps_some h keeps_prefetchDef
  all_goals
    have e : none = some w := h
    cases e

theorem keeps_waitingOf {i : Instr} {w : Waiting} (h : waitingOf i = some w) : DefKeeps w.d := by
  unfold waitingOf at h
  split at h
  · exact keeps_some h keeps_waitstDef
  · exact keeps_some h keeps_fenceDef
  · exact keeps_some h keeps_ringDef
  · exact keeps_some h keeps_gstDef
  · exact keeps_some h keeps_dstDef
  · exact keeps_some h keeps_ststDef
  · exact keeps_opOf h

theorem keeps_lookAgain {r : State} (u : UnitRef) (s : State) (h : Keeps r s) : Keeps r (lookAgain u s) := by
  unfold lookAgain
  dsimp only
  split
  · exact h
  · split
    · exact h
    · next f d hw =>
      have hx := unitOk_getUnit u h
      generalize getUnit s u = x at hx ⊢
      have h2 : Keeps r (setUnit s { x with waiting := none }) := keeps_setUnit (unitOk_free _ _ _ _ _ _ _ _ _ _ _ _ _ _ hx) h
      exact keeps_ite (keeps_attempt _ _ _ _ _ (keeps_waitingOf hw) h2) (keeps_ite h2 h)

theorem keeps_settleOp {r : State} (u : UnitRef) (id : Nat) (status : Nat) (flags : Nat) (logged : Bool) (s : State) (h_s : Keeps r s) :
    Keeps r (settleOp u id status flags logged s) := by
  unfold settleOp
  repeat' (first
      | with_reducible assumption | (with_reducible intro _)
      | (with_reducible (first
          | apply keeps_mapOp | apply keeps_ite | apply keeps_foldl))
      | split | (with_reducible apply keeps_free) | dsimp only)

theorem keeps_completeNow {r : State} (u : UnitRef) (id : Nat) (s : State) (h_s : Keeps r s) :
    Keeps r (completeNow u id s) := by
  unfold completeNow
  repeat' (first
      | with_reducible assumption | (with_reducible intro _)
      | (with_reducible (first
          | apply unitOk_getUnit | apply keeps_completeOp | apply keeps_serveUpdate | apply keeps_openNow | apply keeps_settleOp
          | apply keeps_ite | apply keeps_foldl))
      | split | (with_reducible apply keeps_free) | dsimp only)

theorem keeps_completeColl {r : State} (u : UnitRef) (id : Nat) (s : State) (h_s : Keeps r s) :
    Keeps r (completeColl u id s) := by
  unfold completeColl
  repeat' (first
      | with_reducible assumption | (with_reducible intro _)
      | (with_reducible (first
          | apply unitOk_getUnit | apply keeps_endColl | apply keeps_completeOp | apply keeps_settleOp | apply keeps_ite | apply keeps_foldl))
      | split | (with_reducible apply keeps_free) | dsimp only)

theorem keeps_switchOf {r : State} (u : UnitRef) (op : Nat) (s : State) (h_s : Keeps r s) :
    Keeps r (switchOf u op s) := by
  unfold switchOf
  repeat' (first
      | with_reducible assumption | (with_reducible intro _)
      | (with_reducible (first
          | apply keeps_switchMove | apply keeps_ite | apply keeps_foldl))
      | split | (with_reducible apply keeps_free) | dsimp only)

theorem keeps_execNop {r : State} (u : UnitRef) (x : Fields) (s : State) (h_s : Keeps r s) :
    ∀ t, execNop u x s = .next t → Keeps r t := by
  unfold execNop
  rintro _ ⟨⟩
  repeat' (first
      | with_reducible assumption | (with_reducible intro _)
      | (with_reducible (first
          | apply keeps_issue | apply keeps_nopDef | apply keeps_ite | apply keeps_foldl))
      | split | (with_reducible apply keeps_free) | dsimp only)

theorem keeps_execEndProg {r : State} (u : UnitRef) (x : Fields) (s : State) (h_s : Keeps r s) :
    ∀ t, execEndProg u x s = .next t → Keeps r t := by
  unfold execEndProg
  rintro _ ⟨⟩
  repeat' (first
      | with_reducible assumption | (with_reducible intro _)
      | (with_reducible (first
          | apply keeps_issue | apply keeps_endDef | apply keeps_ite | apply keeps_foldl))
      | split | (with_reducible apply keeps_free) | dsimp only)

theorem keeps_execBr {r : State} (u : UnitRef) (x : Fields) (s : State) (h_s : Keeps r s) :
    ∀ t, execBr u x s = .next t → Keeps r t := by
  unfold execBr
  rintro _ ⟨⟩
  repeat' (first
      | with_reducible assumption | (with_reducible intro _)
      | (with_reducible (first
          | apply keeps_issue | apply keeps_brDef | apply keeps_ite | apply keeps_foldl))
      | split | (with_reducible apply keeps_free) | dsimp only)

theorem keeps_execLi {r : State} (u : UnitRef) (x : Fields) (s : State) (h_s : Keeps r s) :
    ∀ t, execLi u x s = .next t → Keeps r t := by
  unfold execLi
  rintro _ ⟨⟩
  repeat' (first
      | with_reducible assumption | (with_reducible intro _)
      | (with_reducible (first
          | apply keeps_issue | apply keeps_liDef | apply keeps_ite | apply keeps_foldl))
      | split | (with_reducible apply keeps_free) | dsimp only)

theorem keeps_execGop {r : State} (u : UnitRef) (x : Fields) (s : State) (h_s : Keeps r s) :
    ∀ t, execGop u x s = .next t → Keeps r t := by
  unfold execGop
  rintro _ ⟨⟩
  repeat' (first
      | with_reducible assumption | (with_reducible intro _)
      | (with_reducible (first
          | apply keeps_issue | apply keeps_gopDef | apply keeps_ite | apply keeps_foldl))
      | split | (with_reducible apply keeps_free) | dsimp only)

theorem keeps_execGopi {r : State} (u : UnitRef) (x : Fields) (s : State) (h_s : Keeps r s) :
    ∀ t, execGopi u x s = .next t → Keeps r t := by
  unfold execGopi
  rintro _ ⟨⟩
  repeat' (first
      | with_reducible assumption | (with_reducible intro _)
      | (with_reducible (first
          | apply keeps_issue | apply keeps_gopiDef | apply keeps_ite | apply keeps_foldl))
      | split | (with_reducible apply keeps_free) | dsimp only)

theorem keeps_execPset {r : State} (u : UnitRef) (x : Fields) (s : State) (h_s : Keeps r s) :
    ∀ t, execPset u x s = .next t → Keeps r t := by
  unfold execPset
  rintro _ ⟨⟩
  repeat' (first
      | with_reducible assumption | (with_reducible intro _)
      | (with_reducible (first
          | apply keeps_issue | apply keeps_psetDef | apply keeps_ite | apply keeps_foldl))
      | split | (with_reducible apply keeps_free) | dsimp only)

theorem keeps_execGld {r : State} (u : UnitRef) (x : Fields) (s : State) (h_s : Keeps r s) :
    ∀ t, execGld u x s = .next t → Keeps r t := by
  unfold execGld
  rintro _ ⟨⟩
  repeat' (first
      | with_reducible assumption | (with_reducible intro _)
      | (with_reducible (first
          | apply keeps_issue | apply keeps_gldDef | apply keeps_ite | apply keeps_foldl))
      | split | (with_reducible apply keeps_free) | dsimp only)

theorem keeps_execGst {r : State} (u : UnitRef) (x : Fields) (s : State) (h_s : Keeps r s) :
    ∀ t, execGst u x s = .next t → Keeps r t := by
  unfold execGst
  rintro _ ⟨⟩
  repeat' (first
      | with_reducible assumption | (with_reducible intro _)
      | (with_reducible (first
          | apply keeps_issue | apply keeps_gstDef | apply keeps_ite | apply keeps_foldl))
      | split | (with_reducible apply keeps_free) | dsimp only)

theorem keeps_execDld {r : State} (u : UnitRef) (x : Fields) (s : State) (h_s : Keeps r s) :
    ∀ t, execDld u x s = .next t → Keeps r t := by
  unfold execDld
  rintro _ ⟨⟩
  repeat' (first
      | with_reducible assumption | (with_reducible intro _)
      | (with_reducible (first
          | apply keeps_issue | apply keeps_dldDef | apply keeps_ite | apply keeps_foldl))
      | split | (with_reducible apply keeps_free) | dsimp only)

theorem keeps_execDst {r : State} (u : UnitRef) (x : Fields) (s : State) (h_s : Keeps r s) :
    ∀ t, execDst u x s = .next t → Keeps r t := by
  unfold execDst
  rintro _ ⟨⟩
  repeat' (first
      | with_reducible assumption | (with_reducible intro _)
      | (with_reducible (first
          | apply keeps_issue | apply keeps_dstDef | apply keeps_ite | apply keeps_foldl))
      | split | (with_reducible apply keeps_free) | dsimp only)

theorem keeps_execDset {r : State} (u : UnitRef) (x : Fields) (s : State) (h_s : Keeps r s) :
    ∀ t, execDset u x s = .next t → Keeps r t := by
  unfold execDset
  rintro _ ⟨⟩
  repeat' (first
      | with_reducible assumption | (with_reducible intro _)
      | (with_reducible (first
          | apply keeps_issue | apply keeps_dsetDef | apply keeps_ite | apply keeps_foldl))
      | split | (with_reducible apply keeps_free) | dsimp only)

theorem keeps_execKset {r : State} (u : UnitRef) (x : Fields) (s : State) (h_s : Keeps r s) :
    ∀ t, execKset u x s = .next t → Keeps r t := by
  unfold execKset
  rintro _ ⟨⟩
  repeat' (first
      | with_reducible assumption | (with_reducible intro _)
      | (with_reducible (first
          | apply keeps_issue | apply keeps_ksetDef | apply keeps_ite | apply keeps_foldl))
      | split | (with_reducible apply keeps_free) | dsimp only)

theorem keeps_execKget {r : State} (u : UnitRef) (x : Fields) (s : State) (h_s : Keeps r s) :
    ∀ t, execKget u x s = .next t → Keeps r t := by
  unfold execKget
  rintro _ ⟨⟩
  repeat' (first
      | with_reducible assumption | (with_reducible intro _)
      | (with_reducible (first
          | apply keeps_issue | apply keeps_kgetDef | apply keeps_ite | apply keeps_foldl))
      | split | (with_reducible apply keeps_free) | dsimp only)

theorem keeps_execCset {r : State} (u : UnitRef) (x : Fields) (s : State) (h_s : Keeps r s) :
    ∀ t, execCset u x s = .next t → Keeps r t := by
  unfold execCset
  rintro _ ⟨⟩
  repeat' (first
      | with_reducible assumption | (with_reducible intro _)
      | (with_reducible (first
          | apply keeps_issue | apply keeps_csetDef | apply keeps_ite | apply keeps_foldl))
      | split | (with_reducible apply keeps_free) | dsimp only)

theorem keeps_execStrd {r : State} (u : UnitRef) (x : Fields) (s : State) (h_s : Keeps r s) :
    ∀ t, execStrd u x s = .next t → Keeps r t := by
  unfold execStrd
  rintro _ ⟨⟩
  repeat' (first
      | with_reducible assumption | (with_reducible intro _)
      | (with_reducible (first
          | apply keeps_issue | apply keeps_strdDef | apply keeps_ite | apply keeps_foldl))
      | split | (with_reducible apply keeps_free) | dsimp only)

theorem keeps_execStld {r : State} (u : UnitRef) (x : Fields) (s : State) (h_s : Keeps r s) :
    ∀ t, execStld u x s = .next t → Keeps r t := by
  unfold execStld
  rintro _ ⟨⟩
  repeat' (first
      | with_reducible assumption | (with_reducible intro _)
      | (with_reducible (first
          | apply keeps_issue | apply keeps_stldDef | apply keeps_ite | apply keeps_foldl))
      | split | (with_reducible apply keeps_free) | dsimp only)

theorem keeps_execStst {r : State} (u : UnitRef) (x : Fields) (s : State) (h_s : Keeps r s) :
    ∀ t, execStst u x s = .next t → Keeps r t := by
  unfold execStst
  rintro _ ⟨⟩
  repeat' (first
      | with_reducible assumption | (with_reducible intro _)
      | (with_reducible (first
          | apply keeps_issue | apply keeps_ststDef | apply keeps_ite | apply keeps_foldl))
      | split | (with_reducible apply keeps_free) | dsimp only)

theorem keeps_execPollMiss {r : State} (dom : Nat) (s : State) (h_s : Keeps r s) :
    ∀ t, execPollMiss dom s = .next t → Keeps r t := by
  unfold execPollMiss
  rintro _ ⟨⟩
  repeat' (first
      | with_reducible assumption | (with_reducible intro _)
      | (with_reducible (first
          | apply keeps_failDomain | apply keeps_ite | apply keeps_foldl))
      | split | (with_reducible apply keeps_free) | dsimp only)

theorem keeps_execEccUncorrectable {r : State} (addr : Nat) (u : UnitRef) (op : Nat) (s : State) (h_s : Keeps r s) :
    ∀ t, execEccUncorrectable addr u op s = .next t → Keeps r t := by
  unfold execEccUncorrectable
  rintro _ ⟨⟩
  repeat' (first
      | with_reducible assumption | (with_reducible intro _)
      | (with_reducible (first
          | apply keeps_eccData | apply keeps_failDomain | apply keeps_ite | apply keeps_foldl))
      | split | (with_reducible apply keeps_free) | dsimp only)

theorem keeps_execCorridorCrcFail {r : State} (src dst : Nat) (siteA siteB : Nat) (u : UnitRef) (op : Nat) (s : State) (h_s : Keeps r s) :
    ∀ t, execCorridorCrcFail src dst siteA siteB u op s = .next t → Keeps r t := by
  unfold execCorridorCrcFail
  rintro _ ⟨⟩
  repeat' (first
      | with_reducible assumption | (with_reducible intro _)
      | (with_reducible (first
          | apply keeps_corridorFail | apply keeps_ite | apply keeps_foldl))
      | split | (with_reducible apply keeps_free) | dsimp only)

theorem keeps_execDomainResetEnd {r : State} (dom : Nat) (selfTest : Bool) (failed : List Nat) (s : State) (h_s : Keeps r s) :
    ∀ t, execDomainResetEnd dom selfTest failed s = .next t → Keeps r t := by
  unfold execDomainResetEnd
  rintro _ ⟨⟩
  repeat' (first
      | with_reducible assumption | (with_reducible intro _)
      | (with_reducible (first
          | apply keeps_tryAgree | apply keeps_tryRestore | apply keeps_updateOn | apply keeps_endReset | apply keeps_ite
          | apply keeps_foldl))
      | split | (with_reducible apply keeps_free) | dsimp only)

theorem keeps_execPorchFault {r : State} (b : BootInputs) (s : State) (h_s : Keeps r s) :
    ∀ t, execPorchFault b s = .next t → Keeps r t := by
  unfold execPorchFault
  rintro _ ⟨⟩
  repeat' (first
      | with_reducible assumption | (with_reducible intro _)
      | (with_reducible (first
          | apply keeps_powerOn | apply keeps_ite | apply keeps_foldl))
      | split | (with_reducible apply keeps_free) | dsimp only)

def RecvKeeps (r : State) : Received → Prop
  | .dropped s => Keeps r s
  | .taken s => Keeps r s

theorem keeps_linkIn {r : State} (type : Nat) (p : PortRef) (fec : Option Nat) (f : List Byte) (s : State) (h : Keeps r s) :
    RecvKeeps r (linkIn type p fec f s) := by
  unfold linkIn
  cases fec with
  | none => exact keeps_sendRetry _ _ (keeps_bumpPort _ _ _ _ h)
  | some n =>
    dsimp only
    split
    · exact h
    · have h1 : Keeps r (bumpPort s p Reg.PORT_FEC_CORR_COUNT n) := keeps_bumpPort _ _ _ _ h
      generalize bumpPort s p Reg.PORT_FEC_CORR_COUNT n = s1 at h1
      split
      · exact keeps_sendRetry _ _ h1
      · split
        · split
          · exact keeps_sendRetry _ _ h1
          · exact h1
        · exact keeps_drainPort _ _ (keeps_addCredits _ _ _ _ (keeps_ackFlits _ _ _ (keeps_ite (keeps_setPort _ _ h1) h1)))

theorem keeps_withFlit {r : State} (type : Nat) (p : PortRef) (fec : Option Nat) (f : List Byte) (states : List Nat)
    (k : List Byte → State → State) (s : State) (h_k : ∀ y0 z, Keeps r z → Keeps r (k y0 z)) (h_s : Keeps r s) :
    Keeps r (withFlit type p fec f states k s) := by
  unfold withFlit
  refine keeps_ite ?_ h_s
  have h := keeps_linkIn type p fec f s h_s
  generalize linkIn type p fec f s = a at h ⊢
  cases a with
  | dropped z => exact h
  | taken z => exact h_k _ _ h

theorem keeps_assembled {r : State} (pk : List Byte) (s : State) (h_s : Keeps r s) :
    Keeps r (assembled pk s) := by
  unfold assembled
  repeat' (first
      | with_reducible assumption | (with_reducible intro _)
      | (with_reducible (first
          | apply keeps_bump | apply keeps_ite | apply keeps_foldl))
      | split | (with_reducible apply keeps_free) | dsimp only)

theorem keeps_joinData {r : State} (p : PortRef) (f : List Byte) (s : State) (h_s : Keeps r s) :
    Keeps r (joinData p f s) := by
  unfold joinData
  repeat' (first
      | with_reducible assumption | (with_reducible intro _)
      | (with_reducible (first
          | apply keeps_assembled | apply keeps_setPort | apply keeps_giveCredits | apply keeps_ite | apply keeps_foldl))
      | split | (with_reducible apply keeps_free) | dsimp only)

theorem keeps_execDataFlit {r : State} (p : PortRef) (fec : Option Nat) (flit : List Byte) (s : State) (h_s : Keeps r s) :
    ∀ t, execDataFlit p fec flit s = .next t → Keeps r t := by
  unfold execDataFlit
  rintro _ ⟨⟩
  repeat' (first
      | with_reducible assumption | (with_reducible intro _)
      | (with_reducible (first
          | apply keeps_withFlit | apply keeps_joinData | apply keeps_ite | apply keeps_foldl))
      | split | (with_reducible apply keeps_free) | dsimp only)

theorem keeps_resendFrom {r : State} (p : PortRef) (seq : Nat) (s : State) (h_s : Keeps r s) :
    Keeps r (resendFrom p seq s) := by
  unfold resendFrom
  repeat' (first
      | with_reducible assumption | (with_reducible intro _)
      | (with_reducible (first
          | apply keeps_enterRetrain | apply keeps_setPort | apply keeps_onLane | apply keeps_bumpPort | apply keeps_ite | apply keeps_foldl))
      | split | (with_reducible apply keeps_free) | dsimp only)

theorem keeps_execRetryFlit {r : State} (p : PortRef) (fec : Option Nat) (flit : List Byte) (s : State) (h_s : Keeps r s) :
    ∀ t, execRetryFlit p fec flit s = .next t → Keeps r t := by
  unfold execRetryFlit
  rintro _ ⟨⟩
  repeat' (first
      | with_reducible assumption | (with_reducible intro _)
      | (with_reducible (first
          | apply keeps_withFlit | apply keeps_resendFrom | apply keeps_ackFlits | apply keeps_ite | apply keeps_foldl))
      | split | (with_reducible apply keeps_free) | dsimp only)

theorem keeps_timestampIn {r : State} (p : PortRef) (t4 : Nat) (b : List Byte) (s : State) (h_s : Keeps r s) :
    Keeps r (timestampIn p t4 b s) := by
  unfold timestampIn
  repeat' (first
      | with_reducible assumption | (with_reducible intro _)
      | (with_reducible (first
          | apply keeps_sendFlit | apply keeps_tick | apply keeps_setPort | apply keeps_sendTimestamp | apply keeps_ite | apply keeps_foldl))
      | split | (with_reducible apply keeps_free) | dsimp only)

theorem keeps_execTimestampFlit {r : State} (p : PortRef) (fec : Option Nat) (t4 : Word) (flit : List Byte) (s : State) (h_s : Keeps r s) :
    ∀ t, execTimestampFlit p fec t4 flit s = .next t → Keeps r t := by
  unfold execTimestampFlit
  rintro _ ⟨⟩
  repeat' (first
      | with_reducible assumption | (with_reducible intro _)
      | (with_reducible (first
          | apply keeps_withFlit | apply keeps_timestampIn | apply keeps_ite | apply keeps_foldl))
      | split | (with_reducible apply keeps_free) | dsimp only)

theorem keeps_activate {r : State} (p : PortRef) (address : Nat) (beats : Bool) (s : State) (h_s : Keeps r s) :
    Keeps r (activate p address beats s) := by
  unfold activate
  repeat' (first
      | with_reducible assumption | (with_reducible intro _)
      | (with_reducible (first
          | apply keeps_setPortF | apply keeps_setPortState | apply keeps_setPort | apply keeps_routeWaiting | apply keeps_setPf
          | apply keeps_serveTx | apply keeps_sendFlit | apply keeps_ite | apply keeps_foldl))
      | split | (with_reducible apply keeps_free) | dsimp only)

theorem keeps_descriptorIn {r : State} (p : PortRef) (b : List Byte) (s : State) (h_s : Keeps r s) :
    Keeps r (descriptorIn p b s) := by
  unfold descriptorIn
  repeat' (first
      | with_reducible assumption | (with_reducible intro _)
      | (with_reducible (first
          | apply keeps_setPortF | apply keeps_activate | apply keeps_ite | apply keeps_foldl))
      | split | (with_reducible apply keeps_free) | dsimp only)

theorem keeps_execDescriptorFlit {r : State} (p : PortRef) (fec : Option Nat) (flit : List Byte) (s : State) (h_s : Keeps r s) :
    ∀ t, execDescriptorFlit p fec flit s = .next t → Keeps r t := by
  unfold execDescriptorFlit
  rintro _ ⟨⟩
  repeat' (first
      | with_reducible assumption | (with_reducible intro _)
      | (with_reducible (first
          | apply keeps_withFlit | apply keeps_descriptorIn | apply keeps_ite | apply keeps_foldl))
      | split | (with_reducible apply keeps_free) | dsimp only)

theorem keeps_execAnnounceFlit {r : State} (p : PortRef) (fec : Option Nat) (flit : List Byte) (s : State) (h_s : Keeps r s) :
    ∀ t, execAnnounceFlit p fec flit s = .next t → Keeps r t := by
  unfold execAnnounceFlit
  rintro _ ⟨⟩
  repeat' (first
      | with_reducible assumption | (with_reducible intro _)
      | (with_reducible (first
          | apply keeps_withFlit | apply keeps_announce | apply keeps_ite | apply keeps_foldl))
      | split | (with_reducible apply keeps_free) | dsimp only)

theorem keeps_execCreditFlit {r : State} (p : PortRef) (fec : Option Nat) (flit : List Byte) (s : State) (h_s : Keeps r s) :
    ∀ t, execCreditFlit p fec flit s = .next t → Keeps r t := by
  unfold execCreditFlit
  rintro _ ⟨⟩
  repeat' (first
      | with_reducible assumption | (with_reducible intro _)
      | (with_reducible (first
          | apply keeps_withFlit | apply keeps_drainPort | apply keeps_addCredits | apply keeps_ite | apply keeps_foldl))
      | split | (with_reducible apply keeps_free) | dsimp only)

theorem keeps_applyBeat {r : State} (p : PortRef) (beatTick : Nat) (s : State) (h_s : Keeps r s) :
    Keeps r (applyBeat p beatTick s) := by
  unfold applyBeat
  repeat' (first
      | with_reducible assumption | (with_reducible intro _)
      | (with_reducible (first
          | apply keeps_setPf | apply keeps_bump | apply keeps_moveTick | apply keeps_ite | apply keeps_foldl))
      | split | (with_reducible apply keeps_free) | dsimp only)

theorem keeps_execBeat {r : State} (p : PortRef) (fec : Option Nat) (flit : List Byte) (s : State) (h_s : Keeps r s) :
    ∀ t, execBeat p fec flit s = .next t → Keeps r t := by
  unfold execBeat
  rintro _ ⟨⟩
  repeat' (first
      | with_reducible assumption | (with_reducible intro _)
      | (with_reducible (first
          | apply keeps_withFlit | apply keeps_applyBeat | apply keeps_ite | apply keeps_foldl))
      | split | (with_reducible apply keeps_free) | dsimp only)

theorem keeps_execHoldoverEnter {r : State} (s : State) (h_s : Keeps r s) :
    ∀ t, execHoldoverEnter s = .next t → Keeps r t := by
  unfold execHoldoverEnter
  rintro _ ⟨⟩
  repeat' (first
      | with_reducible assumption | (with_reducible intro _)
      | (with_reducible (first
          | apply keeps_setPf | apply keeps_ite | apply keeps_foldl))
      | split | (with_reducible apply keeps_free) | dsimp only)

theorem keeps_execEpochTickLimit {r : State} (s : State) (h_s : Keeps r s) :
    ∀ t, execEpochTickLimit s = .next t → Keeps r t := by
  unfold execEpochTickLimit
  rintro _ ⟨⟩
  repeat' (first
      | with_reducible assumption | (with_reducible intro _)
      | (with_reducible (first
          | apply keeps_jobRestart | apply keeps_ite | apply keeps_foldl))
      | split | (with_reducible apply keeps_free) | dsimp only)

theorem keeps_packetGone {r : State} (pk : List Byte) (s : State) (h_s : Keeps r s) :
    Keeps r (packetGone pk s) := by
  unfold packetGone
  repeat' (first
      | with_reducible assumption | (with_reducible intro _)
      | (with_reducible (first
          | apply keeps_releaseDue | apply keeps_ite | apply keeps_foldl))
      | split | (with_reducible apply keeps_free) | dsimp only)

theorem keeps_letterIn {r : State} (pk : List Byte) (seq : Nat) (payload : List Byte) (s : State) (h_s : Keeps r s) :
    Keeps r (letterIn pk seq payload s) := by
  unfold letterIn
  repeat' (first
      | with_reducible assumption | (with_reducible intro _)
      | (with_reducible (first
          | apply keeps_packetGone | apply keeps_answerLost | apply keeps_fillIn | apply keeps_ite | apply keeps_foldl))
      | split | (with_reducible apply keeps_free) | dsimp only)

theorem keeps_deliver {r : State} (pk : List Byte) (seq : Nat) (payload : List Byte) (s : State) (h_s : Keeps r s) :
    Keeps r (deliver pk seq payload s) := by
  unfold deliver
  repeat' (first
      | with_reducible assumption | (with_reducible intro _)
      | (with_reducible (first
          | apply keeps_letterIn | apply keeps_packetGone | apply keeps_ite | apply keeps_foldl))
      | split | (with_reducible apply keeps_free) | dsimp only)

theorem keeps_execFabricLbMessage {r : State} (pk : List Byte) (seq : Nat) (payload : List Byte) (s : State) (h : Keeps r s) :
    ∀ t, execFabricLbMessage pk seq payload s = .next t → Keeps r t := by
  unfold execFabricLbMessage
  rintro _ ⟨⟩
  have ha := keeps_arrive pk s h
  generalize arrive pk s = a at ha ⊢
  cases a with
  | gone z => exact keeps_packetGone _ _ (keeps_ite (keeps_returnAck _ _ _ _ ha) ha)
  | later z => exact keeps_deliver _ _ _ _ (keeps_joinRestart _ ha)
  | here z => exact keeps_deliver _ _ _ _ ha

theorem keeps_ackReturned {r : State} (pk : List Byte) (seq : Nat) (code : Nat) (s : State) (h_s : Keeps r s) :
    Keeps r (ackReturned pk seq code s) := by
  unfold ackReturned
  repeat' (first
      | with_reducible assumption | (with_reducible intro _)
      | (with_reducible (first
          | apply keeps_packetGone | apply keeps_ackSlot | apply keeps_ite | apply keeps_foldl))
      | split | (with_reducible apply keeps_free) | dsimp only)

theorem keeps_execFabricLbAckReturn {r : State} (pk : List Byte) (seq code : Nat) (s : State) (h : Keeps r s) :
    ∀ t, execFabricLbAckReturn pk seq code s = .next t → Keeps r t := by
  unfold execFabricLbAckReturn
  rintro _ ⟨⟩
  have ha := keeps_arrive pk s h
  generalize arrive pk s = a at ha ⊢
  cases a with
  | gone z => exact keeps_packetGone _ _ ha
  | later z => exact keeps_ackReturned _ _ _ _ (keeps_joinRestart _ ha)
  | here z => exact keeps_ackReturned _ _ _ _ ha

theorem keeps_execLbClaim {r : State} (agent : Agent) (box : Nat) (v : Word) (s : State) (h_s : Keeps r s) :
    ∀ t, execLbClaim agent box v s = .next t → Keeps r t := by
  unfold execLbClaim
  rintro _ ⟨⟩
  repeat' (first
      | with_reducible assumption | (with_reducible intro _)
      | (with_reducible (first
          | apply keeps_boxCommand | apply keeps_ite | apply keeps_foldl))
      | split | (with_reducible apply keeps_free) | dsimp only)

theorem keeps_execLbRing {r : State} (agent : Agent) (box : Nat) (v : Word) (s : State) (h_s : Keeps r s) :
    ∀ t, execLbRing agent box v s = .next t → Keeps r t := by
  unfold execLbRing
  rintro _ ⟨⟩
  repeat' (first
      | with_reducible assumption | (with_reducible intro _)
      | (with_reducible (first
          | apply keeps_boxCommand | apply keeps_ite | apply keeps_foldl))
      | split | (with_reducible apply keeps_free) | dsimp only)

theorem keeps_execLbAck {r : State} (agent : Agent) (box : Nat) (v : Word) (s : State) (h_s : Keeps r s) :
    ∀ t, execLbAck agent box v s = .next t → Keeps r t := by
  unfold execLbAck
  rintro _ ⟨⟩
  repeat' (first
      | with_reducible assumption | (with_reducible intro _)
      | (with_reducible (first
          | apply keeps_boxCommand | apply keeps_ite | apply keeps_foldl))
      | split | (with_reducible apply keeps_free) | dsimp only)

theorem keeps_execLbRelease {r : State} (agent : Agent) (box : Nat) (v : Word) (s : State) (h_s : Keeps r s) :
    ∀ t, execLbRelease agent box v s = .next t → Keeps r t := by
  unfold execLbRelease
  rintro _ ⟨⟩
  repeat' (first
      | with_reducible assumption | (with_reducible intro _)
      | (with_reducible (first
          | apply keeps_boxCommand | apply keeps_ite | apply keeps_foldl))
      | split | (with_reducible apply keeps_free) | dsimp only)

theorem keeps_execLbMaskWrite {r : State} (agent : Agent) (box : Nat) (v : Word) (s : State) (h_s : Keeps r s) :
    ∀ t, execLbMaskWrite agent box v s = .next t → Keeps r t := by
  unfold execLbMaskWrite
  rintro _ ⟨⟩
  repeat' (first
      | with_reducible assumption | (with_reducible intro _)
      | (with_reducible (first
          | apply keeps_boxCommand | apply keeps_ite | apply keeps_foldl))
      | split | (with_reducible apply keeps_free) | dsimp only)

theorem keeps_execHallAccessFault {r : State} (hart : Nat) (addr : Nat) (store : Bool) (s : State) (h_s : Keeps r s) :
    ∀ t, execHallAccessFault hart addr store s = .next t → Keeps r t := by
  unfold execHallAccessFault
  rintro _ ⟨⟩
  repeat' (first
      | with_reducible assumption | (with_reducible intro _)
      | (with_reducible (first
          | apply keeps_hallFault | apply keeps_ite | apply keeps_foldl))
      | split | (with_reducible apply keeps_free) | dsimp only)

theorem keeps_execTld {r : State} (u : UnitRef) (x : Fields) (s : State) (h_s : Keeps r s) :
    ∀ t, execTld u x s = .next t → Keeps r t := by
  unfold execTld
  rintro _ ⟨⟩
  repeat' (first
      | with_reducible assumption | (with_reducible intro _)
      | (with_reducible (first
          | apply keeps_issue | apply keeps_tldDef | apply keeps_ite | apply keeps_foldl))
      | split | (with_reducible apply keeps_free) | dsimp only)

theorem keeps_execTst {r : State} (u : UnitRef) (x : Fields) (s : State) (h_s : Keeps r s) :
    ∀ t, execTst u x s = .next t → Keeps r t := by
  unfold execTst
  rintro _ ⟨⟩
  repeat' (first
      | with_reducible assumption | (with_reducible intro _)
      | (with_reducible (first
          | apply keeps_issue | apply keeps_tstDef | apply keeps_ite | apply keeps_foldl))
      | split | (with_reducible apply keeps_free) | dsimp only)

theorem keeps_execQnt {r : State} (u : UnitRef) (x : Fields) (s : State) (h_s : Keeps r s) :
    ∀ t, execQnt u x s = .next t → Keeps r t := by
  unfold execQnt
  rintro _ ⟨⟩
  repeat' (first
      | with_reducible assumption | (with_reducible intro _)
      | (with_reducible (first
          | apply keeps_issue | apply keeps_qntDef | apply keeps_ite | apply keeps_foldl))
      | split | (with_reducible apply keeps_free) | dsimp only)

theorem keeps_execMma {r : State} (u : UnitRef) (x : Fields) (s : State) (h_s : Keeps r s) :
    ∀ t, execMma u x s = .next t → Keeps r t := by
  unfold execMma
  rintro _ ⟨⟩
  repeat' (first
      | with_reducible assumption | (with_reducible intro _)
      | (with_reducible (first
          | apply keeps_issue | apply keeps_mmaDef | apply keeps_ite | apply keeps_foldl))
      | split | (with_reducible apply keeps_free) | dsimp only)

theorem keeps_execLdown {r : State} (u : UnitRef) (x : Fields) (s : State) (h_s : Keeps r s) :
    ∀ t, execLdown u x s = .next t → Keeps r t := by
  unfold execLdown
  rintro _ ⟨⟩
  repeat' (first
      | with_reducible assumption | (with_reducible intro _)
      | (with_reducible (first
          | apply keeps_issue | apply keeps_ldownDef | apply keeps_ite | apply keeps_foldl))
      | split | (with_reducible apply keeps_free) | dsimp only)

theorem keeps_execDrain {r : State} (u : UnitRef) (x : Fields) (s : State) (h_s : Keeps r s) :
    ∀ t, execDrain u x s = .next t → Keeps r t := by
  unfold execDrain
  rintro _ ⟨⟩
  repeat' (first
      | with_reducible assumption | (with_reducible intro _)
      | (with_reducible (first
          | apply keeps_issue | apply keeps_drainDef | apply keeps_ite | apply keeps_foldl))
      | split | (with_reducible apply keeps_free) | dsimp only)

theorem keeps_execCzero {r : State} (u : UnitRef) (x : Fields) (s : State) (h_s : Keeps r s) :
    ∀ t, execCzero u x s = .next t → Keeps r t := by
  unfold execCzero
  rintro _ ⟨⟩
  repeat' (first
      | with_reducible assumption | (with_reducible intro _)
      | (with_reducible (first
          | apply keeps_issue | apply keeps_czeroDef | apply keeps_ite | apply keeps_foldl))
      | split | (with_reducible apply keeps_free) | dsimp only)

theorem keeps_execCxferRead {r : State} (u : UnitRef) (x : Fields) (s : State) (h_s : Keeps r s) :
    ∀ t, execCxferRead u x s = .next t → Keeps r t := by
  unfold execCxferRead
  rintro _ ⟨⟩
  repeat' (first
      | with_reducible assumption | (with_reducible intro _)
      | (with_reducible (first
          | apply keeps_issue | apply keeps_cxferReadDef | apply keeps_ite | apply keeps_foldl))
      | split | (with_reducible apply keeps_free) | dsimp only)

theorem keeps_execCxferAdd {r : State} (u : UnitRef) (x : Fields) (s : State) (h_s : Keeps r s) :
    ∀ t, execCxferAdd u x s = .next t → Keeps r t := by
  unfold execCxferAdd
  rintro _ ⟨⟩
  repeat' (first
      | with_reducible assumption | (with_reducible intro _)
      | (with_reducible (first
          | apply keeps_issue | apply keeps_cxferAddDef | apply keeps_ite | apply keeps_foldl))
      | split | (with_reducible apply keeps_free) | dsimp only)

theorem keeps_whileOn {r : State} (f : State → State) (s : State) (h_f : ∀  z, Keeps r z → Keeps r (f  z)) (h_s : Keeps r s) :
    Keeps r (whileOn f s) := by
  unfold whileOn
  repeat' (first
      | with_reducible assumption | (with_reducible intro _)
      | (with_reducible (first
          | apply h_f | apply keeps_ite | apply keeps_foldl))
      | split | (with_reducible apply keeps_free) | dsimp only)

theorem keeps_onDie {r : State} (dom : Nat) (f : State → State) (s : State) (h_f : ∀  z, Keeps r z → Keeps r (f  z)) (h_s : Keeps r s) :
    Keeps r (onDie dom f s) := by
  unfold onDie
  repeat' (first
      | with_reducible assumption | (with_reducible intro _)
      | (with_reducible (first
          | apply h_f | apply keeps_ite | apply keeps_foldl))
      | split | (with_reducible apply keeps_free) | dsimp only)

theorem keeps_execOppointRampDone {r : State} (dom : Nat) (s : State) (h_s : Keeps r s) :
    ∀ t, execOppointRampDone dom s = .next t → Keeps r t := by
  unfold execOppointRampDone
  rintro _ ⟨⟩
  repeat' (first
      | with_reducible assumption | (with_reducible intro _)
      | (with_reducible (first
          | apply keeps_onDie | apply keeps_rampDone | apply keeps_ite | apply keeps_foldl))
      | split | (with_reducible apply keeps_free) | dsimp only)

theorem keeps_execPowerSample {r : State} (milliwatts : Nat) (s : State) (h_s : Keeps r s) :
    ∀ t, execPowerSample milliwatts s = .next t → Keeps r t := by
  unfold execPowerSample
  rintro _ ⟨⟩
  repeat' (first
      | with_reducible assumption | (with_reducible intro _)
      | (with_reducible (first
          | apply keeps_whileOn | apply keeps_powerSample | apply keeps_ite | apply keeps_foldl))
      | split | (with_reducible apply keeps_free) | dsimp only)

theorem keeps_execLimiterStep {r : State} (s : State) (h_s : Keeps r s) :
    ∀ t, execLimiterStep s = .next t → Keeps r t := by
  unfold execLimiterStep
  rintro _ ⟨⟩
  repeat' (first
      | with_reducible assumption | (with_reducible intro _)
      | (with_reducible (first
          | apply keeps_whileOn | apply keeps_limiterStep | apply keeps_ite | apply keeps_foldl))
      | split | (with_reducible apply keeps_free) | dsimp only)

theorem keeps_execGrantInForce {r : State} (n : Nat) (s : State) (h_s : Keeps r s) :
    ∀ t, execGrantInForce n s = .next t → Keeps r t := by
  unfold execGrantInForce
  rintro _ ⟨⟩
  repeat' (first
      | with_reducible assumption | (with_reducible intro _)
      | (with_reducible (first
          | apply keeps_grantInForce | apply keeps_ite | apply keeps_foldl))
      | split | (with_reducible apply keeps_free) | dsimp only)

theorem keeps_execAutoGrantRelease {r : State} (u : UnitRef) (s : State) (h_s : Keeps r s) :
    ∀ t, execAutoGrantRelease u s = .next t → Keeps r t := by
  unfold execAutoGrantRelease
  rintro _ ⟨⟩
  repeat' (first
      | with_reducible assumption | (with_reducible intro _)
      | (with_reducible (first
          | apply keeps_releaseAuto | apply keeps_ite | apply keeps_foldl))
      | split | (with_reducible apply keeps_free) | dsimp only)

theorem keeps_execAgeingCheck {r : State} (dom : Nat) (margin : Nat) (s : State) (h_s : Keeps r s) :
    ∀ t, execAgeingCheck dom margin s = .next t → Keeps r t := by
  unfold execAgeingCheck
  rintro _ ⟨⟩
  repeat' (first
      | with_reducible assumption | (with_reducible intro _)
      | (with_reducible (first
          | apply keeps_onDie | apply keeps_ageingCheck | apply keeps_ite | apply keeps_foldl))
      | split | (with_reducible apply keeps_free) | dsimp only)

theorem keeps_execConvergenceStep {r : State} (temps : List (Nat × Nat)) (s : State) (h_s : Keeps r s) :
    ∀ t, execConvergenceStep temps s = .next t → Keeps r t := by
  unfold execConvergenceStep
  rintro _ ⟨⟩
  repeat' (first
      | with_reducible assumption | (with_reducible intro _)
      | (with_reducible (first
          | apply keeps_whileOn | apply keeps_convergenceStep | apply keeps_ite | apply keeps_foldl))
      | split | (with_reducible apply keeps_free) | dsimp only)

theorem keeps_execThermalCapStep {r : State} (temps : List (Nat × Nat)) (s : State) (h_s : Keeps r s) :
    ∀ t, execThermalCapStep temps s = .next t → Keeps r t := by
  unfold execThermalCapStep
  rintro _ ⟨⟩
  repeat' (first
      | with_reducible assumption | (with_reducible intro _)
      | (with_reducible (first
          | apply keeps_whileOn | apply keeps_thermalStep | apply keeps_ite | apply keeps_foldl))
      | split | (with_reducible apply keeps_free) | dsimp only)

theorem keeps_execThermalEmergency {r : State} (dom : Nat) (temp : Nat) (s : State) (h_s : Keeps r s) :
    ∀ t, execThermalEmergency dom temp s = .next t → Keeps r t := by
  unfold execThermalEmergency
  rintro _ ⟨⟩
  repeat' (first
      | with_reducible assumption | (with_reducible intro _)
      | (with_reducible (first
          | apply keeps_thermalEmergency | apply keeps_ite | apply keeps_foldl))
      | split | (with_reducible apply keeps_free) | dsimp only)

theorem keeps_execThermalTrip {r : State} (dom temp : Nat) (s : State)
    (h : Keeps r s) : ∀ t, execThermalTrip dom temp s = .next t → Keeps r t := by
  unfold execThermalTrip
  rintro _ ⟨⟩
  exact keeps_ite (keeps_powerOff _ (keeps_owe _ _ (keeps_mram _ _ _ _ _ _ _ (Nat.le_refl _) h))) h

theorem keeps_execEmergencyEnd {r : State} (temps : List (Nat × Nat)) (s : State) (h_s : Keeps r s) :
    ∀ t, execEmergencyEnd temps s = .next t → Keeps r t := by
  unfold execEmergencyEnd
  rintro _ ⟨⟩
  repeat' (first
      | with_reducible assumption | (with_reducible intro _)
      | (with_reducible (first
          | apply keeps_whileOn | apply keeps_emergencyEnd | apply keeps_ite | apply keeps_foldl))
      | split | (with_reducible apply keeps_free) | dsimp only)

theorem keeps_execDroopTrip {r : State} (dom : Nat) (s : State) (h_s : Keeps r s) :
    ∀ t, execDroopTrip dom s = .next t → Keeps r t := by
  unfold execDroopTrip
  rintro _ ⟨⟩
  repeat' (first
      | with_reducible assumption | (with_reducible intro _)
      | (with_reducible (first
          | apply keeps_onDie | apply keeps_droopTrip | apply keeps_ite | apply keeps_foldl))
      | split | (with_reducible apply keeps_free) | dsimp only)

theorem keeps_execDroopWindowClose {r : State} (dom : Nat) (s : State) (h_s : Keeps r s) :
    ∀ t, execDroopWindowClose dom s = .next t → Keeps r t := by
  unfold execDroopWindowClose
  rintro _ ⟨⟩
  repeat' (first
      | with_reducible assumption | (with_reducible intro _)
      | (with_reducible (first
          | apply keeps_onDie | apply keeps_droopClose | apply keeps_ite | apply keeps_foldl))
      | split | (with_reducible apply keeps_free) | dsimp only)

theorem keeps_execFrozenRampResume {r : State} (dom : Nat) (s : State) (h_s : Keeps r s) :
    ∀ t, execFrozenRampResume dom s = .next t → Keeps r t := by
  unfold execFrozenRampResume
  rintro _ ⟨⟩
  repeat' (first
      | with_reducible assumption | (with_reducible intro _)
      | (with_reducible (first
          | apply keeps_onDie | apply keeps_resumeRamp | apply keeps_ite | apply keeps_foldl))
      | split | (with_reducible apply keeps_free) | dsimp only)

theorem keeps_execSlowNoticeSend {r : State} (s : State) (h_s : Keeps r s) :
    ∀ t, execSlowNoticeSend s = .next t → Keeps r t := by
  unfold execSlowNoticeSend
  rintro _ ⟨⟩
  repeat' (first
      | with_reducible assumption | (with_reducible intro _)
      | (with_reducible (first
          | apply keeps_whileOn | apply keeps_slowSend | apply keeps_ite | apply keeps_foldl))
      | split | (with_reducible apply keeps_free) | dsimp only)

theorem keeps_execSlowNoticeReceive {r : State} (pk : List Byte) (s : State) (h_s : Keeps r s) :
    ∀ t, execSlowNoticeReceive pk s = .next t → Keeps r t := by
  unfold execSlowNoticeReceive
  rintro _ ⟨⟩
  repeat' (first
      | with_reducible assumption | (with_reducible intro _)
      | (with_reducible (first
          | apply keeps_onPacket | apply keeps_takeNotice | apply keeps_ite | apply keeps_foldl))
      | split | (with_reducible apply keeps_free) | dsimp only)

theorem keeps_runStart {r : State} (q : Nat) (seq : Nat) (idx : Nat) (s : State) (h_s : Keeps r s) :
    Keeps r (runStart q seq idx s) := by
  unfold runStart
  repeat' (first
      | with_reducible assumption | (with_reducible intro _)
      | (with_reducible (first
          | apply unitOk_getUnit | apply keeps_finishCmd | apply keeps_logFault | apply keeps_setStage | apply keeps_startProgram
          | apply keeps_ite | apply keeps_foldl))
      | split | (with_reducible apply keeps_free) | dsimp only)

theorem keeps_execRun {r : State} (q : Nat) (seq : Nat) (idx : Nat) (s : State) (h_s : Keeps r s) :
    ∀ t, execRun q seq idx s = .next t → Keeps r t := by
  unfold execRun
  rintro _ ⟨⟩
  repeat' (first
      | with_reducible assumption | (with_reducible intro _)
      | (with_reducible (first
          | apply keeps_runStart | apply keeps_ite | apply keeps_foldl))
      | split | (with_reducible apply keeps_free) | dsimp only)

theorem keeps_waitTest {r : State} (q : Nat) (seq : Nat) (s : State) (h_s : Keeps r s) :
    Keeps r (waitTest q seq s) := by
  unfold waitTest
  repeat' (first
      | with_reducible assumption | (with_reducible intro _)
      | (with_reducible (first
          | apply keeps_finishCmd | apply keeps_logFault | apply keeps_ite | apply keeps_foldl))
      | split | (with_reducible apply keeps_free) | dsimp only)

theorem keeps_execWait {r : State} (q : Nat) (seq : Nat) (s : State) (h_s : Keeps r s) :
    ∀ t, execWait q seq s = .next t → Keeps r t := by
  unfold execWait
  rintro _ ⟨⟩
  repeat' (first
      | with_reducible assumption | (with_reducible intro _)
      | (with_reducible (first
          | apply keeps_waitTest | apply keeps_ite | apply keeps_foldl))
      | split | (with_reducible apply keeps_free) | dsimp only)

theorem keeps_markerDone {r : State} (q : Nat) (seq : Nat) (s : State) (h_s : Keeps r s) :
    Keeps r (markerDone q seq s) := by
  unfold markerDone
  repeat' (first
      | with_reducible assumption | (with_reducible intro _)
      | (with_reducible (first
          | apply keeps_finishCmd | apply keeps_ite | apply keeps_foldl))
      | split | (with_reducible apply keeps_free) | dsimp only)

theorem keeps_execMarker {r : State} (q : Nat) (seq : Nat) (s : State) (h_s : Keeps r s) :
    ∀ t, execMarker q seq s = .next t → Keeps r t := by
  unfold execMarker
  rintro _ ⟨⟩
  repeat' (first
      | with_reducible assumption | (with_reducible intro _)
      | (with_reducible (first
          | apply keeps_markerDone | apply keeps_ite | apply keeps_foldl))
      | split | (with_reducible apply keeps_free) | dsimp only)

theorem keeps_execCommandAccept {r : State} (q : Nat) (s : State) (h : Keeps r s) : ∀ t, execCommandAccept q s = .next t → Keeps r t := by
  unfold execCommandAccept
  rintro _ ⟨⟩
  split
  · next hm =>
    simp only [mayAccept, Bool.and_eq_true, decide_eq_true_eq] at hm
    exact keeps_acceptCmd _ _ h hm.1.1.2
  · exact h

theorem keeps_execCompletionWrite {r : State} (q : Nat) (s : State) (h_s : Keeps r s) :
    ∀ t, execCompletionWrite q s = .next t → Keeps r t := by
  unfold execCompletionWrite
  rintro _ ⟨⟩
  repeat' (first
      | with_reducible assumption | (with_reducible intro _)
      | (with_reducible (first
          | apply keeps_writeCompletion | apply keeps_ite | apply keeps_foldl))
      | split | (with_reducible apply keeps_free) | dsimp only)

theorem keeps_tickOnce {r : State} (s : State) (h_s : Keeps r s) :
    Keeps r (tickOnce s) := by
  unfold tickOnce
  repeat' (first
      | with_reducible assumption | (with_reducible intro _)
      | (with_reducible (first
          | apply keeps_moveTick | apply keeps_ite | apply keeps_foldl))
      | split | (with_reducible apply keeps_free) | dsimp only)

theorem keeps_residency {r : State} (s : State) (dom : Nat) (h_s : Keeps r s) :
    Keeps r (residency s dom) := by
  unfold residency
  repeat' (first
      | with_reducible assumption | (with_reducible intro _)
      | (with_reducible (first
          | apply keeps_bump | apply keeps_ite | apply keeps_foldl))
      | split | (with_reducible apply keeps_free) | dsimp only)

theorem keeps_returnPorts {r : State} (s : State) (h_s : Keeps r s) :
    Keeps r (returnPorts s) := by
  unfold returnPorts
  repeat' (first
      | with_reducible assumption | (with_reducible intro _)
      | (with_reducible (first
          | apply keeps_setPortState | apply keeps_ite | apply keeps_foldl))
      | split | (with_reducible apply keeps_free) | dsimp only)

theorem keeps_execStairTick {r : State} (s : State) (h_s : Keeps r s) :
    ∀ t, execStairTick s = .next t → Keeps r t := by
  unfold execStairTick
  rintro _ ⟨⟩
  repeat' (first
      | with_reducible assumption | (with_reducible intro _)
      | (with_reducible (first
          | apply keeps_returnPorts | apply keeps_residency | apply keeps_tickOnce | apply keeps_ite | apply keeps_foldl))
      | split | (with_reducible apply keeps_free) | dsimp only)

theorem keeps_execXfer {r : State} (u : UnitRef) (x : Fields) (s : State) (h_s : Keeps r s) :
    ∀ t, execXfer u x s = .next t → Keeps r t := by
  unfold execXfer
  rintro _ ⟨⟩
  repeat' (first
      | with_reducible assumption | (with_reducible intro _)
      | (with_reducible (first
          | apply keeps_issue | apply keeps_xferDef | apply keeps_ite | apply keeps_foldl))
      | split | (with_reducible apply keeps_free) | dsimp only)

theorem keeps_execColl {r : State} (u : UnitRef) (x : Fields) (s : State) (h_s : Keeps r s) :
    ∀ t, execColl u x s = .next t → Keeps r t := by
  unfold execColl
  rintro _ ⟨⟩
  repeat' (first
      | with_reducible assumption | (with_reducible intro _)
      | (with_reducible (first
          | apply keeps_issue | apply keeps_collDef | apply keeps_ite | apply keeps_foldl))
      | split | (with_reducible apply keeps_free) | dsimp only)

theorem keeps_execWaitst {r : State} (u : UnitRef) (x : Fields) (s : State) (h_s : Keeps r s) :
    ∀ t, execWaitst u x s = .next t → Keeps r t := by
  unfold execWaitst
  rintro _ ⟨⟩
  repeat' (first
      | with_reducible assumption | (with_reducible intro _)
      | (with_reducible (first
          | apply keeps_issue | apply keeps_waitstDef | apply keeps_ite | apply keeps_foldl))
      | split | (with_reducible apply keeps_free) | dsimp only)

theorem keeps_execLanding {r : State} (u : UnitRef) (x : Fields) (s : State) (h_s : Keeps r s) :
    ∀ t, execLanding u x s = .next t → Keeps r t := by
  unfold execLanding
  rintro _ ⟨⟩
  repeat' (first
      | with_reducible assumption | (with_reducible intro _)
      | (with_reducible (first
          | apply keeps_issue | apply keeps_landingDef | apply keeps_ite | apply keeps_foldl))
      | split | (with_reducible apply keeps_free) | dsimp only)

theorem keeps_execLandingCancel {r : State} (u : UnitRef) (x : Fields) (s : State) (h_s : Keeps r s) :
    ∀ t, execLandingCancel u x s = .next t → Keeps r t := by
  unfold execLandingCancel
  rintro _ ⟨⟩
  repeat' (first
      | with_reducible assumption | (with_reducible intro _)
      | (with_reducible (first
          | apply keeps_issue | apply keeps_landingCancelDef | apply keeps_ite | apply keeps_foldl))
      | split | (with_reducible apply keeps_free) | dsimp only)

theorem keeps_execFence {r : State} (u : UnitRef) (x : Fields) (s : State) (h_s : Keeps r s) :
    ∀ t, execFence u x s = .next t → Keeps r t := by
  unfold execFence
  rintro _ ⟨⟩
  repeat' (first
      | with_reducible assumption | (with_reducible intro _)
      | (with_reducible (first
          | apply keeps_issue | apply keeps_fenceDef | apply keeps_ite | apply keeps_foldl))
      | split | (with_reducible apply keeps_free) | dsimp only)

theorem keeps_execRing {r : State} (u : UnitRef) (x : Fields) (s : State) (h_s : Keeps r s) :
    ∀ t, execRing u x s = .next t → Keeps r t := by
  unfold execRing
  rintro _ ⟨⟩
  repeat' (first
      | with_reducible assumption | (with_reducible intro _)
      | (with_reducible (first
          | apply keeps_issue | apply keeps_ringDef | apply keeps_ite | apply keeps_foldl))
      | split | (with_reducible apply keeps_free) | dsimp only)

theorem keeps_execPgrant {r : State} (u : UnitRef) (x : Fields) (s : State) (h_s : Keeps r s) :
    ∀ t, execPgrant u x s = .next t → Keeps r t := by
  unfold execPgrant
  rintro _ ⟨⟩
  repeat' (first
      | with_reducible assumption | (with_reducible intro _)
      | (with_reducible (first
          | apply keeps_issue | apply keeps_pgrantDef | apply keeps_ite | apply keeps_foldl))
      | split | (with_reducible apply keeps_free) | dsimp only)

theorem keeps_execOpenStash {r : State} (u : UnitRef) (x : Fields) (s : State) (h_s : Keeps r s) :
    ∀ t, execOpenStash u x s = .next t → Keeps r t := by
  unfold execOpenStash
  rintro _ ⟨⟩
  repeat' (first
      | with_reducible assumption | (with_reducible intro _)
      | (with_reducible (first
          | apply keeps_issue | apply keeps_openDef | apply keeps_ite | apply keeps_foldl))
      | split | (with_reducible apply keeps_free) | dsimp only)

theorem keeps_execRelease {r : State} (u : UnitRef) (x : Fields) (s : State) (h_s : Keeps r s) :
    ∀ t, execRelease u x s = .next t → Keeps r t := by
  unfold execRelease
  rintro _ ⟨⟩
  repeat' (first
      | with_reducible assumption | (with_reducible intro _)
      | (with_reducible (first
          | apply keeps_issue | apply keeps_releaseDef | apply keeps_ite | apply keeps_foldl))
      | split | (with_reducible apply keeps_free) | dsimp only)

theorem keeps_execCloseStash {r : State} (u : UnitRef) (x : Fields) (s : State) (h_s : Keeps r s) :
    ∀ t, execCloseStash u x s = .next t → Keeps r t := by
  unfold execCloseStash
  rintro _ ⟨⟩
  repeat' (first
      | with_reducible assumption | (with_reducible intro _)
      | (with_reducible (first
          | apply keeps_issue | apply keeps_closeDef | apply keeps_ite | apply keeps_foldl))
      | split | (with_reducible apply keeps_free) | dsimp only)

theorem keeps_execOffload {r : State} (u : UnitRef) (x : Fields) (s : State) (h_s : Keeps r s) :
    ∀ t, execOffload u x s = .next t → Keeps r t := by
  unfold execOffload
  rintro _ ⟨⟩
  repeat' (first
      | with_reducible assumption | (with_reducible intro _)
      | (with_reducible (first
          | apply keeps_issue | apply keeps_offloadDef | apply keeps_ite | apply keeps_foldl))
      | split | (with_reducible apply keeps_free) | dsimp only)

theorem keeps_execPrefetch {r : State} (u : UnitRef) (x : Fields) (s : State) (h_s : Keeps r s) :
    ∀ t, execPrefetch u x s = .next t → Keeps r t := by
  unfold execPrefetch
  rintro _ ⟨⟩
  repeat' (first
      | with_reducible assumption | (with_reducible intro _)
      | (with_reducible (first
          | apply keeps_issue | apply keeps_prefetchDef | apply keeps_ite | apply keeps_foldl))
      | split | (with_reducible apply keeps_free) | dsimp only)

theorem keeps_execStashMoveSwitch {r : State} (u : UnitRef) (op : Nat) (s : State) (h_s : Keeps r s) :
    ∀ t, execStashMoveSwitch u op s = .next t → Keeps r t := by
  unfold execStashMoveSwitch
  rintro _ ⟨⟩
  repeat' (first
      | with_reducible assumption | (with_reducible intro _)
      | (with_reducible (first
          | apply keeps_switchOf | apply keeps_ite | apply keeps_foldl))
      | split | (with_reducible apply keeps_free) | dsimp only)

theorem keeps_execIssueWaitEnd {r : State} (u : UnitRef) (s : State) (h_s : Keeps r s) :
    ∀ t, execIssueWaitEnd u s = .next t → Keeps r t := by
  unfold execIssueWaitEnd
  rintro _ ⟨⟩
  repeat' (first
      | with_reducible assumption | (with_reducible intro _)
      | (with_reducible (first
          | apply keeps_lookAgain | apply keeps_ite | apply keeps_foldl))
      | split | (with_reducible apply keeps_free) | dsimp only)

theorem keeps_execOperationComplete {r : State} (u : UnitRef) (op : Nat) (s : State) (h_s : Keeps r s) :
    ∀ t, execOperationComplete u op s = .next t → Keeps r t := by
  unfold execOperationComplete
  rintro _ ⟨⟩
  repeat' (first
      | with_reducible assumption | (with_reducible intro _)
      | (with_reducible (first
          | apply keeps_completeNow | apply keeps_ite | apply keeps_foldl))
      | split | (with_reducible apply keeps_free) | dsimp only)

theorem keeps_startWaiting {r : State} (dom : Nat) (s : State) (h_s : Keeps r s) :
    Keeps r (startWaiting dom s) := by
  unfold startWaiting
  repeat' (first
      | with_reducible assumption | (with_reducible intro _)
      | (with_reducible (first
          | apply keeps_fireProgram | apply keeps_ite | apply keeps_foldl))
      | split | (with_reducible apply keeps_free) | dsimp only)

theorem keeps_execRunComplete {r : State} (u : UnitRef) (s : State) (h_s : Keeps r s) :
    ∀ t, execRunComplete u s = .next t → Keeps r t := by
  unfold execRunComplete
  rintro _ ⟨⟩
  repeat' (first
      | with_reducible assumption | (with_reducible intro _)
      | (with_reducible (first
          | apply keeps_startWaiting | apply keeps_completeRun | apply keeps_ite | apply keeps_foldl))
      | split | (with_reducible apply keeps_free) | dsimp only)

theorem keeps_execWalkDone {r : State} (dom : Nat) (s : State) (h_s : Keeps r s) :
    ∀ t, execWalkDone dom s = .next t → Keeps r t := by
  unfold execWalkDone
  rintro _ ⟨⟩
  repeat' (first
      | with_reducible assumption | (with_reducible intro _)
      | (with_reducible (first
          | apply keeps_walkDone | apply keeps_ite | apply keeps_foldl))
      | split | (with_reducible apply keeps_free) | dsimp only)

theorem keeps_execLandingFire {r : State} (n : Nat) (s : State) (h_s : Keeps r s) :
    ∀ t, execLandingFire n s = .next t → Keeps r t := by
  unfold execLandingFire
  rintro _ ⟨⟩
  repeat' (first
      | with_reducible assumption | (with_reducible intro _)
      | (with_reducible (first
          | apply keeps_fireLanding | apply keeps_ite | apply keeps_foldl))
      | split | (with_reducible apply keeps_free) | dsimp only)

theorem keeps_execLandingActionDone {r : State} (n : Nat) (s : State) (h_s : Keeps r s) :
    ∀ t, execLandingActionDone n s = .next t → Keeps r t := by
  unfold execLandingActionDone
  rintro _ ⟨⟩
  repeat' (first
      | with_reducible assumption | (with_reducible intro _)
      | (with_reducible (first
          | apply keeps_landingDone | apply keeps_ite | apply keeps_foldl))
      | split | (with_reducible apply keeps_free) | dsimp only)

theorem keeps_clipRefresh {r : State} (dom : Nat) (s : State) (h_s : Keeps r s) :
    Keeps r (clipRefresh dom s) := by
  unfold clipRefresh
  repeat' (first
      | with_reducible assumption | (with_reducible intro _)
      | (with_reducible (first
          | apply keeps_bump | apply keeps_endLanding | apply keeps_setDomain | apply keeps_ite | apply keeps_foldl))
      | split | (with_reducible apply keeps_free) | dsimp only)

theorem keeps_execRefreshPostponeLimit {r : State} (dom : Nat) (s : State) (h_s : Keeps r s) :
    ∀ t, execRefreshPostponeLimit dom s = .next t → Keeps r t := by
  unfold execRefreshPostponeLimit
  rintro _ ⟨⟩
  repeat' (first
      | with_reducible assumption | (with_reducible intro _)
      | (with_reducible (first
          | apply keeps_clipRefresh | apply keeps_ite | apply keeps_foldl))
      | split | (with_reducible apply keeps_free) | dsimp only)

theorem keeps_execCollPacket {r : State} (pk : List Byte) (s : State) (h_s : Keeps r s) :
    ∀ t, execCollPacket pk s = .next t → Keeps r t := by
  unfold execCollPacket
  rintro _ ⟨⟩
  have ha := keeps_arrive pk s h_s
  generalize arrive pk s = a at ha ⊢
  cases a with
  | gone z => exact ha
  | later z => exact keeps_ite (keeps_keepColl _ _ (keeps_joinRestart _ ha)) (keeps_joinRestart _ ha)
  | here z => exact keeps_ite (keeps_collIn _ _ ha) ha

theorem keeps_execCollComplete {r : State} (u : UnitRef) (op : Nat) (s : State) (h_s : Keeps r s) :
    ∀ t, execCollComplete u op s = .next t → Keeps r t := by
  unfold execCollComplete
  rintro _ ⟨⟩
  repeat' (first
      | with_reducible assumption | (with_reducible intro _)
      | (with_reducible (first
          | apply keeps_completeColl | apply keeps_ite | apply keeps_foldl))
      | split | (with_reducible apply keeps_free) | dsimp only)

theorem keeps_execVop {r : State} (u : UnitRef) (x : Fields) (s : State) (h_s : Keeps r s) :
    ∀ t, execVop u x s = .next t → Keeps r t := by
  unfold execVop
  rintro _ ⟨⟩
  repeat' (first
      | with_reducible assumption | (with_reducible intro _)
      | (with_reducible (first
          | apply keeps_issue | apply keeps_vopDef | apply keeps_ite | apply keeps_foldl))
      | split | (with_reducible apply keeps_free) | dsimp only)

theorem keeps_execRsumAcc {r : State} (u : UnitRef) (x : Fields) (s : State) (h_s : Keeps r s) :
    ∀ t, execRsumAcc u x s = .next t → Keeps r t := by
  unfold execRsumAcc
  rintro _ ⟨⟩
  repeat' (first
      | with_reducible assumption | (with_reducible intro _)
      | (with_reducible (first
          | apply keeps_issue | apply keeps_rsumAccDef | apply keeps_ite | apply keeps_foldl))
      | split | (with_reducible apply keeps_free) | dsimp only)

theorem keeps_execRsumComb {r : State} (u : UnitRef) (x : Fields) (s : State) (h_s : Keeps r s) :
    ∀ t, execRsumComb u x s = .next t → Keeps r t := by
  unfold execRsumComb
  rintro _ ⟨⟩
  repeat' (first
      | with_reducible assumption | (with_reducible intro _)
      | (with_reducible (first
          | apply keeps_issue | apply keeps_rsumCombDef | apply keeps_ite | apply keeps_foldl))
      | split | (with_reducible apply keeps_free) | dsimp only)

theorem keeps_execRsumOut {r : State} (u : UnitRef) (x : Fields) (s : State) (h_s : Keeps r s) :
    ∀ t, execRsumOut u x s = .next t → Keeps r t := by
  unfold execRsumOut
  rintro _ ⟨⟩
  repeat' (first
      | with_reducible assumption | (with_reducible intro _)
      | (with_reducible (first
          | apply keeps_issue | apply keeps_rsumOutDef | apply keeps_ite | apply keeps_foldl))
      | split | (with_reducible apply keeps_free) | dsimp only)

theorem keeps_execRot {r : State} (u : UnitRef) (x : Fields) (s : State) (h_s : Keeps r s) :
    ∀ t, execRot u x s = .next t → Keeps r t := by
  unfold execRot
  rintro _ ⟨⟩
  repeat' (first
      | with_reducible assumption | (with_reducible intro _)
      | (with_reducible (first
          | apply keeps_issue | apply keeps_rotDef | apply keeps_ite | apply keeps_foldl))
      | split | (with_reducible apply keeps_free) | dsimp only)

theorem keeps_execDrop {r : State} (u : UnitRef) (x : Fields) (s : State) (h_s : Keeps r s) :
    ∀ t, execDrop u x s = .next t → Keeps r t := by
  unfold execDrop
  rintro _ ⟨⟩
  repeat' (first
      | with_reducible assumption | (with_reducible intro _)
      | (with_reducible (first
          | apply keeps_issue | apply keeps_dropDef | apply keeps_ite | apply keeps_foldl))
      | split | (with_reducible apply keeps_free) | dsimp only)

theorem keeps_execSample {r : State} (u : UnitRef) (x : Fields) (s : State) (h_s : Keeps r s) :
    ∀ t, execSample u x s = .next t → Keeps r t := by
  unfold execSample
  rintro _ ⟨⟩
  repeat' (first
      | with_reducible assumption | (with_reducible intro _)
      | (with_reducible (first
          | apply keeps_issue | apply keeps_sampleDef | apply keeps_ite | apply keeps_foldl))
      | split | (with_reducible apply keeps_free) | dsimp only)

theorem keeps_execRng {r : State} (u : UnitRef) (x : Fields) (s : State) (h_s : Keeps r s) :
    ∀ t, execRng u x s = .next t → Keeps r t := by
  unfold execRng
  rintro _ ⟨⟩
  repeat' (first
      | with_reducible assumption | (with_reducible intro _)
      | (with_reducible (first
          | apply keeps_issue | apply keeps_rngDef | apply keeps_ite | apply keeps_foldl))
      | split | (with_reducible apply keeps_free) | dsimp only)

theorem keeps_execHupd {r : State} (u : UnitRef) (x : Fields) (s : State) (h_s : Keeps r s) :
    ∀ t, execHupd u x s = .next t → Keeps r t := by
  unfold execHupd
  rintro _ ⟨⟩
  repeat' (first
      | with_reducible assumption | (with_reducible intro _)
      | (with_reducible (first
          | apply keeps_issue | apply keeps_hupdDef | apply keeps_ite | apply keeps_foldl))
      | split | (with_reducible apply keeps_free) | dsimp only)

theorem keeps_execHload {r : State} (u : UnitRef) (x : Fields) (s : State) (h_s : Keeps r s) :
    ∀ t, execHload u x s = .next t → Keeps r t := by
  unfold execHload
  rintro _ ⟨⟩
  repeat' (first
      | with_reducible assumption | (with_reducible intro _)
      | (with_reducible (first
          | apply keeps_issue | apply keeps_hloadDef | apply keeps_ite | apply keeps_foldl))
      | split | (with_reducible apply keeps_free) | dsimp only)

theorem keeps_porchStore {r : State} (off : Nat) (v : Nat) (s : State) (h_s : Keeps r s) :
    Keeps r (porchStore off v s) := by
  unfold porchStore
  repeat' (first
      | with_reducible assumption | (with_reducible intro _)
      | (with_reducible (first
          | apply keeps_writeControl | apply keeps_ite | apply keeps_foldl))
      | split | (with_reducible apply keeps_free) | dsimp only)

theorem keeps_queueStore {r : State} (q : Nat) (off : Nat) (v : Nat) (s : State) (h_s : Keeps r s) :
    Keeps r (queueStore q off v s) := by
  unfold queueStore
  repeat' (first
      | with_reducible assumption | (with_reducible intro _)
      | (with_reducible (first
          | apply keeps_writeControl | apply keeps_ite | apply keeps_foldl))
      | split | (with_reducible apply keeps_free) | dsimp only)

theorem keeps_portStore {r : State} (p : PortRef) (off : Nat) (v : Nat) (s : State) (h_s : Keeps r s) :
    Keeps r (portStore p off v s) := by
  unfold portStore
  repeat' (first
      | with_reducible assumption | (with_reducible intro _)
      | (with_reducible (first
          | apply keeps_writeControl | apply keeps_ite | apply keeps_foldl))
      | split | (with_reducible apply keeps_free) | dsimp only)

theorem keeps_execQTail {r : State} (q : Nat) (v : Word) (s : State) (h_s : Keeps r s) :
    ∀ t, execQTail q v s = .next t → Keeps r t := by
  unfold execQTail
  rintro _ ⟨⟩
  repeat' (first
      | with_reducible assumption | (with_reducible intro _)
      | (with_reducible (first
          | apply keeps_queueStore | apply keeps_ite | apply keeps_foldl))
      | split | (with_reducible apply keeps_free) | dsimp only)

theorem keeps_execQEnable {r : State} (q : Nat) (v : Word) (s : State) (h_s : Keeps r s) :
    ∀ t, execQEnable q v s = .next t → Keeps r t := by
  unfold execQEnable
  rintro _ ⟨⟩
  repeat' (first
      | with_reducible assumption | (with_reducible intro _)
      | (with_reducible (first
          | apply keeps_queueStore | apply keeps_ite | apply keeps_foldl))
      | split | (with_reducible apply keeps_free) | dsimp only)

theorem keeps_execQDisable {r : State} (q : Nat) (v : Word) (s : State) (h_s : Keeps r s) :
    ∀ t, execQDisable q v s = .next t → Keeps r t := by
  unfold execQDisable
  rintro _ ⟨⟩
  repeat' (first
      | with_reducible assumption | (with_reducible intro _)
      | (with_reducible (first
          | apply keeps_queueStore | apply keeps_ite | apply keeps_foldl))
      | split | (with_reducible apply keeps_free) | dsimp only)

theorem keeps_execResume {r : State} (q : Nat) (v : Word) (s : State) (h_s : Keeps r s) :
    ∀ t, execResume q v s = .next t → Keeps r t := by
  unfold execResume
  rintro _ ⟨⟩
  repeat' (first
      | with_reducible assumption | (with_reducible intro _)
      | (with_reducible (first
          | apply keeps_queueStore | apply keeps_ite | apply keeps_foldl))
      | split | (with_reducible apply keeps_free) | dsimp only)

theorem keeps_execWalkGo {r : State} (dom : Nat) (v : Word) (s : State) (h_s : Keeps r s) :
    ∀ t, execWalkGo dom v s = .next t → Keeps r t := by
  unfold execWalkGo
  rintro _ ⟨⟩
  repeat' (first
      | with_reducible assumption | (with_reducible intro _)
      | (with_reducible (first
          | apply keeps_writeControl | apply keeps_ite | apply keeps_foldl))
      | split | (with_reducible apply keeps_free) | dsimp only)

theorem keeps_execStairSet {r : State} (v : Word) (s : State) (h_s : Keeps r s) :
    ∀ t, execStairSet v s = .next t → Keeps r t := by
  unfold execStairSet
  rintro _ ⟨⟩
  repeat' (first
      | with_reducible assumption | (with_reducible intro _)
      | (with_reducible (first
          | apply keeps_porchStore | apply keeps_ite | apply keeps_foldl))
      | split | (with_reducible apply keeps_free) | dsimp only)

theorem keeps_execStairClose {r : State} (v : Word) (s : State) (h_s : Keeps r s) :
    ∀ t, execStairClose v s = .next t → Keeps r t := by
  unfold execStairClose
  rintro _ ⟨⟩
  repeat' (first
      | with_reducible assumption | (with_reducible intro _)
      | (with_reducible (first
          | apply keeps_porchStore | apply keeps_ite | apply keeps_foldl))
      | split | (with_reducible apply keeps_free) | dsimp only)

theorem keeps_execPortEnable {r : State} (p : PortRef) (v : Word) (s : State) (h_s : Keeps r s) :
    ∀ t, execPortEnable p v s = .next t → Keeps r t := by
  unfold execPortEnable
  rintro _ ⟨⟩
  repeat' (first
      | with_reducible assumption | (with_reducible intro _)
      | (with_reducible (first
          | apply keeps_portStore | apply keeps_ite | apply keeps_foldl))
      | split | (with_reducible apply keeps_free) | dsimp only)

theorem keeps_execPortRetrain {r : State} (p : PortRef) (v : Word) (s : State) (h_s : Keeps r s) :
    ∀ t, execPortRetrain p v s = .next t → Keeps r t := by
  unfold execPortRetrain
  rintro _ ⟨⟩
  repeat' (first
      | with_reducible assumption | (with_reducible intro _)
      | (with_reducible (first
          | apply keeps_portStore | apply keeps_ite | apply keeps_foldl))
      | split | (with_reducible apply keeps_free) | dsimp only)

theorem keeps_execFabJobWrite {r : State} (v : Word) (s : State) (h_s : Keeps r s) :
    ∀ t, execFabJobWrite v s = .next t → Keeps r t := by
  unfold execFabJobWrite
  rintro _ ⟨⟩
  repeat' (first
      | with_reducible assumption | (with_reducible intro _)
      | (with_reducible (first
          | apply keeps_porchStore | apply keeps_ite | apply keeps_foldl))
      | split | (with_reducible apply keeps_free) | dsimp only)

theorem keeps_execFabJobStart {r : State} (v : Word) (s : State) (h_s : Keeps r s) :
    ∀ t, execFabJobStart v s = .next t → Keeps r t := by
  unfold execFabJobStart
  rintro _ ⟨⟩
  repeat' (first
      | with_reducible assumption | (with_reducible intro _)
      | (with_reducible (first
          | apply keeps_porchStore | apply keeps_ite | apply keeps_foldl))
      | split | (with_reducible apply keeps_free) | dsimp only)

theorem keeps_execAnnexEnable {r : State} (v : Word) (s : State) (h_s : Keeps r s) :
    ∀ t, execAnnexEnable v s = .next t → Keeps r t := by
  unfold execAnnexEnable
  rintro _ ⟨⟩
  repeat' (first
      | with_reducible assumption | (with_reducible intro _)
      | (with_reducible (first
          | apply keeps_porchStore | apply keeps_ite | apply keeps_foldl))
      | split | (with_reducible apply keeps_free) | dsimp only)

theorem keeps_restoreStore {r : State} (mode : Nat) (v : Nat) (s : State) (h_s : Keeps r s) :
    Keeps r (restoreStore mode v s) := by
  unfold restoreStore
  repeat' (first
      | with_reducible assumption | (with_reducible intro _)
      | (with_reducible (first
          | apply keeps_porchStore | apply keeps_ite | apply keeps_foldl))
      | split | (with_reducible apply keeps_free) | dsimp only)

theorem keeps_execRestoreGo {r : State} (v : Word) (s : State) (h_s : Keeps r s) :
    ∀ t, execRestoreGo v s = .next t → Keeps r t := by
  unfold execRestoreGo
  rintro _ ⟨⟩
  repeat' (first
      | with_reducible assumption | (with_reducible intro _)
      | (with_reducible (first
          | apply keeps_restoreStore | apply keeps_ite | apply keeps_foldl))
      | split | (with_reducible apply keeps_free) | dsimp only)

theorem keeps_execExportGo {r : State} (v : Word) (s : State) (h_s : Keeps r s) :
    ∀ t, execExportGo v s = .next t → Keeps r t := by
  unfold execExportGo
  rintro _ ⟨⟩
  repeat' (first
      | with_reducible assumption | (with_reducible intro _)
      | (with_reducible (first
          | apply keeps_restoreStore | apply keeps_ite | apply keeps_foldl))
      | split | (with_reducible apply keeps_free) | dsimp only)

theorem keeps_execImportGo {r : State} (v : Word) (s : State) (h_s : Keeps r s) :
    ∀ t, execImportGo v s = .next t → Keeps r t := by
  unfold execImportGo
  rintro _ ⟨⟩
  repeat' (first
      | with_reducible assumption | (with_reducible intro _)
      | (with_reducible (first
          | apply keeps_restoreStore | apply keeps_ite | apply keeps_foldl))
      | split | (with_reducible apply keeps_free) | dsimp only)

theorem keeps_execFrameTxTail {r : State} (p : PortRef) (v : Word) (s : State) (h_s : Keeps r s) :
    ∀ t, execFrameTxTail p v s = .next t → Keeps r t := by
  unfold execFrameTxTail
  rintro _ ⟨⟩
  repeat' (first
      | with_reducible assumption | (with_reducible intro _)
      | (with_reducible (first
          | apply keeps_portStore | apply keeps_ite | apply keeps_foldl))
      | split | (with_reducible apply keeps_free) | dsimp only)

theorem keeps_execFrameRxTail {r : State} (p : PortRef) (v : Word) (s : State) (h_s : Keeps r s) :
    ∀ t, execFrameRxTail p v s = .next t → Keeps r t := by
  unfold execFrameRxTail
  rintro _ ⟨⟩
  repeat' (first
      | with_reducible assumption | (with_reducible intro _)
      | (with_reducible (first
          | apply keeps_portStore | apply keeps_ite | apply keeps_foldl))
      | split | (with_reducible apply keeps_free) | dsimp only)

theorem keeps_execDomResetGo {r : State} (v : Word) (s : State) (h_s : Keeps r s) :
    ∀ t, execDomResetGo v s = .next t → Keeps r t := by
  unfold execDomResetGo
  rintro _ ⟨⟩
  repeat' (first
      | with_reducible assumption | (with_reducible intro _)
      | (with_reducible (first
          | apply keeps_porchStore | apply keeps_ite | apply keeps_foldl))
      | split | (with_reducible apply keeps_free) | dsimp only)

theorem keeps_execTrainSkipRequest {r : State} (v : Word) (s : State) (h_s : Keeps r s) :
    ∀ t, execTrainSkipRequest v s = .next t → Keeps r t := by
  unfold execTrainSkipRequest
  rintro _ ⟨⟩
  repeat' (first
      | with_reducible assumption | (with_reducible intro _)
      | (with_reducible (first
          | apply keeps_writeControl | apply keeps_ite | apply keeps_foldl))
      | split | (with_reducible apply keeps_free) | dsimp only)

theorem keeps_execCgJobKeyWrite {r : State} (v : Word) (s : State) (h_s : Keeps r s) :
    ∀ t, execCgJobKeyWrite v s = .next t → Keeps r t := by
  unfold execCgJobKeyWrite
  rintro _ ⟨⟩
  repeat' (first
      | with_reducible assumption | (with_reducible intro _)
      | (with_reducible (first
          | apply keeps_porchStore | apply keeps_ite | apply keeps_foldl))
      | split | (with_reducible apply keeps_free) | dsimp only)

theorem keeps_execStashLarderShareWrite {r : State} (v : Word) (s : State) (h_s : Keeps r s) :
    ∀ t, execStashLarderShareWrite v s = .next t → Keeps r t := by
  unfold execStashLarderShareWrite
  rintro _ ⟨⟩
  repeat' (first
      | with_reducible assumption | (with_reducible intro _)
      | (with_reducible (first
          | apply keeps_writeControl | apply keeps_ite | apply keeps_foldl))
      | split | (with_reducible apply keeps_free) | dsimp only)

theorem keeps_execFlogCopy {r : State} (v : Word) (s : State) (h_s : Keeps r s) :
    ∀ t, execFlogCopy v s = .next t → Keeps r t := by
  unfold execFlogCopy
  rintro _ ⟨⟩
  repeat' (first
      | with_reducible assumption | (with_reducible intro _)
      | (with_reducible (first
          | apply keeps_porchStore | apply keeps_ite | apply keeps_foldl))
      | split | (with_reducible apply keeps_free) | dsimp only)

theorem keeps_execPwrWithdraw {r : State} (v : Word) (s : State) (h_s : Keeps r s) :
    ∀ t, execPwrWithdraw v s = .next t → Keeps r t := by
  unfold execPwrWithdraw
  rintro _ ⟨⟩
  repeat' (first
      | with_reducible assumption | (with_reducible intro _)
      | (with_reducible (first
          | apply keeps_porchStore | apply keeps_ite | apply keeps_foldl))
      | split | (with_reducible apply keeps_free) | dsimp only)

theorem keeps_execPwrOppointTarget {r : State} (dom : Nat) (v : Word) (s : State) (h_s : Keeps r s) :
    ∀ t, execPwrOppointTarget dom v s = .next t → Keeps r t := by
  unfold execPwrOppointTarget
  rintro _ ⟨⟩
  repeat' (first
      | with_reducible assumption | (with_reducible intro _)
      | (with_reducible (first
          | apply keeps_writeControl | apply keeps_ite | apply keeps_foldl))
      | split | (with_reducible apply keeps_free) | dsimp only)

theorem keeps_execRegisterWrite {r : State} (agent : Agent) (addr : Nat) (size : Nat) (v : Word) (s : State) (h_s : Keeps r s) :
    ∀ t, execRegisterWrite agent addr size v s = .next t → Keeps r t := by
  unfold execRegisterWrite
  rintro _ ⟨⟩
  repeat' (first
      | with_reducible assumption | (with_reducible intro _)
      | (with_reducible (first
          | apply keeps_agentStore | apply keeps_ite | apply keeps_foldl))
      | split | (with_reducible apply keeps_free) | dsimp only)

end Sys2Proof.Machine
end

