-- ==== Sys2Proof/Laws/Reference.lean ====
section
/-! SUPPORT. The digit planes of reference mode: the digits of a significand's non-adjacent form sum to it, and those of an element to the
element (R141). -/
namespace Sys2Proof.Machine

theorem sum_map_mul (c : Int) (l : List Int) : (l.map (c * ·)).sum = c * l.sum := by
  induction l with
  | nil => simp
  | cons x l ih => simp [ih, Int.mul_add]

/-- One digit more than the bits of m is enough. -/
theorem nafDigits_sum : ∀ k m : Nat, m ≤ 2 ^ k → (nafDigits (k + 1) m).sum = (m : Int) := by
  intro k
  induction k with
  | zero =>
    intro m h
    obtain rfl | rfl : m = 0 ∨ m = 1 := by omega
    · rfl
    · rfl
  | succ k ih =>
    intro m h
    unfold nafDigits
    split
    · simp [*]
    · split
      · rw [sum_map_mul, ih _ (by omega)]; omega
      · split
        · rw [List.sum_cons, sum_map_mul, ih _ (by omega)]; omega
        · rw [List.sum_cons, sum_map_mul, ih _ (by omega)]; omega

/-- The planes of an element hold the element: its sign times its magnitude in units of 2^-149. -/
theorem digitPlanes_sum (x : FV) : (digitPlanes x).sum = fvSign x * (fvMag x : Int) := by
  rw [digitPlanes, List.sum_reverse, sum_map_mul, nafDigits_sum _ _ (Nat.le_of_lt Nat.lt_log2_self)]

end Sys2Proof.Machine
end

