-- ==== Sys2Proof/WellFormed.lean ====
section
/-! DEFINITION. Well-formed commands: each names a unit, port, queue, domain or agent that the spec gives a module of some
ordering item, and its byte strings have the spec's lengths. exec is total: on a command that is not well-formed it does what its
meaning says of a unit, port or domain that is not there. -/
namespace Sys2Proof

/-- A unit of R217: the one sequencer of a CD, a carrier of a CD or MSD, a link engine of an IOD. -/
def unitOk (u : UnitRef) : Bool := match u.kind with
  | .sequencer => decide (domType u.dom = some .cd) && decide (u.idx = 0)
  | .carrier => decide (domType u.dom = some .cd) || decide (domType u.dom = some .msd)
  | .link => decide (domType u.dom = some .iod)

/-- Port 0 or 1 of an IOD. -/
def portOk (p : PortRef) : Bool := decide (domType p.iod = some .iod) && decide (p.port < 2)

/-- A domain ID of R29; the hart is below 64, and 0 outside the Hall. -/
def domOk (dom : Nat) : Bool := (domType dom).isSome
def agentOk (a : Agent) : Bool := domOk a.dom && (if a.dom = 0 then decide (a.hart < 64) else decide (a.hart = 0))

/-- A queue ID (R220). -/
def queueOk (q : Nat) : Bool := (match domType (q / 256) with | some t => isDie t | none => false) && decide (q % 256 < 16)

/-- A flit is 640 bytes (R302); a packet has its route header and at most 8,576 bytes of payload (R311). -/
def flitOk (f : List Byte) : Bool := decide (f.length = 640)
def packetOk (p : List Byte) : Bool := decide (16 ≤ p.length) && decide (p.length ≤ 8592)

/-- The FEC corrects at most 16 symbols of a codeword (R301). -/
def fecOk (fec : Option Nat) : Bool := match fec with | none => true | some n => decide (n ≤ 16)

/-- The well-formed commands. -/
def Instr.wellFormed (i : Instr) : Bool :=
  match i with
  | .nop u _ => unitOk u
  | .endProg u _ => unitOk u
  | .br u _ => unitOk u
  | .li u _ => unitOk u
  | .gop u _ => unitOk u
  | .gopi u _ => unitOk u
  | .pset u _ => unitOk u
  | .gld u _ => unitOk u
  | .gst u _ => unitOk u
  | .dld u _ => unitOk u
  | .dst u _ => unitOk u
  | .dset u _ => unitOk u
  | .kset u _ => unitOk u
  | .kget u _ => unitOk u
  | .cset u _ => unitOk u
  | .strd u _ => unitOk u
  | .stld u _ => unitOk u
  | .stst u _ => unitOk u
  | .tld u _ => unitOk u
  | .tst u _ => unitOk u
  | .qnt u _ => unitOk u
  | .mma u _ => unitOk u
  | .ldown u _ => unitOk u
  | .drain u _ => unitOk u
  | .czero u _ => unitOk u
  | .cxferRead u _ => unitOk u
  | .cxferAdd u _ => unitOk u
  | .vop u _ => unitOk u
  | .rsumAcc u _ => unitOk u
  | .rsumComb u _ => unitOk u
  | .rsumOut u _ => unitOk u
  | .rot u _ => unitOk u
  | .drop u _ => unitOk u
  | .sample u _ => unitOk u
  | .rng u _ => unitOk u
  | .hupd u _ => unitOk u
  | .hload u _ => unitOk u
  | .xfer u _ => unitOk u
  | .coll u _ => unitOk u
  | .waitst u _ => unitOk u
  | .landing u _ => unitOk u
  | .landingCancel u _ => unitOk u
  | .fence u _ => unitOk u
  | .ring u _ => unitOk u
  | .pgrant u _ => unitOk u
  | .openStash u _ => unitOk u
  | .release u _ => unitOk u
  | .closeStash u _ => unitOk u
  | .offload u _ => unitOk u
  | .prefetch u _ => unitOk u
  | .stashMoveSwitch u _ => unitOk u
  | .issueWaitEnd u => unitOk u
  | .operationComplete u _ => unitOk u
  | .runComplete u => unitOk u
  | .run q seq _ => queueOk q && decide (seq < 2 ^ 32)
  | .wait q seq => queueOk q && decide (seq < 2 ^ 32)
  | .marker q seq => queueOk q && decide (seq < 2 ^ 32)
  | .commandAccept q => queueOk q
  | .completionWrite q => queueOk q
  | .qTail q _ => queueOk q
  | .qEnable q _ => queueOk q
  | .qDisable q _ => queueOk q
  | .resume q _ => queueOk q
  | .walkGo dom _ => domOk dom
  | .walkDone dom => domOk dom
  | .stairTick => true
  | .stairSet _ => true
  | .stairClose _ => true
  | .beat p fec flit => portOk p && fecOk fec && flitOk flit
  | .holdoverEnter => true
  | .epochTickLimit => true
  | .landingFire _ => true
  | .landingActionDone _ => true
  | .refreshPostponeLimit dom => domOk dom
  | .lpEnter dom => domOk dom
  | .lpWakeStart dom => domOk dom
  | .lpWakeEvent dom => domOk dom
  | .portEnable p _ => portOk p
  | .portRetrain p _ => portOk p
  | .portSignalDetect p _ => portOk p
  | .portDetectTimeout p => portOk p
  | .portEqualiseDone p _ => portOk p
  | .portLockDone p _ => portOk p
  | .portMeasureDone p => portOk p
  | .addrConflictRetry p => portOk p
  | .laneFault p lane => portOk p && decide (lane < 8)
  | .portRxTimeout p => portOk p
  | .dataFlit p fec flit => portOk p && fecOk fec && flitOk flit
  | .retryFlit p fec flit => portOk p && fecOk fec && flitOk flit
  | .timestampFlit p fec _ flit => portOk p && fecOk fec && flitOk flit
  | .descriptorFlit p fec flit => portOk p && fecOk fec && flitOk flit
  | .announceFlit p fec flit => portOk p && fecOk fec && flitOk flit
  | .creditFlit p fec flit => portOk p && fecOk fec && flitOk flit
  | .corridorCrcFail _ _ _ _ u _ => unitOk u
  | .fabJobWrite _ => true
  | .fabJobStart _ => true
  | .jobFormed => true
  | .collPacket pk => packetOk pk
  | .collComplete u _ => unitOk u
  | .boundaryPacket pk => packetOk pk
  | .slowNoticeSend => true
  | .slowNoticeReceive pk => packetOk pk
  | .restartPacket pk => packetOk pk
  | .voteSend => true
  | .votePacket pk => packetOk pk
  | .voteTally => true
  | .membershipPacket pk => packetOk pk
  | .stopPacket pk => packetOk pk
  | .voteTimeout => true
  | .agreePacket pk => packetOk pk
  | .annexSumsPacket pk => packetOk pk
  | .anchorPacket pk => packetOk pk
  | .annexPiece pk => packetOk pk
  | .annexAck pk => packetOk pk
  | .annexConfig pk => packetOk pk
  | .fetchReq pk => packetOk pk
  | .fetchData pk => packetOk pk
  | .fetchRefused pk => packetOk pk
  | .annexAckTimeout => true
  | .annexEnable _ => true
  | .restoreGo _ => true
  | .exportGo _ => true
  | .importGo _ => true
  | .restoreDone => true
  | .frameTxTail p _ => portOk p
  | .frameRxTail p _ => portOk p
  | .frameReceive p _ => portOk p
  | .fabricLbMessage pk seq _ => packetOk pk && decide (seq < 2 ^ 32)
  | .fabricLbAckReturn pk seq _ => packetOk pk && decide (seq < 2 ^ 32)
  | .lbClaim agent box _ => agentOk agent && decide (box < 2 ^ 44)
  | .lbRing agent box _ => agentOk agent && decide (box < 2 ^ 44)
  | .lbAck agent box _ => agentOk agent && decide (box < 2 ^ 44)
  | .lbRelease agent box _ => agentOk agent && decide (box < 2 ^ 44)
  | .lbMaskWrite agent box _ => agentOk agent && decide (box < 2 ^ 44)
  | .hallAccessFault hart addr _ => decide (hart < 64) && decide (addr < 2 ^ 44)
  | .pollMiss dom => domOk dom
  | .eccUncorrectable addr u _ => decide (addr < 2 ^ 44) && unitOk u
  | .domResetGo _ => true
  | .domainResetEnd dom _ _ => domOk dom
  | .trainSkipRequest _ => true
  | .cgJobKeyWrite _ => true
  | .stashLarderShareWrite _ => true
  | .flogCopy _ => true
  | .pwrWithdraw _ => true
  | .pwrOppointTarget dom _ => domOk dom
  | .oppointRampDone dom => domOk dom
  | .powerSample _ => true
  | .limiterStep => true
  | .grantInForce _ => true
  | .autoGrantRelease u => unitOk u
  | .ageingCheck dom _ => domOk dom
  | .convergenceStep _ => true
  | .thermalCapStep _ => true
  | .thermalEmergency dom _ => domOk dom
  | .thermalTrip dom _ => domOk dom
  | .droopTrip dom => domOk dom
  | .droopWindowClose dom => domOk dom
  | .pwrGoodRise _ => true
  | .pwrGoodFall => true
  | .resetN _ _ => true
  | .vinShutdown cause => decide (cause < 2)
  | .recoveryData _ _ => true
  | .recoveryReqTimeout => true
  | .recoveryRetry => true
  | .attest slot => decide (slot < 16)
  | .certRead slot => decide (slot < 16)
  | .update slot => decide (slot < 16)
  | .storeWrite slot => decide (slot < 16)
  | .storeRead slot => decide (slot < 16)
  | .moduleReset slot => decide (slot < 16)
  | .moduleResetTimer _ => true
  | .mgmtServiceFrame _ => true
  | .i3cPrivateRead _ _ => true
  | .i3cDynamicAddress _ => true
  | .jtagBypass => true
  | .jtagIdcode => true
  | .jtagSamplePreload _ _ => true
  | .jtagExtest _ => true
  | .registerWrite agent addr size _ => agentOk agent && decide (addr < 2 ^ 44) && [1, 2, 4, 8].contains size
  | .porchFault _ => true
  | .lpEntryComplete dom => domOk dom
  | .lpWakeComplete dom => domOk dom
  | .emergencyEnd _ => true
  | .frozenRampResume dom => domOk dom
  | .portDetectAttempt p => portOk p

end Sys2Proof
end

