-- ==== Sys2Proof/Tests/Slice0.lean ====
section
/-! SUPPORT. Tests: an ill-formed command for each check of WellFormed, the spec's worked examples, one step of each kind of command,
and for each statement concrete states and operands that meet its hypotheses. -/
namespace Sys2Proof.Tests
set_option Elab.async false
open Sys2Proof Sys2Proof.Machine

/-! Helpers. -/

/-- Sound, as a check that runs. -/
def soundB (s : State) : Bool :=
  memWf s.mem && memWf s.store && memWf s.boxMem && tblWf zeroWord s.boxRegs && tblWf (regDefault s.variant) s.regs
    && tblWf entryDefault s.entries && tblWf tileDefault s.tiles && tblWf kindDefault s.bankKinds && tblWf laneDefault s.lanes
    && decide (s.faults.length ≤ 4096) && s.faults.all (fun b => decide (b.length = 64))
    && s.units.all (fun x => decide (x.g.length = 32) && decide (x.t.length = 32) && decide (x.k.length = 16)
      && decide (x.c.length = 16) && decide (x.st.length = 4) && decide (x.inFlight.length ≤ 32))
    && s.queues.all (fun q => decide (q.cmds.length ≤ 64))

theorem sound_of_soundB {s : State} (h : soundB s = true) : Sound s := by
  simp only [soundB, Bool.and_eq_true, decide_eq_true_eq, List.all_eq_true] at h
  obtain ⟨⟨⟨⟨⟨⟨⟨⟨⟨⟨⟨⟨h1, h2⟩, h3⟩, h4⟩, h5⟩, h6⟩, h7⟩, h8⟩, h9⟩, h10⟩, h11⟩, h12⟩, h13⟩ := h
  refine ⟨h1, h2, h3, h4, h5, h6, h7, h8, h9, h10, h11, fun x hx => ?_, h13⟩
  obtain ⟨⟨⟨⟨⟨a, b⟩, c⟩, d⟩, e⟩, f⟩ := h12 x hx
  exact ⟨a, b, c, d, e, f⟩

/-- startsOp, as a check that runs. -/
def startsB (s : State) (u : UnitRef) (d : OpDef) (f : Fields) : Bool :=
  ready s u d f && match planOf d s u f with
    | some p => startsNow s u p
    | none => false

theorem startsOp_of_startsB {s : State} {u : UnitRef} {d : OpDef} {f : Fields} (h : startsB s u d f = true) : startsOp s u d f := by
  simp only [startsB, Bool.and_eq_true] at h
  refine ⟨h.1, ?_⟩
  cases hp : planOf d s u f with
  | none => simp [hp] at h
  | some p => exact ⟨p, rfl, by simpa [hp] using h.2⟩

/-- The sequencer, a carrier and a queue of CD 0x10, and a link engine. -/
def seq : UnitRef := ⟨0x10, .sequencer, 0⟩
def car : UnitRef := ⟨0x10, .carrier, 0⟩

/-- Operand bits: the slots F1 to F6 and the low field (R236). -/
def fields (f1 f2 f3 f4 f5 f6 low : Nat) : Fields :=
  BitVec.ofNat 56 (f1 * 2 ^ 47 + f2 * 2 ^ 42 + f3 * 2 ^ 37 + f4 * 2 ^ 32 + f5 * 2 ^ 27 + f6 * 2 ^ 22 + low)

/-- A running unit whose program is one instruction of this row and a NOP, with g1, g2, … and t1, t2, … as given and each k register 1.0. -/
def unitOf (u : UnitRef) (d : OpDef) (f : Fields) (g : List Nat) (t : List Nat) : ProgUnit :=
  { idleUnit u with
    running := true, store := [BitVec.ofNat 64 (d.opc * 2 ^ 56 + f.toNat), 0]
    g := ((0 :: g.map (BitVec.ofNat 64)) ++ List.replicate 32 0).take 32
    t := ((0 :: t.map (BitVec.ofNat 512)) ++ List.replicate 32 0).take 32, k := List.replicate 16 0x3F800000 }

/-- The module after reset with this unit running and these runs of memory. -/
def withUnit (x : ProgUnit) (m : List (Nat × List Byte)) : State :=
  m.foldl (fun s e => writeMem s e.1 e.2) (setUnit State.reset x)

/-- A state whose units, registers and memory are these. -/
def atState (u : UnitRef) (d : OpDef) (f : Fields) (g t : List Nat) (m : List (Nat × List Byte)) : State :=
  withUnit (unitOf u d f g t) m

/-- The sound state in which a sequencer is ready for a row, with these registers. -/
def readyB (d : OpDef) (f : Fields) (g t : List Nat) : Bool := let s := atState seq d f g t []; soundB s && ready s seq d f

/-- A descriptor in memory (R239): base, tile-scale base, rows, columns, stride, format code. -/
def view (base scale rows cols stride code : Nat) : Nat :=
  base + scale * 2 ^ 128 + rows * 2 ^ 256 + cols * 2 ^ 288 + stride * 2 ^ 320 + code * 2 ^ 352

/-- The sound state in which a sequencer starts this operation now. -/
def goesB (d : OpDef) (f : Fields) (g t : List Nat) (m : List (Nat × List Byte)) : Bool :=
  let s := atState seq d f g t m
  soundB s && startsB s seq d f

/-! Witnesses: control instructions. -/

theorem test_witness_control_results :
    ([(nopDef, fields 0 0 0 0 0 0 0), (endDef, fields 0 0 0 0 0 0 0), (brDef, fields 0 0 0 0 0 0 1), (liDef, fields 31 0 0 0 0 0 0x400000),
      (gopDef, fields 0 1 2 0 0 0 0x0B), (gopiDef, fields 3 1 0 0 0 0 0), (psetDef, fields 7 1 2 0 0 0 5), (kgetDef, fields 3 15 0 0 0 0 0),
      (ksetDef, fields 15 1 0 0 0 0 0), (csetDef, fields 15 1 0 0 0 0 0), (strdDef, fields 3 0 0 0 0 0 0),
      (dsetDef, fields 31 1 0 0 0 0 13)] : List (OpDef × Fields)).all (fun e => readyB e.1 e.2 [5, 0] []) = true := by decide +kernel

/-- GLD of the last word of HBM, of a control register and of a letterbox; DLD and STLD of the last line of HBM. -/
theorem test_witness_control_loads :
    let top := hbmSize 0
    let gld := fields 1 2 0 0 0 0 8
    let s := atState seq gldDef gld [0, top - 16] [] []
    let r := atState seq gldDef gld [0, controlBase + 0x10000000 * 0x10 + 0x200000 - 8] [] []
    let b := atState seq gldDef gld [0, boxBase + 0x4000000 + 0x1030 - 8] [] []
    let line := fields 1 2 0 0 0 0 0
    let d := atState seq dldDef line [0, top - 64] [] []
    let l := atState seq stldDef line [0, top - 64] [] []
    (soundB s && ready s seq gldDef gld && decide (accessAddr (getUnit s seq) gld = top - 8) && memMapped s (top - 8) 8
      && !needsDown s (top - 8) 8)
    && (soundB r && ready r seq gldDef gld && decide (controlAt (accessAddr (getUnit r seq) gld) = some (0x10, 0x200000)) && isFitted r 0x10
      && !isDown r 0x10 && !memMapped r (accessAddr (getUnit r seq) gld) 8 && decide ((getLp r 0x10).state = 0))
    && (soundB b && ready b seq gldDef gld && decide (boxAt b (accessAddr (getUnit b seq) gld) = some (0x10, 0, 0x1030))
      && !memMapped b (accessAddr (getUnit b seq) gld) 8 && decide (controlAt (accessAddr (getUnit b seq) gld) = none))
    && (soundB d && ready d seq dldDef line && memMapped d (top - 64) 64 && !needsDown d (top - 64) 64
      && decide (gReg (getUnit d seq) (slotF2 line) = top - 64))
    && (soundB l && ready l seq stldDef line && memMapped l (top - 64) 16 && !needsDown l (top - 64) 16) = true := by decide +kernel

theorem test_witness_control_stores :
    let f := fields 1 2 0 0 0 0 0
    let s := atState seq gstDef f [7, 8] [] []
    let r := atState seq gstDef f [7, controlBase + 0x10000000 * 0x10 + 0x200000] [] []
    let b := atState seq gstDef f [7, boxBase + 0x4000000 + 0x1000] [] []
    let d := atState seq dstDef f [0, 64] [7] []
    let l := atState seq ststDef f [0, 64] [] []
    (soundB s && ready s seq gstDef f && !storeHeld (getUnit s seq) 8 8 && decide (accessAddr (getUnit s seq) f = 8) && memMapped s 8 8
      && !needsDown s 8 8)
    && [r, b].all (fun s => let a := accessAddr (getUnit s seq) f
      soundB s && ready s seq gstDef f && !storeHeld (getUnit s seq) a 8 && !doorbellHeld s (getUnit s seq) a && decide (a % 8 = 0)
        && !memMapped s a 8 && !refusedAddr s a && s.boot.firmware && (match controlAt a with | some (dom, _) => !isDown s dom | none => true))
    && (soundB d && ready d seq dstDef f && !storeHeld (getUnit d seq) 64 64 && memMapped d 64 64 && !needsDown d 64 64)
    && (soundB l && ready l seq ststDef f && !storeHeld (getUnit l seq) 64 16 && memMapped l 64 16 && !needsDown l 64 16) = true := by
  decide +kernel

/-- A false predicate, a reserved bit, and a unit that may not run the row. -/
theorem test_witness_predicates :
    let never : Fields := fields 0 0 0 0 0 0 0 ||| BitVec.ofNat 56 (8 * 2 ^ 52)
    let bit := fields 0 0 0 0 0 0 1
    let a := atState seq nopDef never [] [] []
    let b := atState seq nopDef bit [] [] []
    let c := atState car tldDef (fields 0 0 0 0 0 0 0) [] [] []
    (soundB a && mayIssue a seq && decide (wordAt (getUnit a seq) = some (BitVec.ofNat 64 (nopDef.opc * 2 ^ 56 + never.toNat)))
      && !predicated (getUnit a seq) never)
    && (soundB b && mayIssue b seq && predicated (getUnit b seq) bit && decide (bit.toNat &&& (2 ^ 56 - 1 - nopDef.mask) ≠ 0))
    && (soundB c && mayIssue c car && predicated (getUnit c car) 0 && !tldDef.units car.kind) = true := by decide +kernel

/-- A branch to WORDS and to -1; the first reserved codes; a misaligned address; an address that R36 covers. -/
theorem test_witness_control_refusals :
    let hole := hbmSize 0
    let at' := fun (d : OpDef) (f : Fields) (a : Nat) => atState seq d f [7, a] [] []
    let acc := fields 1 2 0 0 0 0 0
    readyB brDef (fields 0 0 0 0 0 0 2) [] [] && readyB brDef (fields 0 0 0 0 0 0 0x3FFFFF) [] []
    && readyB gopDef (fields 1 2 3 0 0 0 0x0C) [] [] && readyB gopiDef (fields 1 2 0 0 0 0 0x0C) [] []
    && readyB psetDef (fields 1 2 3 0 0 0 6) [] [] && readyB dsetDef (fields 1 2 0 0 0 0 14) [] []
    && [(gldDef, 4), (gstDef, 4), (gldDef, hole), (gstDef, hole)].all (fun e => let s := at' e.1 acc e.2
      let a := accessAddr (getUnit s seq) acc
      soundB s && ready s seq e.1 acc && !storeHeld (getUnit s seq) a 8 && !doorbellHeld s (getUnit s seq) a && (decide (a % 8 ≠ 0) || refusedAddr s a))
    && [(dldDef, 64), (dstDef, 64), (stldDef, 16), (ststDef, 16)].all (fun e =>
      let m := at' e.1 acc 8
      let h := at' e.1 acc hole
      soundB m && ready m seq e.1 acc && !storeHeld (getUnit m seq) 8 e.2
        && ready h seq e.1 acc && !memMapped h hole e.2 && !storeHeld (getUnit h seq) hole e.2) = true := by decide +kernel
/-! Witnesses: operations. -/

/-- An operation in flight that writes this range. -/
def flight (id : Nat) (reads writes : List (Nat × Nat)) (need : OpNeed) : Op := ⟨id, reads, writes, [], [], [], [], need, 0, 0, 0, false⟩

/-- The unit is ready for the row, and its plan passes this test. -/
def planB (s : State) (u : UnitRef) (d : OpDef) (f : Fields) (ok : ProgUnit → Plan → Bool) : Bool :=
  soundB s && ready s u d f && (match planOf d s u f with | some p => ok (getUnit s u) p | none => false)

/-- An open stash of one entry of 32 bytes at 0x2000: header 0x1000, STATE, CTRL and WRITTEN as given. -/
def stashMem (state ctrl : Nat) : List (Nat × List Byte) :=
  [(0x1000, leBytes 8 (2 ^ 32) ++ leBytes 8 0x2000 ++ leBytes 8 1 ++ leBytes 8 0x10000 ++ leBytes 8 1 ++ leBytes 8 0x3000),
    (0x2000, leBytes 4 7 ++ leBytes 4 (ctrl + 256 * state) ++ leBytes 8 32 ++ leBytes 8 32)]
def withStash (s : State) : State := { s with stash := ⟨[⟨0x1000, 1, [⟨0, false, [slotBase 0x20 + 0x3FFF0000], [(0, 32)]⟩], []⟩], 0, 1⟩ }

/-- What becomes of an operation at issue: it waits for one in flight, is refused, waits by a rule of its own, has an empty view, needs a
lost domain, starts. -/
def atIssueWitness : List Bool :=
  let f := fields 1 2 3 0 0 0 0
  let start := fun (n src : Nat) => atState seq xferDef f [0x1000, src, n] [] []
  let base := start 8 0x2000
  let busy := setUnit base { getUnit base seq with inFlight := [flight 0 [] [(0x1000, 1)] .work], nextOp := 1 }
  let lost := setRf base porchDom Reg.DOM_HEALTH 0x20 0x20 1
  let rel := fields 1 2 0 0 0 0 0
  let held := withStash (withUnit { unitOf car releaseDef rel [0x1000, 0] [] with
    inFlight := [{ flight 0 [] [] .work with rdEntries := [(0x1000, 0)] }], nextOp := 1 } (stashMem 1 0))
  let go := fun (s : State) (p : Plan) => decide (firstFail p.checks = 0) && !p.hold && decide (gate s (getUnit s seq) p.draw p.moves = .go)
  [planB busy seq xferDef f fun x p => mustWait busy x p,
   planB (start 8 (2 ^ 43)) seq xferDef f fun x p => !mustWait State.reset x p && decide (firstFail p.checks = stLength),
   planB held car releaseDef rel fun x p => !mustWait held x p && decide (firstFail p.checks = 0) && p.hold,
   planB (start 0 0x2000) seq xferDef f fun x p => !mustWait State.reset x p && go (start 0 0x2000) p && p.empty,
   planB lost seq xferDef f fun x p => !mustWait lost x p && go lost p && !p.empty && p.unserved (begun seq p lost),
   planB base seq xferDef f fun _ p => startsNow base seq p]
theorem test_witness_at_issue : atIssueWitness.all id = true := by decide +kernel

/-- Descriptors: one FP32 element; one L8 tile of 16 × 16 elements (its words at + 0x100). -/
def one (base : Nat) : Nat := view base 0 1 1 1 9
def tile (base : Nat) : Nat := view base (base + 0x100) 16 16 1 4

def memoryOpWitness : List Bool :=
  let t3 := fields 1 2 3 4 0 0 0
  let sram := slotBase 0x10
  let stream := [(0x4000, leBytes 4 5)]
  [goesB xferDef (fields 1 2 3 0 0 0 0) [0x1000, 0x1001, 8] [] [],
   goesB tldDef (fields 1 2 0 0 0 0 0) [] [tile sram, tile 0x1000] [],
   goesB tstDef (fields 1 2 0 0 0 0 0) [] [tile 0x1000, tile sram] [],
   goesB rngDef (fields 1 2 3 4 5 0 0) [0x1000, 1, 2, 3, 1] [] [],
   goesB rngDef (fields 1 2 3 4 5 0 1) [0x1004, 1, 2, 3, 1] [] [],
   goesB rngDef (fields 1 2 3 4 5 0 2) [0x1004, 1, 2, 3, 1] [] [],
   goesB sampleDef t3 [0, 0x4000, 0x5000, 0] [one 0x1000] stream,
   decide ((viewRows (viewOf (tile sram))).Pairwise fun a b => overlaps a.1 a.2 b.1 b.2 = false) && !(viewOf (tile sram)).stash && !overlaps 0x4000 32 0x5000 8]
theorem test_witness_memory_operations : memoryOpWitness.all id = true := by decide +kernel

def vectorWitness : List Bool :=
  [goesB vopDef (fields 1 2 3 0 0 0 0) [] [one 0x1000, one 0x2000, one 0x3000] [],
   goesB vopDef (fields 1 2 3 0 0 0 1) [] [one 0x1000, one 0x2000, one 0x3000] [],
   goesB dropDef (fields 1 2 3 4 0 0 0) [0, 0, 7, 0x3F80000000FFFFFF] [one 0x1000, one 0x2000] [],
   goesB rotDef (fields 1 2 3 0 0 0 4) [0, 0, 7] [view 0x1000 0 16 1 1 9, view 0x2000 0 16 1 1 9] [],
   !(viewOf (one 0x1000)).stash]
theorem test_witness_vectors : vectorWitness.all id = true := by decide +kernel

def quantWitness : List Bool :=
  let ts := view 0x2000 0 16 16 16 9
  [goesB qntDef (fields 1 2 0 0 0 0 0) [] [tile 0x1000, ts] [],
   decide ((viewRows (viewOf (tile 0x1000))).Pairwise fun a b => overlaps a.1 a.2 b.1 b.2 = false) && !(viewOf ts).stash && decide ((viewOf (tile 0x1000)).side = 0),
   (viewRanges (viewOf ts)).all fun r => (viewRanges (viewOf (tile 0x1000))).all fun q => !overlaps r.1 r.2 q.1 q.2]
theorem test_witness_quantisation : quantWitness.all id = true := by decide +kernel

def accumulatorWitness : List Bool :=
  let rs := fun (low : Nat) => fields 1 2 3 4 0 0 low
  let t := [0, 0, one 0x3000]
  [goesB rsumAccDef (rs 0) [0x1000, 0x2000, 0, 1] t [],
   goesB rsumCombDef (rs 1) [0x1000, 0x1000, 0, 1] t [], goesB rsumCombDef (rs 1) [0x1000, 0x1018, 0, 1] t [],
   goesB rsumOutDef (rs 2) [0x1000, 0x1018, 0, 1] t [],
   goesB czeroDef (fields 0 0 0 0 0 0 0) [0, 0, 16] [] [],
   goesB cxferReadDef (fields 0 1 2 4 0 0 0) [0x1000, 255 + 2 ^ 16, 16, 0] [] [],
   goesB cxferAddDef (fields 0 1 2 0 0 0 1) [0x1000, 255 + 2 ^ 16, 16] [] []]
theorem test_witness_accumulators : accumulatorWitness.all id = true := by decide +kernel

def matrixWitness : List Bool :=
  let dims := fun (m n k : Nat) => m + n * 2 ^ 16 + k * 2 ^ 32
  [goesB mmaDef (fields 0 1 2 1 0 0 1) [dims 16 16 16, 0, 16] [tile 0x1000, tile 0x2000] [],
   goesB ldownDef (fields 1 2 3 1 0 0 0) [dims 1 1 1] [one 0x3000, tile 0x1000, view 0x2000 0 1 1 1 10] [],
   goesB drainDef (fields 1 0 0 0 0 1 0) [dims 1 1 0, 0, 16] [one 0x3000] []]
theorem test_witness_matrices : matrixWitness.all id = true := by decide +kernel

def setSt' (s : State) (u : UnitRef) (n : Nat) (p : Pos) : State := setUnit s (setSt (getUnit s u) n p)

/-- A HUPD descriptor for the program ADAMW of one FP32 element, with its arrays and its record at 0x2000 to 0x6000; a COLL
descriptor of one RAILS unit for this module alone. -/
def updDesc : List Byte :=
  leBytes 4 9 ++ [1, 0x30, 0x99, 0] ++ leBytes 8 1 ++ leBytes 8 0x2000 ++ leBytes 8 0x3000 ++ leBytes 8 0 ++ leBytes 8 0x4000 ++ leBytes 8 0x5000
    ++ leBytes 8 0x6000 ++ (List.range 12).flatMap fun _ => leBytes 4 0x3F800000
def collMem : List (Nat × List Byte) :=
  [(0x1000, [1, 4, 0, 0] ++ leBytes 4 3 ++ leBytes 8 0x2000 ++ leBytes 8 0x3000 ++ leBytes 8 0x4000 ++ leBytes 8 1 ++ leBytes 8 64),
    (0x2000, leBytes 4 1)]

def enteringWitness : List Bool :=
  let land := fields 1 2 0 0 0 0
  let live := landingParamsOf 7
  let base := atState seq landingCancelDef (land 0) [0, 0x1000] [] [(0x1000, [1])]
  let held := { base with landings := [⟨3, 0x10, 0, 7, some 0x1000, live, seq, none, false⟩], nextLanding := 4 }
  [goesB hupdDef (fields 1 0 0 0 0 0 0) [0x1000] [] [(0x1000, updDesc)],
   goesB hloadDef (fields 1 2 0 0 0 0 63) [0x1000, 1] [] [(0x1000, leBytes 8 (0xAF * 2 ^ 56))],
   goesB collDef (fields 1 0 0 0 0 0 0) [0x1000] [] collMem,
   goesB landingDef (land 7) [0, 0x1000] [] [], goesB landingDef (land 6) [0, 0x1000] [] [(0x1020, leBytes 8 4 ++ leBytes 8 0x20)],
   soundB held && startsB held seq landingCancelDef (land 0)
     && decide ((held.landings.find? fun l => l.record = some 0x1000 && !l.fired).map (·.n) = some 3),
   goesB landingCancelDef (land 0) [0, 0x1000] [] [],
   goesB pgrantDef (fields 1 2 0 0 0 0 0) [0, 0] [] [], goesB pgrantDef (fields 1 2 0 0 0 0 0) [3400] [] [],
   goesB pgrantDef (fields 1 2 0 0 0 0 3) [1] [] []]
where landingParamsOf (n : Nat) : List Word := [BitVec.ofNat 64 n, 0, 0, 0]
theorem test_witness_entering : enteringWitness.all id = true := by decide +kernel

def stashWitness : List Bool :=
  let f := fields 1 2 0 0 0 0 0
  let run := fun (d : OpDef) (state ctrl : Nat) => withStash (atState car d f [0x1000, 0] [] (stashMem state ctrl))
  let moveWorks := fun (s : State) (d : OpDef) (toAttic : Bool) => soundB s && startsB s car d f
    && (match findStash s 0x1000 with
      | some y => decide (entState s 0x1000 0 = if toAttic then 1 else 2) && bitAt (entCtrl s 0x1000 0) 1 && y.moves.isEmpty
        && decide (entSize s 0x1000 0 ≤ entWritten s 0x1000 0) && decide (entPages s 0x1000 0 ≤ roomFor s y toAttic)
      | none => false)
  let spilled := { run prefetchDef 2 2 with stash := ⟨[⟨0x1000, 1, [⟨0, true, [0x10000], [(0, 32)]⟩], []⟩], 0, 1⟩ }
  let openMem := [(0x1000, leBytes 8 (2 ^ 32) ++ leBytes 8 0x2000 ++ leBytes 8 1 ++ leBytes 8 0x10000 ++ leBytes 8 1 ++ leBytes 8 0x3000),
    (0x2000, leBytes 8 7 ++ leBytes 8 32)]
  let openS := { atState car openDef (fields 1 0 0 0 0 0 0) [0x1000] [] openMem with stash := ⟨[], 0, 1⟩ }
  let opening := { withUnit { idleUnit car with running := true, inFlight := [flight 0 [] [] (.opening 0x1000)], nextOp := 1 } openMem with
    stash := ⟨[], 0, 1⟩ }
  let copying := withUnit { idleUnit car with running := true, inFlight := [flight 0 [] [] (.move 0x1000 0)], nextOp := 1 } (stashMem 1 2)
  let m : StashMove := ⟨0, true, [0x10000], true, car, 0⟩
  let copying := { copying with stash := ⟨[⟨0x1000, 1, [⟨0, false, [slotBase 0x20 + 0x3FFF0000], [(0, 32)]⟩], [m]⟩], 0, 1⟩ }
  let opened := { opening with stash := ⟨[⟨0x1000, 1, [], []⟩], 0, 1⟩ }
  let small := { opening with stash := { opening.stash with share := 0 } }
  let found := fun (s : State) => soundB s && decide (((getUnit s car).inFlight.find? fun z => z.id = 0).map (·.need) = some (.opening 0x1000))
  [soundB openS && startsB openS car openDef (fields 1 0 0 0 0 0 0),
   found opening && (findStash opening 0x1000).isNone && decide (readNat opening 0x1010 4 ≤ freeShare opening),
   found opened && (findStash opened 0x1000).isSome, found small && decide (freeShare small < readNat small 0x1010 4),
   [1, 4].all fun st => soundB (run releaseDef st 0) && startsB (run releaseDef st 0) car releaseDef f
     && decide (entState (run releaseDef st 0) 0x1000 0 = st),
   [0, 5].all fun st => soundB (run releaseDef st 0) && startsB (run releaseDef st 0) car releaseDef f
     && decide (entState (run releaseDef st 0) 0x1000 0 = st),
   decide (0x1000 + 64 ≤ entAddr (run releaseDef 1 0) 0x1000 0),
   soundB (run closeDef 1 0) && startsB { run closeDef 1 0 with units := [unitOf car closeDef (fields 1 0 0 0 0 0 0) [0x1000] []] } car closeDef
     (fields 1 0 0 0 0 0 0),
   moveWorks (run offloadDef 1 2) offloadDef true, moveWorks spilled prefetchDef false,
   startsB (run offloadDef 1 0) car offloadDef f && !bitAt (entCtrl (run offloadDef 1 0) 0x1000 0) 1,
   startsB (run prefetchDef 1 2) car prefetchDef f && decide (entState (run prefetchDef 1 2) 0x1000 0 ≠ 2),
   soundB copying && decide (moveOf copying car 0 = some (0x1000, m)) && decide (((findStash copying 0x1000).map (·.moves)) = some [m])]
theorem test_witness_stashes : stashWitness.all id = true := by decide +kernel

def waitsWitness : List Bool :=
  let busy := fun (s : State) (u : UnitRef) => setUnit s { getUnit s u with inFlight := [flight 0 [] [] .work], nextOp := 1 }
  let w := fields 1 2 3 0 0 0
  let waitAt := fun (low : Nat) (arrive late : Pos) => setSt' (setSt' (atState seq waitstDef (w low) [] [] []) seq 1 arrive) seq 2 late
  let wait := fun (s : State) (low : Nat) => soundB s && ready s seq waitstDef (w low)
  let ring := atState seq ringDef (fields 1 2 0 0 0 0 0) [controlBase + 0x10000000 * 0x10 + 0x100000, 1] [] []
  let held := fun (i : Instr) (d : OpDef) (f : Fields) (s : State) =>
    let s := setUnit s { getUnit s seq with waiting := some i }
    soundB s && ready (setUnit s { getUnit s seq with waiting := none }) seq d f
  let fence := atState seq fenceDef (fields 0 0 0 0 0 0 0) [] [] []
  let fail := setUnit fence { getUnit fence seq with inFlight := [{ flight 0 [] [] .work with status := stHeadroom }], nextOp := 1 }
  let spent := setUnit fence { idleUnit seq with running := true, ended := true, owner := .command 0x1000 5 }
  let c : Coll := ⟨7, 3, 0, 1, 4, 0, [0], 0x3000, 0x4000, 1, leBytes 64 0, [], seq, 0, none, [], false, [], none, none, false⟩
  let coll := { setUnit fence { getUnit fence seq with inFlight := [flight 0 [] [] (.coll 7)], nextOp := 1 } with colls := [c], nextColl := 8 }
  let bad := { coll with colls := [{ c with bad := some (0, 1) }] }
  let full := setUnit fence { getUnit fence seq with inFlight := (List.range 32).map fun i => flight i [] [] .work }
  let store := atState seq gstDef (fields 1 2 0 0 0 0 0) [7, 8] [] []
  [soundB fence && ready fence seq fenceDef 0 && (getUnit fence seq).inFlight.isEmpty, soundB (busy fence seq) && ready (busy fence seq) seq fenceDef 0,
   decide (¬(getUnit full seq).inFlight.length < 32), wait (waitAt 0 0 0) 0, wait (waitAt 1 1 0) 1, wait (waitAt 1 1 1) 1, wait (waitAt 0 1 0) 0,
   planB ring seq ringDef (fields 1 2 0 0 0 0 0) fun _ p => startsNow ring seq p,
   ring.boot.firmware && decide (controlAt (gReg (getUnit ring seq) 1) = some (0x10, 0x100000)) && !isDown ring 0x10,
   held (.fence seq 0) fenceDef 0 fence, held (.waitst seq (w 0)) waitstDef (w 0) (waitAt 0 1 0),
   held (.gst seq (fields 1 2 0 0 0 0 0)) gstDef (fields 1 2 0 0 0 0 0) store && !storeHeld (getUnit store seq) 8 8
     && decide (accessAddr (getUnit store seq) (fields 1 2 0 0 0 0 0) = 8) && memMapped store 8 8 && !needsDown store 8 8,
   held (.xfer seq (fields 1 2 3 0 0 0 0)) xferDef (fields 1 2 3 0 0 0 0) (atState seq xferDef (fields 1 2 3 0 0 0 0) [0x1000, 0x2000, 8] [] []),
   [busy fence seq, fail].all fun s => soundB s && ((getUnit s seq).inFlight.find? fun z => z.id = 0).isSome,
   soundB spent && (getUnit spent seq).running && (getUnit spent seq).ended && (getUnit spent seq).inFlight.isEmpty
     && (getUnit spent seq).waiting.isNone,
   soundB bad && decide ((getColl bad 7).map (·.bad) = some (some (0, 1))) && ownLeft coll c && allAgreed coll c && c.bad.isNone,
   soundB coll && decide (getColl coll 7 = some c) && (collResult coll c).isSome
     && (match collResult coll c with | some r => !needsDown coll c.dst r.1.length | none => false)
     && decide (((getUnit coll seq).inFlight.find? fun z => z.id = 0).map (·.need) = some (.coll 7))]
theorem test_witness_waits : waitsWitness.all id = true := by decide +kernel

/-- Two elements of one HUPD, the second with a gradient that is no number. -/
def updDesc2 (phase rnd : Nat) : List Byte :=
  leBytes 4 9 ++ [1, BitVec.ofNat 8 (0x30 + 4 * rnd + phase), 0x99, 0] ++ leBytes 8 2 ++ [0x2000, 0x3000, 0x3100, 0x4000, 0x5000, 0x6000].flatMap (leBytes 8)
    ++ (List.range 12).flatMap fun _ => leBytes 4 0x3D800000
def updState (phase rnd status : Nat) (decided : Option Bool) : State :=
  let m := [(0x2000, leBytes 4 0x40000000 ++ leBytes 4 0x7FC00000), (0x3000, leBytes 2 0x3F80 ++ leBytes 2 0x4000), (0x3100, [3, 5]),
    (0x4000, leBytes 4 0x3F000000), (0x5000, leBytes 4 0x3F000000), (0x6008, leBytes 8 4), (0x602C, [0xF0])]
  setReg (withUnit { idleUnit seq with running := true, inFlight := [flight 0 [] [] (.update (updDesc2 phase rnd) 0 decided)], nextOp := 1 } m)
    0x10 Reg.TRAIN_STEP_STATUS (BitVec.ofNat 64 (status * 2 ^ 33))
def updateWitness : List Bool :=
  let d := updateOf (updDesc2 0 0) 0
  let failed := setUnit (updState 0 0 0 none) { getUnit (updState 0 0 0 none) seq with
    inFlight := [{ flight 0 [] [] (.update (updDesc2 0 0) 0 none) with status := stLost, logged := true }] }
  [(0, 0, 0, none), (0, 0, 3, none), (0, 0, 1, none), (1, 0, 1, none), (0, 1, 1, none), (0, 0, 3, some false), (0, 0, 0, some true)].map
    (fun (p, r, st, dec) =>
    let s := updState p r st dec
    let d := updateOf (updDesc2 p r) 0
    soundB s && decide (((getUnit s seq).inFlight.find? fun z => z.id = 0).map (·.need) = some (.update (updDesc2 p r) 0 dec))
      && (updateReads d).all (fun e => !needsDown s e.1 e.2) && decide (d.phase = p ∧ d.rnd = r)
      && (rb s 0x10 Reg.TRAIN_STEP_STATUS 33 == decide (st ≠ 0)) && (rb s 0x10 Reg.TRAIN_STEP_STATUS 34 == decide (st = 3)))
  ++ [soundB failed && (getUnit failed seq).inFlight.any (fun z => decide (z.status ≠ 0) && z.logged),
    decide ((updateReads d).Pairwise fun p q => p.1 + p.2 ≤ q.1 ∨ q.1 + q.2 ≤ p.1)]
theorem test_witness_update : updateWitness.all id = true := by decide +kernel
/-! Witnesses: queues. -/

/-- Queue 0 of CD 0x10 with rings of 16 slots at 0x10000 and 0x20000: HEAD, DONE and TAIL, commands, and memory as given. -/
def qId : Nat := 0x1000
def queueAt (head done tail : Nat) (cmds : List Cmd) (m : List (Nat × List Byte)) : State :=
  let s := m.foldl (fun s e => writeMem s e.1 e.2) State.reset
  let s := setQf (setQf s qId Reg.Q_RING 43 0 0x10000) qId Reg.Q_RING 52 48 4
  let s := setQf (setQf s qId Reg.Q_CPL_BASE 43 0 0x20000) qId Reg.Q_CTRL 0 0 1
  setQueue (setQf (setQf s qId Reg.Q_PROGRESS 31 0 head) qId Reg.Q_PROGRESS 63 32 done) ⟨qId, tail, cmds, false⟩

/-- A command record (R223): KIND, UNIT, PROGRAM, ARG, ARG_LEN, the queue and the count of a WAIT. -/
def record (kind unit prog arg len wq wc : Nat) : List Byte :=
  leBytes 2 kind ++ leBytes 6 unit ++ leBytes 8 prog ++ leBytes 8 arg ++ leBytes 4 len ++ leBytes 4 wq ++ leBytes 32 wc
def cmdOf (seq : Nat) (b : List Byte) : Cmd := ⟨seq, b, .accepted, 0, 0, 0, false⟩

/-- A program binary (R242) for the sequencer with these words. -/
def binary (words : List Nat) : List Byte :=
  leBytes 4 0x52484F41 ++ leBytes 4 1 ++ leBytes 8 words.length ++ List.replicate 48 0 ++ words.flatMap (leBytes 8)

def runWitness : List Bool :=
  let c := cmdOf 15 (record 1 0 0x3000 5 6 0 0)
  let s := queueAt 16 15 16 [c] [(0x3000, binary [0])]
  [soundB s && decide (startable s qId 15 = some c) && decide (cmdKind c = kindRun) && decide (unitKindOf 0x10 (cmdUnit c) = some .sequencer)
     && decide (unitsFitted 0x10 .sequencer = 1) && !(getUnit s seq).running && decide (binaryFlaw s (cmdProgram c) (cmdUnit c) = 0) && decide (readNat s (cmdProgram c + 8) 4 ≠ 0)]
theorem test_witness_run : runWitness.all id = true := by decide +kernel

def finishWitness : List Bool :=
  let one := fun (c : Cmd) => queueAt 1 0 1 [c] [(0x3000, binary [])]
  let wait := fun (n : Nat) => cmdOf 0 (record 2 0 0 0 0 qId n)
  let due := fun (s : State) (c : Cmd) => (qDone s (cmdWaitQueue c) + 2 ^ 32 - cmdWaitCount c % 2 ^ 32) % 2 ^ 32
  let waits := fun (c : Cmd) (s : State) => soundB s && decide (startable s qId 0 = some c) && decide (cmdKind c = kindWait)
  let far := cmdOf 0 (record 2 0 0 0 0 0x2000 1)
  let lost := setRf (one far) porchDom Reg.DOM_HEALTH 0x20 0x20 1
  let marker := cmdOf 0 (record 3 0 0 0 0 0 0)
  let empty := cmdOf 0 (record 1 0 0x3000 0 0 0 0)
  [waits (wait 0) (one (wait 0)) && decide (due (one (wait 0)) (wait 0) < 2 ^ 31),
   waits (wait (2 ^ 31 + 1)) (one (wait (2 ^ 31 + 1))) && decide (due (one (wait (2 ^ 31 + 1))) (wait (2 ^ 31 + 1)) < 2 ^ 31),
   waits far lost && decide (2 ^ 31 ≤ due lost far) && isLost lost 0x20 && decide (lost.faults.length < 4096),
   soundB (one marker) && decide (startable (one marker) qId 0 = some marker) && decide (cmdKind marker = kindMarker),
   decide (startable (one empty) qId 0 = some empty) && decide (cmdKind empty = kindRun)
     && decide (unitKindOf 0x10 (cmdUnit empty) = some .sequencer) && !(getUnit (one empty) seq).running
     && decide (binaryFlaw (one empty) (cmdProgram empty) (cmdUnit empty) = 0) && decide (readNat (one empty) (cmdProgram empty + 8) 4 = 0)]
theorem test_witness_finish : finishWitness.all id = true := by decide +kernel

/-- A good record at HEAD, one whose ring's domain is lost, one of KIND 0. -/
def acceptWitness : List Bool :=
  let good := queueAt 15 0 16 [] [(0x10000 + 64 * 15, record 3 0 0 0 0 0 0)]
  let lost := setRf (queueAt 0 0 1 [] []) porchDom Reg.DOM_HEALTH 0x22 0x22 1
  let bad := queueAt 0 0 1 [] []
  let c := fun (s : State) => cmdOf (qHead s qId) (readMem s (qRing s qId + 64 * (qHead s qId % 2 ^ qLog2 s qId)) 64)
  let down := fun (s : State) => needsDown s (qRing s qId + 64 * (qHead s qId % 2 ^ qLog2 s qId)) 64
  let takes := fun (s : State) => soundB s && queueExists s qId && !isDown s (qId / 256) && qEnabled s qId && !qStopped s qId && awake s (qId / 256)
    && s.walks.isEmpty && decide (qHead s qId ≠ (getQueue s qId).tail) && decide (sub32 (qHead s qId) (qf s qId Reg.Q_CPL_READ 31 0) < 2 ^ qLog2 s qId)
    && decide ((getQueue s qId).cmds.length < 64) && (getQueue s qId).cmds.all (fun e => decide (e.seq ≠ qHead s qId)) && !flogOn s
    && decide (s.faults.length < 4096)
  [takes good && !down good && decide (cmdFlaw good qId (c good) = 0),
   takes lost && down lost,
   takes bad && !down bad && decide (cmdFlaw bad qId (c bad) = stReserved)]
theorem test_witness_accept : acceptWitness.all id = true := by decide +kernel

/-- A finished command in the last slot of the ring. -/
def completionWitness : List Bool :=
  let c : Cmd := ⟨15, record 3 0 0 0 0 0 0, .finished, 0x0101, 3, 5000, false⟩
  let s := queueAt 16 15 16 [c] []
  let a := qCplBase s qId + 32 * (c.seq % 2 ^ qLog2 s qId)
  [soundB s && queueExists s qId && !isDown s 0x10 && decide ((getQueue s qId).cmds = [c]) && decide (c.stage = .finished)
    && memMapped s a 32 && !needsDown s a 32]
theorem test_witness_completion : completionWitness.all id = true := by decide +kernel

/-- Doorbells at the limit of the ring and one beyond it. -/
def doorbellWitness : List Bool :=
  let s := queueAt (2 ^ 32 - 1) 0 0 [] []
  [soundB s && queueExists s qId && !isDown s 0x10 && s.boot.firmware && decide (sub32 15 (qHead s qId) = 2 ^ qLog2 s qId),
   decide (2 ^ qLog2 s qId < sub32 16 (qHead s qId))]
theorem test_witness_doorbell : doorbellWitness.all id = true := by decide +kernel

def enableWitness : List Bool :=
  let off := setQf (queueAt 0 0 0 [] []) qId Reg.Q_CTRL 0 0 0
  let bad := setQf off qId Reg.Q_CPL_READ 31 0 1
  let on := queueAt 1 0 1 [cmdOf 0 (record 3 0 0 0 0 0 0)] []
  let idle := queueAt 0 0 0 [] []
  [soundB off && queueExists off qId && !isDown off 0x10 && off.boot.firmware && !qEnabled off qId && enableOk off qId,
   soundB bad && !qEnabled bad qId && !enableOk bad qId,
   soundB on && qEnabled on qId && decide (qHead on qId ≠ qDone on qId), qEnabled idle qId && decide (qHead idle qId = qDone idle qId),
   bitAt 4 2 && bitAt 5 0 && bitAt 5 2]
theorem test_witness_enable : enableWitness.all id = true := by decide +kernel
/-! Witnesses: the Stair, landings, low power, walks. -/

/-- A unit that waits in WAITST for position 1, with deadline 1. -/
def tickWitness : List Bool :=
  let w := fields 1 2 3 0 0 0 1
  let s := setSt' (atState seq waitstDef w [] [] []) seq 1 1
  let s := setUnit s { getUnit s seq with waiting := some (.waitst seq w) }
  let ahead := { s with slew := 1, sinceSlew := 63 }
  let late := setSt' s seq 1 2
  let late := setSt' late seq 2 1
  let retrain := setPortF s ⟨0x30, 0⟩ Reg.PORT_STATUS 3 0 ptRetrain
  let x := getUnit s seq
  [s.boot.firmware && decide (s.slew = 0), decide (0 < ahead.slew) && decide (63 ≤ ahead.sinceSlew),
   (let behind := { ahead with slew := -1 }; decide (behind.slew < 0) && decide (63 ≤ behind.sinceSlew)),
   portUp retrain ⟨0x30, 0⟩ && decide (portState retrain ⟨0x30, 0⟩ = ptRetrain), decide (x.inFlight.length < 32),
   x.running && !x.paused && awake s 0x10 && !inReset s 0x10 && decide (x.waiting = some (.waitst seq w)),
   decide ((stReg x (slotF1 w % 4)).toNat ≤ 1),
   decide (1 < (stReg (getUnit late seq) (slotF1 w % 4)).toNat) && bitAt w.toNat 0
     && decide ((stReg (getUnit late seq) (slotF2 w % 4)).toNat ≤ 1)]
theorem test_witness_tick : tickWitness.all id = true := by decide +kernel

/-- Writes above, at and below the pair (1, 2). -/
def stairSetWitness : List Bool :=
  let s := { State.reset with pos := BitVec.ofNat 120 ((1 * 256 + 2) * 2 ^ 48) }
  let old := posMb s.pos * 256 + posPhase s.pos
  let new := fun (v : Nat) => fld v 23 8 * 256 + fld v 7 0
  [soundB s && s.boot.firmware && !isDown s porchDom, decide (old < new (1 * 256 + 3)), decide (new (1 * 256 + 2) = old),
   decide (new (1 * 256 + 1) < old), decide (new (0 * 256 + 255) < old)]
theorem test_witness_stair_set : stairSetWitness.all id = true := by decide +kernel

def closeWitness : List Bool :=
  let s := State.reset
  let last := { s with pos := BitVec.ofNat 120 ((2 ^ 32 - 1) * 2 ^ 72) }
  [soundB s && s.boot.firmware && !isDown s porchDom && decide (1 ≠ posStep s.pos),
   soundB last && decide (posStep last.pos = 2 ^ 32 - 1),
   (let busy := { s with boundary := some ⟨0, false, 0, [], [], []⟩ }; busy.boundary.isSome),
   decide (fabState (setPf s Reg.FAB_STATE 2 0 fabStopped) = fabStopped),
   decide (0 = posStep s.pos) && s.boundary.isNone && decide (posStep s.pos ≠ 2 ^ 32 - 1) && !inJob s && decide (fabState s ≠ fabStopped) && s.early.isEmpty && s.annex.owed.isEmpty
     && decide (pf s Reg.FAB_BX_COUNTS 14 0 = 0) && decide (pf s Reg.FAB_BX_COUNTS 28 16 = 0) && decide (bxBase s % 8 = 0)]
theorem test_witness_close : closeWitness.all id = true := by decide +kernel

def holdoverWitness : List Bool :=
  let s := { State.reset with missed := 15 }
  let m := setPf State.reset Reg.STAIR_SYNC 17 17 1
  let limit := setPf { m with pos := BitVec.ofNat 120 (2 ^ 48 - 2 ^ 36) } Reg.FAB_STATE 2 0 fabRunning
  [soundB s && !isMaster s && decide (16 ≤ s.missed + 1), soundB State.reset && decide (State.reset.missed + 1 < 16), soundB m && isMaster m,
   soundB limit && isMaster limit && decide (2 ^ 48 - 2 ^ 36 ≤ posTick limit.pos) && decide (fabState limit = fabRunning)]
theorem test_witness_holdover : holdoverWitness.all id = true := by decide +kernel

/-- A landing of each kind whose target is the position, with its record at 0x8000: a program of one word at 0x3000, the collective of
collMem, an anchor, power, an operating point, a window of four ticks, a marker. -/
def landingIn (table kind : Nat) (params : List Word) : Landing := ⟨3, table, 0, kind, some 0x8000, params, seq, none, false⟩
def landingAt (l : Landing) (m : List (Nat × List Byte)) : State :=
  { m.foldl (fun s e => writeMem s e.1 e.2) State.reset with landings := [l], nextLanding := 4 }
def landings : List Landing :=
  [landingIn 0x10 1 [0x3000, 5, 6, 0], landingIn 0x10 2 [0x1000, 0, 0, 0], landingIn 0x40 3 [0, 0, 0, 0], landingIn 0x40 4 [16, 0, 0, 0],
   landingIn 0x40 5 [0x1002, 0, 0, 0], landingIn 0x20 6 [4, 0x20, 0, 0], landingIn 0x10 7 [0, 0, 0, 0]]
def firingIn (l : Landing) : State := landingAt l ((0x3000, binary [0]) :: (0x3005, [1]) :: collMem)
/-- The refresh window open until the position; the collective under way, its result not yet written. -/
def openWindow : State := setDomain (landingAt { landingIn 0x20 6 [4, 0x20, 0, 0] with fired := true } []) { blankDomain 0x20 with refresh := [(3, 0)] }
def openColl : State :=
  let l := landingIn 0x10 2 [0x1000, 0, 0, 0]
  match exec (.landingFire 3) (firingIn l) with
  | .next t => t
  | _ => State.reset

def landingWitness : List Bool :=
  let served := fun (s : State) => !needsDown s 0x8000 1 && !needsDown s 0x8002 2 && !needsDown s 0x8008 15
  let fires := fun (l : Landing) => let s := firingIn l
    soundB s && decide (findLanding s 3 = some l) && mayFire s l && served s
  let z := fun (l : Landing) => afterFiring l (firingIn l)
  let l := fun (k : Nat) => landings.getD (k - 1) default
  let d := collDesc (z (l 2)) 0x1000
  let s3 := firingIn (l 3)
  let w := { l 6 with fired := true }
  [landings.all fires,
   decide (binaryFlaw (z (l 1)) 0x3000 1 = 0) && decide (readNat (z (l 1)) 0x3008 4 ≠ 0),
   decide (firstFail (collChecks (z (l 2)) 0x1000) = 0) && (firingIn (l 2)).fabric.earlyColl.isEmpty && decide (d.elements ≠ 0)
     && [(0x1000, 128), (d.group, 8), (d.src, d.elements * unitBytes d.etype), (d.dst, d.dstLen)].all (fun r => !needsDown (z (l 2)) r.1 r.2),
   decide (fabState s3 ≠ fabStopped) && !annexOn s3 && decide (memberCount s3 = 1) && decide (myPos s3 = 0) && s3.annex.owed.isEmpty
     && s3.annex.anchors.isEmpty,
   (l 4).wantOp.isNone, (powered (firingIn (l 5))).contains (0x1002 / 256 % 256) && !isDown (firingIn (l 5)) 0x10,
   soundB openWindow && decide (findLanding openWindow 3 = some w) && served openWindow && decide (domType 0x20 = some .msd)
     && decide ((getDomain openWindow 0x20).refresh = [(3, 0)]) && decide (0 ≤ posTick openWindow.pos)]
where default : Landing := landingIn 0x10 7 []
theorem test_witness_landing : landingWitness.all id = true := by decide +kernel

/-- A carrier is free for the program, however many the domain has. -/
theorem test_witness_idle_carrier :
    idleCarrier (afterFiring (landingIn 0x10 1 [0x3000, 5, 6, 0]) (firingIn (landingIn 0x10 1 [0x3000, 5, 6, 0]))) 0x10 = some car := by
  have hu : (afterFiring (landingIn 0x10 1 [0x3000, 5, 6, 0]) (firingIn (landingIn 0x10 1 [0x3000, 5, 6, 0]))).units = [] := by decide +kernel
  have h1 : min (unitsFitted 0x10 .carrier) 1 = 1 := by
    simp only [unitsFitted, reduceCtorEq, if_false]
    omega
  simp only [idleCarrier, getUnit, hu, List.length_nil, Nat.zero_add, h1]
  decide +kernel

def landingCollWitness : List Bool :=
  let s := openColl
  [soundB s && decide ((findLanding s 3).map (fun l => (l.kind, l.fired, l.record)) = some (2, true, some 0x8000))
    && (match s.colls.find? (fun c => c.landing = some 3) with
      | some c => c.bad.isNone && ownLeft s c && allAgreed s c && (match collResult s c with
        | some (bytes, _) => !needsDown s c.dst bytes.length && !overlaps 0x8000 64 c.dst bytes.length
        | none => false)
      | none => false)]
theorem test_witness_landing_coll : landingCollWitness.all id = true := by decide +kernel

def lowPowerWitness : List Bool :=
  let s := State.reset
  let at' := fun (ph : LpPhase) (wake : Option Nat) => { s with lps := [⟨0x10, 2, ph, wake, false, 0⟩] }
  [soundB s && isDieDom s 0x10 && s.boot.firmware && awake s 0x10 && domIdle s 0x10 && decide (lpChoice s 0x10 ≠ 0)
     && decide ((getLp s 0x10).phase = .stay) && decide ((getLp s 0x10).state < lpChoice s 0x10),
   (let r := { s with lps := [⟨0x10, 1, .stay, none, false, 0⟩] }
    domIdle r 0x10 && decide ((getLp r 0x10).phase = .stay) && decide ((getLp r 0x10).state < lpChoice r 0x10)),
   soundB (at' .entering none) && isDieDom (at' .entering none) 0x10 && decide ((getLp (at' .entering none) 0x10).phase = .entering)
     && decide ((getLp (at' .entering none) 0x10).state ≠ 0),
   (let l := getLp (at' .stay (some 0)) 0x10
    decide (l.wake = some 0) && decide (0 ≤ posTick s.pos) && decide (l.state ≠ 0) && decide (l.phase = .stay)),
   decide ((getLp (at' .waking none) 0x10).phase = .waking)]
theorem test_witness_low_power : lowPowerWitness.all id = true := by decide +kernel

/-- A walk that runs; a misaligned destination; a destination of 0 bytes; a walk at its end. -/
def walkWitness : List Bool :=
  let s := State.reset
  let runs := setRf { s with walks := [⟨0x20, true, 0⟩] } 0x20 Reg.WALK_CAP 31 0 64
  let up := fun (s : State) => soundB s && s.boot.firmware && isFitted s 0x20 && !isDown s 0x20
  let odd := setRf s 0x20 Reg.WALK_DEST 43 0 32
  [up runs && runs.walks.any (fun w => w.dom = 0x20),
   up odd && odd.walks.isEmpty && decide (rf odd 0x20 Reg.WALK_DEST 43 0 % 64 ≠ 0),
   up s && s.walks.isEmpty && decide (rf s 0x20 Reg.WALK_DEST 43 0 % 64 = 0) && decide (rf s 0x20 Reg.WALK_CAP 31 0 = 0),
   decide (runs.walks.find? (fun w => w.dom = 0x20) = some ⟨0x20, true, 0⟩) && runs.units.isEmpty
     && decide (64 ≤ rf runs 0x20 Reg.WALK_CAP 31 0) && decide (rf runs 0x20 Reg.WALK_DEST 43 0 = 0) && (List.range 64).all (fun b => !needsDown runs b 1)]
theorem test_witness_walk : walkWitness.all id = true := by decide +kernel

/-- A destination of the greatest size takes the image, whatever the number of carriers. -/
def roomy : State := setRf State.reset 0x21 Reg.WALK_CAP 31 0 (2 ^ 32 - 1)

theorem roomy_size : 96 < walkSize roomy 0x21 ∧ walkSize roomy 0x21 ≤ 2 ^ 28 := by
  have hq : sizeAll ((List.range 16).map fun q => 56 + 16 * (getQueue roomy (0x21 * 256 + q)).cmds.length) = 896 := by decide +kernel
  have hr : (regOffsets 0x21).length < 1024 := by decide +kernel
  have hu : unitsListed 0x21 ≤ 65537 := by
    have h : unitsListed 0x21 = unitsFitted 0x21 .carrier + 1 := by
      simp [unitsListed, walkUnits, unitsOfKind, firmwareUnits, domType, porchDom]
    have hm : unitsFitted 0x21 .carrier ≤ 65536 := by
      simp only [unitsFitted, reduceCtorEq, if_false]
      exact Nat.min_le_right _ _
    omega
  have hd : domType 0x21 = some .msd := by decide
  simp only [walkSize, hd, hq]
  simp only [show ((0x21 : Nat) = 0x20) = False from by decide, if_false]
  generalize unitsListed 0x21 = n at hu ⊢
  generalize (regOffsets 0x21).length = m at hr ⊢
  have e : 32 + 896 + (32 + 2640 * n) + 0 = 960 + 2640 * n := by omega
  rw [e]
  omega

theorem roomy_up (d : Nat) : isDown roomy d = false := by
  have h1 : (getReg roomy porchDom Reg.DOM_IN_RESET).toNat = 0 := by decide +kernel
  have h2 : (getReg roomy porchDom Reg.DOM_HEALTH).toNat = 0 := by decide +kernel
  simp [isDown, inReset, isLost, h1, h2, bitAt, fld]

theorem roomy_serves (a n : Nat) : needsDown roomy a n = false := by
  simp only [needsDown, roomy_up]
  simp
  intros
  split <;> rfl

theorem test_witness_walk_starts :
    Sound roomy ∧ roomy.boot.firmware = true ∧ isFitted roomy 0x21 = true ∧ isDown roomy 0x21 = false ∧ (∀ w ∈ roomy.walks, w.dom ≠ 0x21)
      ∧ rf roomy 0x21 Reg.WALK_DEST 43 0 % 64 = 0 ∧ walkSize roomy 0x21 ≤ rf roomy 0x21 Reg.WALK_CAP 31 0
      ∧ memMapped roomy 0 (walkSize roomy 0x21) = true ∧ (∀ b, 0 ≤ b → b < 64 → needsDown roomy b 1 = false)
      ∧ rf State.reset 0x21 Reg.WALK_CAP 31 0 < walkSize roomy 0x21 := by
  have hc : rf roomy 0x21 Reg.WALK_CAP 31 0 = 2 ^ 32 - 1 := by decide +kernel
  have hz : rf State.reset 0x21 Reg.WALK_CAP 31 0 = 0 := by decide +kernel
  have hs := roomy_size
  refine ⟨sound_of_soundB (by decide +kernel), rfl, by decide +kernel, roomy_up _, by decide +kernel, by decide +kernel, ?_, ?_,
    fun _ _ _ => roomy_serves _ _, ?_⟩
  · omega
  · have hb : 2 ^ 28 ≤ hbmSize roomy.variant := by decide +kernel
    simp only [memMapped, Bool.or_eq_true, decide_eq_true_eq]
    exact .inl (.inr (by omega))
  · omega
/-! A flit that the model builds is a good one: its CRC need not be computed to see it. -/

theorem crc64Bit_lt (c : Nat) : crc64Bit 0x42F0E1EBA9EA3693 c < 2 ^ 64 := by
  unfold crc64Bit
  split
  · exact Nat.xor_lt_two_pow (Nat.mod_lt _ (by decide)) (by decide)
  · omega

theorem crc64Byte_lt (c : Nat) (b : Byte) : crc64Byte c b < 2 ^ 64 := by
  have h : ∀ (l : List Nat) (x : Nat), (l ++ [7]).foldl (fun c _ => crc64Bit 0x42F0E1EBA9EA3693 c) x < 2 ^ 64 := by
    intro l x
    simp only [List.foldl_append, List.foldl_cons, List.foldl_nil]
    exact crc64Bit_lt _
  unfold crc64Byte
  rw [List.range_succ]
  exact h _ _

theorem crc64_lt (bs : List Byte) : crc64 bs < 2 ^ 64 := by
  have h : ∀ (l : List Byte) (c : Nat), c < 2 ^ 64 → l.foldl crc64Byte c < 2 ^ 64 := by
    intro l
    induction l with
    | nil => intro c hc; exact hc
    | cons b l ih => intro c _; rw [List.foldl_cons]; exact ih _ (crc64Byte_lt c b)
  unfold crc64
  exact Nat.xor_lt_two_pow (h bs _ (by decide)) (by decide)

/-- flitGood, but for the length and the CRC. -/
def plainB (f : List Byte) : Bool := plenOk f && zeros f 7 1 && zeros f 12 4 && payloadOk (flType f) (flPayload f)

theorem flitGood_flitBytes (type tc seq ack : Nat) (sop eop : Bool) (payload : List Byte) (hn : payload.length ≤ 616)
    (hp : plainB (flitBytes type tc seq ack sop eop payload) = true) : flitGood (flitBytes type tc seq ack sop eop payload) = true := by
  have hb : ∀ body : List Byte, body.length = 632 →
      (body ++ leBytes 8 (crc64 body)).length = 640 ∧ crc64 ((body ++ leBytes 8 (crc64 body)).take 632) = recNat (body ++ leBytes 8 (crc64 body)) 632 8 := by
    intro body h
    have hl := leBytes_length 8 (crc64 body)
    refine ⟨by simp [h, hl], ?_⟩
    have ht : (body ++ leBytes 8 (crc64 body)).take 632 = body := by rw [← h]; simp
    have hd : ((body ++ leBytes 8 (crc64 body)).drop 632).take 8 = leBytes 8 (crc64 body) := by
      rw [← h, List.drop_left]
      exact List.take_of_length_le (Nat.le_of_eq hl)
    rw [ht, recNat, hd, leNat_leBytes]
    exact (Nat.mod_eq_of_lt (Nat.lt_of_lt_of_le (crc64_lt body) (by decide))).symm
  obtain ⟨body, hl, he⟩ : ∃ body : List Byte, body.length = 632
      ∧ flitBytes type tc seq ack sop eop payload = body ++ leBytes 8 (crc64 body) := by
    refine ⟨_, ?_, rfl⟩
    simp only [List.length_append, leBytes_length, List.length_replicate, List.length_cons, List.length_nil]
    omega
  rw [he] at hp ⊢
  simp only [plainB, Bool.and_eq_true] at hp
  simp only [flitGood, Bool.and_eq_true, decide_eq_true_eq]
  exact ⟨⟨⟨⟨hb body hl, hp.1.1.1⟩, hp.1.1.2⟩, hp.1.2⟩, hp.2⟩

/-- receives, but for the CRC. -/
def takesB (type : Nat) (p : PortRef) (f : List Byte) (states : List Nat) (s : State) : Bool :=
  portTakes s p states && decide (flType f = type) && (!sequenced type || decide (flSeq f = (getPort s p).nextRx))

theorem receives_of_takesB {type : Nat} {p : PortRef} {f : List Byte} {states : List Nat} {s : State} (hf : flitGood f = true)
    (h : takesB type p f states s = true) : receives type p f states s = true := by
  simp only [takesB, Bool.and_eq_true] at h
  simp [receives, hf, h.1.1, of_decide_eq_true h.1.2, h.2]
/-! Witnesses: ports, flits and frames. -/

def port0 : PortRef := ⟨0x30, 0⟩
/-- Port 0 of IOD 0x30 in a state, SPARED or not, with these lanes. -/
def portIn (st spared lanes : Nat) : State :=
  let s := setRf State.reset 0x30 (portReg port0 Reg.PORT_STATUS) 3 0 st
  setRf (setRf s 0x30 (portReg port0 Reg.PORT_STATUS) 12 12 spared) 0x30 (portReg port0 Reg.PORT_STATUS) 11 4 lanes

def trainWitness : List Bool :=
  let up := fun (st : Nat) => soundB (portIn st 0 0) && portUp (portIn st 0 0) port0 && decide (portState (portIn st 0 0) port0 = st)
  let measured := setPort (portIn ptMeasure 0 0xFF) { blankPort port0 with delays := List.replicate 64 1600 }
  let on := setRf (portIn ptDown 0 0) 0x30 (portReg port0 Reg.PORT_CTRL) 0 0 1
  [up ptDown && (portIn ptDown 0 0).boot.firmware, up ptDetect && decide (7 ≤ laneCount 0x7F) && decide (laneCount 0x3F < 7),
   soundB on && decide (portState on port0 = ptDown) && decide (portF on port0 Reg.PORT_CTRL 0 0 = 1), up ptEqualise, up ptRetrain,
   up ptLock && decide (laneCount 0xFF = 8) && decide (laneCount 0x7F = 7) && decide (portF (portIn ptLock 0 0) port0 Reg.PORT_STATUS 12 12 = 0),
   decide (portF (portIn ptLock 1 0) port0 Reg.PORT_STATUS 12 12 = 1) && decide (portState (portIn ptLock 1 0) port0 = ptLock),
   soundB measured && portUp measured port0 && decide (portState measured port0 = ptMeasure) && decide (64 ≤ (getPort measured port0).delays.length)
     && (getPort measured port0).waiting.isEmpty && decide ((getPort measured port0).replay.length < 4096)]
theorem test_witness_training : trainWitness.all id = true := by decide +kernel

def leaveWitness : List Bool :=
  let s := portIn ptActive 0 0xFF
  let t := portIn ptActive 1 0x7F
  let conflict := setRf (portIn ptDescribe 0 0xFF) 0x30 (portReg port0 Reg.PORT_STATUS) 13 13 1
  [soundB s && portUp s port0 && s.boot.firmware && decide (portState s port0 = ptActive) && bitAt (portF s port0 Reg.PORT_STATUS 11 4) 7
     && decide (portF s port0 Reg.PORT_STATUS 12 12 = 0),
   soundB t && portUp t port0 && decide (portState t port0 = ptActive) && bitAt (portF t port0 Reg.PORT_STATUS 11 4) 0
     && decide (portF t port0 Reg.PORT_STATUS 12 12 = 1),
   soundB conflict && portUp conflict port0 && decide (portState conflict port0 = ptDescribe)
     && decide (portF conflict port0 Reg.PORT_STATUS 13 13 = 1)]
theorem test_witness_leaving : leaveWitness.all id = true := by decide +kernel

/-- DATA flits that go on and that end a packet: an empty letter for this module, a packet of the reserved PKIND 0; a RETRY of SEQ 0, before
which ACK stands. -/
def moreFlit : List Byte := flitBytes flitData 0 0 0 true false (List.replicate 616 0)
def lastFlit : List Byte := flitBytes flitData 0 0 0 true true (leBytes 4 0 ++ [5] ++ List.replicate 11 0)
def staleFlit : List Byte := flitBytes flitData 0 0 0 true true (List.replicate 16 0)
def retryOf0 : List Byte := flitBytes flitRetry 0 0 (2 ^ 24 - 1) false false (List.replicate 4 0)

theorem test_witness_data_flits : ∀ f ∈ [moreFlit, lastFlit, staleFlit, retryOf0], flitGood f = true := by
  simp only [List.mem_cons, List.not_mem_nil, or_false, forall_eq_or_imp, forall_eq]
  exact ⟨flitGood_flitBytes _ _ _ _ _ _ _ (Nat.le_of_eq List.length_replicate) (by decide +kernel), flitGood_flitBytes _ _ _ _ _ _ _ (by decide) (by decide +kernel),
    flitGood_flitBytes _ _ _ _ _ _ _ (by decide) (by decide +kernel), flitGood_flitBytes _ _ _ _ _ _ _ (by decide) (by decide +kernel)⟩

/-- The flits satisfy receives but for their CRC, which test_witness_data_flits shows. -/
def dataWitness : List Bool :=
  let s := portIn ptActive 0 0xFF
  let again := { s with fabric := { s.fabric with seen := [(0, 0)] } }
  let pk := joined s port0 lastFlit
  let waits := setPort s { blankPort port0 with replay := [(0, moreFlit)], nextTx := 1 }
  let third := setPort s { blankPort port0 with resends := 3, resendSeq := 0 }
  [soundB s && takesB flitData port0 moreFlit [ptActive] s && !flEop moreFlit,
   takesB flitData port0 lastFlit [ptActive] s && flEop lastFlit && !packetFlaw s pk && !s.fabric.seen.contains (pkSrc pk, pkPseq pk),
   takesB flitData port0 staleFlit [ptActive] s && flEop staleFlit && packetFlaw s (joined s port0 staleFlit),
   soundB again && takesB flitData port0 lastFlit [ptActive] again && !packetFlaw again (joined again port0 lastFlit)
     && again.fabric.seen.contains (pkSrc (joined again port0 lastFlit), pkPseq (joined again port0 lastFlit)),
   portTakes s port0 [ptActive],
   soundB waits && takesB flitRetry port0 retryOf0 [ptActive] waits && (getPort waits port0).waiting.isEmpty && decide ((getPort waits port0).resends = 0)
     && decide (2 ^ 23 ≤ mod24 (flAck retryOf0 + 2 ^ 24 - 0)) && decide (mod24 (0 + 2 ^ 24 - recNat (flPayload retryOf0) 0 3) < 2 ^ 23),
   soundB third && takesB flitRetry port0 retryOf0 [ptActive] third && (getPort third port0).waiting.isEmpty
     && decide ((getPort third port0).resends = 3) && decide ((getPort third port0).resendSeq = recNat (flPayload retryOf0) 0 3)]
theorem test_witness_data : dataWitness.all id = true := by decide +kernel

/-- One flit of each other type: TIMESTAMP response and request, the switch's descriptor, CREDIT, BEAT, an announcement by its number, and one
of a JOIN. -/
def bareFlit (type : Nat) (b : List Byte) : List Byte := flitBytes type 0 0 0 false false b
def stampFlit : List Byte := bareFlit flitTimestamp (leBytes 8 1 ++ List.replicate 24 0)
def requestFlit : List Byte := bareFlit flitTimestamp (leBytes 8 0 ++ leBytes 24 9)
def descFlit : List Byte := bareFlit flitDescriptor (leBytes 8 (0x4247524C + 2 ^ 32) ++ List.replicate 12 0 ++ leBytes 44 7)
def creditOf1 : List Byte := bareFlit flitCredit ((List.replicate 4 [1, 0]).flatten)
def beatOf0 : List Byte := bareFlit flitBeat (List.replicate 16 0)
def annFlit (n : Nat) : List Byte := bareFlit flitAnnounce (leBytes 8 n)
def joinFlit : List Byte :=
  bareFlit flitAnnounce (leBytes 4 1 ++ leBytes 4 1 ++ leBytes 2 5 ++ [0, 1] ++ leBytes 9 0 ++ [1, 0, 0] ++ leBytes 8 77 ++ [1] ++ leBytes 7 0)

theorem test_witness_other_flits :
    ∀ f ∈ [stampFlit, requestFlit, descFlit, creditOf1, beatOf0, annFlit 1, annFlit 2, annFlit (2 ^ 31 - 1), joinFlit], flitGood f = true := by
  simp only [List.mem_cons, List.not_mem_nil, or_false, forall_eq_or_imp, forall_eq]
  refine ⟨?_, ?_, ?_, ?_, ?_, ?_, ?_, ?_, ?_⟩ <;> exact flitGood_flitBytes _ _ _ _ _ _ _ (by decide) (by decide +kernel)

def controlWitness : List Bool :=
  let s := portIn ptActive 0 0xFF
  let four := setPort s { blankPort port0 with credits := [0, 0, 0, 0] }
  let slave := setPort s { blankPort port0 with beats := true }
  let step := fun (n : Nat) => sub32 (recNat (flPayload (annFlit n)) 0 4) s.fabric.announced
  let describing := portIn ptDescribe 0 0xFF
  let second := setRf describing 0x30 (portReg ⟨0x30, 1⟩ Reg.PORT_STATUS) 3 0 ptActive
  let same := setPf second Reg.FAB_STATE 31 16 7
  let late := fun (n : Nat) => { slave with pos := BitVec.ofNat 120 n }
  let d := fun (s : State) => 10 * (posTick s.pos : Int) - (10 * (recNat (flPayload beatOf0) 2 6 : Int) + (portF s port0 Reg.PORT_STATUS 47 32 : Int))
  let behind := setRf slave 0x30 (portReg port0 Reg.PORT_STATUS) 47 32 1600
  [takesB flitTimestamp port0 stampFlit [ptMeasure] (portIn ptMeasure 0 0xFF) && decide (recNat (flPayload stampFlit) 0 1 = 1)
     && soundB (portIn ptMeasure 0 0xFF) && decide ((getPort (portIn ptMeasure 0 0xFF) port0).delays.length < 64),
   [portIn ptMeasure 0 0xFF, describing, s].all fun s => soundB s && takesB flitTimestamp port0 requestFlit [ptMeasure, ptDescribe, ptActive] s
     && decide (recNat (flPayload requestFlit) 0 1 = 0) && (getPort s port0).waiting.isEmpty,
   soundB describing && takesB flitDescriptor port0 descFlit [ptDescribe] describing && (activePorts describing).isEmpty,
   soundB second && takesB flitDescriptor port0 descFlit [ptDescribe] second && !((activePorts second).filter (· ≠ port0)).isEmpty
     && decide (recNat (flPayload descFlit) 20 2 ≠ fabAddr second),
   takesB flitDescriptor port0 descFlit [ptDescribe] same && decide (recNat (flPayload descFlit) 20 2 = fabAddr same),
   soundB four && takesB flitCredit port0 creditOf1 [ptActive] four && (getPort four port0).waiting.isEmpty
     && decide ((getPort four port0).credits.length = 4) && decide (flCredit creditOf1 = 0),
   takesB flitAnnounce port0 (annFlit 1) [ptActive] s && !s.fabric.gap && decide (recNat (flPayload (annFlit 1)) 6 1 = 0) && decide (step 1 = 1)
     && decide (recNat (flPayload (annFlit 1)) 4 2 = 0),
   takesB flitAnnounce port0 joinFlit [ptActive] s && decide (sub32 (recNat (flPayload joinFlit) 0 4) s.fabric.announced = 1)
     && decide (recNat (flPayload joinFlit) 6 1 = 0) && (match changesOf s (flPayload joinFlit) with
       | [c] => decide (c.kind ≠ 2) && s.fabric.roster.all (fun e => decide (e.addr ≠ c.entry.addr))
       | _ => false),
   takesB flitAnnounce port0 (annFlit 2) [ptActive] s && decide (1 < step 2) && decide (step (2 ^ 31 - 1) < 2 ^ 31),
   soundB slave && takesB flitBeat port0 beatOf0 [ptActive] slave && !isMaster slave && decide (beatPort slave = some port0)
     && decide (recNat (flPayload beatOf0) 0 2 = posEpoch slave.pos) && decide (-160 ≤ d slave),
   takesB flitBeat port0 beatOf0 [ptActive] (late 7) && decide (recNat (flPayload beatOf0) 0 2 = posEpoch (late 7).pos),
   takesB flitBeat port0 beatOf0 [ptActive] behind && decide (d behind < -160)]
theorem test_witness_control_flits : controlWitness.all id = true := by decide +kernel

/-- Port 0 carries frames; its rings of 16 descriptors at 0x10000 and 0x20000; one descriptor with its length. -/
def framePort (ring : Nat) (tail : Nat) (len : Nat) : State :=
  let r := fun (o : Nat) => portReg port0 o
  let s := setRf (portIn ptActive 0 0xFF) 0x30 (r Reg.PORT_CTRL) 1 1 1
  let s := setRf (setRf s 0x30 (r ring) 43 0 0x10000) 0x30 (r ring) 52 48 4
  writeMem (setRf s 0x30 (r Reg.FRAME_RX_TAIL) 31 0 tail) 0x10000 (leBytes 8 0x3000 ++ leBytes 8 len)
def frameWitness : List Bool :=
  let tx := fun (len : Nat) => framePort Reg.FRAME_TX_RING 0 len
  let sends := fun (s : State) (len : Nat) => soundB s && framesOn s port0 && s.boot.firmware
    && decide (sub32 1 (portF s port0 Reg.FRAME_TX_HEAD 31 0) = 1)
    && decide (frameDesc s port0 Reg.FRAME_TX_RING 0 = some 0x10000) && decide (readNat s 0x10008 2 = len)
  let good := fun (s : State) => sends s 60 && !descBad s 0x10000 && memMapped s 0x3000 60 && !needsDown s 0x3000 60
  let ctrl := writeMem (tx 60) 0x300C [0x88, 0x08]
  let odd := writeMem (tx 60) 0x1000B [1]
  let rx := framePort Reg.FRAME_RX_RING 1 60
  let body := List.replicate 60 (5 : Byte)
  let f := body ++ fcs body
  let bad := List.replicate 64 (5 : Byte)
  let pause := List.replicate 12 (5 : Byte) ++ [0x88, 0x08] ++ List.replicate 46 0
  let none' := framePort Reg.FRAME_RX_RING 0 60
  [good (tx 60) && !macControl (readMem (tx 60) 0x3000 60), good ctrl && macControl (readMem ctrl 0x3000 60),
   sends (tx 9212) 9212, sends (tx 59) 59, sends (tx 9213) 9213, sends odd 60 && descBad odd 0x10000,
   soundB rx && framesOn rx port0 && decide (f.length = 64) && decide (fcs (f.take 60) = f.drop 60) && !macControl f
     && decide (portF rx port0 Reg.FRAME_RX_HEAD 31 0 ≠ portF rx port0 Reg.FRAME_RX_TAIL 31 0)
     && decide (frameDesc rx port0 Reg.FRAME_RX_RING 0 = some 0x10000) && !descBad rx 0x10000 && decide (60 ≤ readNat rx 0x10008 2)
     && memMapped rx 0x3000 60 && !needsDown rx 0x3000 60 && decide (readNat rx 0x10000 8 % 2 ^ 44 = 0x3000),
   (let p := pause ++ fcs pause; decide (p.length = 64) && decide (fcs (p.take 60) = p.drop 60) && macControl p),
   decide (fcs (bad.take 60) ≠ bad.drop 60),
   soundB none' && framesOn none' port0 && decide (portF none' port0 Reg.FRAME_RX_HEAD 31 0 = portF none' port0 Reg.FRAME_RX_TAIL 31 0)]
theorem test_witness_frames : frameWitness.all id = true := by decide +kernel
/-! Witnesses: packets, jobs, restarts, the Annex, restore. -/

/-- A packet to address 7 from address 8 in epoch 1 (R311), and a restart payload of job 9 (R332). -/
def packetOf (kind : Nat) (b : List Byte) : List Byte :=
  leBytes 2 7 ++ leBytes 2 8 ++ leBytes 2 kind ++ leBytes 2 1 ++ leBytes 4 5 ++ leBytes 4 b.length ++ b
def restartBytes (kind : Nat) (rest : List Byte) : List Byte := leBytes 4 kind ++ leBytes 4 9 ++ rest

/-- A module of job 9 at address 7 in epoch 1 and in a state of FAB_STATE; its members are ranks 0 and 1. -/
def inJobAs (st rank : Nat) : State :=
  let s := setPf (setPf State.reset Reg.FAB_STATE 2 0 st) Reg.FAB_STATE 31 16 7
  let s := setPf (setPf (setPf s Reg.FAB_JOB 31 0 9) Reg.FAB_JOB 47 32 rank) Reg.FAB_MEMBERS 16 0 2
  let mate := fun (addr rank : Nat) => (⟨addr, 1, 9, rank, 1, 0, 1, 0, 0⟩ : Partner)
  { s with pos := BitVec.ofNat 120 (2 ^ 104), fabric := { s.fabric with members := [0, 1], roster := [mate 7 rank, mate 8 (1 - rank)] } }

/-- A packet of the reserved PKIND 0, a duplicate, packets of epoch 0: a letter and a fetch request. -/
def staleWitness : List Bool :=
  let s := inJobAs fabRunning 0
  let pk := packetOf 5 []
  let old := fun (kind : Nat) (b : List Byte) => leBytes 2 7 ++ leBytes 2 8 ++ leBytes 2 kind ++ leBytes 2 0 ++ leBytes 4 5 ++ leBytes 4 b.length ++ b
  let fetch := old 6 (pieceHeader 4 0 0 4 0 64 0 0)
  let seen := { s with fabric := { s.fabric with seen := [(8, 5)] } }
  let held := { seen with fabric := { seen.fabric with received := [old 5 []] } }
  [s.boot.firmware && s.fabric.coordinator.isNone && packetFlaw s (packetOf 0 []),
   seen.boot.firmware && !packetFlaw seen pk && !seen.fabric.received.contains pk && seen.fabric.seen.contains (pkSrc pk, pkPseq pk)
     && seen.fabric.coordinator.isNone,
   [old 5 [], fetch].all fun pk => !packetFlaw s pk && !s.fabric.seen.contains (pkSrc pk, pkPseq pk) && decide (pkEpoch pk < posEpoch s.pos),
   isRequest fetch && !isRequest (old 5 []), !packetFlaw held (old 5 []) && held.fabric.received.contains (old 5 [])
     && decide (pkEpoch (old 5 []) < posEpoch held.pos)]
theorem test_witness_stale : staleWitness.all id = true := by decide +kernel

def jobWitness : List Bool :=
  let s := State.reset
  let ready := setPf s Reg.FAB_EXPECT 16 0 1
  let forming := { setPf (setPf (inJobAs fabForming 0) Reg.FAB_EXPECT 16 0 2) Reg.FAB_STATE 31 16 7 with pos := 0 }
  [soundB s && s.boot.firmware && !isDown s porchDom, decide (fabState s ≤ fabForming),
   decide (fabForming < fabState (inJobAs fabStopped 0)) && decide (fabState (inJobAs fabStopped 0) ≤ fabStopped) && soundB (inJobAs fabStopped 0),
   soundB ready && !ready.boot.updating && decide (fabState ready = fabNoJob) && decide (1 ≤ pf ready Reg.FAB_EXPECT 16 0)
     && decide (pf ready Reg.FAB_EXPECT 16 0 ≤ 65536),
   decide (pf s Reg.FAB_EXPECT 16 0 = 0), soundB forming && mayForm forming]
theorem test_witness_job : jobWitness.all id = true := by decide +kernel

/-- What a packet of rank 1 says after its kind and job: rank, epoch, zeros, and the rest. -/
def fromRank1 (rest : List Byte) : List Byte := leBytes 2 1 ++ leBytes 2 1 ++ leBytes 4 0 ++ rest

def restartWitness : List Bool :=
  let r := inJobAs fabRunning 0
  let s := inJobAs fabRestarting 0
  let mate := inJobAs fabRestarting 1
  let voted := { s with fabric := { s.fabric with voted := some 0, votes := [⟨0, 1, true⟩] } }
  let both := { s with fabric := { s.fabric with voted := some 0, votes := [⟨0, 1, true⟩, ⟨1, 1, false⟩] } }
  let few := { s with fabric := { s.fabric with voted := some 0, votes := [⟨0, 1, false⟩] } }
  let restart := packetOf 3 (restartBytes 1 (fromRank1 (List.replicate 16 0)))
  let vote := restartBytes 2 (fromRank1 (List.replicate 16 0))
  let member := restartBytes 3 (fromRank1 (leBytes 16 2 ++ [3] ++ List.replicate 8191 0))
  let tally := fun (s : State) => soundB s && decide (fabState s = fabRestarting) && decide (s.fabric.voted = some (jobRank s)) && !s.fabric.settled
    && decide (pf s Reg.RST_STATUS 1 0 ≠ 1) && !s.restore.waiting
  let go := fun (s : State) => decideContinue s.fabric.votes.length (pf s Reg.FAB_MEMBERS 16 0) (s.fabric.votes.any (·.keystone))
  [soundB r && restartPacketOf 1 restart r && decide (fabState r = fabRunning) && fromMember restart r,
   (let alien := packetOf 3 (restartBytes 1 (List.replicate 24 0)); restartPacketOf 1 alien r && !fromMember alien r),
   soundB s && decide (fabState s = fabRestarting) && decide (lowestPresent s = some 0) && s.fabric.voted.isNone && decide (jobRank s = 0),
   soundB mate && decide (fabState mate = fabRestarting) && decide (lowestPresent mate = some 0) && mate.fabric.voted.isNone && decide (jobRank mate = 1),
   restartPacketOf 2 (packetOf 3 vote) s && decide (recNat vote 16 2 = jobRank s) && fromMember (packetOf 3 vote) s,
   tally voted && go voted, tally both && go both, tally few && !go few,
   restartPacketOf 3 (packetOf 3 member) s && (ranksOfMap (member.drop 32)).contains (jobRank s) && decide (pf s Reg.RST_STATUS 1 0 ≠ 1)
     && !s.restore.waiting,
   restartPacketOf 4 (packetOf 3 (restartBytes 4 (List.replicate 24 0))) s && decide (s.faults.length < 4096),
   decide (voted.fabric.voted = some 0) && ((presentRanks voted).all fun r => decide (0 ≤ r)) && decide (voted.faults.length < 4096)]
theorem test_witness_restart : restartWitness.all id = true := by decide +kernel

def runningWitness : List Bool :=
  let s := inJobAs fabRunning 0
  let boundary := fun (step : Nat) => packetOf 2 (leBytes 4 1 ++ leBytes 4 step ++ List.replicate 24 0)
  let b := fun (step : Nat) => pkPayload (boundary step)
  let y : Boundary := ⟨1, false, 0, [], [], []⟩
  let odd := { y with sig := 5 }
  let opened := { s with boundary := some y }
  let differs := { s with boundary := some odd }
  let coll := leBytes 8 0 ++ [1, 1, 0, 0] ++ List.replicate 20 0
  let stray := leBytes 2 7 ++ leBytes 2 9 ++ leBytes 2 1 ++ leBytes 2 1 ++ leBytes 4 5 ++ leBytes 4 coll.length ++ coll
  let agree := packetOf 3 (restartBytes 5 (fromRank1 (leBytes 8 0 ++ [2] ++ List.replicate 7 0)))
  let agreeing := { s with fabric := { s.fabric with agreeing := true } }
  let slow := setPf (setPf (setPf s Reg.PWR_CTRL 1 1 1) Reg.PWR_SLOW_BASIS 47 0 1) Reg.PWR_STATUS 4 0 15
  let pair := { slow with fabric := { slow.fabric with members := [1] } }
  let slowPk := packetOf 2 (leBytes 32 2)
  let comes := fun (s : State) (step : Nat) => soundB s && arrivesHere (boundary step) s && decide (pkKind (boundary step) = 2)
    && decide (recNat (b step) 0 1 = 1) && decide (fabState s = fabRunning) && decide (recNat (b step) 4 4 = step)
  [comes s 0 && s.boundary.isNone && decide (posStep s.pos ≤ 0),
   (let s1 := { s with pos := BitVec.ofNat 120 (2 ^ 104 + 2 ^ 72) }; comes s1 0 && decide (0 < posStep s1.pos)),
   comes opened 2 && decide (y.step < 2), comes opened 0 && decide (0 < y.step),
   comes opened 1 && decide (recNat (b 1) 8 2 = y.ledgers.length ∧ recNat (b 1) 10 2 = y.layers.length ∧ recNat (b 1) 16 8 = y.sig) && !y.sent,
   comes differs 1 && decide (recNat (b 1) 16 8 ≠ odd.sig),
   arrivesHere (packetOf 1 coll) s && decide (hdUnits coll = 0) && s.colls.isEmpty && s.fabric.roster.any (fun p => p.addr = pkSrc (packetOf 1 coll)),
   arrivesHere stray s && decide (pkKind stray = 1) && !s.fabric.roster.any (fun p => p.addr = pkSrc stray),
   soundB agreeing && restartPacketOf 5 agree agreeing && bitAt (recNat (pkPayload agree) 24 1) 1 && agreeing.fabric.restoreTo.isNone
     && !agreeing.restore.waiting && decide (pf agreeing Reg.RST_STATUS 1 0 ≠ 1) && decide (recNat (pkPayload agree) 16 4 < 2 ^ 32 - 1),
   arrivesHere slowPk s && decide (pkKind slowPk = 2) && decide (recNat (pkPayload slowPk) 0 1 = 2),
   [slow, pair].all fun slow => soundB slow && slow.boot.firmware && decide (fabState slow = fabRunning) && decide (pf slow Reg.PWR_CTRL 1 1 = 1)
     && decide (pf slow Reg.PWR_SLOW_BASIS 47 0 ≠ 0) && throttled slow && slow.power.lastNotice.isNone && !slow.power.notified,
   decide (jobRank pair ≠ 1) && (partnerOf pair 1).isSome]
theorem test_witness_running : runningWitness.all id = true := by decide +kernel

/-- A piece packet: kind, flags, and a piece of these bytes. -/
def pieceOf (akind flags : Nat) (bs : List Byte) : List Byte := packetOf 6 (pieceHeader akind flags 0 4 0 bs.length 0 0 ++ bs)

def annexWitness : List Bool :=
  let s := State.reset
  let odd := setPf s Reg.ANNEX_SIZE 43 0 1
  let big := setPf s Reg.ANNEX_SIZE 43 0 (4 * 2 ^ 20)
  let s0 := inJobAs fabRunning 0
  let on := { s0 with annex := { s0.annex with active := true } }
  let owed := { on with annex := { on.annex with owed := [⟨8, pieceHeader 1 0 0 4 0 0 0 0⟩] } }
  let items := itemsOf 0 (cfgTable s)
  let need := fun (s : State) => annexNeed { s with annex := { s.annex with items := items } }
  let sums := packetOf 3 (restartBytes 6 (leBytes 32 1 ++ leBytes 8 0))
  let stopped := setPf s Reg.FAB_STATE 2 0 fabStopped
  let anchor := packetOf 3 (restartBytes 7 (leBytes 12 0 ++ [1] ++ List.replicate 11 0))
  [[odd, stopped].all fun s => soundB s && s.boot.firmware && !isDown s porchDom && !s.annex.active && !s.annex.asking,
   decide (fabState odd ≠ fabStopped) && decide (cfgFlaw odd ≠ 0), decide (fabState stopped = fabStopped),
   soundB big && decide (cfgFlaw big = 0) && !inJob big && big.annex.offers.isEmpty && decide (need big < 2 ^ 44) && decide (need big = cfgSize big),
   decide (cfgFlaw s = 0) && decide (cfgSize s < need s),
   soundB s0 && arrivesHere (pieceOf 3 0 []) s0 && decide (phKind (pkPayload (pieceOf 3 0 [])) = 3) && !s0.annex.asking && s0.annex.offers.isEmpty,
   soundB on && arrivesHere (pieceOf 1 0 [5]) on && decide (phKind (pkPayload (pieceOf 1 0 [5])) = 1) && on.annex.active,
   arrivesHere (pieceOf 2 0 []) owed && decide (phKind (pkPayload (pieceOf 2 0 [])) = 2) && decide (8 = pkSrc (pieceOf 2 0 []))
     && sameHeader (pieceHeader 1 0 0 4 0 0 0 0) (pkPayload (pieceOf 2 0 [])) && owed.boundary.isNone && owed.annex.anchorLanding.isNone,
   arrivesHere sums on && decide (recNat (pkPayload sums) 0 1 = 6) && decide (recNat (pkPayload sums) 4 4 = jobId on) && !bitAt (recNat (pkPayload sums) 40 1) 0
     && decide (∃ r ∈ memberRanks on, r ≠ recNat (pkPayload sums) 8 2) && on.annex.sums.isEmpty,
   arrivesHere anchor on && decide (recNat (pkPayload anchor) 0 1 = 7) && decide (recNat (pkPayload anchor) 4 4 = jobId on)
     && decide (recNat (pkPayload anchor) 20 1 ≠ 0) && on.annex.anchors.isEmpty && on.annex.anchorLanding.isNone,
   arrivesHere (pieceOf 1 0 [5]) s0 && !s0.annex.active,
   soundB owed && decide (fabState owed = fabRunning) && !owed.annex.owed.isEmpty]
theorem test_witness_annex : annexWitness.all id = true := by decide +kernel

/-- A module of two that fetches its own item of 64 bytes for an export, now from its partner: the plan stands at 0x2000. -/
def fetcher : State :=
  let s := setPf (setPf (setPf (inJobAs fabRunning 0) Reg.RST_STATUS 1 0 2) Reg.RST_PLAN 43 0 0x2000) Reg.RST_PLAN_COUNT 19 0 1
  let s := writeMem s 0x2000 (leBytes 8 ownItemId ++ leBytes 8 0 ++ leBytes 8 64 ++ leBytes 8 0x3000)
  { s with annex := { s.annex with active := true }, restore := { s.restore with mode := 1, source := 1 } }

def restoreWitness : List Bool :=
  let s := State.reset
  let free := fun (s : State) => soundB s && s.boot.firmware && !isDown s porchDom && decide (pf s Reg.RST_STATUS 1 0 ≠ 1)
    && decide (pf s Reg.RST_STATUS 1 0 ≠ 2) && !s.fabric.agreeing && !s.restore.waiting
  let r := fun (s : State) (mode : Nat) => { Restore.initial with mode := mode, step := s.fabric.restoreTo.getD (pf s Reg.ANNEX_STATE 31 0) }
  let stopped := setPf s Reg.FAB_STATE 2 0 fabStopped
  let resets := setPf s Reg.DOM_IN_RESET 0 0 1
  let bad := setPf s Reg.RST_PLAN_COUNT 19 0 1
  let lost := setRf (writeMem (setPf bad Reg.RST_PLAN 43 0 0x10000) 0x10000 (leBytes 8 ownItemId ++ leBytes 16 0 ++ leBytes 8 0)) porchDom Reg.DOM_HEALTH
    0x22 0x22 1
  let s0 := inJobAs fabRunning 0
  let req := packetOf 6 (pieceHeader 4 0 0 4 0 64 0 0)
  let data := packetOf 6 (pieceHeader 5 0 1 ownItemId 0 1 0 0 ++ [5])
  let b := pkPayload data
  let refused := packetOf 6 (pieceHeader 6 0 1 ownItemId 0 0 0 0)
  let done := { setPf s Reg.RST_STATUS 1 0 2 with restore := { s.restore with written := true, step := 2 ^ 32 - 2, own := List.replicate 64 7 } }
  [free s && decide (fabState s ≠ fabStopped) && s.fabric.restoreTo.isNone, free stopped && decide (fabState stopped = fabStopped),
   free resets && decide (getReg resets porchDom Reg.DOM_IN_RESET ≠ 0),
   free bad && decide (getReg bad porchDom Reg.DOM_IN_RESET = 0) && [1, 2].all (fun m => decide (planFlaw bad (r bad m) ≠ 0)),
   free lost && [1, 2].all (fun m => decide (planFlaw lost (r lost m) = 0) && planLost lost (r lost m)), decide (planCount s = 0),
   soundB s0 && arrivesHere req s0 && decide (pkKind req = 6) && decide (phKind (pkPayload req) = 4) && decide (phFlags (pkPayload req) = 0)
     && s0.annex.pieces.isEmpty && decide (phLen (pkPayload req) ≠ 0),
   soundB fetcher && fetching fetcher && !fetcher.fabric.agreeing && arrivesHere data fetcher && decide (phKind b = 5)
     && (match blockGoal fetcher fetcher.restore with
       | some g => decide (g.want ≠ 0) && (importedBytes fetcher fetcher.restore g).isNone
         && (match (sourcesOf fetcher fetcher.restore g)[fetcher.restore.source]? with
         | some src => (blockFrom fetcher { fetcher.restore with fetched := [Machine.pieceOf fetcher b] } g src).isNone
           && !src.any (needLost fetcher { fetcher.restore with fetched := [Machine.pieceOf fetcher b] } g.item.itemId)
         | none => false)
       | none => false),
   arrivesHere refused fetcher && decide (phKind (pkPayload refused) = 6) && refusesGoal fetcher (pkPayload refused) && decide (fetcher.restore.mode = 1)
     && decide (fetcher.restore.index < planCount fetcher) && fetcher.restore.fetched.isEmpty
     && (match blockGoal fetcher fetcher.restore with
       | some g => decide (g.want ≠ 0) && (sourcesOf fetcher fetcher.restore g)[fetcher.restore.source + 1]?.isNone
       | none => false),
   soundB done && decide (pf done Reg.RST_STATUS 1 0 = 2) && decide (planCount done = 0) && decide (done.restore.step < 2 ^ 32 - 1)
     && decide (done.restore.own.length = 64)]
theorem test_witness_restore : restoreWitness.all id = true := by decide +kernel
/-! Witnesses: letterboxes and the Hall. -/

/-- The INBOX of CD 0x10 with these bytes at the head of its slot 15, and FABRIC_IN and FABRIC_OUT likewise. -/
def inbox : Nat := boxId 0x10 0
def boxAddr (o b : Nat) : Nat := boxBase + 0x400000 * o + 0x2000 * b
def slotHead (state sender length seq : Nat) : List Byte :=
  leBytes 1 state ++ leBytes 1 sender ++ leBytes 2 length ++ leBytes 4 seq ++ leBytes 8 0 ++ leBytes 2 8
def porchAgent : Agent := ⟨1, 0⟩
def letterboxWitness : List Bool :=
  let s := fun (st sender len : Nat) => slotWrite State.reset inbox 15 0 (slotHead st sender len 9)
  let full := (List.range 16).foldl (fun s n => setSlotState s inbox n 1) State.reset
  let ring := fun (sender : Nat) => sender + 15 * 256
  let ack := fun (seq : Nat) => seq + 15 * 2 ^ 48
  [soundB State.reset && !isDown State.reset 1 && decide (boxAt State.reset (boxAddr 0x10 0) = some (0x10, 0, 0)) && decide (inbox ≠ fabricIn),
   decide (boxAt State.reset (boxAddr 0 0x40) = some (0, 0x40, 0)) && decide (boxId 0 0x40 = fabricIn),
   decide (freeSlot? State.reset inbox = some 0) && !bitAt (getBox State.reset inbox Reg.LB_STATUS).toNat 3,
   soundB full && decide (freeSlot? full inbox = none),
   soundB (s 1 31 224) && decide (slotState (s 1 31 224) inbox 15 = 1) && decide (slotSender (s 1 31 224) inbox 15 = ring 31 % 32)
     && decide (fld (ring 31) 11 8 = 15) && decide (slotLength (s 1 31 224) inbox 15 = 224) && decide (inbox ≠ fabricOut),
   decide (slotState (s 0 31 0) inbox 15 ≠ 1), decide (slotSender (s 1 30 0) inbox 15 ≠ ring 31 % 32), decide (224 < slotLength (s 1 31 225) inbox 15),
   soundB (s 2 0 0) && decide (slotState (s 2 0 0) inbox (fld (ack 9) 51 48) = 2) && decide (slotSeq (s 2 0 0) inbox 15 = ack 9 % 2 ^ 32),
   decide (slotSeq (s 2 0 0) inbox 15 ≠ ack 8 % 2 ^ 32), decide (slotState (s 1 0 0) inbox 15 ≠ 2),
   soundB (s 3 31 0) && decide (slotState (s 3 31 0) inbox 15 = 3) && decide (slotSender (s 3 31 0) inbox 15 = ring 31 % 32),
   decide (slotState (s 2 31 0) inbox 15 ≠ 1) && decide (slotState (s 2 31 0) inbox 15 ≠ 3),
   (let lost := setBox (s 1 31 224) inbox Reg.LB_STATUS 8
    soundB lost && bitAt (getBox lost inbox Reg.LB_STATUS).toNat 3 && decide (slotState lost inbox 15 = 1)),
   isDieDom State.reset (boxOwner inbox) && decide ((getLp State.reset (boxOwner inbox)).state = 0)]
theorem test_witness_letterbox : letterboxWitness.all id = true := by decide +kernel

def fabricLetterWitness : List Bool :=
  let s := inJobAs fabRunning 0
  let pk := packetOf 5 []
  let full := (List.range 16).foldl (fun s n => setSlotState s fabricIn n 2) s
  let sent := slotWrite s fabricOut 3 0 (slotHead 2 0 0 9)
  let posted := slotWrite s fabricIn 3 0 (slotHead 2 0 0 9)
  let claimed := slotWrite s fabricOut 15 0 (slotHead 1 31 3 9 ++ leBytes 2 7)
  [soundB s && arrivesHere pk s && decide (pkKind pk = 5) && s.fabric.held.isEmpty && decide (freeSlot? s fabricIn = some 0),
   soundB full && arrivesHere pk full && decide (freeSlot? full fabricIn = none),
   soundB sent && arrivesHere pk sent && decide (sentSlot sent (pkSrc pk) 9 = some 3),
   soundB claimed && arrivesHere pk claimed && decide (boxAt claimed (boxAddr 0 0x41) = some (0, 0x41, 0)) && decide (slotState claimed fabricOut 15 = 1)
     && decide (slotSender claimed fabricOut 15 = (31 + 15 * 256) % 32) && decide (fld (31 + 15 * 256) 11 8 = 15)
     && decide (slotLength claimed fabricOut 15 ≤ 224) && decide (fabState claimed ≠ fabStopped)
     && (claimed.fabric.roster.find? fun p => p.addr = slotPeer claimed fabricOut 15).isSome,
   (let alone := { claimed with fabric := { claimed.fabric with roster := [] } }
    soundB alone && (alone.fabric.roster.find? fun p => p.addr = slotPeer alone fabricOut 15).isNone),
   (let stopped := setPf claimed Reg.FAB_STATE 2 0 fabStopped; soundB stopped && decide (fabState stopped = fabStopped)),
   (let waits := { full with fabric := { full.fabric with held := [(8, 1, [])] } }
    soundB waits && arrivesHere pk waits && !waits.fabric.held.isEmpty),
   (let lost := setBox s fabricIn Reg.LB_STATUS 8
    soundB lost && arrivesHere pk lost && bitAt (getBox lost fabricIn Reg.LB_STATUS).toNat 3),
   !bitAt (getBox s fabricIn Reg.LB_STATUS).toNat 3,
   soundB posted && posted.fabric.held.isEmpty && posted.boot.firmware && !isDown posted 0 && decide (boxAt posted (boxAddr 0 0x40) = some (0, 0x40, 0))
     && decide (slotState posted fabricIn 3 = 2) && decide (slotSeq posted fabricIn 3 = (9 + 3 * 2 ^ 48) % 2 ^ 32)
     && decide (fld (9 + 3 * 2 ^ 48) 51 48 = 3)]
theorem test_witness_fabric_letters : fabricLetterWitness.all id = true := by decide +kernel

def accessWitness : List Bool :=
  let s := State.reset
  let down := setRf s porchDom Reg.DOM_HEALTH 0x20 0x20 1
  [soundB s && s.boot.firmware && !isDown s 0 && unserved s (hbmSize 0 % 2 ^ 44) && decide (s.faults.length < 4096),
   memMapped s (hbmSize 0 - 8) 8 && !needsDown s (hbmSize 0 - 8) 8, soundB down && !isDown down 1 && memMapped down 0 8 && needsDown down 0 8,
   !isDown s 0x10 && isFitted s 0x10 && decide ((getLp s 0x10).state = 0)]
theorem test_witness_access : accessWitness.all id = true := by decide +kernel
/-! Witnesses: faults and resets, registers whose writes act, power, temperatures. -/

def domainWitness : List Bool :=
  let s := State.reset
  let gone := setRf s porchDom Reg.DOM_IN_RESET 0x10 0x10 1
  let hall := setRf s porchDom Reg.DOM_IN_RESET 0 0 1
  [soundB s && s.boot.firmware && !isDown s porchDom && resettable s 0x10 && !isLost s 0x10, !resettable s 1, !resettable gone 0x10,
   !readerIsOp s seq 0 && resettable s seq.dom, soundB gone && inReset gone 0x10 && !gone.boot.updating && selfTestOk gone 0x10 true [3]
     && !gone.fabric.agreeing && !gone.restore.waiting && decide (pf gone Reg.RST_STATUS 1 0 ≠ 1) && decide (gone.faults.length < 4096)
     && (getDomain gone 0x10).aborted.isEmpty && (getDomain gone 0x10).records.isEmpty && !(gone.power.rampLandings.any fun r => decide (r.1 = 0x10)),
   !selfTestOk gone 0x10 true [3, 5], selfTestOk hall 0 true [] && soundB hall && inReset hall 0 && (getDomain hall 0).aborted.isEmpty
     && (getDomain hall 0).records.isEmpty && decide (payloadFlaw hall (recNat (storeRead hall 0 64) 8 8) (storeRead hall 0 64) ≠ 0)]
theorem test_witness_domains : domainWitness.all id = true := by decide +kernel

def corridorWitness : List Bool :=
  let busy := withUnit { idleUnit seq with running := true, inFlight := [flight 0 [] [] .work], nextOp := 1 } []
  let noDst := setRf busy porchDom Reg.DOM_IN_RESET 0x20 0x20 1
  let job := { inJobAs fabRunning 0 with units := busy.units }
  let a := slotBase 0x10
  [soundB noDst && noDst.boot.firmware && isFitted noDst 0x10 && isFitted noDst 0x20 && !resettable noDst 0x20
     && ((getUnit noDst seq).inFlight.find? (fun o => o.id = 0) == some (flight 0 [] [] .work)) && onRoute 0x10 0x20 2 1 && decide (noDst.faults.length < 4096),
   resettable busy 0x20 && !isLost busy 0x20,
   soundB job && readerIsOp job seq 0 && !inHbm job a 1 && memMapped job a 1 && decide (sramDom a = some 0x10) && decide (fabState job = fabRunning)]
theorem test_witness_corridor : corridorWitness.all id = true := by decide +kernel

def actingWitness : List Bool :=
  let s := State.reset
  let left := { s with train := { s.train with left := true } }
  let opened := { s with stash := ⟨[⟨0x1000, 1, [], []⟩], 0, 1⟩ }
  let logged := logFault { status := stLost, cls := 3, dom := 0x10 } s
  [soundB s && !isDown s 0x10 && isFitted s 0x10 && bitAt 1 0 && !s.train.left, soundB left && left.train.left, decide (fabState s = fabNoJob),
   decide (fabState (inJobAs fabRunning 0) ≠ fabNoJob), !isDown s 0x20 && isFitted s 0x20 && s.stash.stashes.isEmpty, soundB opened && !opened.stash.stashes.isEmpty,
   (let a := pf logged Reg.FLOG_COPY_DEST 43 0
    soundB logged && decide (a % 64 = 0) && memMapped logged a 64 && !needsDown logged a 64
      && (logged.faults.find? fun b => recNat b 0 4 = 0).isSome && logged.faults.all fun b => decide (recNat b 0 4 ≠ 1)),
   !flogOn s]
theorem test_witness_acting : actingWitness.all id = true := by decide +kernel

def powerWitness : List Bool :=
  let s := State.reset
  let admitted := { s with power := { s.power with grants := [⟨3, seq, 16, 0, .pgrant, .admitted, none, 0⟩] } }
  let auto := { s with power := { s.power with grants := [⟨3, seq, 80, 0, .auto, .inForce, none, 0⟩] } }
  let held := grantsWhere auto fun g => g.holder = seq && g.source = .auto && g.stage = .inForce
  let ramp := setRf { s with power := { s.power with ramps := [(0x10, 3)] } } 0x10 Reg.PWR_OPPOINT 24 24 1
  let frozen := { s with power := { s.power with rampHeld := [0x10], droop := [] } }
  let least := fld (getReg s 0x10 (Reg.VTABLE0 + 8 * rf s 0x10 Reg.PWR_OPPOINT 2 0)).toNat 39 32
  let aged := setReg s 0x10 Reg.VTABLE0 (BitVec.ofNat 64 (2 ^ 32))
  let hot := setPf { s with power := { s.power with samples := [10 ^ 14], lowWindow := 10000000 } } Reg.PWR_STATUS 4 0 1
  let cool := { s with power := { s.power with highWindow := 10000000, lowered := [(0x10, 2)] } }
  let shows := fun (w : State) => windowSecs w * 10000
  let waiting := { s with power := { s.power with grants := [⟨3, seq, 16, 0, .pgrant, .queued, none, 0⟩] },
                          units := [{ idleUnit seq with running := true, inFlight := [flight 0 [] [] (.grant 3)], nextOp := 1 }] }
  [soundB s && s.boot.firmware, soundB hot && decide (pf hot Reg.PWR_STATUS 4 0 = 1) && decide (room hot < (lastTen hot : Int))
     && decide (shows hot ≤ hot.power.lowWindow + 1),
   soundB cool && decide (pf cool Reg.PWR_STATUS 4 0 = 16) && decide ((lastTen cool : Int) ≤ room cool)
     && decide (20 * lastTen cool ≤ 19 * (limitWatts cool * 10000)) && decide (shows cool ≤ cool.power.highWindow + 1),
   soundB waiting && waiting.power.grants.any fun g => g.n = 3 && decide (g.stage ≠ .inForce), soundB admitted
     && decide (admitted.power.grants.find? (fun g => g.n = 3 && g.stage = .admitted) = some ⟨3, seq, 16, 0, .pgrant, .admitted, none, 0⟩),
   soundB auto && decide (80000000 ≤ held * 1000000 - unitDraw (getUnit auto seq)), !isDown s porchDom,
   decide (0x10 ∈ powered s) && !isDown s 0x10 && decide ((getLp s 0x10).state = 0),
   soundB ramp && decide (ramp.power.ramps.find? (fun r => r.1 = 0x10) = some (0x10, 3)) && decide (rf ramp 0x10 Reg.PWR_OPPOINT 24 24 = 1)
     && decide (rf ramp 0x10 Reg.PWR_OPPOINT 25 25 = 0), !s.power.droop.contains 0x10, soundB frozen && frozen.power.rampHeld.contains 0x10,
   decide (least ≤ 0), soundB aged && decide (0 < fld (getReg aged 0x10 (Reg.VTABLE0 + 8 * rf aged 0x10 Reg.PWR_OPPOINT 2 0)).toNat 39 32),
   decide (isFitted s 0x10 = true) && decide (pf s Reg.PWR_STATUS 7 7 = 0), decide (pf (setPf s Reg.PWR_STATUS 7 7 1) Reg.PWR_STATUS 7 7 = 1),
   soundB (setPf s Reg.PWR_STATUS 7 7 1)]
theorem test_witness_power : powerWitness.all id = true := by decide +kernel

/-! Witnesses: start-up, services, pins. -/

def powerOnWitness : List Bool :=
  let s := State.reset
  let off := { s with pins := { s.pins with pwrGood := false } }
  let low := { s with pins := { s.pins with resetN := false } }
  let due := { s with boot := { s.boot with resetIn := true } }
  let rec' := { s with boot := { s.boot with recovery := some 0 } }
  let last := { s with boot := { s.boot with recovery := some 1024, recTotal := 1030 }, mram := { s.mram with set := List.replicate 1024 7 } }
  let frame := fun (w : State) (off total n : Nat) =>
    let b := laneMac w 0 ++ List.replicate 6 1 ++ mgmtType ++ leBytes 4 0x11 ++ leBytes 8 w.mram.copyA.serial.toNat ++ leBytes 4 off ++ leBytes 4 total
      ++ List.replicate n 0
    b ++ fcs b
  let good := fun (w : State) (off total n : Nat) => match mgmtPayload w (frame w off total n) with
    | none => false
    | some f => soundB w && decide (w.boot.recovery = some off) && decide (recNat f 0 2 = 0x11) && decide (recNat f 2 2 = 0)
      && decide (recNat f 4 8 = (factory w).serial.toNat) && decide (recNat f 12 4 = off) && decide (recNat f 16 4 = total) && decide (total ≤ setMax)
      && (off == 0 || total == w.boot.recTotal) && decide (off ≤ w.mram.set.length) && decide (20 + min 1024 (total - off) ≤ f.length)
  [soundB off && !off.pins.pwrGood && off.pins.resetN, soundB low && low.pins.pwrGood && !low.pins.resetN && !low.boot.resetIn,
   soundB due && due.pins.pwrGood && due.pins.resetN && due.boot.resetIn, soundB s && s.pins.pwrGood && s.pins.resetN,
   good rec' 0 1025 1024, good rec' 0 0 26, good last 1024 1030 26, decide (rec'.boot.recLane ≤ 1),
   { s with boot := { s.boot with retry := true } }.boot.retry, !setGood s.variant s.mram.minSvn s.mram.set]
set_option maxRecDepth 100000 in
theorem test_witness_power_on : powerOnWitness.all id = true := by decide +kernel

/-- A message POSTED in slot 15 of the Porch INBOX (R425). -/
def askFor (op a0 a1 a2 : Nat) : State :=
  slotWrite (slotWrite State.reset porchBox 15 0 (slotHead 2 0 64 1)) porchBox 15 32
    (leBytes 8 op ++ leBytes 8 a0 ++ leBytes 8 a1 ++ leBytes 8 a2 ++ List.replicate 32 0)
def serviceWitness : List Bool :=
  let m := fun (s : State) => serviceOf (messageAt s 15)
  let ok := fun (s : State) (op : Nat) => soundB s && asks s 15 op
  let frame := fun (op : Nat) => let b := laneMac State.reset 0 ++ List.replicate 6 1 ++ mgmtType ++ leBytes 4 1 ++ leBytes 8 op ++ List.replicate 56 0
    b ++ fcs b
  [ok (askFor 1 0x1000 6483 0) 1 && decide (attestStatus (askFor 1 0x1000 6483 0) (m (askFor 1 0x1000 6483 0)) = 0),
   ok (askFor 1 0x1000 6482 0) 1 && decide (attestStatus (askFor 1 0x1000 6482 0) (m (askFor 1 0x1000 6482 0)) = stLength),
   ok (askFor 2 0x1000 16 0) 2 && decide ((chainBytes (askFor 2 0x1000 16 0)).length = 16) && memMapped (askFor 2 0x1000 16 0) 0x1000 16
     && !needsDown (askFor 2 0x1000 16 0) 0x1000 16,
   ok (askFor 2 0x1000 15 0) 2, ok (askFor 3 0 0 3) 3 && decide (2 < (m (askFor 3 0 0 3)).arg2),
   (let s := askFor 3 0x1000 64 0
    ok s 3 && decide ((m s).arg2 = 0) && memMapped s 0x1000 64 && !needsDown s 0x1000 64 && decide (setLength (readMem s 0x1000 64) ≤ 64)),
   (let s := askFor 4 0x1001 (storeSize - 4096) 4096
    ok s 4 && decide ((m s).arg1 % 4096 = 0) && decide ((m s).arg1 + (m s).arg2 = storeSize) && memMapped s 0x1001 4096 && !needsDown s 0x1001 4096),
   (let s := askFor 5 0x1001 (storeSize - 1) 1
    ok s 5 && decide ((m s).arg1 + (m s).arg2 = storeSize) && memMapped s 0x1001 1 && !needsDown s 0x1001 1),
   ok (askFor 6 0 0 0) 6,
   (let s := setPf (askFor 3 0x1000 64 2) Reg.FAB_STATE 2 0 fabForming
    ok s 3 && decide ((m s).arg2 = 2) && decide (fabForming ≤ fabState s) && decide (fabState s ≤ fabRestarting)),
   [1, 2, 3, 4, 5, 6].all fun op => match mgmtPayload State.reset (frame op) with
     | none => false
     | some f => decide (recNat f 0 2 = 1) && decide (recNat f 2 2 = 0) && decodable (cut f 4 64) && decide (recNat f 4 2 = op)]
theorem test_witness_services : serviceWitness.all id = true := by decide +kernel

def pinWitness : List Bool :=
  let rom := setPf State.reset Reg.BOOT_STATUS 3 0 bootRom
  let early := { rom with boot := { rom.boot with firmware := false } }
  [soundB State.reset && State.reset.pins.pwrGood && State.reset.boot.firmware && decide (bootState State.reset ≠ bootRom),
   soundB early && early.pins.pwrGood && !early.boot.firmware && decide (bootState early = bootRom)]
theorem test_witness_pins : pinWitness.all id = true := by decide +kernel

/-! One ill-formed command for each check of WellFormed, which it refuses, beside one that it takes. -/

/-- A second sequencer, a sequencer and a link engine of an MSD, a carrier of the Porch; port 2 and a port of a CD; an unassigned domain;
a hart of a CD, hart 64 of the Hall; a queue of the Porch and queue 16; a flit of 639 bytes, 17 symbols corrected; a packet without its header or past 8,592
bytes; slot 16; a sequence number of 2^32; cause 2; hart 64; a store of 3 bytes; lane 8 of a port. -/
def illFormed : List Instr :=
  [.nop ⟨0x10, .sequencer, 1⟩ 0, .nop ⟨0x20, .sequencer, 0⟩ 0, .nop ⟨0x20, .link, 0⟩ 0, .nop ⟨1, .carrier, 0⟩ 0, .portRxTimeout ⟨0x30, 2⟩,
   .portRxTimeout ⟨0x10, 0⟩, .pollMiss 0x40, .pollMiss 0x16, .lbClaim ⟨0x10, 1⟩ 0 0, .lbClaim ⟨0, 64⟩ 0 0, .commandAccept 0x100, .commandAccept 0x1010,
   .dataFlit ⟨0x30, 0⟩ (some 0) (List.replicate 639 0), .dataFlit ⟨0x30, 0⟩ (some 17) (List.replicate 640 0), .collPacket (List.replicate 15 0), .collPacket (List.replicate 8593 0), .attest 16,
   .wait 0x1000 (2 ^ 32), .vinShutdown 2, .hallAccessFault 64 0 false, .registerWrite ⟨0, 0⟩ 0 3 0, .laneFault ⟨0x30, 0⟩ 8]
theorem test_ill_formed : illFormed.all (fun i => !i.wellFormed) = true := by decide +kernel

/-- The same at the last value that each check takes. -/
def wellFormed : List Instr :=
  [.nop ⟨0x10, .sequencer, 0⟩ 0, .nop ⟨0x20, .carrier, 7⟩ 0, .nop ⟨0x30, .link, 7⟩ 0, .portRxTimeout ⟨0x31, 1⟩, .pollMiss 0x15, .lbClaim ⟨0, 63⟩ 0 0,
   .commandAccept 0x100F, .dataFlit ⟨0x30, 0⟩ (some 16) (List.replicate 640 0), .collPacket (List.replicate 16 0), .attest 15, .wait 0x1000 (2 ^ 32 - 1),
   .vinShutdown 1, .hallAccessFault 63 0 false, .registerWrite ⟨0, 0⟩ 0 1 0, .registerWrite ⟨0, 0⟩ 0 2 0, .registerWrite ⟨0, 0⟩ 0 4 0, .laneFault ⟨0x30, 0⟩ 7]
theorem test_well_formed : wellFormed.all (·.wellFormed) = true := by decide +kernel

/-- No word of the table spells a command, and so withFetchWord leaves the state as it was (log entry 31). -/
theorem test_no_table_word (n w : Nat) (s : State) : decodeTableWord n w = none ∧ s.withFetchWord n w = s := ⟨rfl, rfl⟩

/-! Witnesses: one command waits after reset. -/
theorem test_witness_front : soundB { State.reset with pending := [.attest 0] } = true := by decide +kernel
theorem test_reset_sound : Sound State.reset := sound_of_soundB (by decide +kernel)
theorem test_reset_idles : step State.reset = .next State.reset := rfl
theorem test_front_goes : (match step { State.reset with pending := [.jtagBypass, .attest 0] } with
    | .next t => decide (t.pending = [.attest 0] ∧ t.out = [.jtag 0])
    | _ => false) = true := by decide +kernel

/-! The spec's worked examples and fixed values. -/

/-- R196: the counter generator with K = 0 and P = 0, and the states after rounds 0 and 1. -/
theorem test_cg_vectors : cg 0 0 = 0x783328BC9EEC8FD4BD9FBA2E763C7B8C
    ∧ cgRound 0 0 ⟨0, 0, 0, 0⟩ 0 = ⟨0xD5964F47, 0, 0x00CF57F8, 0⟩
    ∧ cgRound 0 0 (cgRound 0 0 ⟨0, 0, 0, 0⟩ 0) 1 = ⟨0xB62B0B6D, 0x00CF57F8, 0x113C7C35, 0xD5964F47⟩ := by decide +kernel

/-- R196: the first two round keys of K = 0x0123_4567_89AB_CDEF, seen in w1 of a round whose w0 is the key's negation. -/
theorem test_cg_keys : cgRound 0x89ABCDEF 0x01234567 ⟨-0xE4E8FA80#32, 0, 0xE4E8FA80#32, 0⟩ 0 = ⟨0, 0xE4E8FA80#32, 0, -0xE4E8FA80#32⟩
    ∧ cgRound 0x89ABCDEF 0x01234567 ⟨-0xB79D9E89#32, 0, 0xB79D9E89#32, 0⟩ 1 = ⟨0, 0xB79D9E89#32, 0, -0xB79D9E89#32⟩ := by decide +kernel

/-- R198: the worked rounding position. -/
theorem test_cg_position : cgPosRc 1 0x25 0xA0F9 0x200D 3 = 0x1000000250000A0F9000080340000003 := by decide +kernel

/-- "Worked conversions": the L4 tile with S = 0.75, and its P6 element. -/
def tileOfSix (xs : List Num) : List QIn := xs.map .fin ++ List.replicate (256 - xs.length) (.fin ⟨0, 0, 1⟩)
def near : DrawSrc := vectorLanes 0x10 0
def q (xs : List QIn) : QTile := quantTile .l4 (fp32Num 0x3F400000) near (fun _ => 0) xs State.reset
theorem test_quantised_tile :
    let t := q (tileOfSix [⟨5, 0, 4⟩, ⟨-13, 0, 32⟩, ⟨17, 0, 64⟩, ⟨7, 0, 64⟩, ⟨3, 0, 32⟩, ⟨3, 0, 64⟩])
    t.words.take 7 = [6, 0xB, 2, 1, 0, 0, 0] ∧ t.word = 0x1E ∧ t.sats = 0 := by decide +kernel
theorem test_quantised_edges :
    let big := q (tileOfSix [⟨250000, 0, 1⟩])
    let nan := q (.nan :: tileOfSix [])
    (big.words.take 1 = [7] ∧ big.word = 0x0F ∧ big.sats = 1) ∧ (nan.words.take 1 = [0] ∧ nan.word = 0x30) ∧ (q (tileOfSix [])).word = 0x50 := by
  decide +kernel
theorem test_pair_element : (encodeElem .p6 false (some ⟨13, 0, 12⟩) none).word = 0x11
    ∧ (roundNum .fp32 none (numMul (elemValue .l4 6) ⟨3, 0, 16⟩)).bits = 0x3F87C3B6 := by decide +kernel

/-- The five wide conversions with RND 0b00. -/
theorem test_wide_conversions :
    let c := fun (f g : Fmt) (x : Nat) => (fvConvert g none (fvRead f x)).bits
    c .fp32 .bf16 0x3F808000 = 0x3F80 ∧ c .fp32 .fp16 0x47800000 = 0x7BFF ∧ (fvConvert .fp16 none (fvRead .fp32 0x47800000)).sat = true
      ∧ c .fp32 .bf16 0xFF800000 = 0xFF80 ∧ c .fp32 .fp16 0x7FA12345 = 0x7E00 ∧ c .fp16 .fp32 0x0001 = 0x33800000 := by decide +kernel

/-- "One output through three tile-blocks": the rails of tile-block 0, the product scale, its drains, and tile-block 1's clamp. -/
def pairs0 : Acc :=
  [(6, 3), (10, 2), (5, 12), (1, 7), (3, 2)].foldl (fun acc e => pairTerm 1 (-2) 1 acc (codeElem .l4 e.1 []) (codeElem .l4 e.2 [])) accZero
def worked : Num := numMul (fp64Num (scaleProduct 0x3F400000 0x3E000000)) (numScale ⟨0x300000000, 0x100000000, 1⟩ (-32))
theorem test_tile_block : (railOut pairs0.r.1 pairs0.infA).v = 0x300000000 ∧ (railOut pairs0.r.2 pairs0.infB).v = 0x100000000
    ∧ scaleProduct 0x3F400000 0x3E000000 = 0x3FB8000000000000 := by decide +kernel
theorem test_drained : (roundNum .fp32 none worked).bits = 0x3ED3E1DB ∧ (roundNum .bf16 none worked).bits = 0x3ED4 := by decide +kernel
theorem test_drained_clamped :
    let x := numMul (fp64Num 0x3FB8000000000000) (numScale ⟨0x20000000002FFFFFFFF, 0x100000000, 1⟩ (-32))
    (roundNum .fp32 none x).bits = 0x52400000 ∧ (roundNum .bf16 none x).bits = 0x5240 ∧ (roundNum .fp16 none x).bits = 0x7BFF ∧ (roundNum .fp16 none x).sat = true := by
  decide +kernel

/-- "One spike in a block of sixteen": h = 4, SIDE 0, element 5 is 64: every output is 16 or -16. -/
theorem test_spike :
    let xs := (List.range 16).map fun i => if i = 5 then fvRead .fp32 0x42800000 else .fin false 0
    ((List.range 16).map fun q => match rotOut 0 ⟨4, 0, false, 0, 37⟩ 0 q xs with
      | .real _ fl => decide (fl 0 = (16, false))
      | _ => false).all id = true := by decide +kernel

/-- R134: the ladder of BASE (L4, 1) with CAP P6 is L4/1, P5/2, P6/2, P6/3. -/
theorem test_ladder : ladderOf (4 + 16 * 1) 6 = [(4, 1), (5, 2), (6, 2), (6, 3)] := by decide +kernel

/-- "An update too small for BF16": the pair after each of twenty steps of -1.0e-4 (here the FP32 value nearest to it), from w 1.0. -/
def twenty : List (Nat × Nat) :=
  ((List.range 20).foldl (fun (acc : Int × List (Nat × Nat)) _ =>
    let p := pairUpdate acc.1 (fp32Num 0xB8D1B717) none
    ((pairValue p.master p.eaves).getD 0, acc.2 ++ [(p.master, p.eaves)])) (((2 : Int) ^ 149), [])).2
theorem test_twenty_updates : twenty.getD 0 (0, 0) = (0x3F80, 256 - 7) ∧ twenty.getD 1 (0, 0) = (0x3F80, 256 - 14)
    ∧ twenty.getD 17 (0, 0) = (0x3F80, 256 - 126) ∧ twenty.getD 18 (0, 0) = (0x3F7F, 123) ∧ twenty.getD 19 (0, 0) = (0x3F7F, 116) := by
  decide +kernel

/-- Chapter 9's words: CSET, CZERO, MMA, DRAIN, and MMA when p3 is clear, each row's opcode over the operand bits. -/
theorem test_words :
    let w := fun (d : OpDef) (f : Fields) => d.opc * 2 ^ 56 + f.toNat
    w csetDef (fields 2 14 0 0 0 0 0) = 0x0F01380000000000 ∧ w czeroDef (fields 2 0 0 0 0 0 0) = 0x4B01000000000000
      ∧ w mmaDef (fields 2 4 5 9 0 0 1) = 0x480110A900000001 ∧ w drainDef (fields 6 2 0 0 0 9 0) = 0x4A03080002400000
      ∧ w mmaDef (fields 2 4 5 9 0 0 1 ||| BitVec.ofNat 56 (0xB * 2 ^ 52)) = 0x48B110A900000001 := by decide +kernel

/-- R32, R14 and R444: an HBM byte's stack, a counter's address, and the counter's place in the walk, as the worked examples find them. -/
theorem test_addresses : hbmStack State.reset 0x00A12345678 = 1 ∧ controlAt 0x18130000040 = some (0x13, 0x40)
    ∧ controlAt 0x18130200140 = some (0x13, 0x200140)
    ∧ recNat (walkRegBytes (setReg State.reset 0x13 0x200140 0xABCD) 0x13) (1608 - 64) 8 = 0xABCD := by decide +kernel

/-- "Thirteen requests at one position": at P the controller admits CD0 to CD4, and CD5 would reach 3,468 W. -/
def thirteen : State :=
  let cds := (List.range 6).map fun k => (⟨k, ⟨0x10 + k, .sequencer, 0⟩, 128, 0, .auto, .queued, none, 0⟩ : Grant)
  let msds := (List.range 6).map fun k => (⟨6 + k, ⟨0x20 + k, .carrier, 0⟩, 64, 0, .pgrant, .queued, none, 0⟩ : Grant)
  { State.reset with power := { State.reset.power with
      samples := List.replicate 10 2700000, grants := cds ++ msds ++ [⟨12, ⟨0x30, .link, 0⟩, 96, 0, .pgrant, .queued, none, 0⟩] } }
theorem test_thirteen : ((letIn thirteen).power.grants.filter fun g => g.stage ≠ .queued).map (·.n) = [0, 1, 2, 3, 4] := by decide +kernel

/-! One step of one command of several families, on fixed values taken from the rules. -/

def after (c : Instr) (s : State) : State := match exec c s with
  | .next t => t
  | _ => State.reset

/-- R250: GOPI 0 adds its signed immediate: 5 + (-1) in g3, and the pc moves on. -/
theorem test_step_gopi :
    let f := fields 3 1 0 0 0 0 (2 ^ 42 - 64)
    let x := getUnit (after (.gopi seq f) (atState seq gopiDef f [5] [] [])) seq
    x.g.getD 3 0 = 4 ∧ x.pc = 1 := by decide +kernel

/-- R259: XFER of 20 bytes five bytes down, the ranges overlapping, moves every byte as it was. -/
theorem test_step_xfer :
    let f := fields 1 2 3 0 0 0 0
    let bytes := leBytes 25 0x191817161514131211100F0E0D0C0B0A09080706050403020100
    readMem (after (.xfer seq f) (atState seq xferDef f [0x1000, 0x1005, 20] [] [(0x1000, bytes)])) 0x1000 20 = bytes.drop 5 := by decide +kernel

/-- R403: a claim of the empty box takes slot 0 for sender 31, and grant register 31 says GRANTED, slot 0. -/
theorem test_step_claim :
    let t := after (.lbClaim porchAgent (boxAddr 0x10 0) 31) State.reset
    slotState t inbox 0 = 1 ∧ slotSender t inbox 0 = 31 ∧ (getBox t inbox (Reg.LB_GRANT0 + 8 * 31)).toNat = 16 := by decide +kernel

/-- R394: hart 36's store past HBM is recorded. -/
theorem test_step_hall_fault :
    let t := after (.hallAccessFault 36 (hbmSize 0) true) State.reset
    rf t 0 Reg.HALL_ACCESS_LAST 43 0 = 0x6480000000 ∧ rf t 0 Reg.HALL_ACCESS_LAST 49 44 = 36 ∧ (getReg t 0 Reg.HALL_ACCESS_COUNT).toNat = 1
      ∧ t.faults.length = 1 := by decide +kernel

/-- R366: with nothing drawn, LIMITER_STEP raises the rate from 15 to 16, and there it stays. -/
theorem test_step_limiter :
    let t := after .limiterStep (setPf State.reset Reg.PWR_STATUS 4 0 15)
    pf t Reg.PWR_STATUS 4 0 = 16 ∧ pf (after .limiterStep t) Reg.PWR_STATUS 4 0 = 16 := by decide +kernel

/-- R340 to R342: DOM_RESET.GO for CD0 is counted, logged and lost to nothing else; GO for the Porch is refused. -/
theorem test_step_reset :
    let t := after (.domResetGo 0x110) State.reset
    let r := after (.domResetGo 0x101) State.reset
    inReset t 0x10 = true ∧ inReset t 0x11 = false ∧ t.faults.length = 1 ∧ pf r Reg.DOM_RESET 9 9 = 1 ∧ r.faults = [] := by decide +kernel

/-- R458: the identification code of an SK20-B: item 0. -/
theorem test_step_idcode : (after .jtagIdcode State.reset).out = [.jtag 0x0B020C4F] := by decide +kernel

end Sys2Proof.Tests
end

section
/-! How a unit issues an instruction: what a refusal leaves, what advances, what every row's command is (R235, R236, R244 to R247). -/
namespace Sys2Proof.Machine

/-! Units and the fault log. -/

theorem getUnit_eq_of_units {s t : State} (h : t.units = s.units) (u : UnitRef) : getUnit t u = getUnit s u := by
  rw [getUnit, getUnit, h]

theorem getUnit_setUnit_self (s : State) (x : ProgUnit) : getUnit (setUnit s x) x.ref = x := by
  rw [getUnit_setUnit, if_pos rfl]

/-- A unit written in another's place is read back there. -/
theorem getUnit_setUnit_of_ref (s : State) {x : ProgUnit} {u : UnitRef} (hx : x.ref = u) : getUnit (setUnit s x) u = x := by
  rw [← hx, getUnit_setUnit_self]

/-- An update of one unit touches no other part of the module. -/
theorem sameButUnit_setUnit (s : State) {x : ProgUnit} {u : UnitRef} (hx : x.ref = u) : sameButUnit u s (setUnit s x) :=
  ⟨fun v hv => by rw [getUnit_setUnit, hx, if_neg hv], rfl⟩

theorem sameButUnit_trans {u : UnitRef} {r s t : State} (h : sameButUnit u r s) (h' : sameButUnit u s t) : sameButUnit u r t := by
  obtain ⟨hu, hs⟩ := h
  obtain ⟨hu', hs'⟩ := h'
  have h : { t with units := r.units } = { s with units := r.units } := congrArg (fun x : State => { x with units := r.units }) hs'
  exact ⟨fun v hv => (hu' v hv).trans (hu v hv), h.trans hs⟩

/-- Whether the fault ring is on is a matter of one register. -/
theorem flogOn_congr {s t : State} (h : getReg t porchDom Reg.FLOG_RING = getReg s porchDom Reg.FLOG_RING) : flogOn t = flogOn s := by
  rw [flogOn, flogOn, flogLog2, flogLog2, pf, pf, pf, pf, rf, rf, rf, rf, h]

/-- A number written to FLOG_SEQ leaves the fault ring's own register. -/
theorem flogOn_setSeq {s : State} (h : tblWf (regDefault s.variant) s.regs = true) (v : Nat) :
    flogOn (setPf s Reg.FLOG_SEQ 31 0 v) = flogOn s :=
  flogOn_congr (getReg_setRf_ne h _ _ _ (by decide))

theorem flogPlace_off {s : State} (h : flogOn s = false) (bytes : List Byte) : flogPlace bytes s = s := by
  simp only [flogPlace, h, Bool.not_false, if_true]

/-- With no fault ring a record touches no memory (R339). -/
theorem logFault_mem_off {s : State} (hs : Sound s) (h : flogOn s = false) (f : FaultInfo) : (logFault f s).mem = s.mem := by
  have hoff : ∀ (l : List (List Byte)) (v : Nat), flogOn (setPf { s with faults := l } Reg.FLOG_SEQ 31 0 v) = false :=
    fun l v => (flogOn_setSeq (s := { s with faults := l }) hs.regs v).trans h
  simp only [logFault, sendMsi_mem, flogPlace_off (hoff _ _)]
  rfl

/-- A log that is not full takes the record at its end (R339). -/
theorem logFault_faults {s : State} (h : s.faults.length < 4096) (f : FaultInfo) :
    (logFault f s).faults = s.faults ++ [faultBytes (nextLogSeq s) s.pos f] := by
  have hlen : s.faults.length + 1 - 4096 = 0 := by omega
  simp [logFault, nextLogSeq, hlen]

/-- A record of a fault changes log, ring, counters and interrupts, and nothing else of the module. -/
theorem logFault_frame (f : FaultInfo) (s : State) :
    { logFault f s with units := s.units, faults := s.faults, mem := s.mem, regs := s.regs, imsic := s.imsic, out := s.out } = s := by
  cases s
  simp only [State.mk.injEq]
  simp

/-! Refusals. -/

@[simp] theorem failUnit_ref (id st : Nat) (x : ProgUnit) : (failUnit id st x).ref = x.ref := by
  unfold failUnit; split <;> rfl

/-- What a failure does to a unit: it stops, and takes the status when it has none. -/
theorem failUnit_eq (id st : Nat) (x : ProgUnit) :
    ∃ status statusOp, failUnit id st x = { x with stopped := true, status := status, statusOp := statusOp }
      ∧ (x.status = 0 → status = st) := by
  unfold failUnit
  split
  · exact ⟨st, id, rfl, fun _ => rfl⟩
  · next h => exact ⟨x.status, x.statusOp, rfl, fun h0 => absurd (.inl h0) h⟩

/-- A refusal at issue is what R20 and R247 say of one. -/
theorem refuse_refusedAt {s : State} (hs : Sound s) (u : UnitRef) (st : Nat) : refusedAt u st s (refuse u st s) := by
  obtain ⟨status, statusOp, hy, hst⟩ := failUnit_eq (getUnit s u).nextOp st
    { getUnit s u with waiting := none, nextOp := (getUnit s u).nextOp + 1 }
  have href : (failUnit (getUnit s u).nextOp st { getUnit s u with waiting := none, nextOp := (getUnit s u).nextOp + 1 }).ref = u := by
    rw [failUnit_ref]
    exact getUnit_ref s u
  have hlog : ∀ v, getUnit (logFault (unitFault (getUnit s u) st) s) v = getUnit s v :=
    getUnit_eq_of_units (logFault_units _ _)
  unfold refusedAt refuse
  rw [getUnit_setUnit_of_ref _ href]
  refine ⟨?_, ?_, ?_, ?_, ?_, ?_, ?_, ?_, ?_, ?_, fun v hv => ?_, fun hl => ?_, fun hf => logFault_mem_off hs hf _, ?_⟩
  case refine_2 => rw [hy]; exact hst
  case refine_11 => rw [getUnit_setUnit, href, if_neg hv, hlog]
  case refine_12 => rw [setUnit_faults, logFault_faults hl, unitFault, getUnit_ref]
  case refine_13 => exact logFault_frame (unitFault (getUnit s u) st) s
  all_goals rw [hy]

/-! The next word. -/

/-- A unit that issues moves on with every register file as it was. -/
theorem keptFiles_advance {x : ProgUnit} (h : x.ended = false) : keptFiles x (advance x 1) := by
  have hx : { x with ended := false } = x := by rw [← h]
  simpa [keptFiles, wentOn, advance, h] using hx

theorem mayIssue_ended {s : State} {u : UnitRef} (h : mayIssue s u = true) : (getUnit s u).ended = false := by
  simp only [mayIssue, Bool.and_eq_true, Bool.not_eq_true'] at h
  obtain ⟨⟨⟨⟨⟨⟨-, h⟩, -⟩, -⟩, -⟩, -⟩, -⟩ := h
  exact h

variable {s : State} {u : UnitRef} {d : OpDef} {f : Fields}

/-- A unit that may issue, at a word of the row: it attempts the instruction, or passes it by where the predicate fails (R235). -/
theorem issue_at_word (hm : mayIssue s u = true) (ho : d.opc < 256)
    (hw : wordAt (getUnit s u) = some (BitVec.ofNat 64 (d.opc * 2 ^ 56 + f.toNat))) (hn : d.names f.toNat = true) (i : Instr) :
    issue u i f d s = if predicated (getUnit s u) f then attempt u i f d s else setUnit s (advance (getUnit s u) 1) := by
  have hf := f.isLt
  have hlt : d.opc * 2 ^ 56 + f.toNat < 2 ^ 64 := by omega
  have hw' : (BitVec.ofNat 64 (d.opc * 2 ^ 56 + f.toNat)).toNat = d.opc * 2 ^ 56 + f.toNat := by
    rw [BitVec.toNat_ofNat, Nat.mod_eq_of_lt hlt]
  have hf' : BitVec.ofNat 56 (d.opc * 2 ^ 56 + f.toNat) = f := by
    apply BitVec.eq_of_toNat_eq
    rw [BitVec.toNat_ofNat]
    omega
  simp only [issue, hm, hw, hw', hf', hn, Bool.not_true, Bool.false_eq_true, and_self, if_true, if_false]

/-- Bits that the row does not use, or a unit that may not run it, are refused (R236). -/
theorem attempt_reserved (h : f.toNat &&& (2 ^ 56 - 1 - d.mask) ≠ 0 ∨ d.units u.kind = false) (i : Instr) :
    attempt u i f d s = refuse u stReserved s := by
  rw [attempt, if_pos h]

/-- A row whose command issues it, under an opcode of one byte. -/
structure IssuesRow (u : UnitRef) (f : Fields) (e : Instr × OpDef) : Prop where
  opcode : e.2.opc < 256
  exec : ∀ s, exec e.1 s = .next (issue u e.1 f e.2 s)

/-- A row that is an operation: its command issues it, and its body is a plan. -/
structure IssuesOp (u : UnitRef) (f : Fields) (e : Instr × OpDef) : Prop where
  row : IssuesRow u f e
  body : ∃ g, e.2.body = .op g

theorem rhoacRows_issue (u : UnitRef) (f : Fields) : ∀ e ∈ rhoacRows u f, IssuesRow u f e := by
  simp only [rhoacRows, List.forall_mem_cons, List.not_mem_nil, false_implies, implies_true, and_true]
  and_intros
  all_goals exact ⟨of_decide_eq_true rfl, fun _ => rfl⟩

theorem operationRows_issue (u : UnitRef) (f : Fields) : ∀ e ∈ operationRows u f, IssuesOp u f e := by
  simp only [operationRows, List.forall_mem_cons, List.not_mem_nil, false_implies, implies_true, and_true]
  and_intros
  all_goals exact ⟨⟨of_decide_eq_true rfl, fun _ => rfl⟩, _, rfl⟩

end Sys2Proof.Machine

namespace Sys2Proof.Machine

/-- Settles O10: every row's command issues it, and issue skips a word whose predicate fails and refuses reserved bits before anything
else. -/
theorem predicatesAndReservedBits : Obligations.PredicatesAndReservedBits := by
  intro s u f hs hm e he hw hn
  obtain ⟨ho, hx⟩ : IssuesRow u f e := by
    rcases List.mem_append.mp he with he | he
    · exact rhoacRows_issue u f e he
    · exact (operationRows_issue u f e he).row
  refine ⟨fun hp => ⟨_, hx s, ?_⟩, fun hp hbad => ⟨_, hx s, ?_⟩⟩
  · rw [issue_at_word hm ho hw hn, hp, if_neg (by decide),
      getUnit_setUnit_of_ref s (x := advance (getUnit s u) 1) (getUnit_ref s u)]
    exact ⟨sameButUnit_setUnit s (getUnit_ref s u), keptFiles_advance (mayIssue_ended hm)⟩
  · rw [issue_at_word hm ho hw hn, hp, if_pos rfl, attempt_reserved hbad]
    exact refuse_refusedAt hs u stReserved

end Sys2Proof.Machine
end

section
/-! Refusals of control instructions (R244, R250, R251). -/
namespace Sys2Proof.Machine

/-! Signed operand fields. -/

/-- Two's complement of w bits, as the bit vector has it. -/
theorem sext_eq_toInt {w : Nat} (hw : 0 < w) (n : Nat) : sext w n = (BitVec.ofNat w n).toInt := by
  obtain ⟨k, rfl⟩ := Nat.exists_eq_add_of_lt hw
  rw [BitVec.toInt_eq_toNat_cond, BitVec.toNat_ofNat]
  simp only [sext, Nat.zero_add, Nat.add_sub_cancel]
  have : n % 2 ^ (k + 1) < 2 ^ k ↔ 2 * (n % 2 ^ (k + 1)) < 2 ^ (k + 1) := by omega
  simp only [this]

theorem immOff_eq (f : Fields) : immOff f = (BitVec.ofNat 22 f.toNat).toInt := sext_eq_toInt (by decide) _

/-- GLD and GST reach the byte ga + OFS, modulo 2^64 (R251). -/
theorem gldAddr_eq (x : ProgUnit) (f : Fields) : gldAddr x f = accessAddr x f := by
  have hsum : gWord x (slotF2 f) + (BitVec.ofNat 22 f.toNat).signExtend 64
      = BitVec.ofInt 64 ((gReg x (slotF2 f) : Int) + immOff f) := by
    rw [BitVec.ofInt_add, immOff_eq, gWord, BitVec.ofInt_natCast]
    rfl
  rw [accessAddr, hsum, BitVec.toNat_ofInt]
  rfl

theorem fnOf_eq (f : Fields) : fnOf f = f.toNat % 64 := rfl
theorem fld_low_three (n : Nat) : fld n 2 0 = n % 8 := rfl
theorem fld_low_four (n : Nat) : fld n 3 0 = n % 16 := rfl

/-! Reserved codes. -/

theorem gopFn_reserved {fn : Nat} (h : 0x0B < fn) (a b : Nat) : gopFn fn a b = none := by
  obtain ⟨k, rfl⟩ : ∃ k, fn = k + 12 := ⟨fn - 12, by omega⟩
  rfl

theorem cmpFn_reserved {cmp : Nat} (h : 5 < cmp) (a b : Nat) : cmpFn cmp a b = none := by
  obtain ⟨k, rfl⟩ : ∃ k, cmp = k + 6 := ⟨cmp - 6, by omega⟩
  rfl

theorem dsetField_reserved {code : Nat} (h : 13 < code) : dsetField code = none := by
  obtain ⟨k, rfl⟩ : ∃ k, code = k + 14 := ⟨code - 14, by omega⟩
  rfl

/-! What each control instruction refuses. -/

variable (s : State) (x : ProgUnit) (f : Fields)

theorem brCtl_outside (h : (x.pc : Int) + (BitVec.ofNat 22 f.toNat).toInt < 0 ∨
    x.store.length ≤ (x.pc : Int) + (BitVec.ofNat 22 f.toNat).toInt) : brCtl s x f = .refuse stLength := by
  rw [brCtl, immOff_eq]
  exact if_neg (by omega)

theorem gopCtl_reserved (h : 0x0B < f.toNat % 64) : gopCtl s x f = .refuse stReserved := by
  rw [gopCtl, fnOf_eq, gopFn_reserved h]

theorem gopiCtl_reserved (h : 0x0B < f.toNat % 64) : gopiCtl s x f = .refuse stReserved := by
  rw [gopiCtl, fnOf_eq, gopFn_reserved h]

theorem psetCtl_reserved (h : 5 < f.toNat % 8) : psetCtl s x f = .refuse stReserved := by
  rw [psetCtl, fld_low_three, cmpFn_reserved h]

theorem dsetCtl_reserved (h : 13 < f.toNat % 16) : dsetCtl s x f = .refuse stReserved := by
  rw [dsetCtl, fld_low_four, dsetDesc, dsetField_reserved h]
  rfl

theorem gldCtl_misaligned (h : accessAddr x f % 8 ≠ 0) : gldCtl s x f = .refuse stAlign := by
  rw [gldCtl, gldAddr_eq]
  exact if_pos h

theorem gldCtl_unserved (h : accessAddr x f % 8 = 0) (h' : refusedAddr s (accessAddr x f) = true) :
    gldCtl s x f = .refuse stLength := by
  rw [gldCtl, gldAddr_eq]
  exact (if_neg (not_not_intro h)).trans (if_pos h')

/-- Nothing holds a GST back. -/
def gstFree (s : State) (x : ProgUnit) (f : Fields) : Prop :=
  storeHeld x (accessAddr x f) 8 = false ∧ doorbellHeld s x (accessAddr x f) = false

theorem gstCtl_misaligned (hf : gstFree s x f) (h : accessAddr x f % 8 ≠ 0) : gstCtl s x f = .refuse stAlign := by
  obtain ⟨hh, hd⟩ := hf
  simp only [gstCtl, gldAddr_eq, hh, hd, Bool.or_self, Bool.false_eq_true, if_false]
  exact if_pos h

theorem gstCtl_unserved (hf : gstFree s x f) (h : accessAddr x f % 8 = 0) (h' : refusedAddr s (accessAddr x f) = true) :
    gstCtl s x f = .refuse stLength := by
  obtain ⟨hh, hd⟩ := hf
  simp only [gstCtl, gldAddr_eq, hh, hd, Bool.or_self, Bool.false_eq_true, if_false]
  exact (if_neg (not_not_intro h)).trans (if_pos h')

theorem lineFlaw_misaligned {a : Nat} (n : Nat) (h : a % 64 ≠ 0) : lineFlaw s a n = stAlign := if_pos h

theorem lineFlaw_unmapped {a n : Nat} (h : a % 64 = 0) (h' : memMapped s a n = false) : lineFlaw s a n = stLength :=
  (if_neg (not_not_intro h)).trans (if_pos h')

/-- The four instructions of one line of memory, each with its meaning and its length: a flaw of the line refuses it. -/
def refusesFlaw (g : State → ProgUnit → Fields → Ctl) (n : Nat) : Prop :=
  ∀ s x f, storeHeld x (gReg x (slotF2 f)) n = false → lineFlaw s (gReg x (slotF2 f)) n ≠ 0 →
    g s x f = .refuse (lineFlaw s (gReg x (slotF2 f)) n)

theorem dldCtl_flaw : refusesFlaw dldCtl 64 := fun _ _ _ _ hf => if_pos hf
theorem stldCtl_flaw : refusesFlaw stldCtl 16 := fun _ _ _ _ hf => if_pos hf
theorem dstCtl_flaw : refusesFlaw dstCtl 64 := fun _ _ _ hh hf => (if_neg (by simp [hh])).trans (if_pos hf)
theorem ststCtl_flaw : refusesFlaw ststCtl 16 := fun _ _ _ hh hf => (if_neg (by simp [hh])).trans (if_pos hf)

end Sys2Proof.Machine

namespace Sys2Proof.Machine

/-- A ready unit whose control instruction refuses: the refusal of R20 and R247. -/
theorem control_refuses {s : State} {u : UnitRef} {f : Fields} {e : Instr × OpDef} {g : State → ProgUnit → Fields → Ctl} {st : Nat}
    (hs : Sound s) (he : e ∈ rhoacRows u f) (hb : e.2.body = .control g) (hr : ready s u e.2 f = true)
    (hg : g s (getUnit s u) f = .refuse st) : ∃ t, exec e.1 s = .next t ∧ refusedAt u st s t := by
  refine ⟨_, (rhoacRows_issue u f e he).exec s, ?_⟩
  rw [issue_control hr hb, hg]
  exact refuse_refusedAt hs u st

/-- A ready unit whose instruction of one line finds the line misaligned, or not in memory. -/
theorem line_refuses {s : State} {u : UnitRef} {f : Fields} {e : Instr × OpDef} {g : State → ProgUnit → Fields → Ctl} {n : Nat}
    (hs : Sound s) (he : e ∈ rhoacRows u f) (hb : e.2.body = .control g) (hg : refusesFlaw g n) (hr : ready s u e.2 f = true)
    (hh : storeHeld (getUnit s u) (gReg (getUnit s u) (slotF2 f)) n = false) :
    (gReg (getUnit s u) (slotF2 f) % 64 ≠ 0 → ∃ t, exec e.1 s = .next t ∧ refusedAt u stAlign s t)
      ∧ (gReg (getUnit s u) (slotF2 f) % 64 = 0 → memMapped s (gReg (getUnit s u) (slotF2 f)) n = false →
        ∃ t, exec e.1 s = .next t ∧ refusedAt u stLength s t) := by
  have hx := hg s (getUnit s u) f hh
  refine ⟨fun ha => control_refuses hs he hb hr ?_, fun ha hm => control_refuses hs he hb hr ?_⟩
  · rw [lineFlaw_misaligned s n ha] at hx
    exact hx (by decide)
  · rw [lineFlaw_unmapped s ha hm] at hx
    exact hx (by decide)

/-- Settles O11: each control instruction tests its operands before it does anything, and a ready unit that it refuses is refused as R20
says. -/
theorem controlRefusals : Obligations.ControlRefusals := by
  intro s u f hs
  refine ⟨fun hr h => ?_, fun hr h => ?_, fun hr h => ?_, fun hr h => ?_, fun hr h => ?_, fun hr h => ?_, fun hr h h' => ?_,
    fun hr hh hd h => ?_, fun hr hh hd h h' => ?_, ?_⟩
  · exact control_refuses (e := (.br u f, brDef)) hs (by simp [rhoacRows]) rfl hr (brCtl_outside _ _ _ h)
  · exact control_refuses (e := (.gop u f, gopDef)) hs (by simp [rhoacRows]) rfl hr (gopCtl_reserved _ _ _ h)
  · exact control_refuses (e := (.gopi u f, gopiDef)) hs (by simp [rhoacRows]) rfl hr (gopiCtl_reserved _ _ _ h)
  · exact control_refuses (e := (.pset u f, psetDef)) hs (by simp [rhoacRows]) rfl hr (psetCtl_reserved _ _ _ h)
  · exact control_refuses (e := (.dset u f, dsetDef)) hs (by simp [rhoacRows]) rfl hr (dsetCtl_reserved _ _ _ h)
  · exact control_refuses (e := (.gld u f, gldDef)) hs (by simp [rhoacRows]) rfl hr (gldCtl_misaligned _ _ _ h)
  · exact control_refuses (e := (.gld u f, gldDef)) hs (by simp [rhoacRows]) rfl hr (gldCtl_unserved _ _ _ h h')
  · exact control_refuses (e := (.gst u f, gstDef)) hs (by simp [rhoacRows]) rfl hr (gstCtl_misaligned _ _ _ ⟨hh, hd⟩ h)
  · exact control_refuses (e := (.gst u f, gstDef)) hs (by simp [rhoacRows]) rfl hr (gstCtl_unserved _ _ _ ⟨hh, hd⟩ h h')
  · simp only [List.forall_mem_cons, List.not_mem_nil, false_implies, implies_true, and_true]
    exact ⟨fun hr hh => line_refuses (e := (.dld u f, dldDef)) hs (by simp [rhoacRows]) rfl dldCtl_flaw hr hh,
      fun hr hh => line_refuses (e := (.dst u f, dstDef)) hs (by simp [rhoacRows]) rfl dstCtl_flaw hr hh,
      fun hr hh => line_refuses (e := (.stld u f, stldDef)) hs (by simp [rhoacRows]) rfl stldCtl_flaw hr hh,
      fun hr hh => line_refuses (e := (.stst u f, ststDef)) hs (by simp [rhoacRows]) rfl ststCtl_flaw hr hh⟩

end Sys2Proof.Machine
end

section
/-! What becomes of an operation at issue (R20, R44, R240, R245 to R247). -/
namespace Sys2Proof.Machine

variable {s : State} {u : UnitRef} {p : Plan} {i : Instr}

/-- An earlier operation, a full table or a step boundary in progress keeps the operation at issue (R65, R245, R246). -/
theorem tryOp_mustWait (hw : mustWait s (getUnit s u) p = true) : tryOp u i p s = setUnit s { getUnit s u with waiting := some i } := by
  simp only [tryOp, hw, if_true]

/-- A rule of its own keeps the operation at issue once its checks pass. -/
theorem tryOp_hold (hw : mustWait s (getUnit s u) p = false) (hc : firstFail p.checks = 0) (hh : p.hold = true) :
    tryOp u i p s = setUnit s { getUnit s u with waiting := some i } := by
  simp only [tryOp, hw, hc, hh, Bool.false_eq_true, if_false, ne_eq, not_true_eq_false, if_true]

/-- An operation that nothing holds back starts. -/
theorem tryOp_go (hw : mustWait s (getUnit s u) p = false) (hc : firstFail p.checks = 0) (hh : p.hold = false)
    (hg : gate s (getUnit s u) p.draw p.moves = .go) : tryOp u i p s = launch u p s := by
  simp only [tryOp, hw, hc, hh, hg, Bool.false_eq_true, if_false, ne_eq, not_true_eq_false]

/-- An empty view: the operation is in flight with nothing left to do (R240). -/
theorem launch_empty (he : p.empty = true) :
    launch u p s = mapOp u (getUnit s u).nextOp (fun o => { o with need := .work }) (begun u p s) := by
  simp only [launch, he, if_true]
  rfl

/-- A byte that nobody serves: the operation is in flight with DOMAIN_LOST (R44, R343). -/
theorem launch_unserved (he : p.empty = false) (hu : p.unserved (begun u p s) = true) :
    launch u p s = mapOp u (getUnit s u).nextOp (fun o => { o with need := .work, status := stLost }) (begun u p s) := by
  simp only [launch, he, Bool.false_eq_true, if_false]
  exact if_pos hu

/-- The unit once an operation is in flight. -/
def unitBegun (x : ProgUnit) (p : Plan) : ProgUnit :=
  advance { x with waiting := none, inFlight := x.inFlight ++ [newOp p x.nextOp], nextOp := x.nextOp + 1 } 1

theorem getUnit_begun (s : State) (u : UnitRef) (p : Plan) : getUnit (begun u p s) u = unitBegun (getUnit s u) p :=
  getUnit_setUnit_of_ref s (x := unitBegun (getUnit s u) p) (getUnit_ref s u)

theorem sameButUnit_begun (s : State) (u : UnitRef) (p : Plan) : sameButUnit u s (begun u p s) :=
  sameButUnit_setUnit s (x := unitBegun (getUnit s u) p) (getUnit_ref s u)

theorem sameButUnit_mapOp (u : UnitRef) (id : Nat) (h : Op → Op) (s : State) : sameButUnit u s (mapOp u id h s) := by
  unfold mapOp
  exact sameButUnit_setUnit s (getUnit_ref s u)

/-- An operation that ends as it issues: the unit has issued one more, and nothing else of the module changes. -/
theorem mapOp_begun_issuedOne (s : State) (u : UnitRef) (p : Plan) {h : Op → Op} {st : Nat} (hid : ∀ o, (h o).id = o.id)
    (hst : (h (newOp p (getUnit s u).nextOp)).status = st) :
    let t := mapOp u (getUnit s u).nextOp h (begun u p s)
    sameButUnit u s t ∧ issuedOne st (getUnit s u) (getUnit t u) ∧ (getUnit t u).t = (getUnit s u).t := by
  have hy : getUnit (mapOp u (getUnit s u).nextOp h (begun u p s)) u = { unitBegun (getUnit s u) p with
      inFlight := (unitBegun (getUnit s u) p).inFlight.map fun o => if o.id = (getUnit s u).nextOp then h o else o } := by
    rw [mapOp, getUnit_begun]
    exact getUnit_setUnit_of_ref _ (getUnit_ref s u)
  refine ⟨sameButUnit_trans (sameButUnit_begun s u p) (sameButUnit_mapOp u _ h _), ?_, ?_⟩
  · rw [hy]
    refine ⟨rfl, rfl, rfl, rfl, rfl, rfl, rfl, rfl, h (newOp p (getUnit s u).nextOp), ?_, hid _, hst⟩
    refine List.mem_map.mpr ⟨newOp p (getUnit s u).nextOp, ?_, if_pos rfl⟩
    exact List.mem_append_right _ (List.mem_singleton_self _)
  · rw [hy]
    rfl

/-- Settles O12: the command of an operation's row issues it, and each clause is one way through tryOp and launch. -/
theorem operationsAtIssue : Obligations.OperationsAtIssue := by
  intro s u f hs e he p hp hr
  obtain ⟨⟨-, hx⟩, g, hb⟩ := operationRows_issue u f e he
  have hpg : g s (getUnit s u) f = p := by simpa [planOf, hb] using hp
  have hexec : exec e.1 s = .next (tryOp u e.1 p s) := by rw [hx, issue_op hr hb, hpg]
  have hwait : ∃ t, Host.Outcome.next (φ := Fault) (ρ := Refusal) (setUnit s { getUnit s u with waiting := some e.1 }) = .next t
      ∧ sameButUnit u s t ∧ getUnit t u = { getUnit s u with waiting := some e.1 } :=
    ⟨_, rfl, sameButUnit_setUnit s (getUnit_ref s u), getUnit_setUnit_of_ref s (x := { getUnit s u with waiting := some e.1 }) (getUnit_ref s u)⟩
  simp only [hexec]
  refine ⟨fun hw => ?_, fun hw hc => ⟨_, rfl, ?_⟩, fun hw hc hh => ?_, fun hw hc hh hg hemp => ⟨_, rfl, ?_⟩,
    fun hw hc hh hg hemp hun => ⟨_, rfl, ?_⟩, fun hgo => ?_⟩
  · rw [tryOp_mustWait hw]
    exact hwait
  · rw [tryOp_refuses hw hc]
    exact refuse_refusedAt hs u _
  · rw [tryOp_hold hw hc hh]
    exact hwait
  · rw [tryOp_go hw hc hh hg, launch_empty hemp]
    exact mapOp_begun_issuedOne s u p (fun _ => rfl) rfl
  · rw [tryOp_go hw hc hh hg, launch_unserved hemp hun]
    exact mapOp_begun_issuedOne s u p (fun _ => rfl) rfl
  · rw [tryOp_starts hgo]

end Sys2Proof.Machine
end

section
/-! Commands as a whole, and the state after reset (R11, R15, R20, R221, R278, R366). -/
namespace Sys2Proof.Machine

/-- Settles O2: the meaning of every row is a next state, constructor by constructor. -/
theorem everyCommandAnswersNext : Obligations.EveryCommandAnswersNext := by
  intro c s
  cases c
  all_goals exact ⟨_, rfl⟩

end Sys2Proof.Machine
end
section
/-! Packets that are discarded (R11, R306, R312). -/
namespace Sys2Proof.Machine

variable {pk : List Byte} {s : State}

/-- A packet that is gone before its kind is looked at leaves what its arrival left, whatever its command. -/
theorem exec_gone {t : State} (hg : arrive pk s = .gone t) (hc : s.fabric.coordinator = none) :
    ∀ c ∈ packetCommands pk, exec c s = .next t := by
  have hrestart : ∀ k, restartBody k pk s = (t, none) := fun k => by simp [restartBody, hg, hc]
  have hon : ∀ k f, onPacket pk k f s = t := fun k f => by rw [onPacket, hg]
  simp only [packetCommands, List.forall_mem_cons, List.not_mem_nil, false_implies, implies_true, and_true]
  exact ⟨by simp only [exec, execCollPacket, hg], by simp only [exec, execBoundaryPacket, hg], congrArg _ (hon 2 _),
    by simp only [exec, execRestartPacket, hrestart], by simp only [exec, execVotePacket, hrestart],
    by simp only [exec, execMembershipPacket, hrestart], by simp only [exec, execStopPacket, hrestart],
    by simp only [exec, execAgreePacket, hrestart], congrArg _ (hon 3 _), congrArg _ (hon 3 _), congrArg _ (hon 6 _), congrArg _ (hon 6 _),
    congrArg _ (hon 6 _), congrArg _ (hon 6 _), congrArg _ (hon 6 _), congrArg _ (hon 6 _)⟩

/-- A packet with a reserved value, of another address or length is counted (R11, R312). -/
theorem arrive_flawed (hf : s.boot.firmware = true) (hp : packetFlaw s pk = true) :
    arrive pk s = .gone (bump { s with fabric := { s.fabric with received := s.fabric.received.erase pk } } porchDom Reg.FAB_STALE_COUNT 1) := by
  simp only [arrive, hf, Bool.not_true, Bool.false_eq_true, if_false]
  exact if_pos hp

/-- A duplicate is counted (R306). -/
theorem arrive_duplicate (hf : s.boot.firmware = true) (hp : packetFlaw s pk = false) (hr : s.fabric.received.contains pk = false)
    (hs : s.fabric.seen.contains (pkSrc pk, pkPseq pk) = true) : arrive pk s = .gone (bump s porchDom Reg.FAB_DUP_COUNT 1) := by
  have he : s.fabric.received.erase pk = s.fabric.received := List.erase_of_not_mem (by simpa using hr)
  simp only [arrive, hf, hr, he, Bool.not_true, Bool.false_eq_true, if_false, Bool.not_false, Bool.true_and]
  exact (if_neg (Bool.eq_false_iff.mp hp)).trans (if_pos hs)

/-- A packet of an older epoch is counted; a request is answered (R312). -/
theorem arrive_stale (hf : s.boot.firmware = true) (hp : packetFlaw s pk = false)
    (hr : s.fabric.received.contains pk = true ∨ s.fabric.seen.contains (pkSrc pk, pkPseq pk) = false) (he : pkEpoch pk < posEpoch s.pos) :
    arrive pk s = .gone (if isRequest pk
      then emit (.staleAnswer (pkSrc pk) (pkPseq pk)) (bump (withPacket pk s) porchDom Reg.FAB_STALE_COUNT 1)
      else bump (withPacket pk s) porchDom Reg.FAB_STALE_COUNT 1) := by
  have hnew : ¬ ((!s.fabric.received.contains pk && s.fabric.seen.contains (pkKey pk)) = true) := by
    rcases hr with hr | hr
    · rw [hr]
      simp
    · rw [pkKey, hr]
      simp
  simp only [arrive, hf, Bool.not_true, Bool.false_eq_true, if_false]
  refine (if_neg (Bool.eq_false_iff.mp hp)).trans ((if_neg hnew).trans ?_)
  by_cases hk : s.fabric.received.contains pk = true
  · simp only [withPacket, hk, if_true]
    exact if_pos he
  · simp only [withPacket, hk]
    exact if_pos he

/-- Settles O40: each discard is one outcome of a packet's arrival, and every packet command leaves a discarded packet there. -/
theorem stalePacketsAreDiscarded : Obligations.StalePacketsAreDiscarded := by
  intro s pk c hc hf hco
  refine ⟨fun hp => exec_gone (arrive_flawed hf hp) hco c hc, fun hp hr hs => exec_gone (arrive_duplicate hf hp hr hs) hco c hc,
    fun hp hr he => exec_gone (arrive_stale hf hp hr he) hco c hc⟩

end Sys2Proof.Machine
end

section
/-! The state after reset (R15, R221, R278, R366). -/
namespace Sys2Proof.Machine

theorem tblGet_singleton {α : Type} {d : Nat → α} (k i : Nat) (v : α) : tblGet d [(k, v)] i = if i = k then v else d i := by
  simp only [tblGet, ite_self]

/-- BOOT_STATUS shows READY; every other register holds its table's reset value (R15). -/
theorem getReg_reset (dom off : Nat) : getReg State.reset dom off =
    if regKey dom off = regKey porchDom Reg.BOOT_STATUS then 4 else regDefault State.reset.variant (regKey dom off) :=
  tblGet_singleton _ _ _

theorem getReg_reset_of_ne {dom off : Nat} (h : regKey dom off ≠ regKey porchDom Reg.BOOT_STATUS) :
    getReg State.reset dom off = regDefault State.reset.variant (regKey dom off) := by
  rw [getReg_reset, if_neg h]

theorem reset_sound : Sound State.reset where
  mem := rfl
  store := rfl
  boxMem := rfl
  boxRegs := rfl
  regs := by decide +kernel
  entries := rfl
  tiles := rfl
  kinds := rfl
  lanes := rfl
  logLength := Nat.zero_le _
  logRecords := fun _ h => absurd h List.not_mem_nil
  units := fun _ h => absurd h List.not_mem_nil
  queues := fun _ h => absurd h List.not_mem_nil

/-- No domain is in reset or lost at READY. -/
theorem isDown_reset (d : Nat) : isDown State.reset d = false := by
  have hr : getReg State.reset porchDom Reg.DOM_IN_RESET = 0 := by decide +kernel
  have hh : getReg State.reset porchDom Reg.DOM_HEALTH = 0 := by decide +kernel
  simp [isDown, inReset, isLost, hr, hh, bitAt, fld]

/-- Settles O3: the one register that the reset state lists is BOOT_STATUS; the rest reads as the tables' reset values, evaluated where the
statement names them. -/
theorem resetStateIsSoundWithItsValues : Obligations.ResetStateIsSoundWithItsValues := by
  refine ⟨reset_sound, fun _ _ => getReg_reset_of_ne, ?_, ?_, ?_, ?_, ?_, ?_, ?_, ?_, ?_, rfl, fun _ => rfl, isDown_reset, fun _ => rfl,
    rfl, rfl, rfl, rfl, rfl⟩
  all_goals decide +kernel

end Sys2Proof.Machine
end

section
/-! Stores by an agent (R8, R44, R110, R437, R439). -/
namespace Sys2Proof.Machine

/-! Addresses. -/

/-- No memory lies from the control blocks upward (R32). -/
theorem memMapped_control (s : State) {a len : Nat} (h : controlBase ≤ a) (hl : len ≠ 0) : memMapped s a len = false := by
  have hstacks : hbmStacks s.variant ≤ 16 := by
    unfold hbmStacks
    split
    · decide
    · split <;> decide
  have hhbm : ¬ a + len ≤ hbmSize s.variant := by
    have : hbmSize s.variant ≤ 16 * 0x860000000 := Nat.mul_le_mul_right _ hstacks
    simp only [controlBase] at h
    omega
  have hsram : sramDom a = none := if_pos (.inr (Nat.le_trans (by decide) h))
  simp [memMapped, hsram, hl, hhbm]

/-- The address of a control block's register is that register's (R14). -/
theorem controlAt_block {dom off : Nat} (hd : dom < 0x40) (ho : off < 0x10000000) :
    controlAt (controlBase + dom * 0x10000000 + off) = some (dom, off) := by
  have hsub : controlBase + dom * 0x10000000 + off - controlBase = dom * 0x10000000 + off := by omega
  have hdiv : (dom * 0x10000000 + off) / 0x10000000 = dom := by omega
  have hmod : (dom * 0x10000000 + off) % 0x10000000 = off := by omega
  have hend : controlBase + dom * 0x10000000 + off < controlEnd := by
    simp only [controlBase, controlEnd]
    omega
  rw [controlAt, if_pos ⟨by omega, hend⟩, hsub, hdiv, hmod]

/-- An aligned 8-byte access to a register of a fitted domain is one that its block takes (R37, R391). -/
theorem served_register {s : State} {dom off : Nat} (hd : dom < 0x40) (ho : off < 0x10000000) (h8 : off % 8 = 0)
    (hf : isFitted s dom = true) : served s (controlBase + dom * 0x10000000 + off) 8 = true := by
  have hc := controlAt_block hd ho
  have hmap : memMapped s (controlBase + dom * 0x10000000 + off) 1 = false := memMapped_control s (by omega) (by decide)
  have hin : controlBase ≤ controlBase + dom * 0x10000000 + off ∧ controlBase + dom * 0x10000000 + off < controlEnd := by
    simp only [controlBase, controlEnd]
    omega
  have halign : (controlBase + dom * 0x10000000 + off) % 8 = 0 := by
    simp only [controlBase]
    omega
  simp [served, refusedAddr, sizeOk, hc, hmap, hf, hin, halign]

/-- An agent's aligned 8-byte store to a register is a write to its control block (R437). -/
theorem agentStore_register {s : State} {g : Agent} {dom off : Nat} (hb : s.boot.firmware = true) (hg : isDown s g.dom = false)
    (hd : dom < 0x40) (ho : off < 0x10000000) (h8 : off % 8 = 0) (hf : isFitted s dom = true) (v : Nat) :
    agentStore g (controlBase + dom * 0x10000000 + off) 8 v s = writeControl dom off 8 v s := by
  have hmap : memMapped s (controlBase + dom * 0x10000000 + off) 8 = false := memMapped_control s (by omega) (by decide)
  simp only [agentStore, hb, hg, hmap, served_register hd ho h8 hf, controlAt_block hd ho]
  rfl

/-! Registers whose every bit is RW. -/

/-- A register whose every bit is RW. -/
def allRw (off : Nat) : RegDef := ⟨off, 0xFFFFFFFFFFFFFFFF, 0, 0, 0, 0⟩

/-- An 8-byte write leaves its value in a register whose every bit is RW (R437). -/
theorem plainBits_allRw (off old : Nat) {v : Nat} (hv : v < 2 ^ 64) : plainBits (allRw off) (2 ^ 64 - 1) v old = v := by
  have h : v &&& 0xFFFFFFFFFFFFFFFF = v := Nat.and_two_pow_sub_one_of_lt_two_pow hv
  have hmask : 2 ^ 64 - 1 = 0xFFFFFFFFFFFFFFFF := rfl
  simp only [plainBits, allRw, hmask, h, Nat.or_zero, Nat.and_self, Nat.sub_self, Nat.and_zero, Nat.zero_and, Nat.zero_or]

/-- CD0's saturation counters, one for each engine (R110). -/
theorem regDef_saturation {d : Nat} (hd : d < 16) : regDef 0x10 (0x200000 + 0x40 * d) = some (allRw (0x200000 + 0x40 * d)) := by
  have hmod : (0x200000 + 0x40 * d) % 0x40 = 0 := by omega
  have ht : domType 0x10 = some .cd := rfl
  simp only [regDef, ht, hmod]
  rw [if_neg (by omega), if_neg (by omega), if_neg (by omega), if_neg (by omega), if_neg (by omega), if_neg (by omega), if_neg (by omega),
    if_neg (by omega), if_neg (by omega), if_pos (by simp; omega)]
  rfl

/-- A saturation counter has no behaviour of its own. -/
theorem dieWrite_saturation {d : Nat} (hd : d < 16) (v : Nat) (acts : Bool) (s0 s : State) :
    dieWrite 0x10 (0x200000 + 0x40 * d) v acts s0 s = s := by
  have hr : 0x200000 ≤ 0x200000 + 0x40 * d ∧ 0x200000 + 0x40 * d < 0x200400 := by omega
  generalize 0x200000 + 0x40 * d = off at hr
  simp only [dieWrite, Reg.WALK_START, Reg.PWR_OPPOINT, Reg.TRAIN_SKIP_REQUEST, Reg.STASH_LARDER_SHARE]
  rw [if_neg (by omega), if_neg (by omega), if_neg (by omega), if_neg (by omega), if_neg (by omega), if_neg (by omega)]

/-- An 8-byte write leaves no WRB bit of another half to keep (R436). -/
theorem keepTriggers_whole (r : RegDef) (dom o old : Nat) (s : State) : keepTriggers r dom o (2 ^ 64 - 1) old s = s := by
  simp [keepTriggers]

theorem writeReg_saturation {d : Nat} (hd : d < 16) (v : Word) (s : State) :
    writeReg 0x10 (0x200000 + 0x40 * d) 8 v.toNat s = setReg s 0x10 (0x200000 + 0x40 * d) v := by
  have ho : (0x200000 + 0x40 * d) / 8 * 8 = 0x200000 + 0x40 * d := by omega
  have h8 : ¬ (0x200000 + 0x40 * d) % 8 = 4 := by omega
  have hp : ¬ 0x10 = porchDom := by decide
  simp only [writeReg, ho, regDef_saturation hd, laneMask, if_true, if_neg h8, if_neg hp, keepTriggers_whole, dieWrite_saturation hd, storePlain]
  rw [plainBits_allRw _ _ v.isLt, BitVec.ofNat_toNat, BitVec.setWidth_eq]

/-- A write to a block whose domain is awake wakes nothing. -/
theorem wakeAccess_awake {s : State} {dom : Nat} (h : (getLp s dom).state = 0) (off : Nat) (read : Bool) : wakeAccess dom off read s = s := by
  simp only [wakeAccess, lateEvent, if_pos h, ite_self]

/-- A counter's rise stops at all ones (R110). -/
theorem getReg_bump_self {s : State} (h : tblWf (regDefault s.variant) s.regs = true) (dom off n : Nat) :
    (getReg (bump s dom off n) dom off).toNat = min ((getReg s dom off).toNat + n) (2 ^ 64 - 1) := by
  rw [bump, getReg_setReg_self h, satAdd, BitVec.toNat_ofNat]
  exact Nat.mod_eq_of_lt (Nat.lt_of_le_of_lt (Nat.min_le_right _ _) (by decide))

/-- An agent's store to memory that answers is its bytes there (R8, R437). -/
theorem agentStore_memory {s : State} {g : Agent} {addr size : Nat} (hb : s.boot.firmware = true) (hg : isDown s g.dom = false)
    (hs : 0 < size) (hm : memMapped s addr size = true) (v : Nat) :
    agentStore g addr size v s = if needsDown s addr size then s else writeNat s addr size v := by
  have h0 : ¬ size = 0 := by omega
  simp [agentStore, hb, hg, hm, h0]

/-- Bytes outside what is written stay. -/
theorem getByte_writeNat_outside {s : State} (h : memWf s.mem = true) {a len : Nat} (v : Nat) {b : Nat} (hb : b < a ∨ a + len ≤ b) :
    getByte (writeNat s a len v) b = getByte s b := by
  rw [writeNat, getByte_writeMem h, leBytes_length, if_neg (by omega)]

/-- Settles O49: an agent's store to memory is a write of its bytes, one to a saturation counter a write of that register alone. -/
theorem agentStoresAndCounters : Obligations.AgentStoresAndCounters := by
  intro s g v hs hb hg
  refine ⟨fun addr size h0 _ hm hd => ?_, fun addr size h0 hm hd => ?_,
    fun d hdown hfit hlp hd => ?_, fun dom off n => ⟨?_, fun d o hk => ?_⟩⟩
  · refine ⟨_, rfl, ?_⟩
    rw [agentStore_memory hb hg h0 hm, if_neg (by simp [hd])]
    exact ⟨readNat_writeNat_self hs.mem _ _ _, fun _ => getByte_writeNat_outside hs.mem _, rfl⟩
  · show Host.Outcome.next (agentStore g addr size v.toNat s) = _
    rw [agentStore_memory hb hg h0 hm, if_pos hd]
  · refine ⟨_, rfl, ?_⟩
    have hfile : filePage 0x10 (0x200000 + 0x40 * d) = false := rfl
    rw [agentStore_register hb hg (by decide) (by omega) (by omega) hfit]
    simp only [writeControl, hdown, hfit, hb, hfile, wakeAccess_awake hlp, writeReg_saturation hd, Bool.not_true, Bool.or_self,
      Bool.false_eq_true, if_false]
    exact ⟨getReg_setReg_self hs.regs _ _ _, fun _ _ => getReg_setReg_ne hs.regs _, rfl⟩
  · exact getReg_bump_self hs.regs dom off n
  · exact getReg_setReg_ne hs.regs _ hk

end Sys2Proof.Machine
end

section
/-! Reads after writes beyond those of Laws/Access: bytes elsewhere, registers of one port, and what two states that differ in a few
registers have in common. -/
namespace Sys2Proof.Machine

/-! Memory. -/

theorem getByte_eq_of_mem {s t : State} (h : t.mem = s.mem) (b : Nat) : getByte t b = getByte s b := by rw [getByte, getByte, h]

theorem readMem_eq_of_mem {s t : State} (h : t.mem = s.mem) (a n : Nat) : readMem t a n = readMem s a n := by
  simp only [readMem, getByte_eq_of_mem h]

theorem readNat_eq_of_mem {s t : State} (h : t.mem = s.mem) (a n : Nat) : readNat t a n = readNat s a n := by
  rw [readNat, readNat, readMem_eq_of_mem h]

/-- A write leaves every range that it does not touch. -/
theorem readMem_writeMem_apart {s : State} (h : memWf s.mem = true) {a n b : Nat} {bs : List Byte} (hd : a + n ≤ b ∨ b + bs.length ≤ a) :
    readMem (writeMem s b bs) a n = readMem s a n := by
  refine List.map_congr_left fun i hi => ?_
  rw [List.mem_range] at hi
  rw [getByte_writeMem h, if_neg (by omega)]

theorem readMem_writeNat_apart {s : State} (h : memWf s.mem = true) {a n b len : Nat} (v : Nat) (hd : a + n ≤ b ∨ b + len ≤ a) :
    readMem (writeNat s b len v) a n = readMem s a n :=
  readMem_writeMem_apart h (by rw [leBytes_length]; exact hd)

theorem readNat_lt (s : State) (a n : Nat) : readNat s a n < 256 ^ n := by
  have hbound : ∀ bs : List Byte, leNat bs < 256 ^ bs.length := by
    intro bs
    induction bs with
    | nil => decide
    | cons b bs ih =>
      have hb : b.toNat < 256 := b.isLt
      rw [List.length_cons, Nat.pow_succ]
      show b.toNat + 256 * leNat bs < _
      omega
  have := hbound (readMem s a n)
  rwa [readMem_length] at this

/-! Registers of a port. -/

theorem portReg_key_ne (p : PortRef) {a b : Nat} (h : a ≠ b) : regKey p.iod (portReg p a) ≠ regKey p.iod (portReg p b) := by
  simp only [regKey, portReg]
  omega

theorem portF_setPortF_self {s : State} (h : tblWf (regDefault s.variant) s.regs = true) (p : PortRef) (off v : Nat) :
    portF (setPortF s p off 31 0 v) p off 31 0 = v % 2 ^ 32 := rf_setRf_self h (by decide) (by decide)

theorem portF_setPortF_ne {s : State} (h : tblWf (regDefault s.variant) s.regs = true) (p : PortRef) {off off' : Nat} (hne : off' ≠ off)
    (hi lo hi' lo' v : Nat) : portF (setPortF s p off hi lo v) p off' hi' lo' = portF s p off' hi' lo' := by
  rw [portF, rf, setPortF, getReg_setRf_ne h _ _ _ (portReg_key_ne p hne), portF, rf]

theorem portCounted_bumpPort {s : State} (h : tblWf (regDefault s.variant) s.regs = true) (p : PortRef) (off n : Nat) :
    portCounted p off n s (bumpPort s p off n) := getReg_bump_self h _ _ _

/-! States that agree but for a few registers. -/

/-- Memory, ordering item and Stash are as they were, and so is every register whose key is not listed. -/
structure AgreeBut (keys : List Nat) (s t : State) : Prop where
  mem : t.mem = s.mem
  variant : t.variant = s.variant
  stash : t.stash = s.stash
  regs : ∀ d o, regKey d o ∉ keys → getReg t d o = getReg s d o

namespace AgreeBut

variable {keys keys' : List Nat} {r s t : State}

theorem refl (s : State) : AgreeBut keys s s := ⟨rfl, rfl, rfl, fun _ _ _ => rfl⟩

theorem trans (h : AgreeBut keys r s) (h' : AgreeBut keys' s t) : AgreeBut (keys ++ keys') r t where
  mem := h'.mem.trans h.mem
  variant := h'.variant.trans h.variant
  stash := h'.stash.trans h.stash
  regs d o hk := by
    rw [List.mem_append, not_or] at hk
    exact (h'.regs d o hk.2).trans (h.regs d o hk.1)

theorem setReg (h : tblWf (regDefault s.variant) s.regs = true) (d o : Nat) (w : Word) : AgreeBut [regKey d o] s (setReg s d o w) :=
  ⟨rfl, rfl, rfl, fun _ _ hk => getReg_setReg_ne h w (by simpa using hk)⟩

theorem isDown (h : AgreeBut keys s t) (hr : regKey porchDom Reg.DOM_IN_RESET ∉ keys) (hh : regKey porchDom Reg.DOM_HEALTH ∉ keys) (d : Nat) :
    isDown t d = isDown s d := by
  simp only [Machine.isDown, inReset, isLost, h.regs _ _ hr, h.regs _ _ hh]

theorem needsDown (h : AgreeBut keys s t) (hd : ∀ d, Machine.isDown t d = Machine.isDown s d) (a n : Nat) :
    needsDown t a n = needsDown s a n := by
  have hdown : Machine.isDown t = Machine.isDown s := funext hd
  have hmsd : stackMsd t = stackMsd s := funext fun _ => by rw [stackMsd, stackMsd, fittedOf, fittedOf, h.variant]
  rw [Machine.needsDown, Machine.needsDown, inHbm, inHbm, h.variant, hdown, hmsd]

theorem memMapped (h : AgreeBut keys s t) (a n : Nat) : memMapped t a n = memMapped s a n := by
  have hfit : isFitted t = isFitted s := funext fun _ => by rw [isFitted, isFitted, h.variant]
  have hopen : sramOpen t = sramOpen s := funext fun _ => by rw [sramOpen, sramOpen, sharePages, sharePages, h.stash]
  rw [Machine.memMapped, Machine.memMapped, h.variant, hfit, hopen]

theorem portF (h : AgreeBut keys s t) {p : PortRef} {off : Nat} (hk : regKey p.iod (portReg p off) ∉ keys) (hi lo : Nat) :
    portF t p off hi lo = portF s p off hi lo := by
  rw [Machine.portF, Machine.portF, rf, rf, h.regs _ _ hk]

end AgreeBut

/-! Wakes. -/

theorem getLp_dom (s : State) (d : Nat) : (getLp s d).dom = d := by
  rw [getLp]
  cases h : s.lps.find? fun x => x.dom = d with
  | none => rfl
  | some x => simpa using List.find?_some h

/-- An access to a sleeping die's block counts a late event and shows its state, at most (R298). -/
def wakeKeys (dom : Nat) : List Nat := [regKey dom Reg.LP_WAKE_LATE_COUNT, regKey dom Reg.LP_STATE]

theorem agreeBut_startWake {s : State} (h : tblWf (regDefault s.variant) s.regs = true) (dom : Nat) :
    AgreeBut [regKey dom Reg.LP_STATE] s (startWake dom s) := by
  have hset : ∀ l : LowPower, l.dom = dom → AgreeBut [regKey dom Reg.LP_STATE] s (setLp s l) := by
    rintro l rfl
    exact ⟨rfl, rfl, rfl, (AgreeBut.setReg (s := { s with lps := upsert (fun x => x.dom = l.dom) l s.lps }) h _ _ _).regs⟩
  have hdom := getLp_dom s dom
  unfold startWake
  dsimp only
  split
  · exact AgreeBut.refl s
  · split
    · exact hset _ hdom
    · exact hset _ hdom
    · exact AgreeBut.refl s

theorem agreeBut_wakeAccess {s : State} (h : tblWf (regDefault s.variant) s.regs = true) (dom off : Nat) (read : Bool) :
    AgreeBut (wakeKeys dom) s (wakeAccess dom off read s) := by
  unfold wakeAccess lateEvent
  dsimp only
  split
  · split
    · exact AgreeBut.refl s
    · exact (AgreeBut.setReg h _ _ _).trans (agreeBut_startWake (setReg_wf h _ _ _) dom)
  · exact AgreeBut.refl s

end Sys2Proof.Machine
end

section
/-! IEEE 802.3 frames (R9, R328, R329). -/
namespace Sys2Proof.Machine

/-! What the ports do with a packet. -/

/-- Nothing but ports, outputs, collectives, training flags and the fabric's own numbers differs. -/
def onlyTraffic (s t : State) : Prop :=
  { t with ports := s.ports, out := s.out, colls := s.colls, train := s.train, fabric := s.fabric } = s

theorem onlyTraffic_trans {r s t : State} (h : onlyTraffic r s) (h' : onlyTraffic s t) : onlyTraffic r t := by
  unfold onlyTraffic at h h' ⊢
  exact (congrArg (fun x : State => { x with ports := r.ports, out := r.out, colls := r.colls, train := r.train, fabric := r.fabric }) h').trans h

/-- Traffic touches no memory, register or unit. -/
theorem onlyTraffic_frame {s t : State} (h : onlyTraffic s t) :
    t.mem = s.mem ∧ t.regs = s.regs ∧ t.variant = s.variant ∧ t.units = s.units := by
  unfold onlyTraffic at h
  exact ⟨(congrArg State.mem h :), (congrArg State.regs h :), (congrArg State.variant h :), (congrArg State.units h :)⟩

theorem onlyTraffic_foldl {α : Type} {f : State → α → State} (hf : ∀ s x, onlyTraffic s (f s x)) (l : List α) (s : State) :
    onlyTraffic s (l.foldl f s) := by
  induction l generalizing s with
  | nil => rfl
  | cons x l ih => exact onlyTraffic_trans (hf s x) (ih _)

theorem onlyTraffic_emit (o : Out) (s : State) : onlyTraffic s (emit o s) := rfl
theorem onlyTraffic_setPort (s : State) (x : Port) : onlyTraffic s (setPort s x) := rfl
theorem onlyTraffic_countPseq (dst : Nat) (s : State) : onlyTraffic s (countPseq dst s) := rfl
theorem onlyTraffic_takeSkip (id : Nat × Nat) (s : State) : onlyTraffic s (takeSkip id s) := rfl

theorem onlyTraffic_onLane (p : PortRef) (f : List Byte) (s : State) : onlyTraffic s (onLane p f s) :=
  onlyTraffic_trans (onlyTraffic_setPort s _) (onlyTraffic_emit _ _)

theorem onlyTraffic_sendFlit (p : PortRef) (type tc : Nat) (sop eop : Bool) (payload : List Byte) (s : State) :
    onlyTraffic s (sendFlit p type tc sop eop payload s) := by
  unfold sendFlit
  dsimp only
  split
  · exact onlyTraffic_trans (onlyTraffic_setPort s _) (onlyTraffic_onLane ..)
  · exact onlyTraffic_onLane ..

theorem onlyTraffic_leave (p : PortRef) (w : QFlit) (s : State) : onlyTraffic s (leave p w s) := by
  unfold leave
  dsimp only
  split
  · exact onlyTraffic_trans (onlyTraffic_trans (onlyTraffic_takeSkip _ s) (onlyTraffic_setPort _ _)) (onlyTraffic_sendFlit ..)
  · exact onlyTraffic_sendFlit ..

theorem onlyTraffic_drainLoop (p : PortRef) (ws kept : List QFlit) (stuck : List Nat) (s : State) :
    onlyTraffic s (drainLoop p ws kept stuck s) := by
  induction ws generalizing kept stuck s with
  | nil => exact onlyTraffic_setPort s _
  | cons w ws ih =>
    rw [drainLoop]
    split
    · exact ih _ _ _
    · exact onlyTraffic_trans (onlyTraffic_trans (onlyTraffic_setPort s _) (onlyTraffic_leave p w _)) (ih _ _ _)

theorem onlyTraffic_queuePacket (p : PortRef) (tc : Nat) (bytes : List Byte) (s : State) : onlyTraffic s (queuePacket p tc bytes s) :=
  onlyTraffic_trans (onlyTraffic_setPort s _) (onlyTraffic_drainLoop ..)

theorem onlyTraffic_sendFrame (p : PortRef) (frame : List Byte) (s : State) : onlyTraffic s (sendFrame p frame s) :=
  onlyTraffic_trans (onlyTraffic_emit _ s) (onlyTraffic_foldl (fun s _ =>
    onlyTraffic_trans (onlyTraffic_trans (onlyTraffic_countPseq _ s) (onlyTraffic_emit _ _)) (onlyTraffic_queuePacket ..)) _ _)

/-- A frame is among the outputs before the packets that carry it. -/
theorem sendFrame_out (p : PortRef) (frame : List Byte) (s : State) : (s.out ++ [.frame p frame]) <+: (sendFrame p frame s).out := by
  have hk : Keeps (emit (.frame p frame) s) (sendFrame p frame s) :=
    keeps_foldl _ (fun _ _ h => keeps_queuePacket _ _ _ _ (keeps_emit _ (keeps_countPseq _ _ h))) (keeps_refl _)
  exact hk.out

/-! Writes of the two TAIL registers. -/

/-- The port's own registers, at its place in the block of its IOD. -/
theorem regDef_port {p : PortRef} (hd : domType p.iod = some .iod) (hp : p.port < 2) {off : Nat} (ho : off < 0x100) :
    regDef p.iod (portReg p off) = (regFind portRegs off).map fun r => { r with off := portReg p off } := by
  have hmod : portReg p off % 0x100 = off := by
    simp only [portReg]
    omega
  have hr : 0x300000 ≤ portReg p off ∧ portReg p off < 0x300200 := by
    simp only [portReg]
    omega
  simp only [regDef, hd, hmod]
  generalize portReg p off = o at hr
  rw [if_neg (by omega), if_neg (by omega), if_neg (by omega), if_neg (by omega), if_neg (by omega), if_neg (by omega), if_neg (by omega),
    if_neg (by omega), if_neg (by omega), if_neg (by omega), if_neg (by omega), if_pos (by simp; omega)]

theorem iod_range {d : Nat} (h : domType d = some .iod) : 0x30 ≤ d ∧ d ≤ 0x37 := by
  refine Decidable.byContradiction fun hr => ?_
  rw [domType, if_neg hr] at h
  repeat' split at h
  all_goals cases h

/-- A write to a port's register is the port's to serve. -/
theorem dieWrite_port {p : PortRef} (hd : domType p.iod = some .iod) (hp : p.port < 2) {off : Nat} (ho : off < 0x100) (v : Nat)
    (acts : Bool) (s0 s : State) : dieWrite p.iod (portReg p off) v acts s0 s = portWrite p off v acts s0 s := by
  have hiod := iod_range hd
  have hport : (portReg p off - 0x300000) / 0x100 = p.port := by
    simp only [portReg]
    omega
  have hmod : portReg p off % 0x100 = off := by
    simp only [portReg]
    omega
  have hr : 0x300000 ≤ portReg p off ∧ portReg p off < 0x300200 := by
    simp only [portReg]
    omega
  simp only [dieWrite, hport, hmod, Reg.WALK_START, Reg.PWR_OPPOINT]
  generalize portReg p off = o at hr
  rw [if_neg (by omega), if_neg (by omega), if_neg (by omega), if_neg (by omega), if_neg (by omega), if_pos ⟨hd, hr⟩]

/-- A write of 8 bytes shows a register's own rule the whole value. -/
theorem seenValue_whole (r : RegDef) (old : Nat) {v : Nat} (hv : v < 2 ^ 64) : seenValue r (2 ^ 64 - 1) v old = v := by
  have h : v &&& (2 ^ 64 - 1) = v := Nat.and_two_pow_sub_one_of_lt_two_pow hv
  simp only [seenValue, h, Nat.sub_self, Nat.and_zero, Nat.zero_and, Nat.or_zero]

/-- What a write of a trigger register of a port does once its domain is awake. -/
theorem portStore_trigger {p : PortRef} {s : State} (hb : s.boot.firmware = true) (hu : portUp s p = true) {off : Nat}
    (ho : off < 0x100) (h8 : off % 8 = 0) (hr : ∃ r, regFind portRegs off = some r ∧ r.wrb = 0xFFFFFFFF) (v : Word) :
    ∃ s', portStore p off v.toNat s = portWrite p off v.toNat true (wakeAccess p.iod (portReg p off) false s) s' := by
  obtain ⟨r, hr, hw⟩ := hr
  simp only [portUp, Bool.and_eq_true, decide_eq_true_eq, Bool.not_eq_true'] at hu
  obtain ⟨⟨⟨hd, hf⟩, hdown⟩, hp⟩ := hu
  have hiod := iod_range hd
  have hdiv : portReg p off / 8 * 8 = portReg p off := by
    simp only [portReg]
    omega
  have hlow : ¬ portReg p off % 8 = 4 := by
    simp only [portReg]
    omega
  have hporch : ¬ p.iod = porchDom := by
    simp only [porchDom]
    omega
  have hfile : filePage p.iod (portReg p off) = false := by
    have : p.iod ≠ 0 := by omega
    simp [filePage, this]
  have hacts : decide (0xFFFFFFFF &&& (2 ^ 64 - 1) ≠ 0) = true := by decide
  refine ⟨storePlain p.iod (portReg p off) (2 ^ 64 - 1) v.toNat { r with off := portReg p off } (wakeAccess p.iod (portReg p off) false s), ?_⟩
  rw [portStore, if_pos ⟨hd, hp⟩, writeControl, hdown, hf, hb, if_neg (by decide), hfile, if_neg (by decide)]
  simp only [writeReg, hdiv, regDef_port hd hp ho, hr, Option.map_some, laneMask, if_true, if_neg hlow, if_neg hporch, keepTriggers_whole,
    seenValue_whole _ _ v.isLt, dieWrite_port hd hp ho, hw, hacts]

/-- FRAME_TX_TAIL (R329). -/
theorem portStore_txTail {p : PortRef} {s : State} (hb : s.boot.firmware = true) (hu : portUp s p = true) (v : Word) :
    portStore p Reg.FRAME_TX_TAIL v.toNat s = writeTxTail p v.toNat (wakeAccess p.iod (portReg p Reg.FRAME_TX_TAIL) false s) := by
  obtain ⟨s', h⟩ := portStore_trigger hb hu (off := Reg.FRAME_TX_TAIL) (by decide) (by decide) ⟨_, rfl, rfl⟩ v
  exact h

/-- FRAME_RX_TAIL (R329). -/
theorem portStore_rxTail {p : PortRef} {s : State} (hb : s.boot.firmware = true) (hu : portUp s p = true) (v : Word) :
    portStore p Reg.FRAME_RX_TAIL v.toNat s = writeRxTail p v.toNat (wakeAccess p.iod (portReg p Reg.FRAME_RX_TAIL) false s) := by
  obtain ⟨s', h⟩ := portStore_trigger hb hu (off := Reg.FRAME_RX_TAIL) (by decide) (by decide) ⟨_, rfl, rfl⟩ v
  exact h

theorem framesOn_portUp {s : State} {p : PortRef} (h : framesOn s p = true) : portUp s p = true := by
  simp only [framesOn, Bool.and_eq_true] at h
  exact h.1.1

end Sys2Proof.Machine
end

section
/-! Frames posted and frames received (R9, R328, R329). -/
namespace Sys2Proof.Machine

variable {s : State} {p : PortRef}

/-! A posted frame. -/

/-- What is wrong with descriptor d: a reserved bit, the length, or memory that does not answer (R9, R44, R329). -/
abbrev txFlaw (s : State) (d : Nat) : Prop :=
  descBad s d = true ∨ readNat s (d + 8) 2 < 60 ∨ 9212 < readNat s (d + 8) 2
    ∨ memMapped s (readNat s d 8 % 2 ^ 44) (readNat s (d + 8) 2) = false
    ∨ needsDown s (readNat s d 8 % 2 ^ 44) (readNat s (d + 8) 2) = true

/-- The bytes that descriptor d posts. -/
def txData (s : State) (d : Nat) : List Byte := readMem s (readNat s d 8 % 2 ^ 44) (readNat s (d + 8) 2)

/-- The descriptor's flags show k, its frame is gone from the ring, and units and every other byte are as they were. -/
structure Posted (p : PortRef) (d k : Nat) (s t : State) : Prop where
  head : portF t p Reg.FRAME_TX_HEAD 31 0 = (portF s p Reg.FRAME_TX_HEAD 31 0 + 1) % 2 ^ 32
  tail : portF t p Reg.FRAME_TX_TAIL 31 0 = portF s p Reg.FRAME_TX_TAIL 31 0
  bytes : ∀ b, b ≠ d + 10 → getByte t b = getByte s b
  flags : readNat t (d + 10) 1 = k % 256
  units : t.units = s.units

/-- The head passes a descriptor whose flags have been written, whatever else the ports did. -/
theorem posted_setHead {t : State} {d k : Nat} (hm : memWf s.mem = true)
    (hwf : tblWf (regDefault t.variant) t.regs = true) (hmem : t.mem = (writeNat s (d + 10) 1 k).mem) (hunits : t.units = s.units)
    (htail : portF t p Reg.FRAME_TX_TAIL 31 0 = portF s p Reg.FRAME_TX_TAIL 31 0) :
    Posted p d k s (setPortF t p Reg.FRAME_TX_HEAD 31 0 ((portF s p Reg.FRAME_TX_HEAD 31 0 + 1) % 2 ^ 32)) where
  head := by rw [portF_setPortF_self hwf, Nat.mod_mod]
  tail := by rw [portF_setPortF_ne hwf p (by decide), htail]
  bytes b hb := (getByte_eq_of_mem (s := writeNat s (d + 10) 1 k) hmem b).trans (getByte_writeNat_outside hm k (by omega))
  flags := (readNat_eq_of_mem (s := writeNat s (d + 10) 1 k) hmem _ _).trans (readNat_writeNat_self hm _ _ _)
  units := hunits

theorem portCounted_setHead {t : State} {off n v : Nat} (hwf : tblWf (regDefault t.variant) t.regs = true)
    (ho : off ≠ Reg.FRAME_TX_HEAD) (h : portCounted p off n s t) : portCounted p off n s (setPortF t p Reg.FRAME_TX_HEAD 31 0 v) := by
  unfold portCounted at h ⊢
  rwa [setPortF, getReg_setRf_ne hwf _ _ _ (portReg_key_ne p ho)]

/-- A refused descriptor's frame leaves nothing on the wire: its flags say REFUSED, and one counter rises. -/
theorem refused_setHead (hs : Sound s) {off : Nat} (d : Nat) (hh : off ≠ Reg.FRAME_TX_HEAD) (ht : off ≠ Reg.FRAME_TX_TAIL) :
    let t := setPortF (bumpPort (refuseDesc d s) p off 1) p Reg.FRAME_TX_HEAD 31 0 ((portF s p Reg.FRAME_TX_HEAD 31 0 + 1) % 2 ^ 32)
    Posted p d 3 s t ∧ t.out = s.out ∧ portCounted p off 1 s t := by
  have hwf : tblWf (regDefault s.variant) (bumpPort (refuseDesc d s) p off 1).regs = true :=
    setReg_wf (s := refuseDesc d s) hs.regs _ _ _
  refine ⟨posted_setHead hs.mem hwf rfl rfl ?_, rfl, portCounted_setHead hwf hh ?_⟩
  · rw [portF, rf, bumpPort, bump, getReg_setReg_ne (s := refuseDesc d s) hs.regs _ (portReg_key_ne p ht.symm)]
    rfl
  · exact portCounted_bumpPort (s := refuseDesc d s) hs.regs p off 1

/-- A frame that leaves is among the outputs, and its descriptor says DONE. -/
theorem sent_setHead (hs : Sound s) (d : Nat) (frame : List Byte) :
    let t := setPortF (sendFrame p frame (writeNat s (d + 10) 1 1)) p Reg.FRAME_TX_HEAD 31 0
      ((portF s p Reg.FRAME_TX_HEAD 31 0 + 1) % 2 ^ 32)
    Posted p d 1 s t ∧ (s.out ++ [.frame p frame]) <+: t.out := by
  obtain ⟨hmem, hregs, hvar, hunits⟩ := onlyTraffic_frame (onlyTraffic_sendFrame p frame (writeNat s (d + 10) 1 1))
  refine ⟨posted_setHead hs.mem (by rw [hvar, hregs]; exact hs.regs) hmem hunits ?_, sendFrame_out p frame (writeNat s (d + 10) 1 1)⟩
  rw [portF, portF, rf, rf, getReg, getReg, hvar, hregs]
  rfl

/-- The three ends of a posted frame (R329). -/
theorem sendOne_ends (hs : Sound s) {d : Nat} (hd : frameDesc s p Reg.FRAME_TX_RING (portF s p Reg.FRAME_TX_HEAD 31 0) = some d) :
    (txFlaw s d → Posted p d 3 s (sendOne p s) ∧ (sendOne p s).out = s.out ∧ portCounted p Reg.FRAME_DROP_COUNT 1 s (sendOne p s))
      ∧ (¬txFlaw s d → macControl (txData s d) = true →
        Posted p d 3 s (sendOne p s) ∧ (sendOne p s).out = s.out ∧ portCounted p Reg.FRAME_CTRL_DROP_COUNT 1 s (sendOne p s))
      ∧ (¬txFlaw s d → macControl (txData s d) = false →
        Posted p d 1 s (sendOne p s) ∧ (s.out ++ [.frame p (txData s d ++ fcs (txData s d))]) <+: (sendOne p s).out) := by
  have hone : sendOne p s = setPortF (if txFlaw s d then bumpPort (refuseDesc d s) p Reg.FRAME_DROP_COUNT 1
      else if macControl (txData s d) then bumpPort (refuseDesc d s) p Reg.FRAME_CTRL_DROP_COUNT 1
      else sendFrame p (txData s d ++ fcs (txData s d)) (writeNat s (d + 10) 1 1))
      p Reg.FRAME_TX_HEAD 31 0 ((portF s p Reg.FRAME_TX_HEAD 31 0 + 1) % 2 ^ 32) := by
    simp only [sendOne, hd]
    rfl
  rw [hone]
  refine ⟨fun hf => ?_, fun hf hm => ?_, fun hf hm => ?_⟩
  · rw [if_pos hf]
    exact refused_setHead hs d (by decide) (by decide)
  · rw [if_neg hf, if_pos hm]
    exact refused_setHead hs d (by decide) (by decide)
  · rw [if_neg hf, if_neg (Bool.eq_false_iff.mp hm)]
    exact sent_setHead hs d _

/-- One frame posted and the port on: the ring is served by one descriptor. -/
theorem serveTx_one (hon : framesOn s p = true)
    (h1 : sub32 (portF s p Reg.FRAME_TX_TAIL 31 0) (portF s p Reg.FRAME_TX_HEAD 31 0) = 1) : serveTx p s = sendOne p s := by
  rw [serveTx, if_pos hon, h1, if_pos Nat.one_le_two_pow]
  rfl

end Sys2Proof.Machine
end

section
/-! The commands of frames: the TAIL writes with the wake that an access to a sleeping die's block begins, and the frame that arrives. -/
namespace Sys2Proof.Machine

variable {s t : State} {p : PortRef}

/-! What agreeing states say of a port's rings. -/

namespace AgreeBut

variable {keys : List Nat}

theorem framesOn (h : AgreeBut keys s t) (hd : ∀ d, Machine.isDown t d = Machine.isDown s d)
    (hst : regKey p.iod (portReg p Reg.PORT_STATUS) ∉ keys) (hct : regKey p.iod (portReg p Reg.PORT_CTRL) ∉ keys) :
    framesOn t p = framesOn s p := by
  rw [Machine.framesOn, Machine.framesOn, portUp, portUp, portState, portState, isFitted, isFitted, h.portF hst, h.portF hct, h.variant, hd]

theorem frameDesc (h : AgreeBut keys s t) (hd : ∀ d, Machine.isDown t d = Machine.isDown s d) {ring : Nat}
    (hr : regKey p.iod (portReg p ring) ∉ keys) (n : Nat) : frameDesc t p ring n = frameDesc s p ring n := by
  have hmap : Machine.memMapped t = Machine.memMapped s := funext fun a => funext (h.memMapped a)
  have hdown : Machine.needsDown t = Machine.needsDown s := funext fun a => funext (h.needsDown hd a)
  rw [Machine.frameDesc, Machine.frameDesc, frameLog2, frameLog2, h.portF hr, h.portF hr, hmap, hdown]

theorem descBad (h : AgreeBut keys s t) (d : Nat) : descBad t d = descBad s d := by
  simp only [Machine.descBad, readNat_eq_of_mem h.mem]

theorem txFlaw (h : AgreeBut keys s t) (hd : ∀ d, Machine.isDown t d = Machine.isDown s d) (d : Nat) : txFlaw t d ↔ txFlaw s d := by
  simp only [Machine.txFlaw, h.descBad, readNat_eq_of_mem h.mem, h.memMapped, h.needsDown hd]

theorem txData (h : AgreeBut keys s t) (d : Nat) : txData t d = txData s d := by
  simp only [Machine.txData, readNat_eq_of_mem h.mem, readMem_eq_of_mem h.mem]

end AgreeBut

/-! A write of a TAIL register: the wake, then the register. -/

/-- The registers that a write of a port's TAIL may change before the ring is served. -/
def tailKeys (p : PortRef) (tail : Nat) : List Nat := wakeKeys p.iod ++ [regKey p.iod (portReg p tail)]

/-- The state once a port's TAIL holds v, its die waking where it slept. -/
def tailWritten (p : PortRef) (tail v : Nat) (s : State) : State :=
  setPortF (wakeAccess p.iod (portReg p tail) false s) p tail 31 0 (v % 2 ^ 32)

theorem port_key_notMem {off tail : Nat} (h : off ≠ tail) : regKey p.iod (portReg p off) ∉ tailKeys p tail := by
  simp only [tailKeys, wakeKeys, regKey, portReg, List.cons_append, List.nil_append, List.mem_cons, List.not_mem_nil, or_false,
    Reg.LP_WAKE_LATE_COUNT, Reg.LP_STATE]
  omega

theorem porch_key_notMem (hi : 0x30 ≤ p.iod) {off : Nat} (ho : off < 0x10000000) (tail : Nat) : regKey porchDom off ∉ tailKeys p tail := by
  simp only [tailKeys, wakeKeys, regKey, portReg, List.cons_append, List.nil_append, List.mem_cons, List.not_mem_nil, or_false, porchDom]
  omega

theorem tailWritten_agree (hs : Sound s) (p : PortRef) (tail v : Nat) : AgreeBut (tailKeys p tail) s (tailWritten p tail v s) := by
  have hwf := ((keeps_wakeAccess p.iod (portReg p tail) false s (keeps_refl s)).sound hs).regs
  exact (agreeBut_wakeAccess hs.regs p.iod (portReg p tail) false).trans (AgreeBut.setReg hwf _ _ _)

theorem tailWritten_isDown (hs : Sound s) (hu : portUp s p = true) (tail v d : Nat) :
    isDown (tailWritten p tail v s) d = isDown s d := by
  simp only [portUp, Bool.and_eq_true, decide_eq_true_eq] at hu
  have hi := (iod_range hu.1.1.1).1
  exact (tailWritten_agree hs p tail v).isDown (porch_key_notMem hi (by decide) tail) (porch_key_notMem hi (by decide) tail) d

theorem tailWritten_sound (hs : Sound s) (p : PortRef) (tail v : Nat) : Sound (tailWritten p tail v s) :=
  (keeps_setPortF _ _ _ _ _ _ (keeps_wakeAccess _ _ _ _ (keeps_refl s))).sound hs

theorem tailWritten_tail (hs : Sound s) (p : PortRef) (tail v : Nat) : portF (tailWritten p tail v s) p tail 31 0 = v % 2 ^ 32 := by
  have hwf := ((keeps_wakeAccess p.iod (portReg p tail) false s (keeps_refl s)).sound hs).regs
  rw [tailWritten, portF_setPortF_self hwf, Nat.mod_mod]

@[simp] theorem tailWritten_units (p : PortRef) (tail v : Nat) (s : State) : (tailWritten p tail v s).units = s.units :=
  wakeAccess_units _ _ _ _

@[simp] theorem tailWritten_ports (p : PortRef) (tail v : Nat) (s : State) : (tailWritten p tail v s).ports = s.ports :=
  wakeAccess_ports _ _ _ _

@[simp] theorem tailWritten_out (p : PortRef) (tail v : Nat) (s : State) : (tailWritten p tail v s).out = s.out :=
  wakeAccess_out _ _ _ _

/-! One frame posted by a write of FRAME_TX_TAIL. -/

/-- The write serves the ring by one descriptor. -/
theorem exec_frameTxTail_one (hs : Sound s) (hon : framesOn s p = true) (hb : s.boot.firmware = true) (v : Word)
    (h1 : sub32 (v.toNat % 2 ^ 32) (portF s p Reg.FRAME_TX_HEAD 31 0) = 1) :
    exec (.frameTxTail p v) s = .next (sendOne p (tailWritten p Reg.FRAME_TX_TAIL v.toNat s)) := by
  have hu := framesOn_portUp hon
  have ha := tailWritten_agree hs p Reg.FRAME_TX_TAIL v.toNat
  have hon' : framesOn (tailWritten p Reg.FRAME_TX_TAIL v.toNat s) p = true := by
    rw [ha.framesOn (tailWritten_isDown hs hu _ _) (port_key_notMem (by decide)) (port_key_notMem (by decide)), hon]
  have hserve : serveTx p (tailWritten p Reg.FRAME_TX_TAIL v.toNat s) = sendOne p (tailWritten p Reg.FRAME_TX_TAIL v.toNat s) := by
    refine serveTx_one hon' ?_
    rw [tailWritten_tail hs, ha.portF (port_key_notMem (by decide)), h1]
  rw [← hserve]
  exact congrArg Host.Outcome.next (portStore_txTail hb hu v)

/-- A frame posted in the state with its TAIL written is posted in the state before. -/
theorem Posted.of_tailWritten (hs : Sound s) {d k : Nat} {v : Nat}
    (h1 : sub32 (v % 2 ^ 32) (portF s p Reg.FRAME_TX_HEAD 31 0) = 1) (h : Posted p d k (tailWritten p Reg.FRAME_TX_TAIL v s) t) :
    portF t p Reg.FRAME_TX_HEAD 31 0 = v % 2 ^ 32 ∧ portF t p Reg.FRAME_TX_TAIL 31 0 = v % 2 ^ 32
      ∧ (∀ b, b ≠ d + 10 → getByte t b = getByte s b) ∧ t.units = s.units := by
  have ha := tailWritten_agree hs p Reg.FRAME_TX_TAIL v
  refine ⟨?_, by rw [h.tail, tailWritten_tail hs], fun b hb => (h.bytes b hb).trans (getByte_eq_of_mem ha.mem b),
    h.units.trans (tailWritten_units ..)⟩
  have hlt : portF s p Reg.FRAME_TX_HEAD 31 0 < 2 ^ 32 := fld_lt _ _ _
  rw [h.head, ha.portF (port_key_notMem (by decide))]
  simp only [sub32] at h1
  omega

theorem portCounted_of_tailWritten (hs : Sound s) {off n tail v : Nat} (ho : off ≠ tail)
    (h : portCounted p off n (tailWritten p tail v s) t) : portCounted p off n s t := by
  unfold portCounted at h ⊢
  rwa [(tailWritten_agree hs p tail v).regs _ _ (port_key_notMem ho)] at h

/-! Frames received. -/

/-- The state once the packet that brought a frame has been taken. -/
def broughtTaken (f : List Byte) (s : State) : State :=
  { s with fabric := { s.fabric with received := s.fabric.received.filter fun pk => decide (pkKind pk ≠ 4) || decide (pkPayload pk ≠ f) } }

theorem broughtTaken_agree (f : List Byte) (s : State) : AgreeBut [] s (broughtTaken f s) := ⟨rfl, rfl, rfl, fun _ _ _ => rfl⟩

/-- A frame of the lengths that R328 allows, with its FCS. -/
abbrev frameWhole (f : List Byte) : Prop := 64 ≤ f.length ∧ f.length ≤ 9216 ∧ fcs (f.take (f.length - 4)) = f.drop (f.length - 4)

/-- What becomes of a frame at a port that takes frames. -/
theorem receiveFrame_eq (hon : framesOn s p = true) (f : List Byte) : receiveFrame p f s =
    if frameWhole f then
      if macControl f then bumpPort (broughtTaken f s) p Reg.FRAME_CTRL_DROP_COUNT 1
      else fillFrame p (f.take (f.length - 4))
        (min (sub32 (portF s p Reg.FRAME_RX_TAIL 31 0) (portF s p Reg.FRAME_RX_HEAD 31 0)) 65536) (broughtTaken f s)
    else dropFrame p (broughtTaken f s) := by
  have hiff : (f.length < 64 ∨ 9216 < f.length ∨ fcs (f.take (f.length - 4)) ≠ f.drop (f.length - 4)) ↔ ¬frameWhole f := by
    rw [frameWhole, Decidable.not_and_iff_or_not, Decidable.not_and_iff_or_not, Nat.not_le, Nat.not_le]
  rw [receiveFrame, hon, if_neg (by decide)]
  by_cases hw : frameWhole f
  · rw [if_pos hw]
    exact if_neg (by rw [hiff]; exact not_not_intro hw)
  · rw [if_neg hw]
    exact if_pos (hiff.mpr hw)

/-- A buffer that fits takes the frame, its length and DONE (R329). -/
theorem fillFrame_fits {data : List Byte} {d k : Nat}
    (hne : portF s p Reg.FRAME_RX_HEAD 31 0 ≠ portF s p Reg.FRAME_RX_TAIL 31 0)
    (hd : frameDesc s p Reg.FRAME_RX_RING (portF s p Reg.FRAME_RX_HEAD 31 0) = some d) (hb : descBad s d = false)
    (hn : data.length ≤ readNat s (d + 8) 2) (hm : memMapped s (readNat s d 8 % 2 ^ 44) data.length = true)
    (hdn : needsDown s (readNat s d 8 % 2 ^ 44) data.length = false) :
    fillFrame p data (k + 1) s =
      setPortF (writeNat (writeNat (writeMem s (readNat s d 8 % 2 ^ 44) data) (d + 8) 2 data.length) (d + 10) 1 1) p Reg.FRAME_RX_HEAD 31 0
        ((portF s p Reg.FRAME_RX_HEAD 31 0 + 1) % 2 ^ 32) := by
  have hfit : ¬ readNat s (d + 8) 2 < data.length := by omega
  simp only [fillFrame, if_neg hne, hd, hb, hfit, hm, hdn, Bool.false_eq_true, Bool.true_eq_false, or_self, if_false]

/-- Data, length and flags of a filled buffer lie where they were put; no other byte changes. -/
theorem filled_bytes (hm : memWf s.mem = true) {a d n : Nat} {data : List Byte} (hn : data.length = n) (hlt : n < 2 ^ 16)
    (hd : a + n ≤ d + 8 ∨ d + 11 ≤ a) :
    let t := writeNat (writeNat (writeMem s a data) (d + 8) 2 n) (d + 10) 1 1
    readMem t a n = data ∧ readNat t (d + 8) 2 = n ∧ readNat t (d + 10) 1 = 1
      ∧ ∀ b, (b < a ∨ a + n ≤ b) → (b < d + 8 ∨ d + 11 ≤ b) → getByte t b = getByte s b := by
  have hm1 : memWf (writeMem s a data).mem = true := writeMem_wf hm a data
  have hm2 : memWf (writeNat (writeMem s a data) (d + 8) 2 n).mem = true := writeMem_wf hm1 _ _
  refine ⟨?_, ?_, readNat_writeNat_self hm2 _ _ _, fun b h1 h2 => ?_⟩
  · rw [readMem_writeNat_apart hm2 _ (by omega), readMem_writeNat_apart hm1 _ (by omega), ← hn, readMem_writeMem_self hm]
  · rw [readNat, readMem_writeNat_apart hm2 _ (by omega), ← readNat, readNat_writeNat_self hm1]
    omega
  · rw [getByte_writeNat_outside hm2 _ (by omega), getByte_writeNat_outside hm1 _ (by omega), getByte_writeMem hm, if_neg (by omega)]

/-- With the ring's counts apart, at least one buffer is posted. -/
theorem sub32_pos {a b : Nat} (ha : a < 2 ^ 32) (hb : b < 2 ^ 32) (h : a ≠ b) : 0 < sub32 a b := by
  simp only [sub32]
  omega

theorem sub32_self (a : Nat) (ha : a < 2 ^ 32) : sub32 a a = 0 := by
  rw [sub32, Nat.mod_eq_of_lt ha, Nat.add_sub_cancel_left, Nat.mod_self]

/-- A frame that is not whole, or finds no posted buffer, is dropped (R329). -/
theorem receiveFrame_drops (hon : framesOn s p = true) {f : List Byte}
    (h : ¬frameWhole f ∨ (macControl f = false ∧ portF s p Reg.FRAME_RX_HEAD 31 0 = portF s p Reg.FRAME_RX_TAIL 31 0)) :
    receiveFrame p f s = dropFrame p (broughtTaken f s) := by
  rw [receiveFrame_eq hon f]
  by_cases hw : frameWhole f
  · obtain ⟨hmc, hempty⟩ := h.resolve_left (not_not_intro hw)
    rw [if_pos hw, hmc, if_neg (by decide), hempty, sub32_self _ (fld_lt _ _ _), Nat.zero_min]
    rfl
  · rw [if_neg hw]

/-- A whole frame goes into a posted buffer that it fits (R329). -/
theorem receiveFrame_fills (hon : framesOn s p = true) {f : List Byte} {d : Nat} (hw : frameWhole f) (hmc : macControl f = false)
    (hne : portF s p Reg.FRAME_RX_HEAD 31 0 ≠ portF s p Reg.FRAME_RX_TAIL 31 0)
    (hd : frameDesc s p Reg.FRAME_RX_RING (portF s p Reg.FRAME_RX_HEAD 31 0) = some d) (hb : descBad s d = false)
    (hn : f.length - 4 ≤ readNat s (d + 8) 2) (hm : memMapped s (readNat s d 8 % 2 ^ 44) (f.length - 4) = true)
    (hdn : needsDown s (readNat s d 8 % 2 ^ 44) (f.length - 4) = false) :
    receiveFrame p f s = setPortF (writeNat (writeNat (writeMem (broughtTaken f s) (readNat s d 8 % 2 ^ 44) (f.take (f.length - 4)))
        (d + 8) 2 (f.length - 4)) (d + 10) 1 1) p Reg.FRAME_RX_HEAD 31 0 ((portF s p Reg.FRAME_RX_HEAD 31 0 + 1) % 2 ^ 32) := by
  have hlen : (f.take (f.length - 4)).length = f.length - 4 := by rw [List.length_take, Nat.min_eq_left (Nat.sub_le _ _)]
  have hpos := sub32_pos (fld_lt _ _ _) (fld_lt _ _ _) hne.symm
  obtain ⟨k, hk⟩ : ∃ k, min (sub32 (portF s p Reg.FRAME_RX_TAIL 31 0) (portF s p Reg.FRAME_RX_HEAD 31 0)) 65536 = k + 1 :=
    Nat.exists_eq_succ_of_ne_zero (Nat.ne_of_gt (Nat.lt_min.mpr ⟨hpos, by decide⟩))
  rw [receiveFrame_eq hon f, if_pos hw, hmc, if_neg (by decide), hk]
  have ha := broughtTaken_agree f s
  have hdown : ∀ d, isDown (broughtTaken f s) d = isDown s d := fun _ => rfl
  have hport : ∀ off, portF (broughtTaken f s) p off 31 0 = portF s p off 31 0 := fun _ => ha.portF List.not_mem_nil 31 0
  have hnat : ∀ a n, readNat (broughtTaken f s) a n = readNat s a n := readNat_eq_of_mem ha.mem
  rw [fillFrame_fits (by rw [hport, hport]; exact hne) (by rw [hport, ha.frameDesc hdown List.not_mem_nil]; exact hd)
    (by rw [ha.descBad]; exact hb) (by rw [hlen, hnat]; exact hn) (by rw [hlen, hnat, ha.memMapped]; exact hm)
    (by rw [hlen, hnat, ha.needsDown hdown]; exact hdn), hnat, hport, hlen]

/-- Settles O39: a posted frame is one turn of sendOne in the state with its TAIL written; a received one goes to the drop, the MAC Control
count or the buffer. -/
theorem framesSentAndReceived : Obligations.FramesSentAndReceived := by
  intro s p hs hon
  have hu := framesOn_portUp hon
  refine ⟨fun v d hb h1 hd => ?_, fun v hb => ?_, fun f d => ⟨fun hw hmc hne hd hbad hn hm hdn hapart => ?_, fun hw hmc => ?_, fun h => ?_⟩⟩
  · have ha := tailWritten_agree hs p Reg.FRAME_TX_TAIL v.toNat
    have hdown := tailWritten_isDown hs hu Reg.FRAME_TX_TAIL v.toNat
    have hdesc : frameDesc (tailWritten p Reg.FRAME_TX_TAIL v.toNat s) p Reg.FRAME_TX_RING
        (portF (tailWritten p Reg.FRAME_TX_TAIL v.toNat s) p Reg.FRAME_TX_HEAD 31 0) = some d := by
      rw [ha.portF (port_key_notMem (by decide)), ha.frameDesc hdown (port_key_notMem (by decide)), hd]
    obtain ⟨hflaw, hctrl, hsent⟩ := sendOne_ends (tailWritten_sound hs p Reg.FRAME_TX_TAIL v.toNat) hdesc
    rw [ha.txFlaw hdown] at hflaw hctrl hsent
    rw [ha.txData] at hctrl hsent
    rw [tailWritten_out] at hflaw hctrl hsent
    refine ⟨_, exec_frameTxTail_one hs hon hb v h1, ?_⟩
    by_cases hf : txFlaw s d
    · obtain ⟨hp, hout, hcount⟩ := hflaw hf
      obtain ⟨hhead, htail, hbytes, hunits⟩ := hp.of_tailWritten hs h1
      exact ⟨hhead, htail, hbytes, hunits, fun h => absurd hf h, fun h => absurd hf h,
        fun _ => ⟨hout, hp.flags, portCounted_of_tailWritten hs (by decide) hcount⟩⟩
    · cases hmc : macControl (txData s d) with
      | true =>
        obtain ⟨hp, hout, hcount⟩ := hctrl hf hmc
        obtain ⟨hhead, htail, hbytes, hunits⟩ := hp.of_tailWritten hs h1
        exact ⟨hhead, htail, hbytes, hunits, fun _ h => absurd (hmc.symm.trans h) (by decide),
          fun _ _ => ⟨hout, hp.flags, portCounted_of_tailWritten hs (by decide) hcount⟩, fun h => absurd h hf⟩
      | false =>
        obtain ⟨hp, hout⟩ := hsent hf hmc
        obtain ⟨hhead, htail, hbytes, hunits⟩ := hp.of_tailWritten hs h1
        exact ⟨hhead, htail, hbytes, hunits, fun _ _ => ⟨hout, hp.flags⟩, fun _ h => absurd (hmc.symm.trans h) (by decide),
          fun h => absurd h hf⟩
  · exact ⟨_, congrArg Host.Outcome.next (portStore_rxTail hb hu v), tailWritten_tail hs p Reg.FRAME_RX_TAIL v.toNat,
      (tailWritten_agree hs p Reg.FRAME_RX_TAIL v.toNat).mem, tailWritten_ports .., tailWritten_units ..⟩
  · refine ⟨_, congrArg Host.Outcome.next (receiveFrame_fills hon hw hmc hne hd hbad hn hm hdn), ?_⟩
    have hlen : (f.take (f.length - 4)).length = f.length - 4 := by rw [List.length_take, Nat.min_eq_left (Nat.sub_le _ _)]
    have hlt := readNat_lt s (d + 8) 2
    obtain ⟨hdata, hlength, hflags, hrest⟩ := filled_bytes (s := broughtTaken f s) hs.mem hlen (by omega) hapart
    refine ⟨hdata, hlength, hflags, ?_, hrest⟩
    refine (portF_setPortF_self ?_ p _ _).trans (Nat.mod_mod _ _)
    exact hs.regs
  · refine ⟨_, rfl, ?_⟩
    rw [receiveFrame_eq hon f, if_pos hw, if_pos hmc]
    exact ⟨rfl, portCounted_bumpPort (s := broughtTaken f s) hs.regs p _ 1⟩
  · refine ⟨_, congrArg Host.Outcome.next (receiveFrame_drops hon h), rfl, ?_⟩
    exact portCounted_bumpPort (s := broughtTaken f s) hs.regs p _ 1

end Sys2Proof.Machine
end

section
/-! Wide views in memory: what the checks say of one, where its elements stand, and what is read after one is written (R239, R240). -/
namespace Sys2Proof.Machine

/-! Checks. -/

/-- Checks that fail nowhere are all zero (R228). -/
theorem firstFail_eq_zero {l : List Nat} (h : firstFail l = 0) {n : Nat} (hn : n ∈ l) : n = 0 := by
  unfold firstFail at h
  split at h
  · exact absurd h (by decide)
  split at h
  · exact absurd h (by decide)
  split at h
  · exact absurd h (by decide)
  cases hf : l.find? (· ≠ 0) with
  | none => simpa only [ne_eq, decide_not, Bool.not_eq_true', decide_eq_false_iff_not, Decidable.not_not] using List.find?_eq_none.mp hf n hn
  | some m =>
    rw [hf, Option.getD_some] at h
    have hm : m ≠ 0 := of_decide_eq_true (List.find?_some (p := fun x => decide (x ≠ 0)) hf)
    exact absurd h hm

theorem failIf_eq_zero {b : Bool} {st : Nat} (hst : st ≠ 0) : failIf b st = 0 ↔ b = false := by
  cases b <;> simp [failIf, hst]

/-- A view that passes has a format that the operation takes. -/
theorem viewCheck_format {s : State} {v : View} {ok : Fmt → Bool} {w : Bool} (h : ∀ n ∈ viewCheck s v ok w, n = 0) : ok (vFmt v) = true := by
  have hr := h _ List.mem_cons_self
  rw [failIf_eq_zero (by decide)] at hr
  simp only [Bool.or_eq_false_iff, Bool.not_eq_false'] at hr
  obtain ⟨⟨⟨⟨⟨⟨⟨⟨-, hok⟩, -⟩, -⟩, -⟩, -⟩, -⟩, -⟩, -⟩ := hr
  exact hok

/-- The rows of a view that passes do not run into one another, where the operation takes wide formats alone. -/
theorem viewCheck_stride {s : State} {v : View} {ok : Fmt → Bool} {w : Bool} (hok : ∀ g, ok g = true → fmtWide g = true)
    (h : ∀ n ∈ viewCheck s v ok w, n = 0) : v.cols ≤ v.stride := by
  have hv := hok _ (viewCheck_format h)
  have hl := h _ (List.mem_cons_of_mem _ (List.mem_cons_of_mem _ List.mem_cons_self))
  rw [failIf_eq_zero (by decide)] at hl
  simp only [hv, Bool.or_eq_false_iff, decide_eq_false_iff_not, Bool.not_true, Bool.false_eq_true, if_false] at hl
  omega

/-! Places. -/

theorem mem_seenCells {v : View} {c : Nat × Nat} : c ∈ seenCells v ↔ c.1 < seenRows v ∧ c.2 < seenCols v := by
  obtain ⟨i, j⟩ := c
  simp [seenCells]

theorem nodup_seenCells (v : View) : (seenCells v).Nodup := by
  refine List.pairwise_flatMap.mpr ⟨fun i _ => ?_, ?_⟩
  · exact List.pairwise_map.mpr (List.nodup_range.imp fun hne h => hne (congrArg Prod.snd h))
  · refine List.nodup_range.imp fun hne c hc d hd h => hne ?_
    obtain ⟨j, -, rfl⟩ := List.mem_map.mp hc
    obtain ⟨j', -, rfl⟩ := List.mem_map.mp hd
    exact congrArg Prod.fst h

theorem storedAt_injective (v : View) {i j i' j' : Nat} (h : storedAt v i j = storedAt v i' j') : (i, j) = (i', j') := by
  unfold storedAt at h
  split at h
  all_goals
    obtain ⟨rfl, rfl⟩ := Prod.mk.inj h
    rfl

theorem storedAt_col_lt {v : View} {i j : Nat} (hi : i < seenRows v) (hj : j < seenCols v) : (storedAt v i j).2 < v.cols := by
  cases ht : v.t with
  | true => simpa only [storedAt, seenRows, ht, if_true] using hi
  | false => simpa only [storedAt, seenCols, ht, Bool.false_eq_true, if_false] using hj

/-- The bytes of a seen wide element. -/
def cellRange (v : View) (c : Nat × Nat) : Nat × Nat :=
  (wideAddr v (storedAt v c.1 c.2).1 (storedAt v c.1 c.2).2, fmtBytes (vFmt v))

theorem wideCells_eq (v : View) : wideCells v = (seenCells v).map (cellRange v) := rfl

/-- Stored elements of different places have no byte in common when rows do not run into one another. -/
theorem wideAddr_apart {v : View} (hs : v.cols ≤ v.stride) {r c r' c' : Nat} (hc : c < v.cols) (hc' : c' < v.cols)
    (hne : (r, c) ≠ (r', c')) :
    wideAddr v r c + fmtBytes (vFmt v) ≤ wideAddr v r' c' ∨ wideAddr v r' c' + fmtBytes (vFmt v) ≤ wideAddr v r c := by
  have hidx : v.stride * r + c ≠ v.stride * r' + c' := by
    intro h
    have hcol : c = c' := by
      simpa [Nat.mul_add_mod, Nat.mod_eq_of_lt (Nat.lt_of_lt_of_le hc hs), Nat.mod_eq_of_lt (Nat.lt_of_lt_of_le hc' hs)]
        using congrArg (· % v.stride) h
    have hrow : r = r' := Nat.eq_of_mul_eq_mul_left (show 0 < v.stride by omega) (by omega)
    exact hne (by rw [hcol, hrow])
  have hlt : ∀ x y, x < y → x * fmtBytes (vFmt v) + fmtBytes (vFmt v) ≤ y * fmtBytes (vFmt v) := fun x y h => by
    rw [← Nat.succ_mul]
    exact Nat.mul_le_mul_right _ h
  unfold wideAddr
  rcases Nat.lt_or_gt_of_ne hidx with h | h
  · exact .inl (by have := hlt _ _ h; omega)
  · exact .inr (by have := hlt _ _ h; omega)

theorem cellRange_apart {v : View} (hs : v.cols ≤ v.stride) {c d : Nat × Nat} (hc : c ∈ seenCells v) (hd : d ∈ seenCells v) (hne : c ≠ d) :
    (cellRange v c).1 + (cellRange v c).2 ≤ (cellRange v d).1 ∨ (cellRange v d).1 + (cellRange v d).2 ≤ (cellRange v c).1 := by
  rw [mem_seenCells] at hc hd
  exact wideAddr_apart hs (storedAt_col_lt hc.1 hc.2) (storedAt_col_lt hd.1 hd.2) fun h => hne (storedAt_injective v h)

/-! Reads and writes of elements of a view in memory. -/

theorem wideBits_eq_readNat {v : View} (hv : v.stash = false) (s : State) (i j : Nat) :
    wideBits s v i j = readNat s (cellRange v (i, j)).1 (cellRange v (i, j)).2 := by
  simp only [wideBits, viewPlace, hv, Bool.false_eq_true, if_false]
  rfl

theorem widePut_eq_writeNat {v : View} (hv : v.stash = false) (s : State) (i j bits : Nat) :
    widePut v i j bits s = writeNat s (cellRange v (i, j)).1 (cellRange v (i, j)).2 bits := by
  simp only [widePut, viewPlace, hv, Bool.false_eq_true, if_false]
  rfl

theorem writeNat_mem_congr {s t : State} (h : t.mem = s.mem) (a n v : Nat) : (writeNat t a n v).mem = (writeNat s a n v).mem := by
  simp only [writeNat, writeMem, h]

end Sys2Proof.Machine
end

section
/-! What an operation that writes a wide view in memory leaves: its elements and every byte outside them (R199, R261). -/
namespace Sys2Proof.Machine

/-- The next state is sound, takes its CG draws as this one does, and has its units. -/
structure SameDraws (s t : State) : Prop where
  sound : Sound t
  key : cgKey t = cgKey s
  pos : t.pos = s.pos
  units : t.units = s.units

/-- The listed elements of a view hold the given patterns, and no byte outside them has changed. -/
structure ElementsStored (td : View) (val : Nat → Nat → Nat) (done : List (Nat × Nat)) (s t : State) : Prop where
  value : ∀ c ∈ done, wideBits t td c.1 c.2 = val c.1 c.2 % 256 ^ fmtBytes (vFmt td)
  frame : ∀ b, outside (done.map (cellRange td)) b → getByte t b = getByte s b

/-- An element-wise step stores each element's pattern, whatever was done before. -/
def StoresElement (s : State) (td : View) (val : Nat → Nat → Nat) (put : VecSum → Nat → Nat → VecSum) : Prop :=
  ∀ t i j, SameDraws s t.s → SameDraws s (put t i j).s
    ∧ (put t i j).s.mem = (writeNat t.s (cellRange td (i, j)).1 (cellRange td (i, j)).2 (val i j)).mem

theorem ElementsStored.of_mem {td : View} {val : Nat → Nat → Nat} {done : List (Nat × Nat)} {s t z : State} (hv : td.stash = false)
    (h : ElementsStored td val done s t) (hm : z.mem = t.mem) : ElementsStored td val done s z where
  value c hc := by rw [wideBits_eq_readNat hv, readNat_eq_of_mem hm, ← wideBits_eq_readNat hv, h.value c hc]
  frame b hb := by rw [getByte_eq_of_mem hm, h.frame b hb]

variable {s : State} {td : View} {val : Nat → Nat → Nat}

/-- One element more. -/
theorem ElementsStored.write {done : List (Nat × Nat)} {t z : State} {c : Nat × Nat} (hv : td.stash = false) (hs : td.cols ≤ td.stride)
    (ht : memWf t.mem = true) (h : ElementsStored td val done s t) (hdone : ∀ d ∈ done, d ∈ seenCells td) (hc : c ∈ seenCells td)
    (hnew : c ∉ done) (hm : z.mem = (writeNat t (cellRange td c).1 (cellRange td c).2 (val c.1 c.2)).mem) :
    ElementsStored td val (done ++ [c]) s z := by
  refine .of_mem hv ⟨fun d hd => ?_, fun b hb => ?_⟩ hm
  · rw [wideBits_eq_readNat hv]
    rcases List.mem_append.mp hd with hd | hd
    · have hapart := cellRange_apart hs (hdone d hd) hc fun e => hnew (e ▸ hd)
      rw [readNat, readMem_writeNat_apart ht _ hapart, ← readNat, ← wideBits_eq_readNat hv, h.value d hd]
    · rw [List.mem_singleton.mp hd]
      exact readNat_writeNat_self ht _ _ _
  · have hat : b < (cellRange td c).1 ∨ (cellRange td c).1 + (cellRange td c).2 ≤ b :=
      hb _ (List.mem_map_of_mem (List.mem_append_right _ (List.mem_singleton_self c)))
    rw [getByte_writeNat_outside ht _ hat]
    exact h.frame b fun r hr => hb r (by rw [List.map_append]; exact List.mem_append_left _ hr)

/-- A run over new elements stores them all. -/
theorem foldl_storesElement {put : VecSum → Nat → Nat → VecSum} (hv : td.stash = false) (hs : td.cols ≤ td.stride)
    (hput : StoresElement s td val put) (todo done : List (Nat × Nat)) (hnodup : (done ++ todo).Nodup)
    (hseen : ∀ c ∈ done ++ todo, c ∈ seenCells td) (t : VecSum) (ht : SameDraws s t.s) (h : ElementsStored td val done s t.s) :
    let z := todo.foldl (fun t c => put t c.1 c.2) t
    SameDraws s z.s ∧ ElementsStored td val (done ++ todo) s z.s := by
  induction todo generalizing done t with
  | nil => simpa using ⟨ht, h⟩
  | cons c todo ih =>
    have hsplit : done ++ c :: todo = (done ++ [c]) ++ todo := by simp
    obtain ⟨hdraws, hmem⟩ := hput t c.1 c.2 ht
    have hnew : c ∉ done := fun hc => (List.nodup_append.mp hnodup).2.2 c hc c List.mem_cons_self rfl
    have hstored := h.write hv hs ht.sound.mem (fun d hd => hseen d (List.mem_append_left _ hd))
      (hseen c (List.mem_append_right _ List.mem_cons_self)) hnew hmem
    rw [hsplit] at hnodup hseen ⊢
    exact ih _ hnodup hseen _ hdraws hstored

/-- What a gradient-tagged write marks is not in memory and not in a unit (R167, R168). -/
theorem markNonfinite_mem (dom : Nat) (s : State) : (markNonfinite dom s).mem = s.mem := by
  unfold markNonfinite
  dsimp only
  split <;> rfl

theorem markNonfinite_units (dom : Nat) (s : State) : (markNonfinite dom s).units = s.units := by
  unfold markNonfinite
  dsimp only
  split <;> rfl

/-- An operation on a wide view in memory stores every seen element, leaves every other byte, and its units. -/
theorem wideOp_stores {put : Bool → VecSum → Nat → Nat → VecSum} {fin : VecSum → State} (hs : Sound s) (hv : td.stash = false)
    (hr : td.cols ≤ td.stride) (hput : StoresElement s td val (put false)) (hmem : ∀ t, (fin t).mem = t.s.mem)
    (hunits : ∀ t, (fin t).units = t.s.units) (u : UnitRef) :
    ElementsStored td val (seenCells td) s (wideOp u td s put fin).s ∧ (wideOp u td s put fin).s.units = s.units := by
  have hopen : openForWrite td s = .ready s false := by simp [openForWrite, hv]
  have hclose : ∀ z, closeWrite td false z = z := fun z => by simp [closeWrite, hv]
  obtain ⟨hdraws, hstored⟩ := foldl_storesElement hv hr hput (seenCells td) [] (nodup_seenCells td) (fun _ hc => hc) ⟨s, 0, 0, false⟩
    ⟨hs, rfl, rfl, rfl⟩ ⟨fun _ hc => absurd hc List.not_mem_nil, fun _ _ => rfl⟩
  simp only [wideOp, hopen, hclose]
  split
  · exact ⟨hstored.of_mem hv ((markNonfinite_mem _ _).trans (hmem _)), (markNonfinite_units _ _).trans ((hunits _).trans hdraws.units)⟩
  · exact ⟨hstored.of_mem hv (hmem _), (hunits _).trans hdraws.units⟩

/-! One element. -/

/-- The draws of a rounding mode other than the lanes' change one counter at most (R216). -/
theorem takeDraw_sameDraws {t : State} {d : DrawSrc} (hd : d.rnd < 2) (ht : SameDraws s t) (drew : Bool) :
    SameDraws s (takeDraw d drew t) ∧ (takeDraw d drew t).mem = t.mem := by
  have hsound := (keeps_takeDraw d drew t (keeps_refl t)).sound ht.sound
  have hcount : takeDraw d drew t = t ∨ takeDraw d drew t = bump t d.dom Reg.CG_DRAW_COUNT 1 := by
    unfold takeDraw
    split
    · exact .inl rfl
    · split
      · exact .inr rfl
      · omega
      · exact .inl rfl
  rcases hcount with h | h
  · rw [h]
    exact ⟨ht, rfl⟩
  · rw [h] at hsound ⊢
    have hkey : regKey porchDom Reg.CG_KEY_IN_FORCE ≠ regKey d.dom Reg.CG_DRAW_COUNT := fun e =>
      absurd ((regKey_inj (by decide) (by decide)).mp e).2 (by decide)
    exact ⟨⟨hsound, (getReg_setReg_ne ht.sound.regs _ hkey).trans ht.key, ht.pos, ht.units⟩, rfl⟩

/-- In nearest and in CG-stochastic mode the draw of an element does not depend on what was drawn before (R54, R199, R201). -/
theorem peekDraw_eq_drawAt {t : State} {d : DrawSrc} (hd : d.rnd < 2) (ht : SameDraws s t) (td : View) (i j : Nat) :
    peekDraw t d (roundPos t td i j) = drawAt s d.rnd td i j := by
  have hpos : roundPos t td i j = roundPos s td i j := by simp only [roundPos, stepNow, ht.pos]
  unfold peekDraw drawAt
  split
  · next h => rw [if_pos h, ht.key, hpos]
  · omega
  · next h _ => rw [if_neg h]

/-- vecPut stores the element's one rounding. -/
theorem vecPut_storesElement (hv : td.stash = false) {rnd : Nat} (hr : rnd < 2) (dom fn : Nat) (inBits : Nat → Nat → Nat)
    (res : Nat → Nat → VRes) :
    StoresElement s td (fun i j => (vopRound (vFmt td) fn (inBits i j) rnd (drawAt s rnd td i j) (res i j)).1.bits)
      (fun t i j => vecPut td (vectorLanes dom rnd) fn (inBits i j) false t i j (res i j)) := by
  intro t i j ht
  have hdraw := peekDraw_eq_drawAt (d := vectorLanes dom rnd) hr ht td i j
  obtain ⟨hdraws, hmem⟩ := takeDraw_sameDraws (d := vectorLanes dom rnd) hr ht
    (vopRound (vFmt td) fn (inBits i j) rnd (drawAt s rnd td i j) (res i j)).1.drew
  have hstate : (vecPut td (vectorLanes dom rnd) fn (inBits i j) false t i j (res i j)).s =
      writeNat (takeDraw (vectorLanes dom rnd) (vopRound (vFmt td) fn (inBits i j) rnd (drawAt s rnd td i j) (res i j)).1.drew t.s)
        (cellRange td (i, j)).1 (cellRange td (i, j)).2
        (vopRound (vFmt td) fn (inBits i j) rnd (drawAt s rnd td i j) (res i j)).1.bits := by
    simp only [vecPut, hdraw, widePut_eq_writeNat hv]
    rfl
  have hsound : Sound (vecPut td (vectorLanes dom rnd) fn (inBits i j) false t i j (res i j)).s :=
    (keeps_vecPut td _ fn _ false t i j _ (keeps_refl t.s)).sound ht.sound
  rw [hstate] at hsound ⊢
  exact ⟨⟨hsound, hdraws.key, hdraws.pos, hdraws.units⟩, writeNat_mem_congr hmem _ _ _⟩

end Sys2Proof.Machine
end

section
/-! VOP, DROP and ROT on a view in memory (R199, R261, R263, R264). -/
namespace Sys2Proof.Machine

/-! An operation that starts. -/

theorem begun_sound {s : State} (hs : Sound s) (u : UnitRef) (p : Plan) (h : (getUnit s u).inFlight.length < 32) : Sound (begun u p s) := by
  have hx := unitOk_getUnit u (keeps_refl s) hs
  refine (keeps_setUnit (x := unitBegun (getUnit s u) p) (fun _ => ⟨hx.g, hx.t, hx.k, hx.c, hx.st, ?_⟩) (keeps_refl s)).sound hs
  show ((getUnit s u).inFlight ++ [newOp p (getUnit s u).nextOp]).length ≤ 32
  rw [List.length_append]
  exact h

/-- A row's operation that starts has passed its checks, finds a sound state, and leaves what its plan says. -/
theorem exec_startsOp {s : State} (hs : Sound s) {u : UnitRef} {f : Fields} {e : Instr × OpDef} (he : e ∈ operationRows u f)
    (h : startsOp s u e.2 f) {p : Plan} (hp : planOf e.2 s u f = some p) :
    exec e.1 s = .next (started u p s) ∧ (∀ n ∈ p.checks, n = 0) ∧ Sound (begun u p s) := by
  obtain ⟨hready, q, hq, hstart⟩ := h
  obtain rfl : q = p := Option.some.inj (hq.symm.trans hp)
  obtain ⟨-, -, -, -, -, hexec⟩ := operationsAtIssue s u f hs e he q hp hready
  replace hexec := hexec hstart
  simp only [startsNow, mustWait, Bool.and_eq_true, Bool.not_eq_true', Bool.or_eq_false_iff, decide_eq_false_iff_not,
    decide_eq_true_eq] at hstart
  obtain ⟨⟨⟨⟨⟨⟨⟨hfew, -⟩, -⟩, hchecks⟩, -⟩, -⟩, -⟩, -⟩ := hstart
  exact ⟨hexec, fun n => firstFail_eq_zero hchecks, begun_sound hs u q (Nat.lt_of_not_le hfew)⟩

/-- The elements that an operation's run stores stand in memory when it has issued. -/
theorem started_stores {s : State} {u : UnitRef} {p : Plan} {td : View} {val : Nat → Nat → Nat} (hv : td.stash = false)
    (h : ElementsStored td val (seenCells td) (begun u p s) (p.run (getUnit s u).nextOp (begun u p s)).s) :
    (∀ i j, i < seenRows td → j < seenCols td → wideBits (started u p s) td i j = val i j % 256 ^ fmtBytes (vFmt td))
      ∧ ∀ c, outside (wideCells td) c → getByte (started u p s) c = getByte s c := by
  have hend : ElementsStored td val (seenCells td) (begun u p s) (started u p s) := h.of_mem hv (mapOp_mem _ _ _ _)
  refine ⟨fun i j hi hj => hend.value (i, j) (mem_seenCells.mpr ⟨hi, hj⟩), fun c hc => ?_⟩
  exact hend.frame c (by rwa [← wideCells_eq])

/-! VOP. -/

variable {s : State} {td : View}

/-- VOP's exact result for an element (R261). -/
def vopAt (s : State) (fn : Nat) (ta tb : View) (sc : FV) (i j : Nat) : VRes :=
  let b := if vopUsesB fn then wideGet s tb i (if seenCols tb = 1 then 0 else j) else .fin false 0
  if fn = 0x18 then vRowMax s.freeCtr (rowOf s ta i) else if fn = 0x19 then vRowSum (rowOf s ta i)
  else vopElem fn (wideGet s ta i j) b sc

/-- VOP's pattern for an element: its exact result, rounded once (R199, R261). -/
def vopBits (s : State) (fn rnd : Nat) (td ta tb : View) (sc : FV) (i j : Nat) : Nat :=
  (vopRound (vFmt td) fn (if vopIsRow fn then 0 else wideBits s ta i j) rnd (drawAt s rnd td i j) (vopAt s fn ta tb sc i j)).1.bits

theorem vopRun_stores (hs : Sound s) (hv : td.stash = false) (hstride : td.cols ≤ td.stride) {rnd : Nat} (hr : rnd < 2) (u : UnitRef)
    (fn : Nat) (ta tb : View) (sc : FV) :
    ElementsStored td (vopBits s fn rnd td ta tb sc) (seenCells td) s (vopRun u fn rnd td ta tb sc s).s := by
  have hput := vecPut_storesElement (s := s) hv hr u.dom fn (fun i j => if vopIsRow fn then 0 else wideBits s ta i j) (vopAt s fn ta tb sc)
  exact (wideOp_stores hs hv hstride hput (fun t => by split <;> rfl) (fun t => by split <;> rfl) u).1

/-! DROP. -/

/-- DROP's exact result for an element: gone, or scaled (R204, R264). -/
def dropAt (s : State) (site thr c : Nat) (td ts : View) (i j : Nat) : VRes :=
  if cgDraw24 (cg (cgKey s) (dropPos s td site i j)) < thr then .zero false else vMul (wideGet s ts i j) (fvRead .fp32 c)

theorem dropRun_stores (hs : Sound s) (hv : td.stash = false) (hstride : td.cols ≤ td.stride) (u : UnitRef) (site thr c : Nat) (ts : View) :
    ElementsStored td (fun i j => (vopRound (vFmt td) 0 0 0 none (dropAt s site thr c td ts i j)).1.bits) (seenCells td) s
      (dropRun u site thr c td ts s).s := by
  have hput := vecPut_storesElement (s := s) hv (show 0 < 2 by decide) u.dom 0 (fun _ _ => 0) (dropAt s site thr c td ts)
  refine (wideOp_stores hs hv hstride (fun t i j ht => ?_) (fun _ => rfl) (fun _ => rfl) u).1
  simpa only [dropAt, drawAt, decide_eq_true_eq, Nat.zero_ne_one, if_false] using hput t i j ht

/-- A G register holds 64 bits (R237). -/
theorem gReg_lt (x : ProgUnit) (n : Nat) : gReg x n < 2 ^ 64 := by
  unfold gReg
  split
  · decide
  · exact BitVec.isLt _

/-! ROT. -/

/-- A register file of 32 reads what was written to it, and elsewhere what it held. -/
theorem tReg_setT {x : ProgUnit} (hx : x.t.length = 32) {n : Nat} (hn : n < 32) (m v : Nat) :
    tReg (setT x n v) m = if m = n then (BitVec.ofNat 512 v).toNat else tReg x m := by
  simp only [tReg, setT]
  by_cases h : m = n
  · subst h
    rw [if_pos rfl, List.getD_eq_getElem?_getD, List.getElem?_set_self (by omega), Option.getD_some]
  · rw [if_neg h]
    simp [List.getD_eq_getElem?_getD, Ne.symm h]

/-- A register that has the fields of a tag holds the whole tag (R239, R263). -/
theorem toNat_ofNat_rotTag {w : Nat} (hw : 415 < w) (d : BitVec w) (a : RotArgs) (turned : Bool) :
    (BitVec.ofNat w (rotTag d.toNat a turned)).toNat = rotTag d.toNat a turned := by
  rw [BitVec.toNat_ofNat]
  refine Nat.mod_eq_of_lt ?_
  unfold rotTag tagDesc
  split
  · exact setFld_lt d.isLt (by omega) (by decide)
  · exact setFld_lt (setFld_lt d.isLt (by omega) (by decide)) hw (by decide)

/-- ROT's pattern for an element: its place in the rotated block, rounded once to FP32 (R114 to R117, R263). -/
def rotBits (s : State) (a : RotArgs) (ts : View) (i j : Nat) : Nat :=
  let b := rotBlock s ts a (storedAt ts i j).1 (storedAt ts i j).2
  (vopRound .fp32 0 0 0 none (rotOut (cgKey s) a b.2.1 b.2.2 b.1)).1.bits

/-- The state in which ROT runs: register td holds its new tag (R263). -/
def rotTagged (s : State) (u : UnitRef) (reg : Nat) (a : RotArgs) (turned : Bool) : State :=
  setUnit s (setT (getUnit s u) reg (rotTag (tReg (getUnit s u) reg) a turned))

theorem rotTagged_sound (hs : Sound s) (u : UnitRef) (reg : Nat) (a : RotArgs) (turned : Bool) : Sound (rotTagged s u reg a turned) :=
  (keeps_setUnit (unitOk_setT _ _ (unitOk_getUnit u (keeps_refl s))) (keeps_refl s)).sound hs

theorem getUnit_rotTagged (s : State) (u : UnitRef) (reg : Nat) (a : RotArgs) (turned : Bool) :
    getUnit (rotTagged s u reg a turned) u = setT (getUnit s u) reg (rotTag (tReg (getUnit s u) reg) a turned) :=
  getUnit_setUnit_of_ref s (x := setT (getUnit s u) reg (rotTag (tReg (getUnit s u) reg) a turned)) (getUnit_ref s u)

/-- ROT stores its elements, and of its unit's registers changes td's alone. -/
theorem rotRun_stores (hs : Sound s) (hv : td.stash = false) (hstride : td.cols ≤ td.stride) (hf : vFmt td = .fp32) (u : UnitRef) (reg : Nat)
    (a : RotArgs) (ts : View) :
    ElementsStored td (rotBits s a ts) (seenCells td) s (rotRun u reg a td ts s).s
      ∧ getUnit (rotRun u reg a td ts s).s u = setT (getUnit s u) reg (rotTag (tReg (getUnit s u) reg) a (ts.t != td.t)) := by
  have hput := vecPut_storesElement (s := rotTagged s u reg a (ts.t != td.t)) hv (show 0 < 2 by decide) u.dom 0 (fun _ _ => 0) fun i j =>
    let b := rotBlock s ts a (storedAt ts i j).1 (storedAt ts i j).2
    rotOut (cgKey s) a b.2.1 b.2.2 b.1
  rw [hf] at hput
  have hrun : ElementsStored td (rotBits s a ts) (seenCells td) (rotTagged s u reg a (ts.t != td.t)) (rotRun u reg a td ts s).s
      ∧ (rotRun u reg a td ts s).s.units = (rotTagged s u reg a (ts.t != td.t)).units :=
    wideOp_stores (rotTagged_sound hs u reg a _) hv hstride hput (fun t => by split <;> rfl) (fun t => by split <;> rfl) u
  obtain ⟨⟨hvalue, hframe⟩, hunits⟩ := hrun
  exact ⟨⟨hvalue, hframe⟩, (getUnit_eq_of_units hunits u).trans (getUnit_rotTagged s u reg a _)⟩

theorem getUnit_mapOp (u : UnitRef) (id : Nat) (g : Op → Op) (s : State) :
    getUnit (mapOp u id g s) u =
      { getUnit s u with inFlight := (getUnit s u).inFlight.map fun o => if o.id = id then g o else o } :=
  getUnit_setUnit_of_ref s (x := { getUnit s u with inFlight := (getUnit s u).inFlight.map fun o => if o.id = id then g o else o })
    (getUnit_ref s u)

/-- Noting an operation's outcome leaves its unit's T registers. -/
theorem tReg_settle (u : UnitRef) (id : Nat) (e : Effect) (n : Nat) : tReg (getUnit (settle u id e) u) n = tReg (getUnit e.s u) n := by
  rw [settle, getUnit_mapOp]
  rfl

theorem rotPlan_run (s z : State) (u : UnitRef) (f1 f2 f3 low id : Nat) :
    (rotPlan s (getUnit s u) f1 f2 f3 low).run id z
      = rotRun u f1 ⟨fld low 3 0, fld low 4 4, bitAt low 5, fld low 6 6, gReg (getUnit s u) f3 % 2 ^ 32⟩ (viewOf (tReg (getUnit s u) f1))
        (viewOf (tReg (getUnit s u) f2)) z := by
  simp only [rotPlan, getUnit_ref]

/-- A ROT that has issued leaves its tag in register td, and the unit's other T registers (R263). -/
theorem tReg_started_rot (hs : Sound s) {u : UnitRef} {p : Plan} {reg : Nat} (hreg : reg < 32) {a : RotArgs} {turned : Bool}
    (h : getUnit (p.run (getUnit s u).nextOp (begun u p s)).s u
      = setT (getUnit (begun u p s) u) reg (rotTag (tReg (getUnit (begun u p s) u) reg) a turned)) (n : Nat) :
    tReg (getUnit (started u p s) u) n
      = if n = reg then rotTag (tReg (getUnit s u) reg) a turned else tReg (getUnit s u) n := by
  have hsame : ∀ m, tReg (getUnit (begun u p s) u) m = tReg (getUnit s u) m := fun m => by rw [getUnit_begun]; rfl
  have hlen : (getUnit (begun u p s) u).t.length = 32 := by
    rw [getUnit_begun]
    exact (unitOk_getUnit u (keeps_refl s) hs).t
  rw [started, tReg_settle, h, tReg_setT hlen hreg, hsame, hsame, tReg, toNat_ofNat_rotTag (by decide)]

end Sys2Proof.Machine

namespace Sys2Proof.Machine

/-- Settles O14: each of the three stores its elements one by one, with inputs and draws as they stood at issue. -/
theorem vectorResults : Obligations.VectorResults := by
  intro s u f hs x low td ts top hv
  refine ⟨fun h hrnd => ?_, fun h => ?_, fun h => ?_⟩
  · obtain ⟨hexec, hchecks, hbegun⟩ := exec_startsOp (e := (.vop u f, vopDef)) hs (by simp [operationRows]) h
      (p := vopPlan s x (slotF1 f) (slotF2 f) (slotF3 f) (slotF4 f) (lowOf f)) rfl
    have hview : ∀ n ∈ viewCheck s td fmtWide true, n = 0 := fun n hn => hchecks n (by simp [vopPlan, hn, td])
    have hstride := viewCheck_stride (fun _ hg => hg) hview
    exact ⟨_, hexec, started_stores hv (vopRun_stores hbegun hv hstride hrnd _ _ _ _ _)⟩
  · obtain ⟨hexec, hchecks, hbegun⟩ := exec_startsOp (e := (.drop u f, dropDef)) hs (by simp [operationRows]) h
      (p := dropPlan s x (slotF1 f) (slotF2 f) (slotF3 f) (slotF4 f)) rfl
    have hview : ∀ n ∈ viewCheck s td fmtWide true, n = 0 := fun n hn => hchecks n (by simp [dropPlan, hn, td])
    have hstride := viewCheck_stride (fun _ hg => hg) hview
    intro gT
    have hscale : gT / 2 ^ 32 = fld gT 63 32 := by
      have hlt : gT < 2 ^ 64 := gReg_lt x (slotF4 f)
      rw [fld, Nat.shiftRight_eq_div_pow, Nat.mod_eq_of_lt (by omega)]
    rw [hscale]
    exact ⟨_, hexec, started_stores hv (dropRun_stores hbegun hv hstride _ _ _ _ _)⟩
  · intro a
    obtain ⟨hexec, hchecks, hbegun⟩ := exec_startsOp (e := (.rot u f, rotDef)) hs (by simp [operationRows]) h
      (p := rotPlan s x (slotF1 f) (slotF2 f) (slotF3 f) (lowOf f)) rfl
    have hview : ∀ n ∈ viewCheck s td (fun g => g = .fp32) true, n = 0 := fun n hn => hchecks n (by simp [rotPlan, hn, td])
    have hf : vFmt td = .fp32 := of_decide_eq_true (viewCheck_format hview)
    have hstride := viewCheck_stride (fun g hg => by rw [of_decide_eq_true hg]; rfl) hview
    obtain ⟨hstored, hunit⟩ := rotRun_stores hbegun hv hstride hf u (slotF1 f) a ts
    obtain ⟨hvalue, hframe⟩ := started_stores hv (by rw [rotPlan_run]; exact hstored)
    rw [hf] at hvalue
    have htag := tReg_started_rot hs (fld_lt _ _ _) (by rw [rotPlan_run]; exact hunit)
    refine ⟨_, hexec, fun i j hi hj => ?_, hframe, ?_, fun n hn => ?_⟩
    · exact hvalue i j hi hj
    · exact (htag _).trans (if_pos rfl)
    · exact (htag n).trans (if_neg hn)

end Sys2Proof.Machine
end

section
/-! Register files of a unit and the functions on words (R237, R239, R250, R251). -/
namespace Sys2Proof.Machine

/-! Bits of a number with one field set. -/

theorem bitAt_eq_testBit (n i : Nat) : bitAt n i = n.testBit i := by
  have h : i + 1 - i = 1 := by omega
  rw [bitAt, fld, h, Nat.testBit_eq_decide_div_mod_eq, Nat.shiftRight_eq_div_pow, Nat.pow_one]

/-- Inside the field the bits of the value, outside it the bits that stood there. -/
theorem testBit_setFld {hi lo : Nat} (h : lo ≤ hi) (n v i : Nat) :
    (setFld n hi lo v).testBit i = if lo ≤ i ∧ i ≤ hi then v.testBit (i - lo) else n.testBit i := by
  have hlow : n % 2 ^ lo < 2 ^ lo := Nat.mod_lt _ (Nat.two_pow_pos _)
  have hmid : v % 2 ^ (hi + 1 - lo) < 2 ^ (hi + 1 - lo) := Nat.mod_lt _ (Nat.two_pow_pos _)
  rw [setFld_split, Nat.mul_comm _ (2 ^ lo), Nat.testBit_two_pow_mul_add _ hlow, Nat.mul_comm _ (2 ^ (hi + 1 - lo)),
    Nat.testBit_two_pow_mul_add _ hmid]
  simp only [Nat.testBit_mod_two_pow, Nat.testBit_div_two_pow]
  by_cases hl : i < lo
  · rw [if_pos hl, if_neg (by omega), decide_eq_true hl, Bool.true_and]
  by_cases hh : i ≤ hi
  · rw [if_neg hl, if_pos (by omega), if_pos (by omega), decide_eq_true (by omega), Bool.true_and]
  · rw [if_neg hl, if_neg (by omega), if_neg (by omega)]
    congr 1
    omega

theorem bitAt_setFld_outside {hi lo i : Nat} (h : lo ≤ hi) (n v : Nat) (hi' : i < lo ∨ hi < i) :
    bitAt (setFld n hi lo v) i = bitAt n i := by
  rw [bitAt_eq_testBit, bitAt_eq_testBit, testBit_setFld h, if_neg (by omega)]

/-- A word with one field set is that word again. -/
theorem toNat_ofNat_setFld {w : Nat} (d : BitVec w) {hi lo : Nat} (hle : lo ≤ hi) (hlt : hi < w) (v : Nat) :
    (BitVec.ofNat w (setFld d.toNat hi lo v)).toNat = setFld d.toNat hi lo v := by
  rw [BitVec.toNat_ofNat, Nat.mod_eq_of_lt (setFld_lt d.isLt hlt hle)]

/-! Reads of a unit's register files after a write (R237). -/

theorem getD_set {α : Type} {l : List α} {n : Nat} (hn : n < l.length) (m : Nat) (v d : α) :
    (l.set n v).getD m d = if m = n then v else l.getD m d := by
  by_cases h : m = n
  · subst h
    rw [if_pos rfl, List.getD_eq_getElem?_getD, List.getElem?_set_self hn, Option.getD_some]
  · rw [if_neg h, List.getD_eq_getElem?_getD, List.getElem?_set_ne (Ne.symm h), ← List.getD_eq_getElem?_getD]

section
variable {x : ProgUnit} (hx : UnitSound x) (m : Nat)
include hx

theorem gWord_setG {n : Nat} (hn : n < 32) (v : Nat) :
    gWord (setG x n v) m = if m = n ∧ m ≠ 0 then BitVec.ofNat 64 v else gWord x m := by
  by_cases h0 : n = 0
  · subst h0
    rw [setG_zero, if_neg (by omega)]
  · rw [gWord, gReg_setG hx.g h0 hn]
    by_cases h : m = n
    · rw [if_pos h, if_pos ⟨h, by omega⟩]
      exact BitVec.eq_of_toNat_eq (by simp)
    · rw [if_neg h, if_neg (by omega), gWord]

theorem kReg_setK {n : Nat} (hn : n < 16) (v : Nat) : kReg (setK x n v) m = if m = n then v % 2 ^ 32 else kReg x m := by
  rw [kReg, setK, getD_set (by rw [hx.k]; exact hn), apply_ite BitVec.toNat, BitVec.toNat_ofNat]
  rfl

theorem cReg_setC {n : Nat} (hn : n < 16) (v : Nat) : cReg (setC x n v) m = if m = n then v % 2 ^ 64 else cReg x m := by
  rw [cReg, setC, getD_set (by rw [hx.c]; exact hn), apply_ite BitVec.toNat, BitVec.toNat_ofNat]
  rfl

/-- A descriptor with one field set is read back whole (R239). -/
theorem tReg_setT_setFld {n : Nat} (hn : n < 32) {hi lo : Nat} (hle : lo ≤ hi) (hlt : hi < 512) (v : Nat) :
    tReg (setT x n (setFld (tReg x n) hi lo v)) m = if m = n then setFld (tReg x n) hi lo v else tReg x m := by
  have hword : (BitVec.ofNat 512 (setFld (tReg x n) hi lo v)).toNat = setFld (tReg x n) hi lo v :=
    toNat_ofNat_setFld (x.t.getD n 0) hle hlt v
  rw [tReg_setT hx.t hn, hword]

theorem stReg_setSt {n : Nat} (hn : n < 4) (v : Pos) : stReg (setSt x n v) m = if m = n then v else stReg x m :=
  getD_set (by rw [hx.st]; exact hn) m v 0

end

theorem pReg_setP (x : ProgUnit) {n : Nat} (m : Nat) (hn : n < 8) (b : Bool) :
    pReg (setP x n b) m = if m = n ∧ m ≠ 0 then b else pReg x m := by
  by_cases h0 : n = 0
  · subst h0
    rw [setP_zero, if_neg (by omega)]
  have hp : pReg (setP x n b) m = (m == 0 || bitAt (setFld x.p.toNat n n (b2n b)) m) := by
    simp only [pReg, setP, if_neg h0, toNat_ofNat_setFld x.p (Nat.le_refl n) hn]
  rw [hp]
  by_cases h : m = n
  · subst h
    rw [if_pos ⟨rfl, h0⟩, bitAt_eq_testBit, testBit_setFld (Nat.le_refl m), if_pos ⟨Nat.le_refl m, Nat.le_refl m⟩, Nat.sub_self,
      beq_false_of_ne h0, Bool.false_or]
    cases b <;> rfl
  · rw [if_neg (by omega), bitAt_setFld_outside (Nat.le_refl n) _ _ (by omega), pReg]

theorem toNat_gWord (x : ProgUnit) (n : Nat) : (gWord x n).toNat = gReg x n := by
  rw [gWord, BitVec.toNat_ofNat, Nat.mod_eq_of_lt (gReg_lt x n)]

/-! The functions of the control family on words (R250, R251). -/

theorem wrapInt_sext {w : Nat} (hw : 0 < w) (n : Nat) : wrapInt 64 (sext w n) = ((BitVec.ofNat w n).signExtend 64).toNat := by
  rw [sext_eq_toInt hw, BitVec.signExtend, BitVec.toNat_ofInt]
  rfl

theorem sext_toNat (a : Word) : sext 64 a.toNat = a.toInt := by
  rw [sext_eq_toInt (by decide), BitVec.ofNat_toNat, BitVec.setWidth_eq]

/-- GOP on the numbers of two words is GOP on the words. -/
theorem gopFn_words (fn : Nat) (a b : Word) : gopFn fn a.toNat b.toNat = (gopWord fn a b).map BitVec.toNat := by
  match fn with
  | 0x00 => exact congrArg some (BitVec.toNat_add a b).symm
  | 0x01 => exact congrArg some (by rw [BitVec.toNat_sub, Nat.mod_eq_of_lt b.isLt, Nat.add_comm])
  | 0x02 => exact congrArg some (BitVec.toNat_and a b).symm
  | 0x03 => exact congrArg some (BitVec.toNat_or a b).symm
  | 0x04 => exact congrArg some (BitVec.toNat_xor a b).symm
  | 0x05 => exact congrArg some (by rw [BitVec.toNat_shiftLeft, Nat.shiftLeft_eq])
  | 0x06 => exact congrArg some (by rw [BitVec.toNat_ushiftRight, Nat.shiftRight_eq_div_pow])
  | 0x07 => exact congrArg some (by rw [BitVec.sshiftRight_eq, Int.shiftRight_eq_div_pow, BitVec.toNat_ofInt, sext_toNat, wrapInt])
  | 0x08 => exact congrArg some (BitVec.toNat_mul a b).symm
  | 0x09 => exact congrArg some (by rw [apply_ite BitVec.toNat, Nat.min_def])
  | 0x0A => exact congrArg some (by rw [apply_ite BitVec.toNat, Nat.max_def])
  | 0x0B =>
    refine congrArg some ?_
    split
    · next h => subst h; exact Nat.div_zero _
    · rw [BitVec.toNat_udiv]
  | k + 12 => rfl

/-- PSET on the numbers of two words is PSET on the words. -/
theorem cmpFn_words (cmp : Nat) (a b : Word) : cmpFn cmp a.toNat b.toNat = cmpWord cmp a b := by
  match cmp with
  | 0 => exact congrArg some (decide_eq_decide.mpr BitVec.toNat_inj)
  | 1 => exact congrArg some (decide_eq_decide.mpr (not_congr BitVec.toNat_inj))
  | 2 | 3 => simp only [cmpFn, cmpWord]
  | 4 | 5 => simp only [cmpFn, cmpWord, sext_toNat]
  | k + 6 => exact (cmpFn_reserved (by omega) _ _).trans rfl

end Sys2Proof.Machine
end

section
/-! Control instructions that touch no memory (R244, R250, R251). -/
namespace Sys2Proof.Machine

/-! How a control instruction of a ready unit completes (R244, R250). -/

theorem ready_ended {s : State} {u : UnitRef} {d : OpDef} {f : Fields} (h : ready s u d f = true) : (getUnit s u).ended = false := by
  simp only [ready, Bool.and_eq_true] at h
  obtain ⟨⟨⟨⟨⟨⟨hm, -⟩, -⟩, -⟩, -⟩, -⟩, -⟩ := h
  exact mayIssue_ended hm

/-- A control instruction that is done leaves the module with its unit written, and nothing else of it changed. -/
theorem control_completes {s : State} {u : UnitRef} {f : Fields} {e : Instr × OpDef} {g : State → ProgUnit → Fields → Ctl} {y : ProgUnit}
    {Q : State → Prop} (he : e ∈ rhoacRows u f) (hb : e.2.body = .control g) (hr : ready s u e.2 f = true)
    (hg : g s (getUnit s u) f = .done (setUnit s y)) (hy : y.ref = u) (hQ : ∀ t, getUnit t u = y → Q t) :
    ∃ t, exec e.1 s = .next t ∧ sameButUnit u s t ∧ Q t := by
  refine ⟨_, ?_, sameButUnit_setUnit s hy, hQ _ (getUnit_setUnit_of_ref s hy)⟩
  rw [(rhoacRows_issue u f e he).exec, issue_control hr hb, hg]

/-- A unit that differs in its register files alone goes on to its next word. -/
theorem wentOn_advance {x z : ProgUnit} (hx : x.ended = false)
    (hz : { z with g := x.g, t := x.t, k := x.k, c := x.c, p := x.p, st := x.st } = x) : wentOn x (advance z 1) := by
  have hpc : z.pc = x.pc := (congrArg ProgUnit.pc hz :)
  have hstore : z.store = x.store := (congrArg ProgUnit.store hz :)
  have hended : z.ended = x.ended := (congrArg ProgUnit.ended hz :)
  refine ⟨?_, ?_, ?_⟩
  · rw [advance, hpc]
  · rw [advance, hpc, hstore, hended, hx, Bool.false_or]
  · rw [← hpc, ← hended]
    exact hz

theorem wroteG_setG {x : ProgUnit} (hx : UnitSound x) (he : x.ended = false) {n : Nat} (hn : n < 32) (v : Nat) :
    wroteG n (BitVec.ofNat 64 v) x (advance (setG x n v) 1) := by
  have hfiles : { setG x n v with g := x.g, t := x.t, k := x.k, c := x.c, p := x.p, st := x.st } = x
      ∧ (setG x n v).t = x.t ∧ (setG x n v).k = x.k ∧ (setG x n v).c = x.c ∧ (setG x n v).p = x.p ∧ (setG x n v).st = x.st := by
    unfold setG
    split <;> exact ⟨rfl, rfl, rfl, rfl, rfl, rfl⟩
  obtain ⟨hrest, hkept⟩ := hfiles
  exact ⟨wentOn_advance he hrest, fun m => gWord_setG hx m hn v, hkept⟩

theorem wentOn_setP {x : ProgUnit} (he : x.ended = false) (n : Nat) (b : Bool) :
    let y := advance (setP x n b) 1
    wentOn x y ∧ y.g = x.g ∧ y.t = x.t ∧ y.k = x.k ∧ y.c = x.c ∧ y.st = x.st := by
  have hfiles : { setP x n b with g := x.g, t := x.t, k := x.k, c := x.c, p := x.p, st := x.st } = x
      ∧ (setP x n b).g = x.g ∧ (setP x n b).t = x.t ∧ (setP x n b).k = x.k ∧ (setP x n b).c = x.c ∧ (setP x n b).st = x.st := by
    unfold setP
    split <;> exact ⟨rfl, rfl, rfl, rfl, rfl, rfl⟩
  obtain ⟨hrest, hkept⟩ := hfiles
  exact ⟨wentOn_advance he hrest, hkept⟩

section
variable {s : State} {u : UnitRef} {f : Fields} {e : Instr × OpDef} {g : State → ProgUnit → Fields → Ctl}

/-- A control instruction that writes registers of its unit goes on with them written. -/
theorem control_goesOn {z : ProgUnit} {Q : State → Prop} (he : e ∈ rhoacRows u f) (hb : e.2.body = .control g)
    (hr : ready s u e.2 f = true) (hg : g s (getUnit s u) f = goOn s z) (hz : z.ref = (getUnit s u).ref)
    (hQ : ∀ t, getUnit t u = advance z 1 → Q t) : ∃ t, exec e.1 s = .next t ∧ sameButUnit u s t ∧ Q t :=
  control_completes he hb hr hg (hz.trans (getUnit_ref s u)) hQ

/-- A control instruction whose result is a g register (R237, R250). -/
theorem control_writesG (hs : Sound s) (he : e ∈ rhoacRows u f) (hb : e.2.body = .control g) (hr : ready s u e.2 f = true) {v : Nat}
    (hg : g s (getUnit s u) f = goOn s (setG (getUnit s u) (slotF1 f) v)) :
    ∃ t, exec e.1 s = .next t ∧ sameButUnit u s t ∧ wroteG (slotF1 f) (BitVec.ofNat 64 v) (getUnit s u) (getUnit t u) := by
  refine control_goesOn he hb hr hg (setG_ref _ _ _) fun t ht => ?_
  rw [ht]
  exact wroteG_setG (unitOk_getUnit u (keeps_refl s) hs) (ready_ended hr) (fld_lt _ _ _) v

end

/-! What each control instruction does (R250, R251). -/

section
variable {s : State} {x : ProgUnit} {f : Fields}

theorem brCtl_inside {target : Nat} (ht : (target : Int) = (x.pc : Int) + (BitVec.ofNat 22 f.toNat).toInt) (hl : target < x.store.length) :
    brCtl s x f = .done (setUnit s { x with pc := target }) := by
  rw [brCtl, immOff_eq, ← ht, if_pos (by omega), Int.toNat_natCast]

theorem immLi_wrapped (f : Fields) : wrapInt 64 (immLi f) = ((BitVec.ofNat 47 f.toNat).signExtend 64).toNat := wrapInt_sext (by decide) _

theorem immGopi_wrapped (f : Fields) : wrapInt 64 (immGopi f) = ((BitVec.ofNat 36 (f.toNat / 64)).signExtend 64).toNat := by
  have hfield : BitVec.ofNat 36 (fld f.toNat 41 6) = BitVec.ofNat 36 (f.toNat / 64) :=
    BitVec.eq_of_toNat_eq (by simp [fld, Nat.shiftRight_eq_div_pow])
  rw [immGopi, wrapInt_sext (by decide), hfield]

theorem gopCtl_word {v : Word} (h : gopWord (f.toNat % 64) (gWord x (slotF2 f)) (gWord x (slotF3 f)) = some v) :
    gopCtl s x f = goOn s (setG x (slotF1 f) v.toNat) := by
  rw [gopCtl, fnOf_eq, ← toNat_gWord, ← toNat_gWord, gopFn_words, h]
  rfl

theorem gopiCtl_word {v : Word}
    (h : gopWord (f.toNat % 64) (gWord x (slotF2 f)) ((BitVec.ofNat 36 (f.toNat / 64)).signExtend 64) = some v) :
    gopiCtl s x f = goOn s (setG x (slotF1 f) v.toNat) := by
  rw [gopiCtl, fnOf_eq, ← toNat_gWord, immGopi_wrapped, gopFn_words, h]
  rfl

theorem psetCtl_word {v : Bool} (h : cmpWord (f.toNat % 8) (gWord x (slotF2 f)) (gWord x (slotF3 f)) = some v) :
    psetCtl s x f = goOn s (setP x (slotF1 f % 8) v) := by
  rw [psetCtl, fld_low_three, ← toNat_gWord, ← toNat_gWord, cmpFn_words, h]

/-- The fields of DSET lie where the table has them, inside a descriptor (R239). -/
theorem dsetField_table {code hi lo : Nat} (h : (code, hi, lo) ∈ dsetTable) : dsetField code = some (hi, lo) ∧ lo ≤ hi ∧ hi < 512 := by
  have hall : ∀ e ∈ dsetTable, dsetField e.1 = some e.2 ∧ e.2.2 ≤ e.2.1 ∧ e.2.1 < 512 := by decide
  exact hall _ h

/-- DSET of a listed field: the field alone is replaced. -/
theorem dsetCtl_field {hi lo : Nat} (h : dsetField (f.toNat % 16) = some (hi, lo)) :
    dsetCtl s x f = goOn s (setT x (slotF1 f) (setFld (tReg x (slotF1 f)) hi lo
      (gReg x (slotF2 f) + if bitAt f.toNat 4 then fld (tReg x (slotF1 f)) hi lo else 0))) := by
  rw [dsetCtl, fld_low_four, dsetDesc, h]
  cases bitAt f.toNat 4
  · rfl
  · rw [if_pos rfl, Nat.add_comm]
    rfl

end

/-- Settles O7: each instruction completes with its unit written, and each register file reads after that write as its clause says. -/
theorem controlRegisterResults : Obligations.ControlRegisterResults := by
  intro s u f hs x d a b
  have hx : UnitSound x := unitOk_getUnit u (keeps_refl s) hs
  have hA : a.toNat = gReg x (slotF2 f) := toNat_gWord x _
  refine ⟨fun hr => ?nop, fun hr => ?endProg, fun hr target ht hl => ?br, fun hr => ?li, fun hr v hv => ?gop, fun hr v hv => ?gopi,
    fun hr => ?kget, fun hr v hv => ?pset, fun hr => ?kset, fun hr => ?cset, fun hr => ?strd, fun hr hi lo hmem => ?dset⟩
  case nop =>
    refine control_goesOn (e := (.nop u f, nopDef)) (by simp [rhoacRows]) rfl hr rfl rfl fun t ht => ?_
    rw [ht]
    exact keptFiles_advance (ready_ended hr)
  case endProg =>
    exact control_completes (e := (.endProg u f, endDef)) (by simp [rhoacRows]) rfl hr rfl (getUnit_ref s u) fun _ ht => ht
  case br =>
    exact control_completes (e := (.br u f, brDef)) (by simp [rhoacRows]) rfl hr (brCtl_inside ht hl) (getUnit_ref s u) fun _ ht => ht
  case li =>
    have h := control_writesG (e := (.li u f, liDef)) hs (by simp [rhoacRows]) rfl hr rfl
    rwa [immLi_wrapped, BitVec.ofNat_toNat, BitVec.setWidth_eq] at h
  case gop =>
    have h := control_writesG (e := (.gop u f, gopDef)) hs (by simp [rhoacRows]) rfl hr (gopCtl_word hv)
    rwa [BitVec.ofNat_toNat, BitVec.setWidth_eq] at h
  case gopi =>
    have h := control_writesG (e := (.gopi u f, gopiDef)) hs (by simp [rhoacRows]) rfl hr (gopiCtl_word hv)
    rwa [BitVec.ofNat_toNat, BitVec.setWidth_eq] at h
  case kget =>
    exact control_writesG (e := (.kget u f, kgetDef)) hs (by simp [rhoacRows]) rfl hr rfl
  case pset =>
    refine control_goesOn (e := (.pset u f, psetDef)) (by simp [rhoacRows]) rfl hr (psetCtl_word hv) (setP_ref _ _ _) fun t ht => ?_
    obtain ⟨hwent, hkept⟩ := wentOn_setP (ready_ended hr) (d % 8) v
    rw [ht]
    exact ⟨hwent, fun m _ => pReg_setP x m (Nat.mod_lt _ (by decide)) v, hkept⟩
  case kset =>
    refine control_goesOn (e := (.kset u f, ksetDef)) (by simp [rhoacRows]) rfl hr rfl rfl fun t ht => ?_
    rw [ht, hA]
    refine ⟨wentOn_advance (ready_ended hr) rfl, fun m => ?_, rfl, rfl, rfl, rfl, rfl⟩
    exact (kReg_setK hx m (Nat.mod_lt _ (by decide)) _).trans (by rw [Nat.mod_mod])
  case cset =>
    refine control_goesOn (e := (.cset u f, csetDef)) (by simp [rhoacRows]) rfl hr rfl rfl fun t ht => ?_
    rw [ht, hA]
    refine ⟨wentOn_advance (ready_ended hr) rfl, fun m => ?_, rfl, rfl, rfl, rfl, rfl⟩
    exact (cReg_setC hx m (Nat.mod_lt _ (by decide)) _).trans (by rw [Nat.mod_eq_of_lt (gReg_lt x _)])
  case strd =>
    refine control_goesOn (e := (.strd u f, strdDef)) (by simp [rhoacRows]) rfl hr rfl rfl fun t ht => ?_
    rw [ht]
    exact ⟨wentOn_advance (ready_ended hr) rfl, fun m => stReg_setSt hx m (Nat.mod_lt _ (by decide)) _, rfl, rfl, rfl, rfl, rfl⟩
  case dset =>
    obtain ⟨hfield, hle, hlt⟩ := dsetField_table hmem
    refine control_goesOn (e := (.dset u f, dsetDef)) (by simp [rhoacRows]) rfl hr (dsetCtl_field hfield) rfl fun t ht => ?_
    have hread := fun m => tReg_setT_setFld hx m (fld_lt f.toNat 51 47) hle hlt
    rw [ht, hA]
    refine ⟨wentOn_advance (ready_ended hr) rfl, ?_, fun i hi => ?_, fun m hm => ?_, rfl, rfl, rfl, rfl, rfl⟩
    · exact (congrArg (fld · hi lo) ((hread d _).trans (if_pos rfl))).trans (fld_setFld_same _ _ _ _)
    · exact (congrArg (bitAt · i) ((hread d _).trans (if_pos rfl))).trans (bitAt_setFld_outside hle _ _ hi)
    · exact (hread m _).trans (if_neg hm)

end Sys2Proof.Machine
end

section
/-! Loads (R36, R44, R238, R250, R251). -/
namespace Sys2Proof.Machine

/-! What a load finds (R36, R44, R251). -/

section
variable {s : State} {a n : Nat}

/-- The first bytes of a mapped range are mapped. -/
theorem memMapped_shorter {m : Nat} (hm : m ≤ n) (h : memMapped s a n = true) : memMapped s a m = true := by
  simp only [memMapped, Bool.or_eq_true, decide_eq_true_eq] at h ⊢
  rcases h with (h0 | hhbm) | hsram
  · exact .inl (.inl (by omega))
  · exact .inl (.inr (by omega))
  · refine .inr ?_
    cases hd : sramDom a with
    | none => simp [hd] at hsram
    | some d =>
      simp only [hd, Bool.and_eq_true, decide_eq_true_eq] at hsram ⊢
      obtain ⟨hfit, hend⟩ := hsram
      exact ⟨hfit, by omega⟩

theorem refusedAddr_memory (hn : 0 < n) (h : memMapped s a n = true) : refusedAddr s a = false := by
  rw [refusedAddr, memMapped_shorter hn h]
  rfl

theorem refusedAddr_control {dom off : Nat} (hc : controlAt a = some (dom, off)) (hf : isFitted s dom = true) :
    refusedAddr s a = false := by
  simp only [refusedAddr, hc, hf, Bool.not_true, Bool.and_false]

theorem refusedAddr_letterbox {o b off : Nat} (hc : controlAt a = none) (hb : boxAt s a = some (o, b, off)) :
    refusedAddr s a = false := by
  simp only [refusedAddr, hc, hb, Option.isNone_some, Bool.and_false]

/-- A read of a register of a domain that is awake, not of the Porch, does nothing else. -/
theorem readControl_awake {dom off : Nat} (hp : dom ≠ porchDom) (ho : off < 0x8000000) (hl : (getLp s dom).state = 0) :
    readControl dom off s = ⟨s, (regView s dom off).toNat⟩ := by
  have hfile : filePage dom off = false := by
    rw [filePage, decide_eq_false (Nat.not_le_of_lt ho), Bool.and_false]
  simp [readControl, hfile, wakeAccess_awake hl, hp]

/-- A load keeps every bit of its bytes. -/
theorem toNat_ofNat_readNat (s : State) (a : Nat) {w n : Nat} (hw : w = 8 * n) :
    (BitVec.ofNat w (readNat s a n)).toNat = readNat s a n := by
  have hbytes : readNat s a n < 256 ^ n := readNat_lt s a n
  have hbits : (256 : Nat) ^ n = 2 ^ w := by rw [hw, Nat.pow_mul]
  rw [BitVec.toNat_ofNat, Nat.mod_eq_of_lt (hbits ▸ hbytes)]

theorem lineFlaw_served (ha : a % 64 = 0) (hm : memMapped s a n = true) (hd : needsDown s a n = false) : lineFlaw s a n = 0 := by
  simp only [lineFlaw, ha, hm, hd, ne_eq, not_true_eq_false, Bool.true_eq_false, Bool.false_eq_true, if_false]

end

section
variable {s : State} {x : ProgUnit} {f : Fields}

theorem gldCtl_memory (ha : accessAddr x f % 8 = 0) (hm : memMapped s (accessAddr x f) 8 = true)
    (hd : needsDown s (accessAddr x f) 8 = false) :
    gldCtl s x f = goOn s (setG x (slotF1 f) (readNat s (accessAddr x f) 8)) := by
  simp [gldCtl, gldAddr_eq, ha, refusedAddr_memory (by decide) hm, hm, hd]

theorem gldCtl_register (ha : accessAddr x f % 8 = 0) (hm : memMapped s (accessAddr x f) 8 = false) {dom off : Nat}
    (hc : controlAt (accessAddr x f) = some (dom, off)) (hf : isFitted s dom = true) (hd : isDown s dom = false) :
    gldCtl s x f = goOn (readControl dom off s).s (setG x (slotF1 f) (readControl dom off s).v) := by
  simp [gldCtl, gldAddr_eq, ha, refusedAddr_control hc hf, hm, hc, hd]

theorem gldCtl_letterbox (ha : accessAddr x f % 8 = 0) (hm : memMapped s (accessAddr x f) 8 = false)
    (hc : controlAt (accessAddr x f) = none) {o b off : Nat} (hb : boxAt s (accessAddr x f) = some (o, b, off)) :
    gldCtl s x f = goOn s (setG x (slotF1 f) (loadBox s (boxId o b) off)) := by
  simp [gldCtl, gldAddr_eq, ha, refusedAddr_letterbox hc hb, hm, hc, hb]

theorem dldCtl_line (h : lineFlaw s (gReg x (slotF2 f)) 64 = 0) :
    dldCtl s x f = goOn s (setT x (slotF1 f) (readNat s (gReg x (slotF2 f)) 64)) := if_neg (not_not_intro h)

theorem stldCtl_line (h : lineFlaw s (gReg x (slotF2 f)) 16 = 0) :
    stldCtl s x f = goOn s (setSt x (slotF1 f % 4) (BitVec.ofNat 120 (readNat s (gReg x (slotF2 f)) 15))) := if_neg (not_not_intro h)

end

/-- Settles O8: a load that finds its bytes served puts them into its register, and goes on. -/
theorem controlLoads : Obligations.ControlLoads := by
  intro s u f hs x d a line
  have hx : UnitSound x := unitOk_getUnit u (keeps_refl s) hs
  refine ⟨fun hr ha hm hd => ?memory, fun hr ha hm dom off hc hf hd hp ho hl => ?register, fun hr ha hm hc o b off hb => ?letterbox,
    fun hr ha hm hd => ?dld, fun hr ha hm hd => ?stld⟩
  case memory =>
    exact control_writesG (e := (.gld u f, gldDef)) hs (by simp [rhoacRows]) rfl hr (gldCtl_memory ha hm hd)
  case register =>
    have hg := gldCtl_register ha hm hc hf hd
    rw [readControl_awake hp ho hl] at hg
    have h := control_writesG (e := (.gld u f, gldDef)) hs (by simp [rhoacRows]) rfl hr hg
    rwa [BitVec.ofNat_toNat, BitVec.setWidth_eq] at h
  case letterbox =>
    exact control_writesG (e := (.gld u f, gldDef)) hs (by simp [rhoacRows]) rfl hr (gldCtl_letterbox ha hm hc hb)
  case dld =>
    refine control_goesOn (e := (.dld u f, dldDef)) (by simp [rhoacRows]) rfl hr (dldCtl_line (lineFlaw_served ha hm hd)) rfl fun t ht => ?_
    rw [ht]
    refine ⟨wentOn_advance (ready_ended hr) rfl, fun m => ?_, rfl, rfl, rfl, rfl, rfl⟩
    exact (tReg_setT hx.t (fld_lt _ _ _) m _).trans (by rw [toNat_ofNat_readNat s line (w := 512) rfl])
  case stld =>
    refine control_goesOn (e := (.stld u f, stldDef)) (by simp [rhoacRows]) rfl hr (stldCtl_line (lineFlaw_served ha hm hd)) rfl fun t ht => ?_
    rw [ht]
    refine ⟨wentOn_advance (ready_ended hr) rfl, fun m => ?_, rfl, rfl, rfl, rfl, rfl⟩
    refine (congrArg BitVec.toNat (stReg_setSt hx m (Nat.mod_lt _ (by decide)) _)).trans ?_
    rw [apply_ite BitVec.toNat, toNat_ofNat_readNat s line (w := 120) rfl]

end Sys2Proof.Machine
end

section
/-! A tick and the residency counters (R300, R305). -/
namespace Sys2Proof.Machine

/-- IOD 0x30 records a low-power state far beyond S4: the residency counter that it selects is PORT_STATUS of the IOD's first port. -/
def strayLowPower : State :=
  { State.reset with
    lps := [⟨0x30, 1 + (portReg ⟨0x30, 0⟩ Reg.PORT_STATUS - Reg.LP_RESIDENCY_S1) / 8, .stay, none, false, 0⟩] }

/-- A port that is up and DOWN before the tick is in DETECT after it. -/
theorem strayLowPower_tick : portUp strayLowPower ⟨0x30, 0⟩ = true ∧ portState strayLowPower ⟨0x30, 0⟩ = ptDown
    ∧ portState (returnPorts ((dies strayLowPower).foldl residency (tickOnce strayLowPower))) ⟨0x30, 0⟩ = ptDetect := by
  decide +kernel

/-- Refutes O28: it allows every state, also one whose record of an IOD's low-power state is not one of S0 to S4; the tick then counts
the residency of that state in PORT_STATUS, and a port that was not in RETRAIN changes its state. -/
theorem not_tickAdvancesAndEndsWaits : ¬ Obligations.TickAdvancesAndEndsWaits := by
  intro h
  obtain ⟨t, hexec, -, -, -, -, -, -, hports, -⟩ := h strayLowPower rfl
  obtain ⟨hup, hbefore, hafter⟩ := strayLowPower_tick
  have ht : returnPorts ((dies strayLowPower).foldl residency (tickOnce strayLowPower)) = t := Host.Outcome.next.inj hexec
  have hkept : portState t ⟨0x30, 0⟩ = ptDown := by rw [hports _ hup, hbefore, if_neg (by decide)]
  rw [← ht, hafter] at hkept
  exact absurd hkept (by decide)

end Sys2Proof.Machine
end
